-- ==== Sys2Proof/Word.lean ====
section
/-! DEFINITION. The word types of the D7 (R6) and the small plain types that both the instruction syntax and the
machine state name: tiles, grants, and what an outside agent brings to an event. -/

namespace Sys2Proof

/-- A dword: a general register, an address, an I64 (R6, R75). -/
abbrev Word := BitVec 64
/-- A byte (R6). -/
abbrev Byte := BitVec 8
/-- A stored control, operation or logit word (R51, R62, R67). -/
abbrev Word32 := BitVec 32
/-- A W48 word (R174). -/
abbrev W48 := BitVec 48
/-- A register field, naming g0 to g31 (R51). -/
abbrev Reg := BitVec 5

/-- A tile's name die.column.row (R2). -/
structure TileId where
  die : BitVec 2
  col : BitVec 5
  row : BitVec 4
  deriving DecidableEq, Repr

/-- Even columns hold compute tiles and odd columns memory tiles (R2, R146). -/
def TileId.isMT (t : TileId) : Bool := t.col.toNat % 2 == 1

/-- The fields of an operation word below its opcode (R62). -/
structure StF where
  ty  : BitVec 2
  inp : BitVec 3
  k   : BitVec 5
  out : BitVec 4
  rm  : BitVec 2
  aux : BitVec 8
  deriving DecidableEq, Repr

/-- What comes back for a load that has left the core (R97, R358). -/
inductive LoadRes where
  /-- the data of this module's memory, read now -/
  | data
  /-- the data that this module's memory held when some number of writes had been made, which nothing orders before the load
  (R334) -/
  | old (writes : Nat)
  /-- the dword or part of it that a peer module answers with -/
  | remote (w : Word)
  /-- an uncorrectable ECC error -/
  | ecc
  /-- a failure reply: a peer's fault, a link failure or a pre-emption (R358, R364, R392) -/
  | fail
  deriving DecidableEq, Repr

/-- Who acknowledges or refuses a phase (R133). -/
inductive Acker where
  | die (d : BitVec 2)
  | module (m : BitVec 10)
  deriving DecidableEq, Repr

/-- A phase of any module: the module whose core issued it, and its serial (R113, R132). -/
abbrev PhaseKey := BitVec 10 × BitVec 32

/-- An entry of a phase (R132), with the declared sinks of a piece that another module holds (R134). -/
structure PhaseEntry where
  graph  : Word
  count  : BitVec 32
  module : BitVec 10
  group  : BitVec 6
  sinks  : Nat
  ended  : Bool
  deriving DecidableEq, Repr

/-- What the hubs of two modules tell each other of a phase (R133, R134): its issuer asks for an acknowledgement of its entries, and is
answered with the declared sinks of the pieces there; it starts, with whether it stages fills; phend has closed its open entries; it
never starts; a graph there has ended, with the cause and origin where it ended cancelled; sink events of one of its pieces, with an
ERROR's word; a launch starts, with its number and parameters; a launch has ended, with its LCC's cause and origin; a launch is
cancelled; and, to every module where it staged bins, that it has committed or ended cancelled (R348). Over the same class, that a
stream channel of the port it comes by has been unbound at the far end (R362), and a tlbinv.dom of the domain (R380). The manual
gives what is told and no format. -/
inductive HubMsg where
  | join (entries : List PhaseEntry)
  | joined (ok : Bool) (sinks : List Nat)
  | begin_ (staging : Bool)
  | close
  | leave
  | ended (entry : Nat) (bad : Option (BitVec 6 × BitVec 10))
  | sinks (entry : Nat) (seq : BitVec 8) (n : Nat) (bad : Option Word)
  | start (entry : Nat) (seq : BitVec 8) (params : List Word)
  | finish (entry : Nat) (seq : BitVec 8) (n : BitVec 32) (bad : Option (BitVec 6 × BitVec 10))
  | cancel (entry : Nat) (seq : BitVec 8) (err : Word)
  | publish (committed : Bool)
  | unbound (vc : Nat)
  | tlbinv (dpn : BitVec 12) (all : Bool) (page : BitVec 41)
  deriving DecidableEq, Repr

/-- How a copy ends at its destination (R141): it lands, or fails with a cause of R39. -/
inductive CopyRes where
  | landed
  | failed (cause : BitVec 6)
  deriving DecidableEq, Repr

/-- A remote request that arrives at this module's hub (R357, R358, R360). `size` counts bytes, 1, 2, 4 or 8 for a
core, 8 or 128 for a remote station; `staged` names the staging phase that it carries, by the module that started it and its
serial (R348); `op` is the sub of R337. -/
inductive RemoteReq where
  | read (dpn : BitVec 12) (off : BitVec 45) (size : Nat)
  | write (dpn : BitVec 12) (off : BitVec 45) (bytes : List Byte) (staged : Option (BitVec 10 × BitVec 32))
  | atomic (dpn : BitVec 12) (off : BitVec 45) (op : BitVec 4) (b e : Word)
  deriving DecidableEq, Repr

/-- A reply that reaches this module for one of its own remote operations (R360). -/
inductive RemoteRes where
  | value (ws : List Word)
  | done
  | xlate
  | link
  | preempt
  deriving DecidableEq, Repr

/-- The module's power states (R437). -/
inductive Power where
  | p0 | p1 | p2 | p3 | off
  deriving DecidableEq, Repr

/-- What the supervisor grants one partition (R390, R394): tiles, row groups (tile, macro, group), vaults (32 × die +
vault), physical ranges [lo, hi), larder slots, samplers, program slots, Tarior ports, stream channels, recall units,
the swap map (MT, FIRST, COUNT) of each time-shared MT, and the bins (MT, first, count) that it holds outside the run. -/
structure Grants where
  tiles     : List TileId
  rowGroups : List (TileId × Nat × Nat)
  vaults    : List Nat
  phys      : List (Nat × Nat)
  larder    : List Nat
  samplers  : List Nat
  pslots    : List (Nat × Nat)
  ports     : List Nat
  channels  : List (Nat × Nat)
  recallU   : List TileId
  swapMaps  : List (TileId × Nat × Nat)
  bins      : List (TileId × Nat × Nat)
  deriving DecidableEq, Repr

/-- The grants of a partition that holds nothing. -/
def Grants.none : Grants := ⟨[], [], [], [], [], [], [], [], [], [], [], []⟩

/-- A partition's system image as boot step 5 meets it (R430): the 256-byte header and the body. -/
structure SysImage where
  header : List Byte
  body   : List Byte
  owner  : List Byte
  deriving DecidableEq, Repr

/-- What measured boot reads (R429): the firmware, hub and supervisor images with their signatures, the partition
table with its signature and owner key, the system images by partition, and a vendor's debug token with its signature that comes
meanwhile (R439). -/
structure BootIn where
  firmware   : List Byte × List Byte
  hub        : List Byte × List Byte
  supervisor : List Byte × List Byte
  table      : List Byte × List Byte
  ownerKey   : List Byte
  images     : List (BitVec 4 × SysImage)
  cores      : List (Nat × BitVec 4)
  grants     : List (BitVec 4 × Grants)
  dpns       : List (BitVec 4 × BitVec 12)
  token      : Option (List Byte × List Byte)
  deriving DecidableEq, Repr

/-- The SPDM requests that the device tells apart (R433): the last stands for KEY_EXCHANGE and the requests behind it. -/
inductive SpdmReq where
  | getVersion | getCapabilities | negotiateAlgorithms | getDigests | getCertificate | challenge | getMeasurements | keyExchange
  deriving DecidableEq, Repr

/-- What the device answers an SPDM request with (R433). -/
inductive SpdmResp where
  | version | capabilities
  /-- EdDSA Ed448 and SHA3-512 -/
  | algorithms
  | digests
  /-- the DeviceID certificate, and the Alias key with its signature by the DeviceID key (R432) -/
  | certificate (device alias_ sig : List Byte)
  /-- a report: measurements, reset count, security and debug states, and its signature by the Alias key -/
  | report (mrs : List (List Byte)) (resets : Option Nat) (sec dbg : Nat) (challenge : Bool) (sig : List Byte)
  | unsupportedRequest
  deriving DecidableEq, Repr

/-- A host access through BAR0 or BAR2 (R436): a read of `size` bytes or a posted write. -/
inductive HostOp where
  | read (size : Nat)
  | write (bytes : List Byte)
  deriving DecidableEq, Repr

/-- What this module has sent to other modules (R43, R107, R133, R345, R360, R380). -/
inductive Sent where
  | flit (module : BitVec 10) (core : BitVec 6) (mbx : BitVec 2) (v : Word)
  | credit (module : BitVec 10) (core : BitVec 6) (mbx : BitVec 2)
  | phaseCancel (p : BitVec 4) (ser : BitVec 32) (module : BitVec 10)
  /-- of the phase of module `own` -/
  | hub (p : BitVec 4) (own : BitVec 10) (ser : BitVec 32) (module : BitVec 10) (m : HubMsg)
  /-- through the port that the supervisor's routing gives the module, from a core, or a tile's station (R354) -/
  | remoteReq (port : Option (Fin 18)) (module : BitVec 10) (tile : Option TileId) (q : RemoteReq)
  | remoteAns (module : BitVec 10) (r : RemoteRes)
  /-- a stream channel of a port has been unbound at this end (R362) -/
  | unbound (module : BitVec 10) (vc : Nat)
  /-- a flit of 80 bytes at a port (R355) -/
  | wire (port : Fin 18) (bytes : List Byte)
  | tlbinv (dpn : BitVec 12) (all : Bool) (page : BitVec 41)
  | replayAsk (port : Nat) (fseq : BitVec 12)
  deriving DecidableEq, Repr

/-- What the outside world, or a choice the machine does not make, brings to a step that has no word: each such step
reads the fields its row needs, and no other. -/
structure Input where
  /-- binding slot of a region on the acting core -/
  bslot   : BitVec 3
  /-- bank of a matrix engine, or mailbox -/
  k       : BitVec 2
  /-- partition -/
  p       : BitVec 4
  /-- serial of a phase, which is this module's unless `hub` or `who` tells of one of another module -/
  serial  : BitVec 32
  /-- who acknowledges a phase, and whether it accepts -/
  who     : Acker
  ok      : Bool
  /-- what another module's hub tells of a started phase, and the declared sinks of the pieces it acknowledges -/
  hub     : Option HubMsg
  far     : List Nat
  /-- what returns for a load, the narrow scope at which a store is performed, 0 for memory, and how a copy ends -/
  load    : LoadRes
  near    : BitVec 2
  copy    : CopyRes
  /-- the core a revocation or the debugger acts on -/
  core    : Fin 64
  /-- a remote request that arrives; which of the outstanding remote operations is answered, and how -/
  req     : RemoteReq
  index   : Nat
  reply   : RemoteRes
  /-- a Tarior port, a module, a flit or token and its signature -/
  port    : Fin 18
  module  : BitVec 10
  bytes   : List Byte
  sig     : List Byte
  /-- the launch an ECC error strikes -/
  seq     : BitVec 8
  /-- the value written to a CSR -/
  val     : Word
  /-- grants, boot images, the asking function, a host access -/
  grants  : Grants
  boot    : BootIn
  fn      : Option (BitVec 4)
  bar0    : Bool
  off     : BitVec 36
  host    : HostOp
  /-- power state, the arbiter's grants to the dies, and the cap -/
  pw      : Power
  watts   : List (BitVec 12)
  cap     : BitVec 12
  deriving DecidableEq, Repr

/-- No input. -/
def Input.none : Input :=
  { bslot := 0, k := 0, p := 0, serial := 0, who := .die 0, ok := true, hub := Option.none, far := [], load := .data, near := 0, copy := .landed, core := 0,
    req := .read 0 0 8, index := 0, reply := .done, port := 0, module := 0, bytes := [], sig := [], seq := 0, val := 0,
    grants := Grants.none, boot := ⟨([], []), ([], []), ([], []), ([], []), [], [], [], [], [], Option.none⟩, fn := Option.none, bar0 := false,
    off := 0, host := .read 8, pw := .p0, watts := [], cap := 2400 }

end Sys2Proof
end

