-- ==== Sys2Proof/Config.lean ====
section
/-! DEFINITION. What the manual leaves open, as constants with no body: a claim that holds, holds whatever they are.
Each is named in a row of notes/assumptions. -/

namespace Sys2Proof.Config

/-- The cycles of CYCLE that a step takes (R79, R80): log 6. -/
opaque elapsed : Nat → Word

/-- The supervisor's version, as hvc INFO gives it (R379): log 7. -/
opaque supervisorVersion : BitVec 32

/-- A fresh nonce of hvc DEBUG (R435): log 8. -/
opaque nonce : Nat → Word

/-- The 256-bit fused secret from which the device identity is derived (R432): log 9. -/
opaque uds : List Byte

/-- The DeviceID certificate, which the vendor signed at manufacturing (R432): log 9. -/
opaque deviceCert : List Byte

/-- The fused vendor root key and the vendor key (R429, R434): log 9. -/
opaque vendorKey : List Byte

/-- The SPDM request that the bytes of a buffer hold; none when they are malformed (R433): log 10. -/
opaque spdmRequest : List Byte → Option SpdmReq

/-- The bytes of an SPDM response (R433): log 10. -/
opaque spdmBytes : SpdmResp → List Byte

/-- What reading a byte of a virtual function's BAR0 gives, by draw and offset (R436): log 117. -/
opaque bar0 : Nat → Nat → Byte

/-- Which copy's value an aligned 64-byte chunk keeps where two unordered copies overlap (R142): log 11. -/
opaque chunkWins : Nat → Bool

/-- The device's own layout of a checkpoint area: the byte at an offset behind the header, by draw (R384): log 12. -/
opaque ckptLayout : Nat → Nat → Byte

/-- Which of the accesses that meet another station's range a loader record names (R352): log 34. -/
opaque loaderPick : Nat → Nat

/-- Which free binding slot a new region takes (R113, R117): log 35. -/
opaque slotPick : Nat → Nat

/-- The bytes of a packet of the class channels, whose format R149 and R355 leave open: log 91. -/
opaque packet : Sent → List Byte

/-- The flits that the receiving hub's buffer of a class channel holds beyond one packet's (R354): log 99. -/
opaque classBuffer : Nat → Nat

end Sys2Proof.Config
end

