-- ==== Sys2Proof/Syntax.lean ====
section
/-! DEFINITION. The instruction syntax: one constructor per row of the spec's table of operations and events. Control
words carry their fields as R51 to R61 name them, station words the fields of R62, logit words the fields of R67. The
rows that have no word are the machine's autonomous steps and the outside world's; where such a step has a choice that
the machine does not make itself, the constructor carries it. -/

namespace Sys2Proof

/-- The steps of the D7 (opcode table). -/
inductive Instr where
  /-- ADD: Writes a + b modulo 2^64 to d (R83) -/
  | add (d : BitVec 5) (a : BitVec 5) (b : BitVec 5)
  /-- SUB: Writes a − b modulo 2^64 to d (R83) -/
  | sub (d : BitVec 5) (a : BitVec 5) (b : BitVec 5)
  /-- AND: Writes the bitwise AND of a and b to d (R83) -/
  | and_ (d : BitVec 5) (a : BitVec 5) (b : BitVec 5)
  /-- OR: Writes the bitwise OR of a and b to d (R83) -/
  | or_ (d : BitVec 5) (a : BitVec 5) (b : BitVec 5)
  /-- XOR: Writes the bitwise XOR of a and b to d (R83) -/
  | xor (d : BitVec 5) (a : BitVec 5) (b : BitVec 5)
  /-- ANDN: Writes a AND NOT b to d (R83) -/
  | andn (d : BitVec 5) (a : BitVec 5) (b : BitVec 5)
  /-- SHL: Shifts a left by b[7:0] into d, giving 0 for amounts of 64 or more (R83) -/
  | shl (d : BitVec 5) (a : BitVec 5) (b : BitVec 5)
  /-- SHR: Shifts a right logically by b[7:0] into d (R83) -/
  | shr (d : BitVec 5) (a : BitVec 5) (b : BitVec 5)
  /-- SAR: Shifts a right arithmetically by b[7:0] into d (R83) -/
  | sar (d : BitVec 5) (a : BitVec 5) (b : BitVec 5)
  /-- MUL: Writes the low 64 bits of a × b to d (R83) -/
  | mul (d : BitVec 5) (a : BitVec 5) (b : BitVec 5)
  /-- MULH: Writes the high 64 bits of the signed 128-bit product to d (R83) -/
  | mulh (d : BitVec 5) (a : BitVec 5) (b : BitVec 5)
  /-- MULHU: Writes the high 64 bits of the unsigned 128-bit product to d (R83) -/
  | mulhu (d : BitVec 5) (a : BitVec 5) (b : BitVec 5)
  /-- DIV: Signed division that saturates on a zero divisor or on overflow and sets ARITH_STAT flags (R84) -/
  | div (d : BitVec 5) (a : BitVec 5) (b : BitVec 5)
  /-- DIVU: Unsigned division that saturates on a zero divisor (R84) -/
  | divu (d : BitVec 5) (a : BitVec 5) (b : BitVec 5)
  /-- REM: Signed remainder, giving a on a zero divisor (R84) -/
  | rem (d : BitVec 5) (a : BitVec 5) (b : BitVec 5)
  /-- REMU: Unsigned remainder, giving a on a zero divisor (R84) -/
  | remu (d : BitVec 5) (a : BitVec 5) (b : BitVec 5)
  /-- MIN: Writes the signed lesser of a and b to d (R83) -/
  | min (d : BitVec 5) (a : BitVec 5) (b : BitVec 5)
  /-- MAX: Writes the signed greater of a and b to d (R83) -/
  | max (d : BitVec 5) (a : BitVec 5) (b : BitVec 5)
  /-- MINU: Writes the unsigned lesser of a and b to d (R83) -/
  | minu (d : BitVec 5) (a : BitVec 5) (b : BitVec 5)
  /-- MAXU: Writes the unsigned greater of a and b to d (R83) -/
  | maxu (d : BitVec 5) (a : BitVec 5) (b : BitVec 5)
  /-- SLT: Writes 1 to d when a is less than b as signed numbers, else 0 (R83) -/
  | slt (d : BitVec 5) (a : BitVec 5) (b : BitVec 5)
  /-- SLTU: Writes 1 to d when a is less than b as unsigned numbers, else 0 (R83) -/
  | sltu (d : BitVec 5) (a : BitVec 5) (b : BitVec 5)
  /-- SEQ: Writes 1 to d when a equals b, else 0 (R83) -/
  | seq (d : BitVec 5) (a : BitVec 5) (b : BitVec 5)
  /-- CLZ: Counts the leading zero bits of a (R83) -/
  | clz (d : BitVec 5) (a : BitVec 5)
  /-- CTZ: Counts the trailing zero bits of a (R83) -/
  | ctz (d : BitVec 5) (a : BitVec 5)
  /-- POPC: Counts the one bits of a (R83) -/
  | popc (d : BitVec 5) (a : BitVec 5)
  /-- BSWAP: Reverses the byte order of a (R83) -/
  | bswap (d : BitVec 5) (a : BitVec 5)
  /-- BEXT: Extracts a zero-extended bitfield of a at the position and length given in b (R86) -/
  | bext (d : BitVec 5) (a : BitVec 5) (b : BitVec 5)
  /-- BINS: Inserts the low bits of a into d at the position and length given in b (R86) -/
  | bins (d : BitVec 5) (a : BitVec 5) (b : BitVec 5)
  /-- LEA: Writes a + (b << s) to d (R87) -/
  | lea (d : BitVec 5) (a : BitVec 5) (b : BitVec 5) (s : BitVec 2)
  /-- ADDI: Writes a plus the sign-extended immediate to d (R88) -/
  | addi (d : BitVec 5) (a : BitVec 5) (i : BitVec 16)
  /-- ANDI: Writes a AND the sign-extended immediate to d (R88) -/
  | andi (d : BitVec 5) (a : BitVec 5) (i : BitVec 16)
  /-- ORI: Writes a OR the sign-extended immediate to d (R88) -/
  | ori (d : BitVec 5) (a : BitVec 5) (i : BitVec 16)
  /-- XORI: Writes a XOR the sign-extended immediate to d (R88) -/
  | xori (d : BitVec 5) (a : BitVec 5) (i : BitVec 16)
  /-- SLTI: Signed compare of a with the immediate (R88) -/
  | slti (d : BitVec 5) (a : BitVec 5) (i : BitVec 16)
  /-- SLTIU: Unsigned compare of a with the sign-extended immediate (R88) -/
  | sltiu (d : BitVec 5) (a : BitVec 5) (i : BitVec 16)
  /-- SHLI: Shifts a left by an immediate amount from 0 to 63 (R89) -/
  | shli (d : BitVec 5) (a : BitVec 5) (n : BitVec 6)
  /-- SHRI: Shifts a right logically by an immediate amount (R89) -/
  | shri (d : BitVec 5) (a : BitVec 5) (n : BitVec 6)
  /-- SARI: Shifts a right arithmetically by an immediate amount (R89) -/
  | sari (d : BitVec 5) (a : BitVec 5) (n : BitVec 6)
  /-- LUI: Writes sext(imm21) × 65,536 to d (R90) -/
  | lui (d : BitVec 5) (i : BitVec 21)
  /-- AUIPC: Writes PC + sext(imm21) × 65,536 to d (R90) -/
  | auipc (d : BitVec 5) (i : BitVec 21)
  /-- LDB: Loads a sign-extended byte after the address checks of R93 (R91) -/
  | ldb (d : BitVec 5) (a : BitVec 5) (i : BitVec 16)
  /-- LDH: Loads a sign-extended half (R91) -/
  | ldh (d : BitVec 5) (a : BitVec 5) (i : BitVec 16)
  /-- LDW: Loads a sign-extended word (R91) -/
  | ldw (d : BitVec 5) (a : BitVec 5) (i : BitVec 16)
  /-- LDD: Loads a dword (R91) -/
  | ldd (d : BitVec 5) (a : BitVec 5) (i : BitVec 16)
  /-- LDBU: Loads a zero-extended byte (R91) -/
  | ldbu (d : BitVec 5) (a : BitVec 5) (i : BitVec 16)
  /-- LDHU: Loads a zero-extended half (R91) -/
  | ldhu (d : BitVec 5) (a : BitVec 5) (i : BitVec 16)
  /-- LDWU: Loads a zero-extended word (R91) -/
  | ldwu (d : BitVec 5) (a : BitVec 5) (i : BitVec 16)
  /-- STB: Stores d[7:0] after the address checks of R93 (R91) -/
  | stb (d : BitVec 5) (a : BitVec 5) (i : BitVec 16)
  /-- STH: Stores d[15:0] (R91) -/
  | sth (d : BitVec 5) (a : BitVec 5) (i : BitVec 16)
  /-- STW: Stores d[31:0] (R91) -/
  | stw (d : BitVec 5) (a : BitVec 5) (i : BitVec 16)
  /-- STD: Stores the dword in d (R91) -/
  | std (d : BitVec 5) (a : BitVec 5) (i : BitVec 16)
  /-- LDX: Sign-extending or dword indexed load at a + (b << s) (R92) -/
  | ldx (d : BitVec 5) (a : BitVec 5) (b : BitVec 5) (z : BitVec 2) (c : BitVec 2)
  /-- LDXU: Zero-extending indexed load of byte, half or word at a + (b << s) (R92) -/
  | ldxu (d : BitVec 5) (a : BitVec 5) (b : BitVec 5) (z : BitVec 2) (c : BitVec 2)
  /-- STX: Indexed store of d at a + (b << s) (R92) -/
  | stx (d : BitVec 5) (a : BitVec 5) (b : BitVec 5) (z : BitVec 2) (c : BitVec 2)
  /-- BEQ: Branches when a equals b (R98) -/
  | beq (a : BitVec 5) (b : BitVec 5) (i : BitVec 16)
  /-- BNE: Branches when a differs from b (R98) -/
  | bne (a : BitVec 5) (b : BitVec 5) (i : BitVec 16)
  /-- BLT: Branches when a is less than b as signed numbers (R98) -/
  | blt (a : BitVec 5) (b : BitVec 5) (i : BitVec 16)
  /-- BGE: Branches when a is at least b as signed numbers (R98) -/
  | bge (a : BitVec 5) (b : BitVec 5) (i : BitVec 16)
  /-- BLTU: Branches when a is less than b as unsigned numbers (R98) -/
  | bltu (a : BitVec 5) (b : BitVec 5) (i : BitVec 16)
  /-- BGEU: Branches when a is at least b as unsigned numbers (R98) -/
  | bgeu (a : BitVec 5) (b : BitVec 5) (i : BitVec 16)
  /-- JMP: Jumps PC-relative by a 26-bit word offset (R99) -/
  | jmp (i : BitVec 26)
  /-- CALL: Links PC + 4 into g1 and jumps PC-relative (R99) -/
  | call (i : BitVec 26)
  /-- JR: Jumps to the address in a, trapping FETCHALIGN when it is misaligned (R99) -/
  | jr (a : BitVec 5)
  /-- CALLR: Links into g1 and jumps to the address in a (R99) -/
  | callr (a : BitVec 5)
  /-- ATADD: Atomic fetch-and-add at the location's home (R338) -/
  | atadd (d : BitVec 5) (a : BitVec 5) (b : BitVec 5) (c : BitVec 3) (o : BitVec 2)
  /-- ATAND: Atomic fetch-and-AND (R338) -/
  | atand (d : BitVec 5) (a : BitVec 5) (b : BitVec 5) (c : BitVec 3) (o : BitVec 2)
  /-- ATOR: Atomic fetch-and-OR (R338) -/
  | ator (d : BitVec 5) (a : BitVec 5) (b : BitVec 5) (c : BitVec 3) (o : BitVec 2)
  /-- ATXOR: Atomic fetch-and-XOR (R338) -/
  | atxor (d : BitVec 5) (a : BitVec 5) (b : BitVec 5) (c : BitVec 3) (o : BitVec 2)
  /-- ATMIN: Atomic signed minimum (R338) -/
  | atmin (d : BitVec 5) (a : BitVec 5) (b : BitVec 5) (c : BitVec 3) (o : BitVec 2)
  /-- ATMAX: Atomic signed maximum (R338) -/
  | atmax (d : BitVec 5) (a : BitVec 5) (b : BitVec 5) (c : BitVec 3) (o : BitVec 2)
  /-- ATMINU: Atomic unsigned minimum (R338) -/
  | atminu (d : BitVec 5) (a : BitVec 5) (b : BitVec 5) (c : BitVec 3) (o : BitVec 2)
  /-- ATMAXU: Atomic unsigned maximum (R338) -/
  | atmaxu (d : BitVec 5) (a : BitVec 5) (b : BitVec 5) (c : BitVec 3) (o : BitVec 2)
  /-- ATXCH: Atomic exchange (R338) -/
  | atxch (d : BitVec 5) (a : BitVec 5) (b : BitVec 5) (c : BitVec 3) (o : BitVec 2)
  /-- ATCAS: Atomic compare-and-swap against the expected value in d (R338) -/
  | atcas (d : BitVec 5) (a : BitVec 5) (b : BitVec 5) (c : BitVec 3) (o : BitVec 2)
  /-- FENCE: Orders accesses at a scope and completes once they are performed there (R336) -/
  | fence (c : BitVec 3) (k : BitVec 2)
  /-- WAIT: Completes once the outstanding load, store, copy and launch counters are at or below the given counts (R102) -/
  | wait (l : BitVec 5) (s : BitVec 5) (n : BitVec 5) (k : BitVec 5)
  /-- TBEGIN: Opens a timestamped commit region, saves a register checkpoint and acts as fence.ar.dom (R341) -/
  | tbegin (a : BitVec 5)
  /-- TABORT: Aborts the open region with a code and takes the fallback (R343) -/
  | tabort (c : BitVec 5)
  /-- TSTAMP: Reads and increments the partition timestamp counter indivisibly (R347) -/
  | tstamp (d : BitVec 5)
  /-- LDC: Waits until a bin is full, reads a dword and optionally consumes the bin, acquiring at .dom (R270) -/
  | ldc (d : BitVec 5) (a : BitVec 5)
  /-- STF: Waits until a bin is empty, writes a dword and makes the bin full as a release (R270) -/
  | stf (a : BitVec 5) (b : BitVec 5)
  /-- BINQ: Returns a bin's state without waiting (R270) -/
  | binq (d : BitVec 5) (a : BitVec 5)
  /-- BINSET: Sets a bin's FULL tag and DECL, and clears CNT and OVR (R270) -/
  | binset (a : BitVec 5) (v : BitVec 1)
  /-- MBBIND: Binds a mailbox to a peer mailbox after the checks of R104 (R104) -/
  | mbbind (a : BitVec 5) (n : BitVec 2)
  /-- MBFREE: Ends a mailbox binding, discarding queued flits (R108) -/
  | mbfree (n : BitVec 2)
  /-- CFGLD: Stages a configuration image on a region, checking records and the whole graph, and returns a handle or a refusal (R117) -/
  | cfgld (d : BitVec 5) (a : BitVec 5) (b : BitVec 5)
  /-- CFGCHK: Submits the staged digest and signature to the security processor and returns the verdict (R120) -/
  | cfgchk (d : BitVec 5) (a : BitVec 5)
  /-- CFGCOMMIT: Makes a verified staging resident for a fresh region or begins a reconfiguration (R121) -/
  | cfgcommit (a : BitVec 5)
  /-- LAUNCH: Builds a launch record from the pending parameters and prerequisite CSRs and sends it to the region's queue (R125) -/
  | launch (d : BitVec 5) (a : BitVec 5) (p : BitVec 2)
  /-- PARAM: Sets one parameter of a graph's pending launch record (R123) -/
  | param (a : BitVec 5) (b : BitVec 5) (n : BitVec 2)
  /-- SELCFG: Makes a decision token that selects a resident configuration (R130) -/
  | selcfg (a : BitVec 5) (n : BitVec 2)
  /-- PHASE: Reads a phase descriptor, checks its entries and asks each die and module to acknowledge (R133) -/
  | phase (d : BitVec 5) (a : BitVec 5)
  /-- PHEND: Closes the epoch of a graph, or of every open entry of a phase (R131) -/
  | phend (a : BitVec 5)
  /-- CANCEL_LAUNCH: Cancels a launch under R41, or removes it from the queue when not started (R136) -/
  | cancelLaunch (d : BitVec 5) (a : BitVec 5)
  /-- CANCEL_GRAPH: Freezes a graph's queue, removes queued launches and cancels live ones, or discards an uncommitted staging (R136) -/
  | cancelGraph (d : BitVec 5) (a : BitVec 5)
  /-- CANCEL_PHASE: Cancels every graph of a phase on every die and module (R136) -/
  | cancelPhase (d : BitVec 5) (a : BitVec 5)
  /-- CANCEL_JOB: Cancels the live phase and discards phases not yet started (R136) -/
  | cancelJob (d : BitVec 5) (a : BitVec 5)
  /-- CWAIT: Waits until a counter ends, then returns 0 or the cause and acquires (R137) -/
  | cwait (d : BitVec 5) (a : BitVec 5)
  /-- CREAD: Returns a counter word at once, without acquiring (R138) -/
  | cread (d : BitVec 5) (a : BitVec 5)
  /-- CKPT: Stops launch starts, waits for the region to idle and writes a region checkpoint (R385) -/
  | ckpt (d : BitVec 5) (a : BitVec 5)
  /-- RESUME: Sends a holder word so that a withheld stream continues from its faulting access (R383) -/
  | resume (a : BitVec 5)
  /-- DRAIN: Freezes the queue, cancels live launches, waits for them to end and restores the last checkpoint (R386) -/
  | drain (a : BitVec 5)
  /-- CPY: Reads a copy block and starts the copy on the core's copy queue (R140) -/
  | cpy (d : BitVec 5) (a : BitVec 5) (b : BitVec 5)
  /-- SPLICE: Inserts and removes pieces of a stitched list and publishes a new version (R300) -/
  | splice (d : BitVec 5) (a : BitVec 5) (b : BitVec 5)
  /-- STPIN: Pins a list's current version and returns a pin token (R302) -/
  | stpin (d : BitVec 5) (a : BitVec 5)
  /-- STUNPIN: Releases a pin, and the version's slot stops being live at zero pins when it is not current (R302) -/
  | stunpin (a : BitVec 5)
  /-- STVER: Returns a list's header word with an acquire (R303) -/
  | stver (d : BitVec 5) (a : BitVec 5)
  /-- STLOOK: Returns the address of a row in the current or the pinned version (R303) -/
  | stlook (d : BitVec 5) (a : BitVec 5) (b : BitVec 5)
  /-- SEQBIND: Checks a logit program and binds a larder slot to a sampler program slot (R412) -/
  | seqbind (d : BitVec 5) (a : BitVec 5) (b : BitVec 5)
  /-- SEQUNBIND: Waits for a slot's runs to finish, then unbinds it (R414) -/
  | sequnbind (a : BitVec 5)
  /-- SEQSTEP: Waits until no run of the slot is in progress and returns its state word with an acquire (R414) -/
  | seqstep (d : BitVec 5) (a : BitVec 5)
  /-- CSRRD: Reads a CSR after the access checks of R78 (R377) -/
  | csrrd (d : BitVec 5) (c : BitVec 12)
  /-- CSRWR: Reads a CSR and writes register a to it, for CSRs with no row of their own (R377) -/
  | csrwr (d : BitVec 5) (a : BitVec 5) (c : BitVec 12)
  /-- CSRSET: Sets bits of RW fields and clears W1C bits of a CSR (R377) -/
  | csrset (d : BitVec 5) (a : BitVec 5) (c : BitVec 12)
  /-- CSRCLR: Clears bits of RW fields of a CSR (R377) -/
  | csrclr (d : BitVec 5) (a : BitVec 5) (c : BitVec 12)
  /-- BRK: Traps with BRK, or halts for the debugger in partition-debug (R378) -/
  | brk (c : BitVec 5)
  /-- TLBINV: Removes translations at a scope and restarts covered walks (R380) -/
  | tlbinv (a : BitVec 5) (s : BitVec 3)
  /-- ATTIC_SAVE: Moves a halted partition's live context into the attics (R396) -/
  | atticSave (a : BitVec 5)
  /-- ATTIC_RESTORE: Exchanges a partition's saved context with the live context and resumes it (R396) -/
  | atticRestore (a : BitVec 5)
  /-- STEER: Sends the data token on the true or false outputs by the predicate (R202) -/
  | steer (f : StF)
  /-- MERGE: Emits one head, oldest first, with optional STOP join (R204) -/
  | merge (f : StF)
  /-- CMERGE: Selects port a or b by the predicate on c (R205) -/
  | cmerge (f : StF)
  /-- CARRY: Holds a loop-carried value through the INIT and LOOP states (R206) -/
  | carry (f : StF)
  /-- INVAR: Repeats a loop-invariant value while the predicate holds (R207) -/
  | invar (f : StF)
  /-- GATE: Passes or drops a data token by the predicate (R203) -/
  | gate (f : StF)
  /-- SINK: Counts completion events toward the launch's LCC, ending the launch and higher levels when targets are reached (R210) -/
  | sink (f : StF)
  /-- DUP: Emits the token K times (R211) -/
  | dup (f : StF)
  /-- TAGNEW: Retags tokens from a per-launch counter starting at K (R212) -/
  | tagnew (f : StF)
  /-- TAGSET: Retags a's token with b's value (R212) -/
  | tagset (f : StF)
  /-- TAGRST: Retags every token to K (R212) -/
  | tagrst (f : StF)
  /-- STOPGEN: Passes a's token and emits STOP n after it when the predicate holds (R213) -/
  | stopgen (f : StF)
  /-- STOPADV: Raises or lowers STOP levels (R214) -/
  | stopadv (f : StF)
  /-- COUNT: Counts DATA tokens and emits the count at a STOP of level L or above (R215) -/
  | count (f : StF)
  /-- INTERSECT: Walks two coordinate streams, emitting common coordinates with positions (R216) -/
  | intersect (f : StF)
  /-- UNION: Walks two coordinate streams, emitting every coordinate with positions (R216) -/
  | union_ (f : StF)
  /-- LIM: Applies exit notices, passes returns and admits entries while occupancy is below k (R208) -/
  | lim (f : StF)
  /-- IADD: Integer addition station (R217) -/
  | iadd (f : StF)
  /-- ISUB: Integer subtraction station (R217) -/
  | isub (f : StF)
  /-- IMUL: Integer multiplication station (R217) -/
  | imul (f : StF)
  /-- IAND: Integer AND station (R217) -/
  | iand (f : StF)
  /-- IOR: Integer OR station (R217) -/
  | ior (f : StF)
  /-- IXOR: Integer XOR station (R217) -/
  | ixor (f : StF)
  /-- ISHL: Integer left-shift station (R217) -/
  | ishl (f : StF)
  /-- ISHR: Integer logical right-shift station (R217) -/
  | ishr (f : StF)
  /-- ISAR: Integer arithmetic right-shift station (R217) -/
  | isar (f : StF)
  /-- IMIN: Integer minimum station, signed or unsigned (R217) -/
  | imin (f : StF)
  /-- IMAX: Integer maximum station, signed or unsigned (R217) -/
  | imax (f : StF)
  /-- ICMP: Integer compare station giving 1 or 0 (R217) -/
  | icmp (f : StF)
  /-- ISEL: Integer select station by predicate (R217) -/
  | isel (f : StF)
  /-- FADD: W48 addition with one rounding (R218) -/
  | fadd (f : StF)
  /-- FSUB: W48 subtraction with one rounding (R218) -/
  | fsub (f : StF)
  /-- FMUL: W48 multiplication with one rounding (R218) -/
  | fmul (f : StF)
  /-- FMA: Fused multiply-add with one rounding (R218) -/
  | fma (f : StF)
  /-- FMS: Fused multiply-subtract with one rounding (R218) -/
  | fms (f : StF)
  /-- FNMA: Negated fused multiply-add with one rounding (R218) -/
  | fnma (f : StF)
  /-- FNEG: Inverts the sign bit (R219) -/
  | fneg (f : StF)
  /-- FABS: Clears the sign bit (R219) -/
  | fabs (f : StF)
  /-- FMIN: W48 minimum (R220) -/
  | fmin (f : StF)
  /-- FMAX: W48 maximum (R220) -/
  | fmax (f : StF)
  /-- FCMP: W48 compare emitting an i64 result (R221) -/
  | fcmp (f : StF)
  /-- FSEL: Selects b or c word for word by predicate (R219) -/
  | fsel (f : StF)
  /-- FCLASS: Emits a one-hot class of a W48 value (R222) -/
  | fclass (f : StF)
  /-- FSCALE: Multiplies by 2 to an integer power (R223) -/
  | fscale (f : StF)
  /-- FRND: Rounds to an integral W48 value (R223) -/
  | frnd (f : StF)
  /-- FRCP: 12-bit reciprocal estimate (R193) -/
  | frcp (f : StF)
  /-- FRSQ: 12-bit reciprocal square-root estimate (R193) -/
  | frsq (f : StF)
  /-- FDIV: Correctly rounded W48 division (R179) -/
  | fdiv (f : StF)
  /-- FSQRT: Correctly rounded W48 square root (R179) -/
  | fsqrt (f : StF)
  /-- VRED: Reduces 16 lanes by sum, max or min in a pairwise tree (R225) -/
  | vred (f : StF)
  /-- VBCAST: Broadcasts a scalar or a lane to all lanes (R227) -/
  | vbcast (f : StF)
  /-- VSHUF: Permutes lanes by a pattern word (R227) -/
  | vshuf (f : StF)
  /-- VPACK: Gathers 16 scalar tokens into one vector (R228) -/
  | vpack (f : StF)
  /-- VUNPK: Splits a vector into 16 scalar tokens (R228) -/
  | vunpk (f : StF)
  /-- VSCAN: Sequential inclusive or exclusive lane scan (R226) -/
  | vscan (f : StF)
  /-- VDOT: Dot product of rounded lane products in a pairwise tree (R225) -/
  | vdot (f : StF)
  /-- VEXT: Extracts one lane as a scalar (R227) -/
  | vext (f : StF)
  /-- VINS: Replaces one lane with a scalar (R227) -/
  | vins (f : StF)
  /-- FCVT: Converts between integer and W48, or round-trips through a storage format (R230) -/
  | fcvt (f : StF)
  /-- DSENC: Encodes a block of values as a signed-digit stream (R231) -/
  | dsenc (f : StF)
  /-- DSDEC: Decodes signed-digit elements to W48 exactly (R232) -/
  | dsdec (f : StF)
  /-- DSCUT: Keeps the leading m digits of each element (R233) -/
  | dscut (f : StF)
  /-- QBLK: Quantises blocks to an MX element kind and emits values and scales (R249) -/
  | qblk (f : StF)
  /-- QBMAP: Quantises a stream for BVB storage (R250) -/
  | qbmap (f : StF)
  /-- MXLOAD: Writes a macro row group from 2,048 tokens and emits DONE (R239) -/
  | mxload (f : StF)
  /-- MXDOT: Issues a filled operation to the sequencer, emitting an issue token and queuing bank requests (R241) -/
  | mxdot (f : StF)
  /-- MXACC: Accumulates an ordered stream and emits the sum at STOP level L (R245) -/
  | mxacc (f : StF)
  /-- MXRD: Queues a read of a bank's column groups (R244) -/
  | mxrd (f : StF)
  /-- MXCLR: Queues clears of the masked banks (R244) -/
  | mxclr (f : StF)
  /-- MXSCALE: Writes 128 column headers from 16 tokens (R239) -/
  | mxscale (f : StF)
  /-- FEXP: Computes e to the x by Exp2W (R191) -/
  | fexp (f : StF)
  /-- FEXP2: Computes 2 to the x by Exp2W (R191) -/
  | fexp2 (f : StF)
  /-- FLOG2: Computes log2 by Log2W (R192) -/
  | flog2 (f : StF)
  /-- FMAXRUN: Keeps a running maximum and emits softmax terms (R252) -/
  | fmaxrun (f : StF)
  /-- LDS: Walks its shape record, reading and converting each group into tokens (R276) -/
  | lds (f : StF)
  /-- STS: Converts arriving elements and writes them along its walk, emitting DONE at the completing STOP (R276) -/
  | sts (f : StF)
  /-- AGEN: Emits its walk's addresses as tokens without access (R276) -/
  | agen (f : StF)
  /-- GATH: Sends a stream parameter block to its quarry engine for each index-list token (R277) -/
  | gath (f : StF)
  /-- SCAT: Writes a row at an index paired by tag (R276) -/
  | scat (f : StF)
  /-- RPORT: Merges an ordered stream into its scratchpad range (R284) -/
  | rport (f : StF)
  /-- LDCS: Waits for a sequence-named bin and emits its dwords (R283) -/
  | ldcs (f : StF)
  /-- STFS: Gathers dwords and fills the bin of its next sequence number (R282) -/
  | stfs (f : StF)
  /-- PPORT: Delivers tokens to the parameter port of an AG slot on its tile (R285) -/
  | pport (f : StF)
  /-- KSTO: Stores key runs and applies commands, acknowledging with DONE (R318) -/
  | ksto (f : StF)
  /-- KQRY: Scores a query against visible entries, selects k and emits values and weights (R319) -/
  | kqry (f : StF)
  /-- KMERGE: Merges raw shard bursts and emits the final k results (R326) -/
  | kmerge (f : StF)
  /-- KEVICT: Applies an evict command to the entry store (R323) -/
  | kevict (f : StF)
  /-- KMASK: Applies a mask command, walking the ancestry table (R324) -/
  | kmask (f : StF)
  /-- KAGE: Applies an age-setting command (R325) -/
  | kage (f : StF)
  /-- RLD: Sends a remote read through the peer window (R360) -/
  | rld (f : StF)
  /-- RST: Sends a remote write and emits DONE on acknowledgement (R360) -/
  | rst (f : StF)
  /-- RAMO: Performs a remote atomic at the target (R360) -/
  | ramo (f : StF)
  /-- RFENCE: Emits its trigger once earlier remote accesses are performed or returned at its scope (R361) -/
  | rfence (f : StF)
  /-- BAR: Hardware barrier on the control network with tag offsets (R254) -/
  | bar (f : StF)
  /-- DECIDE: Makes a configuration decision and emits a control pulse (R255) -/
  | decide (f : StF)
  /-- SEQC: Sequential controller enabling children in turn (R256) -/
  | seqc (f : StF)
  /-- PIPEC: Pipelined controller with window w (R256) -/
  | pipec (f : StF)
  /-- STRMC: Streaming controller enabling all children at once (R256) -/
  | strmc (f : StF)
  /-- DONE: Turns a child's output tokens into control pulses (R257) -/
  | done (f : StF)
  /-- LGIN: Loads the run's logits into a vector register (R418) -/
  | lgin (d : BitVec 3)
  /-- BIAS: Adds the sparse or dense bias table (R418) -/
  | bias (d : BitVec 3) (a : BitVec 3)
  /-- PEN: Applies a repetition penalty to recorded ids (R418) -/
  | pen (d : BitVec 3) (a : BitVec 3) (b : BitVec 3)
  /-- SCL: Scales entries by a scalar (R418) -/
  | scl (d : BitVec 3) (a : BitVec 3) (b : BitVec 3)
  /-- MSK: Applies the larder mask, giving −∞ to masked entries (R418) -/
  | msk (d : BitVec 3) (a : BitVec 3)
  /-- CLAMP: Clamps entries to ±sb (R418) -/
  | clamp (d : BitVec 3) (a : BitVec 3) (b : BitVec 3)
  /-- TOPK: Keeps the first K candidates (R419) -/
  | topk (d : BitVec 3) (a : BitVec 3) (b : BitVec 3)
  /-- TOPP: Keeps the least prefix of candidates reaching mass sb (R419) -/
  | topp (d : BitVec 3) (a : BitVec 3) (b : BitVec 3)
  /-- MINP: Keeps entries at least sb times the maximum (R419) -/
  | minp (d : BitVec 3) (a : BitVec 3) (b : BitVec 3)
  /-- SMAX: Computes a softmax over the entries (R419) -/
  | smax (d : BitVec 3) (a : BitVec 3)
  /-- VMAX: Writes the maximum entry to a scalar (R417) -/
  | vmax (d : BitVec 3) (a : BitVec 3)
  /-- VSUM: Writes the pairwise sum of the entries to a scalar (R417) -/
  | vsum (d : BitVec 3) (a : BitVec 3)
  /-- DRAW: Draws a token by a SHAKE256-derived u and records it as held writes (R420) -/
  | draw (d : BitVec 3) (a : BitVec 3)
  /-- CNT: Reads the recorded COUNT of an id (R417) -/
  | cnt (d : BitVec 3) (a : BitVec 3)
  /-- EMIT: Records an id for the run's output, first emit only (R417) -/
  | emit (a : BitVec 3)
  /-- SET: Sets a scalar to a signed immediate (R417) -/
  | set_ (d : BitVec 3) (i : BitVec 14)
  /-- SLDS: Loads a PARAM word into a scalar (R417) -/
  | slds (d : BitVec 3) (i : BitVec 14)
  /-- SSTS: Holds a write of a scalar to a PARAM word (R417) -/
  | ssts (a : BitVec 3) (i : BitVec 14)
  /-- BR: Branches unconditionally within the logit program (R417) -/
  | br (i : BitVec 14)
  /-- BRZ: Branches when the scalar is ±0 (R417) -/
  | brz (a : BitVec 3) (i : BitVec 14)
  /-- BRNZ: Branches when the scalar is not ±0 (R417) -/
  | brnz (a : BitVec 3) (i : BitVec 14)
  /-- TCOMMIT: Waits for earlier regions, then makes held stores visible in one step and closes the region (R341) -/
  | tcommit
  /-- SYSCALL: Traps with cause SYSCALL (R378) -/
  | syscall
  /-- HVC_INFO: Returns the supervisor version and the tiles granted to the partition (R379) -/
  | hvcInfo
  /-- HVC_YIELD: Ends the partition's time slice (R379) -/
  | hvcYield
  /-- HVC_NOTICE: Removes and returns the oldest supervisor notice (R379) -/
  | hvcNotice
  /-- HVC_DEBUG: Issues a debug nonce or checks a debug token and enters partition-debug (R435) -/
  | hvcDebug
  /-- HVC_ATTEST: Submits an SPDM request buffer and returns the response (R433) -/
  | hvcAttest
  /-- HVC_RESET: Resets the partition (R390) -/
  | hvcReset
  /-- HVC_SWAPMAP: Returns the swap map of an MT (R394) -/
  | hvcSwapmap
  /-- ERET: Returns from a handler to TRAP_PC and restores IE (R378) -/
  | eret
  /-- IDLE: Clock-gates the core until an enabled interrupt is pending or a pre-emption arrives (R378) -/
  | idle
  /-- INTERRUPT_TAKEN: Takes the lowest pending enabled interrupt at an instruction boundary outside a commit region (R375) -/
  | interruptTaken
  /-- TIMER: CYCLE reaches TIMECMP, and the TIMER interrupt condition holds (R374) -/
  | timer
  /-- LOAD_REPLY: A load's data returns to the core, or the load poisons its destination on an error or a failure reply (R97) -/
  | loadReply
  /-- STORE_FAILURE: An accepted store fails to perform and raises STERR at the next issue (R97) -/
  | storeFailure
  /-- MAILBOX_FLIT_ARRIVAL: A mailbox flit reaches the peer's receive queue (R107) -/
  | mailboxFlitArrival
  /-- MAILBOX_CREDIT_RETURN: A credit returns to a mailbox when its peer reads a flit (R105) -/
  | mailboxCreditReturn
  /-- MAILBOX_REVOKE: The supervisor revokes a mailbox binding, withdraws its credits and posts an MBREVOKE notice (R109) -/
  | mailboxRevoke
  /-- TOKEN_ARRIVAL: A token reaches a port queue and its head is examined against the matching store (R32) -/
  | tokenArrival
  /-- LAUNCH_WIDE_ERROR_PURGE: A station receiving a launch-wide ERROR purges that launch's tokens and state and forwards one ERROR (R41) -/
  | launchWideErrorPurge
  /-- LAUNCH_RECORD_ENQUEUE: A launch record enters the region's queue and its handle is returned (R125) -/
  | launchRecordEnqueue
  /-- LAUNCH_START: In a start slot, the region starts the eligible head of highest priority, assigns its LCC slot, sequence number and target, pins traversed lists and sends PARAM tokens (R128) -/
  | launchStart
  /-- SOURCE_ROUND_START: A source AG starts its round for a launch once its PARAM tokens have been delivered (R274) -/
  | sourceRoundStart
  /-- DECISION_SWITCH: After every tile of the region reports empty, a pending decision switches the configuration and releases the held tokens (R48) -/
  | decisionSwitch
  /-- COMMIT_APPLY: Once the region's live launches have ended, a reconfiguring commit fences ingress and copies staged records in (R165) -/
  | commitApply
  /-- RECONFIG_FENCE_LIFT: The configuration words, and any row-group weight loads, complete and the ingress fence is lifted (R165) -/
  | reconfigFenceLift
  /-- PHASE_ACK: A die or a remote module acknowledges a phase, or refuses it (R133) -/
  | phaseAck
  /-- PHASE_START: The phase starts after the last acknowledgement (R133) -/
  | phaseStart
  /-- COPY_COMPLETE: A copy lands and delivers DONE or ERROR to its channel station, or drains it, and records any failure (R141) -/
  | copyComplete
  /-- QUARRY_ROW_RETURN: A quarry engine returns a gathered row, tagged by index and group, to its gath MT (R278) -/
  | quarryRowReturn
  /-- TLB_WALK_COMPLETE: A page walk returns a leaf or a fault reason (R264) -/
  | tlbWalkComplete
  /-- FAULT_WITHHOLD: A holder meets a translation or window fault, withholds the stream and sends a fault record (R286) -/
  | faultWithhold
  /-- FAULT_RECORD_POST: A waiting fault record is written to the core's fault queue (R382) -/
  | faultRecordPost
  /-- HOLD_LIMIT_EXPIRY: A holder's timer reaches the hold limit, and the region is drained with cause HOLD (R287) -/
  | holdLimitExpiry
  /-- HANG_DECLARED: A watched region fires nothing for the interval, so it is frozen, its map is written and HUNG is set (R387) -/
  | hangDeclared
  /-- BIN_WAIT_GRANT: A bin becomes ready, and the oldest waiting ldc, stf, ldcs or stfs request is served (R281) -/
  | binWaitGrant
  /-- WAIT_ENTRY_RESEND: A request refused for lack of wait entries is re-sent after 64 cycles (R281) -/
  | waitEntryResend
  /-- BALANCER_SAMPLE: Every 256 cycles the balancer samples stage occupancy and chooses at most one move per region (R144) -/
  | balancerSample
  /-- BALANCER_MOVE: A tile switches to serving another stage once its old-stage stations report empty (R143) -/
  | balancerMove
  /-- MXDOT_FILL: The mxdot fill takes one token per cycle into a free A-buffer slot (R240) -/
  | mxdotFill
  /-- MX_SEQUENCER_APPLY: The sequencer applies an mxdot request at the head of a bank queue, row group by row group (R241) -/
  | mxSequencerApply
  /-- MXRD_READ_APPLY: A queued read is applied and emits the bank's rounded column sums (R244) -/
  | mxrdReadApply
  /-- MXCLR_APPLY: A queued clear zeroes a bank and clears NANF and POISON (R244) -/
  | mxclrApply
  /-- REMOTE_REQUEST_SERVE: A target hub translates and performs a remote access or answers with a failure reply (R357) -/
  | remoteRequestServe
  /-- REMOTE_REPLY: A reply reaches a remote station and emits its result or an error firing (R360) -/
  | remoteReply
  /-- TARIOR_FLIT_RECEIVE: A Tarior flit is checked, delivered in order, or discarded with a replay request (R356) -/
  | tariorFlitReceive
  /-- TARIOR_REROUTE: The supervisor's tables reroute packet traffic around a failed port (R364) -/
  | tariorReroute
  /-- TARIOR_PORT_RETRAIN: The supervisor retrains a failed port (R364) -/
  | tariorPortRetrain
  /-- TILE_CONTAINMENT_RESET: A tile detecting an uncorrectable internal error aborts its packets, sends RESET errors and clears its live state (R389) -/
  | tileContainmentReset
  /-- CREDIT_RECLAIM: 256 cycles after an abort flit, the neighbour returns the reset tile's credits to their pools (R365) -/
  | creditReclaim
  /-- ECC_UNCORRECTABLE: An uncorrectable ECC error in a region freezes its queue and cancels the affected launch (R42) -/
  | eccUncorrectable
  /-- PREEMPT_REQUEST: The supervisor's pre-emption request stops sources, launch starts and new firings of a partition (R391) -/
  | preemptRequest
  /-- PREEMPT_HALT_COMPLETE: Every core and station of the partition has halted and written back (R391) -/
  | preemptHaltComplete
  /-- PREEMPT_FAILURE_REPLY: An atomic, remote or host request unanswered 6 µs after pre-emption receives a PREEMPT failure reply (R392) -/
  | preemptFailureReply
  /-- RECLAIM_RECORD_POST: A removed piece retires and its reclaim record is posted to the removing core's queue (R306) -/
  | reclaimRecordPost
  /-- SECURITY_PROCESSOR_VERIFY: The security processor takes a cfgchk request and returns its Ed448 verdict (R399) -/
  | securityProcessorVerify
  /-- SAMPLER_RUN_START: A sampler takes a complete run in header order and starts its logit program (R406) -/
  | samplerRunStart
  /-- STA_GEOM_WRITE: A write to STA_GEOM initialises the stitch arena, unless a version is pinned (R293) -/
  | staGeomWrite
  /-- JCC_TARGET_WRITE: A write to JCC_TARGET opens a new job (R135) -/
  | jccTargetWrite
  /-- LQ_STATE_WRITE: Writing 1 to FROZEN releases a region's launch queue (R129) -/
  | lqStateWrite
  /-- TAR_BIND: A write to TAR_BIND binds an EXT edge to a Tarior stream channel (R362) -/
  | tarBind
  /-- TAR_UNBIND: A write to TAR_BIND with UNB set unbinds the edge and cancels the owning launches (R362) -/
  | tarUnbind
  /-- SMP_BIND: A write to SMP_BIND binds an EXT edge to a sampler input or output (R405) -/
  | smpBind
  /-- SMP_UNBIND: A write to SMP_BIND with UNB set unbinds a sampler edge and cancels the owning launches (R405) -/
  | smpUnbind
  /-- RCLQ_CTL_WRITE: A write to RCLQ_CTL resizes and resets the reclaim ring or sets HEAD (R307) -/
  | rclqCtlWrite
  /-- RLOG_CTL_WRITE: A write to RLOG_CTL resizes the race-log ring or sets HEAD (R352) -/
  | rlogCtlWrite
  /-- FQ_CTL_WRITE: A write to FQ_CTL resizes the fault ring or sets HEAD (R382) -/
  | fqCtlWrite
  /-- HANG_CTL_WRITE: A write to HANG_CTL sets the watch and clears HUNG bits (R387) -/
  | hangCtlWrite
  /-- GRANT_CHANGE: The supervisor grants or withdraws resources, including swap maps, for a halted partition (R390) -/
  | grantChange
  /-- POWER_ON: Power-on resets the module and runs measured boot steps 1 to 5 (R429) -/
  | powerOn
  /-- VENDOR_DEBUG_TOKEN: A vendor-signed token on the management interface resets and zeroises every partition and enters vendor-debug (R434) -/
  | vendorDebugToken
  /-- GET_VERSION: An SPDM GET_VERSION request is answered (R433) -/
  | getVersion
  /-- GET_CAPABILITIES: An SPDM GET_CAPABILITIES request is answered (R433) -/
  | getCapabilities
  /-- NEGOTIATE_ALGORITHMS: An SPDM NEGOTIATE_ALGORITHMS request is answered (R433) -/
  | negotiateAlgorithms
  /-- GET_DIGESTS: An SPDM GET_DIGESTS request is answered (R433) -/
  | getDigests
  /-- GET_CERTIFICATE: An SPDM GET_CERTIFICATE request is answered (R433) -/
  | getCertificate
  /-- CHALLENGE: An SPDM CHALLENGE is answered with an Alias-signed response (R433) -/
  | challenge
  /-- GET_MEASUREMENTS: An SPDM GET_MEASUREMENTS request returns the MRs and states (R433) -/
  | getMeasurements
  /-- KEY_EXCHANGE: A session request such as KEY_EXCHANGE receives UnsupportedRequest (R433) -/
  | keyExchange
  /-- HOST_ACCESS: A host access through BAR2 is translated through the partition's page table, or completes with Unsupported Request (R436) -/
  | hostAccess
  /-- POWER_STATE_CHANGE: The supervisor moves the module between P0, P1, P2 and P3 (R437) -/
  | powerStateChange
  /-- BUDGET_WINDOW: Every 250 µs the arbiter divides the power cap among the dies and the hub (R438) -/
  | budgetWindow
  /-- HALT: Performs the run's held larder writes as one release and emits the output token (R421) -/
  | halt
  /-- ILLEGAL_INSTRUCTION: A control word whose major, fn, sub or selector is unallocated, or whose zero fields are nonzero, traps as ILLEGAL before any effect (R53) -/
  | illegalInstruction
  /-- FETCHFAULT: Fetching from an address that is unmapped, outside the partition, not executable or with bits 63:57 nonzero traps with FETCHFAULT (R100) -/
  | fetchfault
  /-- STORE_PERFORMED: An accepted store, stx, stf or atomic with d = g0 is performed at the scope of its memory and NS falls (R101) -/
  | storePerformed
  /-- REMOTE_PHASE_CANCEL: A cancel.phase issued on another module arrives over the Tarior control class and cancels this module's graphs of the phase with that module as ORIGIN (R43) -/
  | remotePhaseCancel
  /-- PEERRESET: A peer module's reset is reported, and the supervisor posts a PEERRESET notice with that module's number (R379) -/
  | peerreset
  /-- DEBUGGER_COMMAND: The debugger on the management interface acts on a core that brk halted in partition-debug (R434) -/
  | debuggerCommand
  /-- POWER_OFF: The module loses power and enters the off state, holding no security or debug state (R437) -/
  | powerOff
  deriving DecidableEq, Repr

end Sys2Proof
end

