-- ==== Sys2Proof/WellFormed.lean ====
section
/-! DEFINITION. Which terms of the syntax the spec's encodings allow (R53, R55 to R61, R64, R68): codes that are
allocated, and for a station word the fields its row fixes. -/

namespace Sys2Proof

/-- The word of an opcode and its fields (R62). -/
def StF.word (op : BitVec 8) (f : StF) : Word32 := op ++ f.ty ++ f.inp ++ f.k ++ f.out ++ f.rm ++ f.aux

/-- The station word agrees with its row of the opcode table on every bit the row fixes. -/
def StF.fits (f : StF) (mask matches_ : Word32) : Bool :=
  f.word (matches_.extractLsb' 24 8) &&& mask == matches_

/-- The scope codes 0 to 4 (R59). -/
def scopeOk (c : BitVec 3) : Bool := c.toNat ≤ 4

/-- Every code an instruction holds is allocated. Rows without a word have no codes. -/
def Instr.wf : Instr → Bool
  | .add _ _ _ => true
  | .sub _ _ _ => true
  | .and_ _ _ _ => true
  | .or_ _ _ _ => true
  | .xor _ _ _ => true
  | .andn _ _ _ => true
  | .shl _ _ _ => true
  | .shr _ _ _ => true
  | .sar _ _ _ => true
  | .mul _ _ _ => true
  | .mulh _ _ _ => true
  | .mulhu _ _ _ => true
  | .div _ _ _ => true
  | .divu _ _ _ => true
  | .rem _ _ _ => true
  | .remu _ _ _ => true
  | .min _ _ _ => true
  | .max _ _ _ => true
  | .minu _ _ _ => true
  | .maxu _ _ _ => true
  | .slt _ _ _ => true
  | .sltu _ _ _ => true
  | .seq _ _ _ => true
  | .clz _ _ => true
  | .ctz _ _ => true
  | .popc _ _ => true
  | .bswap _ _ => true
  | .bext _ _ _ => true
  | .bins _ _ _ => true
  | .lea _ _ _ _ => true
  | .addi _ _ _ => true
  | .andi _ _ _ => true
  | .ori _ _ _ => true
  | .xori _ _ _ => true
  | .slti _ _ _ => true
  | .sltiu _ _ _ => true
  | .shli _ _ _ => true
  | .shri _ _ _ => true
  | .sari _ _ _ => true
  | .lui _ _ => true
  | .auipc _ _ => true
  | .ldb _ _ _ => true
  | .ldh _ _ _ => true
  | .ldw _ _ _ => true
  | .ldd _ _ _ => true
  | .ldbu _ _ _ => true
  | .ldhu _ _ _ => true
  | .ldwu _ _ _ => true
  | .stb _ _ _ => true
  | .sth _ _ _ => true
  | .stw _ _ _ => true
  | .std _ _ _ => true
  | .ldx _ _ _ _ _ => true
  | .ldxu _ _ _ z _ => z != 3
  | .stx _ _ _ _ _ => true
  | .beq _ _ _ => true
  | .bne _ _ _ => true
  | .blt _ _ _ => true
  | .bge _ _ _ => true
  | .bltu _ _ _ => true
  | .bgeu _ _ _ => true
  | .jmp _ => true
  | .call _ => true
  | .jr _ => true
  | .callr _ => true
  | .atadd _ _ _ sc _ => scopeOk sc
  | .atand _ _ _ sc _ => scopeOk sc
  | .ator _ _ _ sc _ => scopeOk sc
  | .atxor _ _ _ sc _ => scopeOk sc
  | .atmin _ _ _ sc _ => scopeOk sc
  | .atmax _ _ _ sc _ => scopeOk sc
  | .atminu _ _ _ sc _ => scopeOk sc
  | .atmaxu _ _ _ sc _ => scopeOk sc
  | .atxch _ _ _ sc _ => scopeOk sc
  | .atcas _ _ _ sc _ => scopeOk sc
  | .fence sc k => scopeOk sc && k != 0
  | .wait _ _ _ _ => true
  | .tbegin _ => true
  | .tcommit => true
  | .tabort _ => true
  | .tstamp _ => true
  | .ldc _ _ => true
  | .stf _ _ => true
  | .binq _ _ => true
  | .binset _ _ => true
  | .mbbind _ _ => true
  | .mbfree _ => true
  | .cfgld _ _ _ => true
  | .cfgchk _ _ => true
  | .cfgcommit _ => true
  | .launch _ _ _ => true
  | .param _ _ _ => true
  | .selcfg _ _ => true
  | .phase _ _ => true
  | .phend _ => true
  | .cancelLaunch _ _ => true
  | .cancelGraph _ _ => true
  | .cancelPhase _ _ => true
  | .cancelJob _ _ => true
  | .cwait _ _ => true
  | .cread _ _ => true
  | .ckpt _ _ => true
  | .resume _ => true
  | .drain _ => true
  | .cpy _ _ _ => true
  | .splice _ _ _ => true
  | .stpin _ _ => true
  | .stunpin _ => true
  | .stver _ _ => true
  | .stlook _ _ _ => true
  | .seqbind _ _ _ => true
  | .sequnbind _ => true
  | .seqstep _ _ => true
  | .csrrd _ _ => true
  | .csrwr _ _ _ => true
  | .csrset _ _ _ => true
  | .csrclr _ _ _ => true
  | .syscall => true
  | .hvcInfo => true
  | .hvcYield => true
  | .hvcNotice => true
  | .hvcDebug => true
  | .hvcAttest => true
  | .hvcReset => true
  | .hvcSwapmap => true
  | .eret => true
  | .idle => true
  | .brk _ => true
  | .tlbinv _ sc => scopeOk sc
  | .atticSave _ => true
  | .atticRestore _ => true
  | .interruptTaken => true
  | .timer => true
  | .loadReply => true
  | .storeFailure => true
  | .mailboxFlitArrival => true
  | .mailboxCreditReturn => true
  | .mailboxRevoke => true
  | .tokenArrival => true
  | .launchWideErrorPurge => true
  | .launchRecordEnqueue => true
  | .launchStart => true
  | .sourceRoundStart => true
  | .decisionSwitch => true
  | .commitApply => true
  | .reconfigFenceLift => true
  | .phaseAck => true
  | .phaseStart => true
  | .copyComplete => true
  | .quarryRowReturn => true
  | .tlbWalkComplete => true
  | .faultWithhold => true
  | .faultRecordPost => true
  | .holdLimitExpiry => true
  | .hangDeclared => true
  | .binWaitGrant => true
  | .waitEntryResend => true
  | .balancerSample => true
  | .balancerMove => true
  | .mxdotFill => true
  | .mxSequencerApply => true
  | .mxrdReadApply => true
  | .mxclrApply => true
  | .remoteRequestServe => true
  | .remoteReply => true
  | .tariorFlitReceive => true
  | .tariorReroute => true
  | .tariorPortRetrain => true
  | .tileContainmentReset => true
  | .creditReclaim => true
  | .eccUncorrectable => true
  | .preemptRequest => true
  | .preemptHaltComplete => true
  | .preemptFailureReply => true
  | .reclaimRecordPost => true
  | .securityProcessorVerify => true
  | .samplerRunStart => true
  | .staGeomWrite => true
  | .jccTargetWrite => true
  | .lqStateWrite => true
  | .tarBind => true
  | .tarUnbind => true
  | .smpBind => true
  | .smpUnbind => true
  | .rclqCtlWrite => true
  | .rlogCtlWrite => true
  | .fqCtlWrite => true
  | .hangCtlWrite => true
  | .grantChange => true
  | .powerOn => true
  | .vendorDebugToken => true
  | .getVersion => true
  | .getCapabilities => true
  | .negotiateAlgorithms => true
  | .getDigests => true
  | .getCertificate => true
  | .challenge => true
  | .getMeasurements => true
  | .keyExchange => true
  | .hostAccess => true
  | .powerStateChange => true
  | .budgetWindow => true
  | .steer f => f.fits 0xFF0003FF 0x00000000
  | .merge f => f.fits 0xFF0003FE 0x01000000
  | .cmerge f => f.fits 0xFF0003FF 0x02000000
  | .carry f => f.fits 0xFF0003FF 0x03000000
  | .invar f => f.fits 0xFF0003FF 0x04000000
  | .gate f => f.fits 0xFF0003FE 0x05000000
  | .sink f => f.fits 0xFF000300 0x06000000
  | .dup f => f.fits 0xFF0003FF 0x07000000
  | .tagnew f => f.fits 0xFF0003FF 0x08000000
  | .tagset f => f.fits 0xFF0003FF 0x09000000
  | .tagrst f => f.fits 0xFF0003FF 0x0A000000
  | .stopgen f => f.fits 0xFF0003F8 0x0B000000
  | .stopadv f => f.fits 0xFF0003FE 0x0C000000
  | .count f => f.fits 0xFFC003F8 0x0D800000
  | .intersect f => f.fits 0xFFC003FF 0x0E800000
  | .union_ f => f.fits 0xFFC003FF 0x0E800001
  | .lim f => f.fits 0xFF000300 0x0F000000
  | .iadd f => f.fits 0xFFC003FF 0x10800000
  | .isub f => f.fits 0xFFC003FF 0x11800000
  | .imul f => f.fits 0xFFC003FF 0x12800000
  | .iand f => f.fits 0xFFC003FF 0x13800000
  | .ior f => f.fits 0xFFC003FF 0x14800000
  | .ixor f => f.fits 0xFFC003FF 0x15800000
  | .ishl f => f.fits 0xFFC003FF 0x16800000
  | .ishr f => f.fits 0xFFC003FF 0x17800000
  | .isar f => f.fits 0xFFC003FF 0x18800000
  | .imin f => f.fits 0xFFC003F7 0x19800000
  | .imax f => f.fits 0xFFC003F7 0x1A800000
  | .icmp f => f.fits 0xFFC003F0 0x1B800000
  | .isel f => f.fits 0xFFC003FF 0x1C800000
  | .fadd f => f.fits 0xFF0000FF 0x20000000
  | .fsub f => f.fits 0xFF0000FF 0x21000000
  | .fmul f => f.fits 0xFF0000FF 0x22000000
  | .fma f => f.fits 0xFF0000FF 0x23000000
  | .fms f => f.fits 0xFF0000FF 0x24000000
  | .fnma f => f.fits 0xFF0000FF 0x25000000
  | .fneg f => f.fits 0xFF0003FF 0x26000000
  | .fabs f => f.fits 0xFF0003FF 0x27000000
  | .fmin f => f.fits 0xFF0003FF 0x28000000
  | .fmax f => f.fits 0xFF0003FF 0x29000000
  | .fcmp f => f.fits 0xFF0003F0 0x2A000000
  | .fsel f => f.fits 0xFF0003FF 0x2B000000
  | .fclass f => f.fits 0xFFC003FF 0x2C000000
  | .fscale f => f.fits 0xFF0000FF 0x2D000000
  | .frnd f => f.fits 0xFF0000FF 0x2E000000
  | .frcp f => f.fits 0xFF0000FF 0x2F000000
  | .frsq f => f.fits 0xFF0000FF 0x30000000
  | .fdiv f => f.fits 0xFF0000FF 0x31000000
  | .fsqrt f => f.fits 0xFF0000FF 0x32000000
  | .vred f => f.fits 0xFFC000FC 0x40400000
  | .vbcast f => f.fits 0xFFC003E0 0x41400000
  | .vshuf f => f.fits 0xFFC003FF 0x42400000
  | .vpack f => f.fits 0xFFC003FF 0x43400000
  | .vunpk f => f.fits 0xFFC003FF 0x44400000
  | .vscan f => f.fits 0xFFC000F8 0x45400000
  | .vdot f => f.fits 0xFFC000FF 0x46400000
  | .vext f => f.fits 0xFFC003FF 0x47400000
  | .vins f => f.fits 0xFFC003FF 0x48400000
  | .fcvt f => f.fits 0xFF000000 0x50000000
  | .dsenc f => f.fits 0xFFC000FF 0x51C00000
  | .dsdec f => f.fits 0xFF0003FF 0x52000000
  | .dscut f => f.fits 0xFFC003FF 0x53C00000
  | .qblk f => f.fits 0xFF0000F8 0x54000000
  | .qbmap f => f.fits 0xFF0000FF 0x55000000
  | .mxload f => f.fits 0xFFF803C0 0x60A00000
  | .mxdot f => f.fits 0xFFFC0300 0x61E00000
  | .mxacc f => f.fits 0xFF3800E0 0x62200000
  | .mxrd f => f.fits 0xFFF800C0 0x63600000
  | .mxclr f => f.fits 0xFFF803FF 0x64A00000
  | .mxscale f => f.fits 0xFFF803E0 0x65A00000
  | .fexp f => f.fits 0xFF0000FF 0x70000000
  | .fexp2 f => f.fits 0xFF0000FF 0x71000000
  | .flog2 f => f.fits 0xFF0000FF 0x72000000
  | .fmaxrun f => f.fits 0xFF0000F8 0x73000000
  | .lds f => f.fits 0xFF0003FF 0x80000000
  | .sts f => f.fits 0xFF0003FF 0x81000000
  | .agen f => f.fits 0xFFC003FF 0x82800000
  | .gath f => f.fits 0xFF0003FC 0x83000000
  | .scat f => f.fits 0xFF0003FF 0x84000000
  | .rport f => f.fits 0xFF0000FC 0x85000000
  | .ldcs f => f.fits 0xFFC003FE 0x86800000
  | .stfs f => f.fits 0xFFC003FF 0x87800000
  | .pport f => f.fits 0xFFC03FFF 0x89800000
  | .ksto f => f.fits 0xFFC000FF 0x90400000
  | .kqry f => f.fits 0xFFC000C0 0x91400000
  | .kmerge f => f.fits 0xFFC000C0 0x92400000
  | .kevict f => f.fits 0xFFC003FF 0x93800000
  | .kmask f => f.fits 0xFFC003FF 0x94800000
  | .kage f => f.fits 0xFFC003FF 0x95800000
  | .rld f => f.fits 0xFF0003FF 0xA0000000
  | .rst f => f.fits 0xFF0003FF 0xA1000000
  | .ramo f => f.fits 0xFFC00300 0xA2800000
  | .rfence f => f.fits 0xFF0003F0 0xA3000000
  | .bar f => f.fits 0xFFC00300 0xB0000000
  | .decide f => f.fits 0xFF0003FE 0xB1000000
  | .seqc f => f.fits 0xFFC403FF 0xB2040000
  | .pipec f => f.fits 0xFFC403FF 0xB3040000
  | .strmc f => f.fits 0xFFC403FF 0xB4040000
  | .done f => f.fits 0xFF0003F8 0xB5000000
  | .lgin _ => true
  | .bias _ _ => true
  | .pen _ _ _ => true
  | .scl _ _ _ => true
  | .msk _ _ => true
  | .clamp _ _ _ => true
  | .topk _ _ _ => true
  | .topp _ _ _ => true
  | .minp _ _ _ => true
  | .smax _ _ => true
  | .vmax _ _ => true
  | .vsum _ _ => true
  | .draw _ _ => true
  | .cnt _ _ => true
  | .emit _ => true
  | .set_ _ _ => true
  | .slds _ _ => true
  | .ssts _ _ => true
  | .br _ => true
  | .brz _ _ => true
  | .brnz _ _ => true
  | .halt => true
  | .illegalInstruction => true
  | .fetchfault => true
  | .storePerformed => true
  | .remotePhaseCancel => true
  | .peerreset => true
  | .debuggerCommand => true
  | .powerOff => true

end Sys2Proof
end

