-- ==== Sys2Proof/Decode.lean ====
section
/-! DEFINITION. The decoder of control, station and logit words, and the encoder, both from R51 to R68. A word whose
code is unallocated, or whose zero fields are not zero, is refused (R53). -/

namespace Sys2Proof

/-- The `n` bits of a word from bit `lo`. -/
def fld (w : Word32) (lo n : Nat) : BitVec n := w.extractLsb' lo n

/-! ## Word layouts -/

/-- Format RR, and SY with `fn` holding sub and flags (R51). -/
def wRR (op : BitVec 6) (d a b : Reg) (fn : BitVec 11) : Word32 := op ++ d ++ a ++ b ++ fn
/-- Format RI, and BR with a and b in the first two register fields (R51). -/
def wRI (op : BitVec 6) (d a : Reg) (i : BitVec 16) : Word32 := op ++ d ++ a ++ i
/-- Format JL (R51). -/
def wJL (op : BitVec 6) (i : BitVec 26) : Word32 := op ++ i
/-- Format UI (R51). -/
def wUI (op : BitVec 6) (d : Reg) (i : BitVec 21) : Word32 := op ++ d ++ i
/-- A logit word (R67). -/
def wLG (op : BitVec 6) (d a b : BitVec 3) (i : BitVec 14) : Word32 := op ++ d ++ a ++ b ++ (0 : BitVec 3) ++ i

/-! ## Control words -/

/-- Major 0x01 (R55 to R61). -/
def decode01 (w : Word32) : Option Instr :=
  match fld w 0 6 with
  | 0x0 => if w &&& 0x000007FF = 0x00000000 then some (.add (fld w 21 5) (fld w 16 5) (fld w 11 5)) else none
  | 0x1 => if w &&& 0x000007FF = 0x00000001 then some (.sub (fld w 21 5) (fld w 16 5) (fld w 11 5)) else none
  | 0x2 => if w &&& 0x000007FF = 0x00000002 then some (.and_ (fld w 21 5) (fld w 16 5) (fld w 11 5)) else none
  | 0x3 => if w &&& 0x000007FF = 0x00000003 then some (.or_ (fld w 21 5) (fld w 16 5) (fld w 11 5)) else none
  | 0x4 => if w &&& 0x000007FF = 0x00000004 then some (.xor (fld w 21 5) (fld w 16 5) (fld w 11 5)) else none
  | 0x5 => if w &&& 0x000007FF = 0x00000005 then some (.andn (fld w 21 5) (fld w 16 5) (fld w 11 5)) else none
  | 0x6 => if w &&& 0x000007FF = 0x00000006 then some (.shl (fld w 21 5) (fld w 16 5) (fld w 11 5)) else none
  | 0x7 => if w &&& 0x000007FF = 0x00000007 then some (.shr (fld w 21 5) (fld w 16 5) (fld w 11 5)) else none
  | 0x8 => if w &&& 0x000007FF = 0x00000008 then some (.sar (fld w 21 5) (fld w 16 5) (fld w 11 5)) else none
  | 0x9 => if w &&& 0x000007FF = 0x00000009 then some (.mul (fld w 21 5) (fld w 16 5) (fld w 11 5)) else none
  | 0xA => if w &&& 0x000007FF = 0x0000000A then some (.mulh (fld w 21 5) (fld w 16 5) (fld w 11 5)) else none
  | 0xB => if w &&& 0x000007FF = 0x0000000B then some (.mulhu (fld w 21 5) (fld w 16 5) (fld w 11 5)) else none
  | 0xC => if w &&& 0x000007FF = 0x0000000C then some (.div (fld w 21 5) (fld w 16 5) (fld w 11 5)) else none
  | 0xD => if w &&& 0x000007FF = 0x0000000D then some (.divu (fld w 21 5) (fld w 16 5) (fld w 11 5)) else none
  | 0xE => if w &&& 0x000007FF = 0x0000000E then some (.rem (fld w 21 5) (fld w 16 5) (fld w 11 5)) else none
  | 0xF => if w &&& 0x000007FF = 0x0000000F then some (.remu (fld w 21 5) (fld w 16 5) (fld w 11 5)) else none
  | 0x10 => if w &&& 0x000007FF = 0x00000010 then some (.min (fld w 21 5) (fld w 16 5) (fld w 11 5)) else none
  | 0x11 => if w &&& 0x000007FF = 0x00000011 then some (.max (fld w 21 5) (fld w 16 5) (fld w 11 5)) else none
  | 0x12 => if w &&& 0x000007FF = 0x00000012 then some (.minu (fld w 21 5) (fld w 16 5) (fld w 11 5)) else none
  | 0x13 => if w &&& 0x000007FF = 0x00000013 then some (.maxu (fld w 21 5) (fld w 16 5) (fld w 11 5)) else none
  | 0x14 => if w &&& 0x000007FF = 0x00000014 then some (.slt (fld w 21 5) (fld w 16 5) (fld w 11 5)) else none
  | 0x15 => if w &&& 0x000007FF = 0x00000015 then some (.sltu (fld w 21 5) (fld w 16 5) (fld w 11 5)) else none
  | 0x16 => if w &&& 0x000007FF = 0x00000016 then some (.seq (fld w 21 5) (fld w 16 5) (fld w 11 5)) else none
  | 0x17 => if w &&& 0x0000FFFF = 0x00000017 then some (.clz (fld w 21 5) (fld w 16 5)) else none
  | 0x18 => if w &&& 0x0000FFFF = 0x00000018 then some (.ctz (fld w 21 5) (fld w 16 5)) else none
  | 0x19 => if w &&& 0x0000FFFF = 0x00000019 then some (.popc (fld w 21 5) (fld w 16 5)) else none
  | 0x1A => if w &&& 0x0000FFFF = 0x0000001A then some (.bswap (fld w 21 5) (fld w 16 5)) else none
  | 0x1B => if w &&& 0x000007FF = 0x0000001B then some (.bext (fld w 21 5) (fld w 16 5) (fld w 11 5)) else none
  | 0x1C => if w &&& 0x000007FF = 0x0000001C then some (.bins (fld w 21 5) (fld w 16 5) (fld w 11 5)) else none
  | 0x1D => if w &&& 0x0000073F = 0x0000001D then some (.lea (fld w 21 5) (fld w 16 5) (fld w 11 5) (fld w 6 2)) else none
  | _ => none

/-- Major 0x08 (R55 to R61). -/
def decode08 (w : Word32) : Option Instr :=
  match fld w 6 2 with
  | 0x0 => if w &&& 0x0000FFC0 = 0x00000000 then some (.shli (fld w 21 5) (fld w 16 5) (fld w 0 6)) else none
  | 0x1 => if w &&& 0x0000FFC0 = 0x00000040 then some (.shri (fld w 21 5) (fld w 16 5) (fld w 0 6)) else none
  | 0x2 => if w &&& 0x0000FFC0 = 0x00000080 then some (.sari (fld w 21 5) (fld w 16 5) (fld w 0 6)) else none
  | _ => none

/-- Major 0x1B (R55 to R61). -/
def decode1B (w : Word32) : Option Instr :=
  if w &&& 0x0000049F = 0x00000000 then some (.ldx (fld w 21 5) (fld w 16 5) (fld w 11 5) (fld w 8 2) (fld w 5 2))
  else if w &&& 0x0000049F = 0x00000080 ∧ fld w 8 2 ≠ 3 then some (.ldxu (fld w 21 5) (fld w 16 5) (fld w 11 5) (fld w 8 2) (fld w 5 2))
  else if w &&& 0x0000049F = 0x00000400 then some (.stx (fld w 21 5) (fld w 16 5) (fld w 11 5) (fld w 8 2) (fld w 5 2))
  else none

/-- Major 0x28 (R55 to R61). -/
def decode28 (w : Word32) : Option Instr :=
  match fld w 0 11 with
  | 0x0 => if w &&& 0x03E0FFFF = 0x00000000 then some (.jr (fld w 16 5)) else none
  | 0x1 => if w &&& 0x03E0FFFF = 0x00000001 then some (.callr (fld w 16 5)) else none
  | _ => none

/-- Major 0x30 (R55 to R61). -/
def decode30 (w : Word32) : Option Instr :=
  match fld w 5 6 with
  | 0x0 => if w &&& 0x000007E0 = 0x00000000 ∧ scopeOk (fld w 2 3) then some (.atadd (fld w 21 5) (fld w 16 5) (fld w 11 5) (fld w 2 3) (fld w 0 2)) else none
  | 0x1 => if w &&& 0x000007E0 = 0x00000020 ∧ scopeOk (fld w 2 3) then some (.atand (fld w 21 5) (fld w 16 5) (fld w 11 5) (fld w 2 3) (fld w 0 2)) else none
  | 0x2 => if w &&& 0x000007E0 = 0x00000040 ∧ scopeOk (fld w 2 3) then some (.ator (fld w 21 5) (fld w 16 5) (fld w 11 5) (fld w 2 3) (fld w 0 2)) else none
  | 0x3 => if w &&& 0x000007E0 = 0x00000060 ∧ scopeOk (fld w 2 3) then some (.atxor (fld w 21 5) (fld w 16 5) (fld w 11 5) (fld w 2 3) (fld w 0 2)) else none
  | 0x4 => if w &&& 0x000007E0 = 0x00000080 ∧ scopeOk (fld w 2 3) then some (.atmin (fld w 21 5) (fld w 16 5) (fld w 11 5) (fld w 2 3) (fld w 0 2)) else none
  | 0x5 => if w &&& 0x000007E0 = 0x000000A0 ∧ scopeOk (fld w 2 3) then some (.atmax (fld w 21 5) (fld w 16 5) (fld w 11 5) (fld w 2 3) (fld w 0 2)) else none
  | 0x6 => if w &&& 0x000007E0 = 0x000000C0 ∧ scopeOk (fld w 2 3) then some (.atminu (fld w 21 5) (fld w 16 5) (fld w 11 5) (fld w 2 3) (fld w 0 2)) else none
  | 0x7 => if w &&& 0x000007E0 = 0x000000E0 ∧ scopeOk (fld w 2 3) then some (.atmaxu (fld w 21 5) (fld w 16 5) (fld w 11 5) (fld w 2 3) (fld w 0 2)) else none
  | 0x8 => if w &&& 0x000007E0 = 0x00000100 ∧ scopeOk (fld w 2 3) then some (.atxch (fld w 21 5) (fld w 16 5) (fld w 11 5) (fld w 2 3) (fld w 0 2)) else none
  | 0x9 => if w &&& 0x000007E0 = 0x00000120 ∧ scopeOk (fld w 2 3) then some (.atcas (fld w 21 5) (fld w 16 5) (fld w 11 5) (fld w 2 3) (fld w 0 2)) else none
  | _ => none

/-- Major 0x31 (R55 to R61). -/
def decode31 (w : Word32) : Option Instr :=
  match fld w 5 6 with
  | 0x0 => if w &&& 0x03FFFFE0 = 0x00000000 ∧ scopeOk (fld w 2 3) ∧ fld w 0 2 ≠ 0 then some (.fence (fld w 2 3) (fld w 0 2)) else none
  | 0x1 => if w &&& 0x000007E0 = 0x00000020 then some (.wait (fld w 21 5) (fld w 16 5) (fld w 11 5) (fld w 0 5)) else none
  | _ => none

/-- Major 0x32 (R55 to R61). -/
def decode32 (w : Word32) : Option Instr :=
  match fld w 5 6 with
  | 0x0 => if w &&& 0x03E0FFFF = 0x00000000 then some (.tbegin (fld w 16 5)) else none
  | 0x1 => if w &&& 0x03FFFFFF = 0x00000020 then some (.tcommit) else none
  | 0x2 => if w &&& 0x03FFFFE0 = 0x00000040 then some (.tabort (fld w 0 5)) else none
  | 0x3 => if w &&& 0x001FFFFF = 0x00000060 then some (.tstamp (fld w 21 5)) else none
  | _ => none

/-- Major 0x33 (R55 to R61). -/
def decode33 (w : Word32) : Option Instr :=
  match fld w 5 6 with
  | 0x0 => if w &&& 0x0000FFFF = 0x00000000 then some (.ldc (fld w 21 5) (fld w 16 5)) else none
  | 0x1 => if w &&& 0x03E007FF = 0x00000020 then some (.stf (fld w 16 5) (fld w 11 5)) else none
  | 0x2 => if w &&& 0x0000FFFF = 0x00000040 then some (.binq (fld w 21 5) (fld w 16 5)) else none
  | 0x3 => if w &&& 0x03E0FFFE = 0x00000060 then some (.binset (fld w 16 5) (fld w 0 1)) else none
  | _ => none

/-- Major 0x34 (R55 to R61). -/
def decode34 (w : Word32) : Option Instr :=
  match fld w 5 6 with
  | 0x0 => if w &&& 0x03E0FFFC = 0x00000000 then some (.mbbind (fld w 16 5) (fld w 0 2)) else none
  | 0x1 => if w &&& 0x03FFFFFC = 0x00000020 then some (.mbfree (fld w 0 2)) else none
  | _ => none

/-- Major 0x38 (R55 to R61). -/
def decode38 (w : Word32) : Option Instr :=
  match fld w 5 6 with
  | 0x0 => if w &&& 0x000007FF = 0x00000000 then some (.cfgld (fld w 21 5) (fld w 16 5) (fld w 11 5)) else none
  | 0x1 => if w &&& 0x0000FFFF = 0x00000020 then some (.cfgchk (fld w 21 5) (fld w 16 5)) else none
  | 0x2 => if w &&& 0x03E0FFFF = 0x00000040 then some (.cfgcommit (fld w 16 5)) else none
  | 0x3 => if w &&& 0x0000FFFC = 0x00000060 then some (.launch (fld w 21 5) (fld w 16 5) (fld w 0 2)) else none
  | 0x4 => if w &&& 0x03E007FC = 0x00000080 then some (.param (fld w 16 5) (fld w 11 5) (fld w 0 2)) else none
  | 0x5 => if w &&& 0x03E0FFFC = 0x000000A0 then some (.selcfg (fld w 16 5) (fld w 0 2)) else none
  | 0x6 => if w &&& 0x0000FFFF = 0x000000C0 then some (.phase (fld w 21 5) (fld w 16 5)) else none
  | 0x7 => if w &&& 0x03E0FFFF = 0x000000E0 then some (.phend (fld w 16 5)) else none
  | 0x8 => if w &&& 0x0000FFFF = 0x00000100 then some (.cancelLaunch (fld w 21 5) (fld w 16 5)) else if w &&& 0x0000FFFF = 0x00000101 then some (.cancelGraph (fld w 21 5) (fld w 16 5)) else if w &&& 0x0000FFFF = 0x00000102 then some (.cancelPhase (fld w 21 5) (fld w 16 5)) else if w &&& 0x0000FFFF = 0x00000103 then some (.cancelJob (fld w 21 5) (fld w 16 5)) else none
  | 0x9 => if w &&& 0x0000FFFF = 0x00000120 then some (.cwait (fld w 21 5) (fld w 16 5)) else none
  | 0xA => if w &&& 0x0000FFFF = 0x00000140 then some (.cread (fld w 21 5) (fld w 16 5)) else none
  | 0xB => if w &&& 0x0000FFFF = 0x00000160 then some (.ckpt (fld w 21 5) (fld w 16 5)) else none
  | 0xC => if w &&& 0x03E0FFFF = 0x00000180 then some (.resume (fld w 16 5)) else none
  | 0xD => if w &&& 0x03E0FFFF = 0x000001A0 then some (.drain (fld w 16 5)) else none
  | 0xE => if w &&& 0x000007FF = 0x000001C0 then some (.cpy (fld w 21 5) (fld w 16 5) (fld w 11 5)) else none
  | _ => none

/-- Major 0x39 (R55 to R61). -/
def decode39 (w : Word32) : Option Instr :=
  match fld w 5 6 with
  | 0x0 => if w &&& 0x000007FF = 0x00000000 then some (.splice (fld w 21 5) (fld w 16 5) (fld w 11 5)) else none
  | 0x1 => if w &&& 0x0000FFFF = 0x00000020 then some (.stpin (fld w 21 5) (fld w 16 5)) else none
  | 0x2 => if w &&& 0x03E0FFFF = 0x00000040 then some (.stunpin (fld w 16 5)) else none
  | 0x3 => if w &&& 0x0000FFFF = 0x00000060 then some (.stver (fld w 21 5) (fld w 16 5)) else none
  | 0x4 => if w &&& 0x000007FF = 0x00000080 then some (.stlook (fld w 21 5) (fld w 16 5) (fld w 11 5)) else none
  | _ => none

/-- Major 0x3A (R55 to R61). -/
def decode3A (w : Word32) : Option Instr :=
  match fld w 5 6 with
  | 0x0 => if w &&& 0x000007FF = 0x00000000 then some (.seqbind (fld w 21 5) (fld w 16 5) (fld w 11 5)) else none
  | 0x1 => if w &&& 0x03E0FFFF = 0x00000020 then some (.sequnbind (fld w 16 5)) else none
  | 0x2 => if w &&& 0x0000FFFF = 0x00000040 then some (.seqstep (fld w 21 5) (fld w 16 5)) else none
  | _ => none

/-- Major 0x3C, OPX 0xF (R61). -/
def decode3CF (w : Word32) : Option Instr :=
  if w &&& 0x03FFFFFF = 0x0000F000 then some (.syscall)
  else if w &&& 0x03FFFFFF = 0x0000F020 then some (.hvcInfo)
  else if w &&& 0x03FFFFFF = 0x0000F021 then some (.hvcYield)
  else if w &&& 0x03FFFFFF = 0x0000F022 then some (.hvcNotice)
  else if w &&& 0x03FFFFFF = 0x0000F023 then some (.hvcDebug)
  else if w &&& 0x03FFFFFF = 0x0000F024 then some (.hvcAttest)
  else if w &&& 0x03FFFFFF = 0x0000F025 then some (.hvcReset)
  else if w &&& 0x03FFFFFF = 0x0000F026 then some (.hvcSwapmap)
  else if w &&& 0x03FFFFFF = 0x0000F040 then some (.eret)
  else if w &&& 0x03FFFFFF = 0x0000F060 then some (.idle)
  else if w &&& 0x03FFFFE0 = 0x0000F080 then some (.brk (fld w 0 5))
  else if w &&& 0x03E0FFE3 = 0x0000F0A0 ∧ scopeOk (fld w 2 3) then some (.tlbinv (fld w 16 5) (fld w 2 3))
  else if w &&& 0x03E0FFFF = 0x0000F0C0 then some (.atticSave (fld w 16 5))
  else if w &&& 0x03E0FFFF = 0x0000F0C1 then some (.atticRestore (fld w 16 5))
  else none

/-- Major 0x3C (R55 to R61). -/
def decode3C (w : Word32) : Option Instr :=
  match fld w 12 4 with
  | 0x0 => if w &&& 0x001FF000 = 0x00000000 then some (.csrrd (fld w 21 5) (fld w 0 12)) else none
  | 0x1 => if w &&& 0x0000F000 = 0x00001000 then some (.csrwr (fld w 21 5) (fld w 16 5) (fld w 0 12)) else none
  | 0x2 => if w &&& 0x0000F000 = 0x00002000 then some (.csrset (fld w 21 5) (fld w 16 5) (fld w 0 12)) else none
  | 0x3 => if w &&& 0x0000F000 = 0x00003000 then some (.csrclr (fld w 21 5) (fld w 16 5) (fld w 0 12)) else none
  | 0xF => decode3CF w
  | _ => none

/-- A control word by its major (R53, R54). -/
def decodeControl (w : Word32) : Option Instr :=
  match fld w 26 6 with
  | 0x01 => decode01 w
  | 0x02 => some (.addi (fld w 21 5) (fld w 16 5) (fld w 0 16))
  | 0x03 => some (.andi (fld w 21 5) (fld w 16 5) (fld w 0 16))
  | 0x04 => some (.ori (fld w 21 5) (fld w 16 5) (fld w 0 16))
  | 0x05 => some (.xori (fld w 21 5) (fld w 16 5) (fld w 0 16))
  | 0x06 => some (.slti (fld w 21 5) (fld w 16 5) (fld w 0 16))
  | 0x07 => some (.sltiu (fld w 21 5) (fld w 16 5) (fld w 0 16))
  | 0x08 => decode08 w
  | 0x09 => some (.lui (fld w 21 5) (fld w 0 21))
  | 0x0A => some (.auipc (fld w 21 5) (fld w 0 21))
  | 0x10 => some (.ldb (fld w 21 5) (fld w 16 5) (fld w 0 16))
  | 0x11 => some (.ldh (fld w 21 5) (fld w 16 5) (fld w 0 16))
  | 0x12 => some (.ldw (fld w 21 5) (fld w 16 5) (fld w 0 16))
  | 0x13 => some (.ldd (fld w 21 5) (fld w 16 5) (fld w 0 16))
  | 0x14 => some (.ldbu (fld w 21 5) (fld w 16 5) (fld w 0 16))
  | 0x15 => some (.ldhu (fld w 21 5) (fld w 16 5) (fld w 0 16))
  | 0x16 => some (.ldwu (fld w 21 5) (fld w 16 5) (fld w 0 16))
  | 0x17 => some (.stb (fld w 21 5) (fld w 16 5) (fld w 0 16))
  | 0x18 => some (.sth (fld w 21 5) (fld w 16 5) (fld w 0 16))
  | 0x19 => some (.stw (fld w 21 5) (fld w 16 5) (fld w 0 16))
  | 0x1A => some (.std (fld w 21 5) (fld w 16 5) (fld w 0 16))
  | 0x1B => decode1B w
  | 0x20 => some (.beq (fld w 21 5) (fld w 16 5) (fld w 0 16))
  | 0x21 => some (.bne (fld w 21 5) (fld w 16 5) (fld w 0 16))
  | 0x22 => some (.blt (fld w 21 5) (fld w 16 5) (fld w 0 16))
  | 0x23 => some (.bge (fld w 21 5) (fld w 16 5) (fld w 0 16))
  | 0x24 => some (.bltu (fld w 21 5) (fld w 16 5) (fld w 0 16))
  | 0x25 => some (.bgeu (fld w 21 5) (fld w 16 5) (fld w 0 16))
  | 0x26 => some (.jmp (fld w 0 26))
  | 0x27 => some (.call (fld w 0 26))
  | 0x28 => decode28 w
  | 0x30 => decode30 w
  | 0x31 => decode31 w
  | 0x32 => decode32 w
  | 0x33 => decode33 w
  | 0x34 => decode34 w
  | 0x38 => decode38 w
  | 0x39 => decode39 w
  | 0x3A => decode3A w
  | 0x3C => decode3C w
  | _ => none

/-! ## Station words -/

/-- The fields of an operation word (R62). -/
def StF.of (w : Word32) : StF :=
  ⟨fld w 22 2, fld w 19 3, fld w 14 5, fld w 10 4, fld w 8 2, fld w 0 8⟩

/-- Operation words 0x0_ (R64). -/
def decodeOp0 (w : Word32) : Option Instr :=
  match fld w 24 8 with
  | 0x00 => if w &&& 0xFF0003FF = 0x00000000 then some (.steer (StF.of w)) else none
  | 0x01 => if w &&& 0xFF0003FE = 0x01000000 then some (.merge (StF.of w)) else none
  | 0x02 => if w &&& 0xFF0003FF = 0x02000000 then some (.cmerge (StF.of w)) else none
  | 0x03 => if w &&& 0xFF0003FF = 0x03000000 then some (.carry (StF.of w)) else none
  | 0x04 => if w &&& 0xFF0003FF = 0x04000000 then some (.invar (StF.of w)) else none
  | 0x05 => if w &&& 0xFF0003FE = 0x05000000 then some (.gate (StF.of w)) else none
  | 0x06 => if w &&& 0xFF000300 = 0x06000000 then some (.sink (StF.of w)) else none
  | 0x07 => if w &&& 0xFF0003FF = 0x07000000 then some (.dup (StF.of w)) else none
  | 0x08 => if w &&& 0xFF0003FF = 0x08000000 then some (.tagnew (StF.of w)) else none
  | 0x09 => if w &&& 0xFF0003FF = 0x09000000 then some (.tagset (StF.of w)) else none
  | 0x0A => if w &&& 0xFF0003FF = 0x0A000000 then some (.tagrst (StF.of w)) else none
  | 0x0B => if w &&& 0xFF0003F8 = 0x0B000000 then some (.stopgen (StF.of w)) else none
  | 0x0C => if w &&& 0xFF0003FE = 0x0C000000 then some (.stopadv (StF.of w)) else none
  | 0x0D => if w &&& 0xFFC003F8 = 0x0D800000 then some (.count (StF.of w)) else none
  | 0x0E => if w &&& 0xFFC003FF = 0x0E800000 then some (.intersect (StF.of w)) else if w &&& 0xFFC003FF = 0x0E800001 then some (.union_ (StF.of w)) else none
  | 0x0F => if w &&& 0xFF000300 = 0x0F000000 then some (.lim (StF.of w)) else none
  | _ => none

/-- Operation words 0x1_ (R64). -/
def decodeOp1 (w : Word32) : Option Instr :=
  match fld w 24 8 with
  | 0x10 => if w &&& 0xFFC003FF = 0x10800000 then some (.iadd (StF.of w)) else none
  | 0x11 => if w &&& 0xFFC003FF = 0x11800000 then some (.isub (StF.of w)) else none
  | 0x12 => if w &&& 0xFFC003FF = 0x12800000 then some (.imul (StF.of w)) else none
  | 0x13 => if w &&& 0xFFC003FF = 0x13800000 then some (.iand (StF.of w)) else none
  | 0x14 => if w &&& 0xFFC003FF = 0x14800000 then some (.ior (StF.of w)) else none
  | 0x15 => if w &&& 0xFFC003FF = 0x15800000 then some (.ixor (StF.of w)) else none
  | 0x16 => if w &&& 0xFFC003FF = 0x16800000 then some (.ishl (StF.of w)) else none
  | 0x17 => if w &&& 0xFFC003FF = 0x17800000 then some (.ishr (StF.of w)) else none
  | 0x18 => if w &&& 0xFFC003FF = 0x18800000 then some (.isar (StF.of w)) else none
  | 0x19 => if w &&& 0xFFC003F7 = 0x19800000 then some (.imin (StF.of w)) else none
  | 0x1A => if w &&& 0xFFC003F7 = 0x1A800000 then some (.imax (StF.of w)) else none
  | 0x1B => if w &&& 0xFFC003F0 = 0x1B800000 then some (.icmp (StF.of w)) else none
  | 0x1C => if w &&& 0xFFC003FF = 0x1C800000 then some (.isel (StF.of w)) else none
  | _ => none

/-- Operation words 0x2_ (R64). -/
def decodeOp2 (w : Word32) : Option Instr :=
  match fld w 24 8 with
  | 0x20 => if w &&& 0xFF0000FF = 0x20000000 then some (.fadd (StF.of w)) else none
  | 0x21 => if w &&& 0xFF0000FF = 0x21000000 then some (.fsub (StF.of w)) else none
  | 0x22 => if w &&& 0xFF0000FF = 0x22000000 then some (.fmul (StF.of w)) else none
  | 0x23 => if w &&& 0xFF0000FF = 0x23000000 then some (.fma (StF.of w)) else none
  | 0x24 => if w &&& 0xFF0000FF = 0x24000000 then some (.fms (StF.of w)) else none
  | 0x25 => if w &&& 0xFF0000FF = 0x25000000 then some (.fnma (StF.of w)) else none
  | 0x26 => if w &&& 0xFF0003FF = 0x26000000 then some (.fneg (StF.of w)) else none
  | 0x27 => if w &&& 0xFF0003FF = 0x27000000 then some (.fabs (StF.of w)) else none
  | 0x28 => if w &&& 0xFF0003FF = 0x28000000 then some (.fmin (StF.of w)) else none
  | 0x29 => if w &&& 0xFF0003FF = 0x29000000 then some (.fmax (StF.of w)) else none
  | 0x2A => if w &&& 0xFF0003F0 = 0x2A000000 then some (.fcmp (StF.of w)) else none
  | 0x2B => if w &&& 0xFF0003FF = 0x2B000000 then some (.fsel (StF.of w)) else none
  | 0x2C => if w &&& 0xFFC003FF = 0x2C000000 then some (.fclass (StF.of w)) else none
  | 0x2D => if w &&& 0xFF0000FF = 0x2D000000 then some (.fscale (StF.of w)) else none
  | 0x2E => if w &&& 0xFF0000FF = 0x2E000000 then some (.frnd (StF.of w)) else none
  | 0x2F => if w &&& 0xFF0000FF = 0x2F000000 then some (.frcp (StF.of w)) else none
  | _ => none

/-- Operation words 0x3_ (R64). -/
def decodeOp3 (w : Word32) : Option Instr :=
  match fld w 24 8 with
  | 0x30 => if w &&& 0xFF0000FF = 0x30000000 then some (.frsq (StF.of w)) else none
  | 0x31 => if w &&& 0xFF0000FF = 0x31000000 then some (.fdiv (StF.of w)) else none
  | 0x32 => if w &&& 0xFF0000FF = 0x32000000 then some (.fsqrt (StF.of w)) else none
  | _ => none

/-- Operation words 0x4_ (R64). -/
def decodeOp4 (w : Word32) : Option Instr :=
  match fld w 24 8 with
  | 0x40 => if w &&& 0xFFC000FC = 0x40400000 then some (.vred (StF.of w)) else none
  | 0x41 => if w &&& 0xFFC003E0 = 0x41400000 then some (.vbcast (StF.of w)) else none
  | 0x42 => if w &&& 0xFFC003FF = 0x42400000 then some (.vshuf (StF.of w)) else none
  | 0x43 => if w &&& 0xFFC003FF = 0x43400000 then some (.vpack (StF.of w)) else none
  | 0x44 => if w &&& 0xFFC003FF = 0x44400000 then some (.vunpk (StF.of w)) else none
  | 0x45 => if w &&& 0xFFC000F8 = 0x45400000 then some (.vscan (StF.of w)) else none
  | 0x46 => if w &&& 0xFFC000FF = 0x46400000 then some (.vdot (StF.of w)) else none
  | 0x47 => if w &&& 0xFFC003FF = 0x47400000 then some (.vext (StF.of w)) else none
  | 0x48 => if w &&& 0xFFC003FF = 0x48400000 then some (.vins (StF.of w)) else none
  | _ => none

/-- Operation words 0x5_ (R64). -/
def decodeOp5 (w : Word32) : Option Instr :=
  match fld w 24 8 with
  | 0x50 => if w &&& 0xFF000000 = 0x50000000 then some (.fcvt (StF.of w)) else none
  | 0x51 => if w &&& 0xFFC000FF = 0x51C00000 then some (.dsenc (StF.of w)) else none
  | 0x52 => if w &&& 0xFF0003FF = 0x52000000 then some (.dsdec (StF.of w)) else none
  | 0x53 => if w &&& 0xFFC003FF = 0x53C00000 then some (.dscut (StF.of w)) else none
  | 0x54 => if w &&& 0xFF0000F8 = 0x54000000 then some (.qblk (StF.of w)) else none
  | 0x55 => if w &&& 0xFF0000FF = 0x55000000 then some (.qbmap (StF.of w)) else none
  | _ => none

/-- Operation words 0x6_ (R64). -/
def decodeOp6 (w : Word32) : Option Instr :=
  match fld w 24 8 with
  | 0x60 => if w &&& 0xFFF803C0 = 0x60A00000 then some (.mxload (StF.of w)) else none
  | 0x61 => if w &&& 0xFFFC0300 = 0x61E00000 then some (.mxdot (StF.of w)) else none
  | 0x62 => if w &&& 0xFF3800E0 = 0x62200000 then some (.mxacc (StF.of w)) else none
  | 0x63 => if w &&& 0xFFF800C0 = 0x63600000 then some (.mxrd (StF.of w)) else none
  | 0x64 => if w &&& 0xFFF803FF = 0x64A00000 then some (.mxclr (StF.of w)) else none
  | 0x65 => if w &&& 0xFFF803E0 = 0x65A00000 then some (.mxscale (StF.of w)) else none
  | _ => none

/-- Operation words 0x7_ (R64). -/
def decodeOp7 (w : Word32) : Option Instr :=
  match fld w 24 8 with
  | 0x70 => if w &&& 0xFF0000FF = 0x70000000 then some (.fexp (StF.of w)) else none
  | 0x71 => if w &&& 0xFF0000FF = 0x71000000 then some (.fexp2 (StF.of w)) else none
  | 0x72 => if w &&& 0xFF0000FF = 0x72000000 then some (.flog2 (StF.of w)) else none
  | 0x73 => if w &&& 0xFF0000F8 = 0x73000000 then some (.fmaxrun (StF.of w)) else none
  | _ => none

/-- Operation words 0x8_ (R64). -/
def decodeOp8 (w : Word32) : Option Instr :=
  match fld w 24 8 with
  | 0x80 => if w &&& 0xFF0003FF = 0x80000000 then some (.lds (StF.of w)) else none
  | 0x81 => if w &&& 0xFF0003FF = 0x81000000 then some (.sts (StF.of w)) else none
  | 0x82 => if w &&& 0xFFC003FF = 0x82800000 then some (.agen (StF.of w)) else none
  | 0x83 => if w &&& 0xFF0003FC = 0x83000000 then some (.gath (StF.of w)) else none
  | 0x84 => if w &&& 0xFF0003FF = 0x84000000 then some (.scat (StF.of w)) else none
  | 0x85 => if w &&& 0xFF0000FC = 0x85000000 then some (.rport (StF.of w)) else none
  | 0x86 => if w &&& 0xFFC003FE = 0x86800000 then some (.ldcs (StF.of w)) else none
  | 0x87 => if w &&& 0xFFC003FF = 0x87800000 then some (.stfs (StF.of w)) else none
  | 0x89 => if w &&& 0xFFC03FFF = 0x89800000 then some (.pport (StF.of w)) else none
  | _ => none

/-- Operation words 0x9_ (R64). -/
def decodeOp9 (w : Word32) : Option Instr :=
  match fld w 24 8 with
  | 0x90 => if w &&& 0xFFC000FF = 0x90400000 then some (.ksto (StF.of w)) else none
  | 0x91 => if w &&& 0xFFC000C0 = 0x91400000 then some (.kqry (StF.of w)) else none
  | 0x92 => if w &&& 0xFFC000C0 = 0x92400000 then some (.kmerge (StF.of w)) else none
  | 0x93 => if w &&& 0xFFC003FF = 0x93800000 then some (.kevict (StF.of w)) else none
  | 0x94 => if w &&& 0xFFC003FF = 0x94800000 then some (.kmask (StF.of w)) else none
  | 0x95 => if w &&& 0xFFC003FF = 0x95800000 then some (.kage (StF.of w)) else none
  | _ => none

/-- Operation words 0xA_ (R64). -/
def decodeOpA (w : Word32) : Option Instr :=
  match fld w 24 8 with
  | 0xA0 => if w &&& 0xFF0003FF = 0xA0000000 then some (.rld (StF.of w)) else none
  | 0xA1 => if w &&& 0xFF0003FF = 0xA1000000 then some (.rst (StF.of w)) else none
  | 0xA2 => if w &&& 0xFFC00300 = 0xA2800000 then some (.ramo (StF.of w)) else none
  | 0xA3 => if w &&& 0xFF0003F0 = 0xA3000000 then some (.rfence (StF.of w)) else none
  | _ => none

/-- Operation words 0xB_ (R64). -/
def decodeOpB (w : Word32) : Option Instr :=
  match fld w 24 8 with
  | 0xB0 => if w &&& 0xFFC00300 = 0xB0000000 then some (.bar (StF.of w)) else none
  | 0xB1 => if w &&& 0xFF0003FE = 0xB1000000 then some (.decide (StF.of w)) else none
  | 0xB2 => if w &&& 0xFFC403FF = 0xB2040000 then some (.seqc (StF.of w)) else none
  | 0xB3 => if w &&& 0xFFC403FF = 0xB3040000 then some (.pipec (StF.of w)) else none
  | 0xB4 => if w &&& 0xFFC403FF = 0xB4040000 then some (.strmc (StF.of w)) else none
  | 0xB5 => if w &&& 0xFF0003F8 = 0xB5000000 then some (.done (StF.of w)) else none
  | _ => none

/-- An operation word by its family (R64). -/
def decodeStation (w : Word32) : Option Instr :=
  match fld w 28 4 with
  | 0x0 => decodeOp0 w
  | 0x1 => decodeOp1 w
  | 0x2 => decodeOp2 w
  | 0x3 => decodeOp3 w
  | 0x4 => decodeOp4 w
  | 0x5 => decodeOp5 w
  | 0x6 => decodeOp6 w
  | 0x7 => decodeOp7 w
  | 0x8 => decodeOp8 w
  | 0x9 => decodeOp9 w
  | 0xA => decodeOpA w
  | 0xB => decodeOpB w
  | _ => none

/-! ## Logit words -/

/-- A logit word by its opcode (R68). -/
def decodeLogit (w : Word32) : Option Instr :=
  match fld w 26 6 with
  | 0x01 => if w &&& 0x007FFFFF = 0 then some (.lgin (fld w 23 3)) else none
  | 0x02 => if w &&& 0x000FFFFF = 0 then some (.bias (fld w 23 3) (fld w 20 3)) else none
  | 0x03 => if w &&& 0x0001FFFF = 0 then some (.pen (fld w 23 3) (fld w 20 3) (fld w 17 3)) else none
  | 0x04 => if w &&& 0x0001FFFF = 0 then some (.scl (fld w 23 3) (fld w 20 3) (fld w 17 3)) else none
  | 0x05 => if w &&& 0x000FFFFF = 0 then some (.msk (fld w 23 3) (fld w 20 3)) else none
  | 0x06 => if w &&& 0x0001FFFF = 0 then some (.clamp (fld w 23 3) (fld w 20 3) (fld w 17 3)) else none
  | 0x07 => if w &&& 0x0001FFFF = 0 then some (.topk (fld w 23 3) (fld w 20 3) (fld w 17 3)) else none
  | 0x08 => if w &&& 0x0001FFFF = 0 then some (.topp (fld w 23 3) (fld w 20 3) (fld w 17 3)) else none
  | 0x09 => if w &&& 0x0001FFFF = 0 then some (.minp (fld w 23 3) (fld w 20 3) (fld w 17 3)) else none
  | 0x0A => if w &&& 0x000FFFFF = 0 then some (.smax (fld w 23 3) (fld w 20 3)) else none
  | 0x0B => if w &&& 0x000FFFFF = 0 then some (.vmax (fld w 23 3) (fld w 20 3)) else none
  | 0x0C => if w &&& 0x000FFFFF = 0 then some (.vsum (fld w 23 3) (fld w 20 3)) else none
  | 0x0D => if w &&& 0x000FFFFF = 0 then some (.draw (fld w 23 3) (fld w 20 3)) else none
  | 0x0E => if w &&& 0x000FFFFF = 0 then some (.cnt (fld w 23 3) (fld w 20 3)) else none
  | 0x0F => if w &&& 0x038FFFFF = 0 then some (.emit (fld w 20 3)) else none
  | 0x10 => if w &&& 0x007FC000 = 0 then some (.set_ (fld w 23 3) (fld w 0 14)) else none
  | 0x11 => if w &&& 0x007FC000 = 0 then some (.slds (fld w 23 3) (fld w 0 14)) else none
  | 0x12 => if w &&& 0x038FC000 = 0 then some (.ssts (fld w 20 3) (fld w 0 14)) else none
  | 0x13 => if w &&& 0x03FFC000 = 0 then some (.br (fld w 0 14)) else none
  | 0x14 => if w &&& 0x038FC000 = 0 then some (.brz (fld w 20 3) (fld w 0 14)) else none
  | 0x15 => if w &&& 0x038FC000 = 0 then some (.brnz (fld w 20 3) (fld w 0 14)) else none
  | 0x16 => if w &&& 0x03FFFFFF = 0 then some (.halt) else none
  | _ => none

/-! ## Bytes -/

/-- The four bytes of a stored word, least significant first (R6, R51). -/
def wordBytes (w : Word32) : List Byte := [fld w 0 8, fld w 8 8, fld w 16 8, fld w 24 8]

/-- The word that four stored bytes hold (R6). -/
def bytesWord (b0 b1 b2 b3 : Byte) : Word32 := b3 ++ b2 ++ b1 ++ b0

/-- Decoding a control word from memory: the instruction and the bytes after it, or the name of what is wrong. -/
def decode : List Byte → Except String (Instr × List Byte)
  | b0 :: b1 :: b2 :: b3 :: rest =>
    match decodeControl (bytesWord b0 b1 b2 b3) with
    | some i => .ok (i, rest)
    | none => .error "illegal control word"
  | _ => .error "fewer than four bytes"

/-- A word of any of the three instruction sets; where one word belongs to several, the control core's reading is taken,
then the station's, then the sampler's. -/
def decodeAny (w : Word32) : Option Instr :=
  match decodeControl w with
  | some i => some i
  | none =>
    match decodeStation w with
    | some i => some i
    | none => decodeLogit w

/-- The instruction that a word of the opcode table is read as; every row of the table has 32 bits. -/
def decodeTableWord (nbits w : Nat) : Option Instr :=
  if nbits ≤ 32 then decodeAny (BitVec.ofNat 32 w) else none

/-! ## The encoder -/

/-- The word of a control instruction (R51 to R61). -/
def encodeControl : Instr → Option Word32
  | .add d a b => some (wRR 0x01 d a b ((0 : BitVec 11)))
  | .sub d a b => some (wRR 0x01 d a b ((1 : BitVec 11)))
  | .and_ d a b => some (wRR 0x01 d a b ((2 : BitVec 11)))
  | .or_ d a b => some (wRR 0x01 d a b ((3 : BitVec 11)))
  | .xor d a b => some (wRR 0x01 d a b ((4 : BitVec 11)))
  | .andn d a b => some (wRR 0x01 d a b ((5 : BitVec 11)))
  | .shl d a b => some (wRR 0x01 d a b ((6 : BitVec 11)))
  | .shr d a b => some (wRR 0x01 d a b ((7 : BitVec 11)))
  | .sar d a b => some (wRR 0x01 d a b ((8 : BitVec 11)))
  | .mul d a b => some (wRR 0x01 d a b ((9 : BitVec 11)))
  | .mulh d a b => some (wRR 0x01 d a b ((10 : BitVec 11)))
  | .mulhu d a b => some (wRR 0x01 d a b ((11 : BitVec 11)))
  | .div d a b => some (wRR 0x01 d a b ((12 : BitVec 11)))
  | .divu d a b => some (wRR 0x01 d a b ((13 : BitVec 11)))
  | .rem d a b => some (wRR 0x01 d a b ((14 : BitVec 11)))
  | .remu d a b => some (wRR 0x01 d a b ((15 : BitVec 11)))
  | .min d a b => some (wRR 0x01 d a b ((16 : BitVec 11)))
  | .max d a b => some (wRR 0x01 d a b ((17 : BitVec 11)))
  | .minu d a b => some (wRR 0x01 d a b ((18 : BitVec 11)))
  | .maxu d a b => some (wRR 0x01 d a b ((19 : BitVec 11)))
  | .slt d a b => some (wRR 0x01 d a b ((20 : BitVec 11)))
  | .sltu d a b => some (wRR 0x01 d a b ((21 : BitVec 11)))
  | .seq d a b => some (wRR 0x01 d a b ((22 : BitVec 11)))
  | .clz d a => some (wRR 0x01 d a 0 ((23 : BitVec 11)))
  | .ctz d a => some (wRR 0x01 d a 0 ((24 : BitVec 11)))
  | .popc d a => some (wRR 0x01 d a 0 ((25 : BitVec 11)))
  | .bswap d a => some (wRR 0x01 d a 0 ((26 : BitVec 11)))
  | .bext d a b => some (wRR 0x01 d a b ((27 : BitVec 11)))
  | .bins d a b => some (wRR 0x01 d a b ((28 : BitVec 11)))
  | .lea d a b s => some (wRR 0x01 d a b ((0 : BitVec 3) ++ s ++ (29 : BitVec 6)))
  | .addi d a i => some (wRI 0x02 d a i)
  | .andi d a i => some (wRI 0x03 d a i)
  | .ori d a i => some (wRI 0x04 d a i)
  | .xori d a i => some (wRI 0x05 d a i)
  | .slti d a i => some (wRI 0x06 d a i)
  | .sltiu d a i => some (wRI 0x07 d a i)
  | .shli d a n => some (wRI 0x08 d a ((0 : BitVec 8) ++ (0 : BitVec 2) ++ n))
  | .shri d a n => some (wRI 0x08 d a ((0 : BitVec 8) ++ (1 : BitVec 2) ++ n))
  | .sari d a n => some (wRI 0x08 d a ((0 : BitVec 8) ++ (2 : BitVec 2) ++ n))
  | .lui d i => some (wUI 0x09 d i)
  | .auipc d i => some (wUI 0x0A d i)
  | .ldb d a i => some (wRI 0x10 d a i)
  | .ldh d a i => some (wRI 0x11 d a i)
  | .ldw d a i => some (wRI 0x12 d a i)
  | .ldd d a i => some (wRI 0x13 d a i)
  | .ldbu d a i => some (wRI 0x14 d a i)
  | .ldhu d a i => some (wRI 0x15 d a i)
  | .ldwu d a i => some (wRI 0x16 d a i)
  | .stb d a i => some (wRI 0x17 d a i)
  | .sth d a i => some (wRI 0x18 d a i)
  | .stw d a i => some (wRI 0x19 d a i)
  | .std d a i => some (wRI 0x1A d a i)
  | .ldx d a b z c => some (wRR 0x1B d a b ((0 : BitVec 1) ++ z ++ (0 : BitVec 1) ++ c ++ (0 : BitVec 5)))
  | .ldxu d a b z c => some (wRR 0x1B d a b ((0 : BitVec 1) ++ z ++ (1 : BitVec 1) ++ c ++ (0 : BitVec 5)))
  | .stx d a b z c => some (wRR 0x1B d a b ((1 : BitVec 1) ++ z ++ (0 : BitVec 1) ++ c ++ (0 : BitVec 5)))
  | .beq a b i => some (wRI 0x20 a b i)
  | .bne a b i => some (wRI 0x21 a b i)
  | .blt a b i => some (wRI 0x22 a b i)
  | .bge a b i => some (wRI 0x23 a b i)
  | .bltu a b i => some (wRI 0x24 a b i)
  | .bgeu a b i => some (wRI 0x25 a b i)
  | .jmp i => some (wJL 0x26 i)
  | .call i => some (wJL 0x27 i)
  | .jr a => some (wRR 0x28 0 a 0 ((0 : BitVec 11)))
  | .callr a => some (wRR 0x28 0 a 0 ((1 : BitVec 11)))
  | .atadd d a b c o => some (wRR 0x30 d a b ((0 : BitVec 6) ++ c ++ o))
  | .atand d a b c o => some (wRR 0x30 d a b ((1 : BitVec 6) ++ c ++ o))
  | .ator d a b c o => some (wRR 0x30 d a b ((2 : BitVec 6) ++ c ++ o))
  | .atxor d a b c o => some (wRR 0x30 d a b ((3 : BitVec 6) ++ c ++ o))
  | .atmin d a b c o => some (wRR 0x30 d a b ((4 : BitVec 6) ++ c ++ o))
  | .atmax d a b c o => some (wRR 0x30 d a b ((5 : BitVec 6) ++ c ++ o))
  | .atminu d a b c o => some (wRR 0x30 d a b ((6 : BitVec 6) ++ c ++ o))
  | .atmaxu d a b c o => some (wRR 0x30 d a b ((7 : BitVec 6) ++ c ++ o))
  | .atxch d a b c o => some (wRR 0x30 d a b ((8 : BitVec 6) ++ c ++ o))
  | .atcas d a b c o => some (wRR 0x30 d a b ((9 : BitVec 6) ++ c ++ o))
  | .fence c k => some (wRR 0x31 0 0 0 ((0 : BitVec 6) ++ c ++ k))
  | .wait l s n k => some (wRR 0x31 l s n ((1 : BitVec 6) ++ k))
  | .tbegin a => some (wRR 0x32 0 a 0 ((0 : BitVec 11)))
  | .tcommit => some (wRR 0x32 0 0 0 ((32 : BitVec 11)))
  | .tabort c => some (wRR 0x32 0 0 0 ((2 : BitVec 6) ++ c))
  | .tstamp d => some (wRR 0x32 d 0 0 ((96 : BitVec 11)))
  | .ldc d a => some (wRR 0x33 d a 0 ((0 : BitVec 11)))
  | .stf a b => some (wRR 0x33 0 a b ((32 : BitVec 11)))
  | .binq d a => some (wRR 0x33 d a 0 ((64 : BitVec 11)))
  | .binset a v => some (wRR 0x33 0 a 0 ((48 : BitVec 10) ++ v))
  | .mbbind a n => some (wRR 0x34 0 a 0 ((0 : BitVec 9) ++ n))
  | .mbfree n => some (wRR 0x34 0 0 0 ((8 : BitVec 9) ++ n))
  | .cfgld d a b => some (wRR 0x38 d a b ((0 : BitVec 11)))
  | .cfgchk d a => some (wRR 0x38 d a 0 ((32 : BitVec 11)))
  | .cfgcommit a => some (wRR 0x38 0 a 0 ((64 : BitVec 11)))
  | .launch d a p => some (wRR 0x38 d a 0 ((24 : BitVec 9) ++ p))
  | .param a b n => some (wRR 0x38 0 a b ((32 : BitVec 9) ++ n))
  | .selcfg a n => some (wRR 0x38 0 a 0 ((40 : BitVec 9) ++ n))
  | .phase d a => some (wRR 0x38 d a 0 ((192 : BitVec 11)))
  | .phend a => some (wRR 0x38 0 a 0 ((224 : BitVec 11)))
  | .cancelLaunch d a => some (wRR 0x38 d a 0 ((256 : BitVec 11)))
  | .cancelGraph d a => some (wRR 0x38 d a 0 ((257 : BitVec 11)))
  | .cancelPhase d a => some (wRR 0x38 d a 0 ((258 : BitVec 11)))
  | .cancelJob d a => some (wRR 0x38 d a 0 ((259 : BitVec 11)))
  | .cwait d a => some (wRR 0x38 d a 0 ((288 : BitVec 11)))
  | .cread d a => some (wRR 0x38 d a 0 ((320 : BitVec 11)))
  | .ckpt d a => some (wRR 0x38 d a 0 ((352 : BitVec 11)))
  | .resume a => some (wRR 0x38 0 a 0 ((384 : BitVec 11)))
  | .drain a => some (wRR 0x38 0 a 0 ((416 : BitVec 11)))
  | .cpy d a b => some (wRR 0x38 d a b ((448 : BitVec 11)))
  | .splice d a b => some (wRR 0x39 d a b ((0 : BitVec 11)))
  | .stpin d a => some (wRR 0x39 d a 0 ((32 : BitVec 11)))
  | .stunpin a => some (wRR 0x39 0 a 0 ((64 : BitVec 11)))
  | .stver d a => some (wRR 0x39 d a 0 ((96 : BitVec 11)))
  | .stlook d a b => some (wRR 0x39 d a b ((128 : BitVec 11)))
  | .seqbind d a b => some (wRR 0x3A d a b ((0 : BitVec 11)))
  | .sequnbind a => some (wRR 0x3A 0 a 0 ((32 : BitVec 11)))
  | .seqstep d a => some (wRR 0x3A d a 0 ((64 : BitVec 11)))
  | .csrrd d c => some (wRI 0x3C d 0 ((0 : BitVec 4) ++ c))
  | .csrwr d a c => some (wRI 0x3C d a ((1 : BitVec 4) ++ c))
  | .csrset d a c => some (wRI 0x3C d a ((2 : BitVec 4) ++ c))
  | .csrclr d a c => some (wRI 0x3C d a ((3 : BitVec 4) ++ c))
  | .syscall => some (wRI 0x3C 0 0 ((0xF : BitVec 4) ++ (0 : BitVec 1) ++ (0 : BitVec 6) ++ ((0 : BitVec 5))))
  | .hvcInfo => some (wRI 0x3C 0 0 ((0xF : BitVec 4) ++ (0 : BitVec 1) ++ (1 : BitVec 6) ++ ((0 : BitVec 5))))
  | .hvcYield => some (wRI 0x3C 0 0 ((0xF : BitVec 4) ++ (0 : BitVec 1) ++ (1 : BitVec 6) ++ ((1 : BitVec 5))))
  | .hvcNotice => some (wRI 0x3C 0 0 ((0xF : BitVec 4) ++ (0 : BitVec 1) ++ (1 : BitVec 6) ++ ((2 : BitVec 5))))
  | .hvcDebug => some (wRI 0x3C 0 0 ((0xF : BitVec 4) ++ (0 : BitVec 1) ++ (1 : BitVec 6) ++ ((3 : BitVec 5))))
  | .hvcAttest => some (wRI 0x3C 0 0 ((0xF : BitVec 4) ++ (0 : BitVec 1) ++ (1 : BitVec 6) ++ ((4 : BitVec 5))))
  | .hvcReset => some (wRI 0x3C 0 0 ((0xF : BitVec 4) ++ (0 : BitVec 1) ++ (1 : BitVec 6) ++ ((5 : BitVec 5))))
  | .hvcSwapmap => some (wRI 0x3C 0 0 ((0xF : BitVec 4) ++ (0 : BitVec 1) ++ (1 : BitVec 6) ++ ((6 : BitVec 5))))
  | .eret => some (wRI 0x3C 0 0 ((0xF : BitVec 4) ++ (0 : BitVec 1) ++ (2 : BitVec 6) ++ ((0 : BitVec 5))))
  | .idle => some (wRI 0x3C 0 0 ((0xF : BitVec 4) ++ (0 : BitVec 1) ++ (3 : BitVec 6) ++ ((0 : BitVec 5))))
  | .brk c => some (wRI 0x3C 0 0 ((0xF : BitVec 4) ++ (0 : BitVec 1) ++ (4 : BitVec 6) ++ (c)))
  | .tlbinv a s => some (wRI 0x3C 0 a ((0xF : BitVec 4) ++ (0 : BitVec 1) ++ (5 : BitVec 6) ++ (s ++ (0 : BitVec 2))))
  | .atticSave a => some (wRI 0x3C 0 a ((0xF : BitVec 4) ++ (0 : BitVec 1) ++ (6 : BitVec 6) ++ ((0 : BitVec 5))))
  | .atticRestore a => some (wRI 0x3C 0 a ((0xF : BitVec 4) ++ (0 : BitVec 1) ++ (6 : BitVec 6) ++ ((1 : BitVec 5))))
  | _ => none

/-- The word of a station (R62, R64). -/
def encodeStation : Instr → Option Word32
  | .steer f => some (f.word 0x00)
  | .merge f => some (f.word 0x01)
  | .cmerge f => some (f.word 0x02)
  | .carry f => some (f.word 0x03)
  | .invar f => some (f.word 0x04)
  | .gate f => some (f.word 0x05)
  | .sink f => some (f.word 0x06)
  | .dup f => some (f.word 0x07)
  | .tagnew f => some (f.word 0x08)
  | .tagset f => some (f.word 0x09)
  | .tagrst f => some (f.word 0x0A)
  | .stopgen f => some (f.word 0x0B)
  | .stopadv f => some (f.word 0x0C)
  | .count f => some (f.word 0x0D)
  | .intersect f => some (f.word 0x0E)
  | .union_ f => some (f.word 0x0E)
  | .lim f => some (f.word 0x0F)
  | .iadd f => some (f.word 0x10)
  | .isub f => some (f.word 0x11)
  | .imul f => some (f.word 0x12)
  | .iand f => some (f.word 0x13)
  | .ior f => some (f.word 0x14)
  | .ixor f => some (f.word 0x15)
  | .ishl f => some (f.word 0x16)
  | .ishr f => some (f.word 0x17)
  | .isar f => some (f.word 0x18)
  | .imin f => some (f.word 0x19)
  | .imax f => some (f.word 0x1A)
  | .icmp f => some (f.word 0x1B)
  | .isel f => some (f.word 0x1C)
  | .fadd f => some (f.word 0x20)
  | .fsub f => some (f.word 0x21)
  | .fmul f => some (f.word 0x22)
  | .fma f => some (f.word 0x23)
  | .fms f => some (f.word 0x24)
  | .fnma f => some (f.word 0x25)
  | .fneg f => some (f.word 0x26)
  | .fabs f => some (f.word 0x27)
  | .fmin f => some (f.word 0x28)
  | .fmax f => some (f.word 0x29)
  | .fcmp f => some (f.word 0x2A)
  | .fsel f => some (f.word 0x2B)
  | .fclass f => some (f.word 0x2C)
  | .fscale f => some (f.word 0x2D)
  | .frnd f => some (f.word 0x2E)
  | .frcp f => some (f.word 0x2F)
  | .frsq f => some (f.word 0x30)
  | .fdiv f => some (f.word 0x31)
  | .fsqrt f => some (f.word 0x32)
  | .vred f => some (f.word 0x40)
  | .vbcast f => some (f.word 0x41)
  | .vshuf f => some (f.word 0x42)
  | .vpack f => some (f.word 0x43)
  | .vunpk f => some (f.word 0x44)
  | .vscan f => some (f.word 0x45)
  | .vdot f => some (f.word 0x46)
  | .vext f => some (f.word 0x47)
  | .vins f => some (f.word 0x48)
  | .fcvt f => some (f.word 0x50)
  | .dsenc f => some (f.word 0x51)
  | .dsdec f => some (f.word 0x52)
  | .dscut f => some (f.word 0x53)
  | .qblk f => some (f.word 0x54)
  | .qbmap f => some (f.word 0x55)
  | .mxload f => some (f.word 0x60)
  | .mxdot f => some (f.word 0x61)
  | .mxacc f => some (f.word 0x62)
  | .mxrd f => some (f.word 0x63)
  | .mxclr f => some (f.word 0x64)
  | .mxscale f => some (f.word 0x65)
  | .fexp f => some (f.word 0x70)
  | .fexp2 f => some (f.word 0x71)
  | .flog2 f => some (f.word 0x72)
  | .fmaxrun f => some (f.word 0x73)
  | .lds f => some (f.word 0x80)
  | .sts f => some (f.word 0x81)
  | .agen f => some (f.word 0x82)
  | .gath f => some (f.word 0x83)
  | .scat f => some (f.word 0x84)
  | .rport f => some (f.word 0x85)
  | .ldcs f => some (f.word 0x86)
  | .stfs f => some (f.word 0x87)
  | .pport f => some (f.word 0x89)
  | .ksto f => some (f.word 0x90)
  | .kqry f => some (f.word 0x91)
  | .kmerge f => some (f.word 0x92)
  | .kevict f => some (f.word 0x93)
  | .kmask f => some (f.word 0x94)
  | .kage f => some (f.word 0x95)
  | .rld f => some (f.word 0xA0)
  | .rst f => some (f.word 0xA1)
  | .ramo f => some (f.word 0xA2)
  | .rfence f => some (f.word 0xA3)
  | .bar f => some (f.word 0xB0)
  | .decide f => some (f.word 0xB1)
  | .seqc f => some (f.word 0xB2)
  | .pipec f => some (f.word 0xB3)
  | .strmc f => some (f.word 0xB4)
  | .done f => some (f.word 0xB5)
  | _ => none

/-- The word of a logit instruction (R67, R68). -/
def encodeLogit : Instr → Option Word32
  | .lgin d => some (wLG 0x01 d 0 0 0)
  | .bias d a => some (wLG 0x02 d a 0 0)
  | .pen d a b => some (wLG 0x03 d a b 0)
  | .scl d a b => some (wLG 0x04 d a b 0)
  | .msk d a => some (wLG 0x05 d a 0 0)
  | .clamp d a b => some (wLG 0x06 d a b 0)
  | .topk d a b => some (wLG 0x07 d a b 0)
  | .topp d a b => some (wLG 0x08 d a b 0)
  | .minp d a b => some (wLG 0x09 d a b 0)
  | .smax d a => some (wLG 0x0A d a 0 0)
  | .vmax d a => some (wLG 0x0B d a 0 0)
  | .vsum d a => some (wLG 0x0C d a 0 0)
  | .draw d a => some (wLG 0x0D d a 0 0)
  | .cnt d a => some (wLG 0x0E d a 0 0)
  | .emit a => some (wLG 0x0F 0 a 0 0)
  | .set_ d i => some (wLG 0x10 d 0 0 i)
  | .slds d i => some (wLG 0x11 d 0 0 i)
  | .ssts a i => some (wLG 0x12 0 a 0 i)
  | .br i => some (wLG 0x13 0 0 0 i)
  | .brz a i => some (wLG 0x14 0 a 0 i)
  | .brnz a i => some (wLG 0x15 0 a 0 i)
  | .halt => some (wLG 0x16 0 0 0 0)
  | _ => none

/-- The word of an instruction of any of the three sets; the rows without a word have none. -/
def encode (i : Instr) : Option Word32 :=
  (encodeControl i).or ((encodeStation i).or (encodeLogit i))

end Sys2Proof
end

