-- ==== Sys2Proof/Machine/State.lean ====
section
/-! DEFINITION. Everything the spec gives one Dralith D7 module, as plain data: 64 control cores, 16 partitions, the
tiles, the regions bound to cores, memory and bins, the stitch and recall units, samplers, Tarior ports, the security
processor's registers and power. Each field's docstring ends with the rule that names it and its value at reset. -/

namespace Sys2Proof.Machine

/-! ## Tokens -/

/-- The kind of a token (R27); a STOP carries its nesting level 1 to 7. -/
inductive Kind where
  | data
  | stop (n : Nat)
  | error
  | done
  | param
  | key
  | query
  deriving DecidableEq, Repr

/-- The payload of a token by network (R26): a 64-bit word, 16 W48 lanes, or one bit. -/
inductive Payload where
  | scalar (w : Word)
  | vector (lanes : List W48)
  | ctl (b : Bool)
  deriving DecidableEq, Repr

/-- A token (R26). `hdr` is the burst header of an sd token: block exponent e and n − 1 (R186), zero elsewhere. -/
structure Token where
  seq  : BitVec 8
  iter : BitVec 24
  kind : Kind
  pay  : Payload
  hdr  : BitVec 8 × BitVec 3
  deriving DecidableEq, Repr

/-- A token waiting at a port of a station, in arrival order (R30, R31). -/
structure PortTok where
  st   : Nat
  port : Nat
  tok  : Token
  deriving DecidableEq, Repr

/-- A token that a firing has produced and that waits for credits: its station and output, or every bound output (R35). -/
structure OutTok where
  st  : Nat
  out : Option Nat
  tok : Token
  deriving DecidableEq, Repr

/-- A ready set of a pairing station: one token for each token port, with its port (R32). -/
structure Ready where
  st   : Nat
  toks : List (Nat × Token)
  deriving DecidableEq, Repr

/-! ## Configuration words -/

/-- A shape record (R70). -/
structure Shape where
  base  : BitVec 57
  fmt   : BitVec 6
  rm    : BitVec 2
  ndim  : Nat
  blk   : BitVec 8
  acq   : Option (BitVec 3)
  rel   : Option (BitVec 3)
  ovf   : BitVec 3
  stv   : Bool
  nsat  : Bool
  stitch : BitVec 32
  dims  : List (BitVec 32 × BitVec 32)
  deriving DecidableEq, Repr

/-- One resident configuration of one tile (R47, R154). -/
structure CfgBlock where
  used   : BitVec 16
  stage  : List Nat
  tagb   : List Nat
  ops    : List Word32
  sw     : List (BitVec 16)
  consts : List Word
  qinit  : List Word
  byp    : List Word32
  shapes : List (Nat × Shape)
  deriving DecidableEq, Repr

/-- A tile record as staged (R153), with the physical tile it is placed on (R156). -/
structure TileRec where
  tile  : TileId
  lcol  : Nat
  lrow  : Nat
  rgmask : BitVec 8
  wsrc  : BitVec 57
  blocks : List (Nat × CfgBlock)
  deriving DecidableEq, Repr

/-- An edge-table entry (R152), its ends by physical tile once placed. -/
structure Edge where
  id    : BitVec 12
  cls   : BitVec 2
  ord   : Bool
  net   : BitVec 2
  blk   : Nat
  psrc  : Bool
  ext   : Bool
  xin   : Bool
  side  : BitVec 2
  robsh : Nat
  src   : TileId
  sst   : Nat
  sout  : Nat
  dst   : TileId
  dstSt : Nat
  dport : Nat
  deriving DecidableEq, Repr

/-! ## Counters, launches, regions -/

/-- STATE of a counter (R38). -/
inductive CState where
  | open_ | complete | cancelled
  deriving DecidableEq, Repr

/-- A completion counter (R38). -/
structure Counter where
  state  : CState
  cause  : BitVec 6
  origin : BitVec 10
  cncl   : BitVec 12
  count  : BitVec 32
  deriving DecidableEq, Repr

/-- A counter as reset (R38). -/
def Counter.zero : Counter := ⟨.open_, 0, 0x3FF, 0, 0⟩

/-- The payload of an ERROR, as fields (R29). -/
structure ErrInfo where
  origin : BitVec 10
  tile   : TileId
  cause  : BitVec 6
  deriving DecidableEq, Repr

/-- A launch record (R122), with the copies charged to it before its start and how many of them have landed (R40). -/
structure LaunchRec where
  params : Vector Word 4
  pre0h  : Word
  pre1h  : Word
  pre0v  : BitVec 32
  pre1v  : BitVec 32
  prio   : BitVec 2
  serial : BitVec 32
  charged : Nat
  landed : Nat
  deriving DecidableEq, Repr

/-- A launch record that has left its core and not yet reached the queue (R125), with the register its handle goes to, which
was a mailbox when the launch issued or was not. -/
structure OutRec where
  bslot : BitVec 3
  dest  : Reg
  mbx   : Bool
  record : LaunchRec
  deriving DecidableEq, Repr

/-- A live launch (R40): its number, counter and target, the copies it still awaits, its cancellation, the sources that
have run their round, the stitch pins it holds by tile, list, version slot and version (R308), its phase, and whether the
detector checks it (R349). -/
structure Live where
  seq       : BitVec 8
  serial    : BitVec 32
  params    : Vector Word 4
  lcc       : Counter
  target    : Nat
  copies    : Nat
  cancelled : Option ErrInfo
  started   : List (TileId × Nat)
  pins      : List (TileId × Nat × Nat × BitVec 32)
  phase     : Option PhaseKey
  race      : Bool
  deriving DecidableEq, Repr

/-- What a core's cfgld has staged on a region (R117, R120, R401). -/
structure Staging where
  serial : BitVec 32
  recs   : List TileRec
  edges  : List Edge
  digest : List Byte
  sig    : List Byte
  crcBad : List TileId
  asked  : Bool
  sigOk  : Option Bool
  passed : Bool
  deriving DecidableEq, Repr

/-- What an EXT edge is bound to: a Tarior channel, a sampler, or another piece of a cut graph (R134, R362, R405). -/
inductive ExtEnd where
  | piece (core : Fin 64) (bslot : BitVec 3)
  | tarior (port : Nat) (vc : Nat) (far : BitVec 10)
  | smpIn (n : Nat)
  | smpOut (n : Nat)
  deriving DecidableEq, Repr

/-- A token held outside a region's rectangle (R49, R150, R288): its ingress edge, the copy whose DONE or ERROR it is, its number,
and the destination that this copy of it is for, once the selected configuration's entries of the edge are known (R152). -/
structure Held where
  edge : BitVec 12
  tok  : Token
  copy : Option (Fin 64 × BitVec 16)
  no   : Nat
  goal : Option (TileId × Nat × Nat)
  deriving DecidableEq, Repr

/-- A region bound to a core (R117 to R131). -/
structure Region where
  /-- the control core it is bound to (R113) -/
  core    : Fin 64
  /-- its binding slot on that core (R113) -/
  bslot   : BitVec 3
  /-- its partition (R113) -/
  part    : BitVec 4
  /-- origin tile (R117) -/
  origin  : TileId
  /-- width and height in tiles (R151) -/
  w       : Nat
  h       : Nat
  /-- commit generation, the SERIAL of its graph handle (R113) -/
  serial  : BitVec 32
  /-- a commit has made its words resident (R121) -/
  resident : Bool
  /-- the tiles of its records, in record order, and the edges of the resident image (R152) -/
  tiles   : List TileId
  edges   : List Edge
  /-- LCOL and LROW of each tile, in record order (R153) -/
  lpos    : List (TileId × Nat × Nat)
  /-- selected configuration (R47); 0 after the first commit -/
  sel     : BitVec 2
  /-- LCC target of each configuration (R40) -/
  targets : List Nat
  /-- launch queue FROZEN (R129) -/
  frozen  : Bool
  /-- launch queue, oldest first, at most 16 (R122) -/
  queue   : List LaunchRec
  /-- pending record's parameters (R123) -/
  pending : Vector Word 4
  /-- next launch sequence number (R28) -/
  nextSeq : BitVec 8
  /-- sequence number of the launch that started last in this region, which orders tags by age (R28) -/
  lastSeq : BitVec 8
  /-- launches accepted since the commit, the next SERIAL (R113) -/
  accepted : BitVec 32
  /-- live launches, oldest first, at most 16 (R126) -/
  live    : List Live
  /-- final LCC word of each sequence number (R137) -/
  history : List (BitVec 8 × BitVec 32 × Counter)
  /-- launches removed or cancelled before they had a number, by SERIAL (R136) -/
  gone    : List (BitVec 32 × Counter)
  /-- GCC (R37) -/
  gcc     : Counter
  /-- the epoch is open; it is closing after phend (R131) -/
  epochOpen : Bool
  closing : Bool
  /-- cancel.graph has been applied, and the epoch ends cancelled once the live launches have ended (R43) -/
  cancelling : Bool
  /-- the phase that holds it, its declared launches there, and the launches ended in it (R132) -/
  phase   : Option PhaseKey
  phaseCount : Nat
  phaseDone : Nat
  /-- the phase of the launch that last took each number (R348) -/
  stages  : List (BitVec 8 × PhaseKey)
  /-- a slave piece of a cut graph (R134) -/
  slave   : Bool
  /-- starvation counts of priorities 0, 1 and 2 (R127) -/
  starve  : List Nat
  /-- pending decision (R49) -/
  decision : Option (BitVec 2)
  /-- a reconfiguring commit waits for the live launches to end (R121), or has copied its records in (R165) -/
  commitWait : Bool
  fenced  : Bool
  /-- held staging (R401) -/
  staging : Option Staging
  /-- tokens held at ingress (R49, R150, R165) -/
  ingress : List Held
  /-- what each EXT edge is bound to (R362, R405) -/
  ends    : List (BitVec 12 × ExtEnd)
  /-- a hang was declared and not thawed, and the cycles since a station of it last fired (R387) -/
  hung    : Bool
  quiet   : Nat
  /-- generation of the last checkpoint (R384), and a ckpt that has stopped launch starts and waits (R385) -/
  ckGen   : BitVec 32
  ckpting : Bool
  /-- a drain has frozen it and waits for its launches to end (R386) -/
  draining : Bool
  /-- stage each tile serves (R161), and the balancer's chosen move (R144) -/
  serving : List (TileId × Nat)
  move    : Option (TileId × Nat)
  /-- the balancer's window: tokens in each stage's input queue summed over its cycles, and the cycles; and CYCLE of its
  core when each tile was last moved (R144) -/
  occ     : List Nat
  occTime : Nat
  moved   : List (TileId × Word)
  /-- sequence numbers of the ordered streams, by edge and launch (R157) -/
  ordNext : List ((BitVec 12 × BitVec 8) × BitVec 16)
  /-- copies charged so far, by launch SERIAL and channel, and uncharged DONE tokens waiting for a launch (R288) -/
  chans   : List ((BitVec 32 × BitVec 12) × Nat)
  waiting : List Held
  deriving DecidableEq, Repr

/-! ## Tiles -/

/-- An address generator's walk through its round (R273): the effective record, the group number reached, the groups
of the round, elements counted for DONE, and elements gathered toward a token or a group. -/
structure Walk where
  shape : Shape
  pos   : Nat
  total : Nat
  cnt   : Nat
  elems : List (Option Word)
  open_ : Bool
  deriving DecidableEq, Repr

/-- A station's state for one launch (R200): a phase (carry INIT or LOOP, invar INIT or HOLD), a held token, the
iteration-tag counter, a count, two positions, gathered tokens, accumulator lanes, an AG's walk, and a kept failure. -/
structure Slot where
  st    : Nat
  seq   : BitVec 8
  phase : Nat
  held  : Option Token
  tagc  : Nat
  cnt   : Nat
  pa    : Nat
  pb    : Nat
  buf   : List Token
  lanes : List W48
  walk  : Option Walk
  err   : Option Token
  deriving DecidableEq, Repr

/-- A slot as it opens (R200). -/
def Slot.zero (st : Nat) (seq : BitVec 8) : Slot := ⟨st, seq, 0, none, 0, 0, 0, 0, [], [], none, none⟩

/-- One (macro, row group) of a matrix engine (R235): the cells that are not zero, FMTB, the headers that are not zero. -/
structure RowGroup where
  cells : List (Nat × Byte)
  fmtb  : Bool
  hdrs  : List (Nat × Byte)
  deriving DecidableEq, Repr

/-- One element of the A row buffer (R236): digits, digit count n, block exponent e. -/
structure AElem where
  digits : List Int
  n      : Nat
  e      : Int
  deriving DecidableEq, Repr

/-- An operation slot of the A row buffer (R236), number 0 or 1, filling or full, of mxdot station `st`. -/
structure ASlot where
  slot  : Nat
  st    : Nat
  seq   : BitVec 8
  iter  : BitVec 24
  got   : Nat
  elems : List AElem
  err   : Option ErrInfo
  full  : Bool
  deriving DecidableEq, Repr

/-- A request in a bank's queue (R241, R243, R244). `dot` holds the operation, the row groups still to run, and
whether .ovw is still to be applied (R247); the clears of one firing share a number. -/
inductive BankReq where
  | dot (a : ASlot) (g0 ng nm done : Nat) (ovw bcast : Bool)
  | read (st : Nat) (trig : Token) (g n : Nat) (rm : BitVec 2)
  | clear (id : Nat) (st : Nat) (trig : Token)
  deriving DecidableEq, Repr

/-- An accumulator bank (R237): 128 columns S, their NANF, POISON, and the request queue of 8. -/
structure Bank where
  s      : List (Nat × Int)
  nanf   : List Nat
  poison : Bool
  q      : List BankReq
  deriving DecidableEq, Repr

/-- An empty bank. -/
def Bank.zero : Bank := ⟨[], [], false, []⟩

/-- A matrix engine (R235 to R237). Row groups not listed are zero. -/
structure Matrix where
  rgs   : List ((Nat × Nat) × RowGroup)
  abuf  : List ASlot
  banks : Vector Bank 4
  deriving DecidableEq, Repr

/-- A matrix engine holding nothing. -/
def Matrix.zero : Matrix := ⟨[], [], Vector.replicate 4 Bank.zero⟩

/-- An entry of a recall unit's store (R313); the bins hold the stored bytes. -/
structure REntry where
  key : List Byte
  val : List Byte
  seq : BitVec 32
  pos : Option (BitVec 24)
  age : BitVec 32
  kf  : BitVec 2
  vf  : BitVec 2
  deriving DecidableEq, Repr

/-- A recall unit (R313): live entries, SEQN (none while it still is the SHARD that q15 gives, R315), the mask, the age
setting, and the gather buffers by port. -/
structure Recall where
  entries : List REntry
  seqn    : Option (BitVec 32)
  mmode   : Bool
  tbase   : BitVec 24
  nodes   : List Nat
  aunit   : BitVec 2
  alim    : BitVec 32
  gather  : List (Nat × List Token)
  deriving DecidableEq, Repr

/-- A recall unit as reset by a grant (R315), with SEQN = SHARD. -/
def Recall.zero : Recall := ⟨[], none, false, 0, [], 0, 0, []⟩

/-- Who waits in an MT's wait entries (R281). A core's entry names the source registers that the instruction reads when
it completes. -/
inductive Waiter where
  | ldc (c : Fin 64) (srcs : List Reg) (d : Reg) (dword : Nat) (peek : Bool)
  | stf (c : Fin 64) (srcs : List Reg) (dword : Nat) (v : Word)
  | ldcs (t : TileId) (st : Nat) (req : Token) (any : Bool)
  | stfs (t : TileId) (st : Nat) (seq : BitVec 8) (words : List Word) (last : Token) (stop : Option Token)
  deriving DecidableEq, Repr

/-- A request waiting at an MT for a bin (R281); `sent` is false while it has been refused and waits to be re-sent. -/
structure WaitEntry where
  mt   : TileId
  bin  : Nat
  sseq : BitVec 16
  who  : Waiter
  sent : Bool
  deriving DecidableEq, Repr

/-- A translation a TLB holds (R264): the virtual base and size of its leaf, the physical base, and the permissions. -/
structure TlbEntry where
  va   : Nat
  size : Nat
  pa   : Nat
  r    : Bool
  w    : Bool
  x    : Bool
  deriving DecidableEq, Repr

/-- A remote operation of a station that awaits its reply (R360): the port that its request left by, and whether its launch has been
purged, so that its reply will be discarded (R367). -/
structure ROp where
  st   : Nat
  tok  : Token
  op   : RemoteReq
  via  : Option (Fin 18)
  dead : Bool
  deriving DecidableEq, Repr

/-- A tile (R2, R30 to R36, R47). A tile that is not listed in the state is the empty one. -/
structure Tile where
  id     : TileId
  /-- the resident configurations (R47) -/
  cfgs   : List (Nat × CfgBlock)
  /-- tile registers q0 to q15 (R17, R154); reset 0 -/
  q      : Vector Word 16
  /-- port queues, in arrival order (R30) -/
  queue  : List PortTok
  /-- matching store (R31) -/
  store  : List PortTok
  /-- ready sets formed and not yet fired (R32) -/
  ready  : List Ready
  /-- tokens of firings that wait for credits (R35) -/
  outq   : List OutTok
  /-- station state slots (R200) -/
  slots  : List Slot
  /-- launches a station has purged (R41), and launches a bar is poisoned for (R254) -/
  purged : List (Nat × BitVec 8)
  barBad : List (Nat × BitVec 8)
  /-- last winner of each issue class (R36) -/
  rr     : List (Nat × Nat)
  /-- the matrix engine of a CT (R235) -/
  mx     : Matrix
  /-- the recall unit of an MT (R313) -/
  rcl    : Recall
  /-- the TLB of an MT, 32 entries (R264) -/
  tlb    : List TlbEntry
  /-- remote operations awaiting replies (R360) -/
  remote : List ROp
  /-- the configuration words failed their check, and every firing is refused (R389) -/
  broken : Bool
  /-- credits and packets aborted by a containment reset, waiting for reclaim (R365) -/
  aborted : Bool
  deriving DecidableEq, Repr

/-- The tile at reset: nothing resident, nothing held. -/
def Tile.zero (id : TileId) : Tile :=
  ⟨id, [], Vector.replicate 16 0, [], [], [], [], [], [], [], [], Matrix.zero, Recall.zero, [], [], false, false⟩

/-- A token between its station and its destination port (R148): the edge, its stream number when ordered, the
destination by tile, station and port, the switch output whose buffer holds it followed by those still ahead of it on its
path, the copy whose DONE or ERROR it is (R288), and its number, which the copies of one multicast token share. A token of an
ordered edge into an MT that has left the last buffer stands in the reorder buffer (R157). One on an egress EXT edge goes to its
boundary tile's side, at port 4 and above (R150). -/
structure Flight where
  edge : BitVec 12
  ord  : Option (BitVec 16)
  dst  : TileId
  st   : Nat
  port : Nat
  tok  : Token
  hops : List (TileId × Nat)
  copy : Option (Fin 64 × BitVec 16)
  no   : Nat
  deriving DecidableEq, Repr

/-! ## Memory -/

/-- A bin's state (R267); `staged` names the phase that holds it staged, by partition, module and serial (R348). -/
structure Bin where
  full : Bool
  cnt  : Nat
  decl : Nat
  ovr  : Bool
  seq  : BitVec 16
  staged : Option (BitVec 4 × BitVec 10 × BitVec 32)
  deriving DecidableEq, Repr

/-- A bin at reset: empty, CNT 0, DECL 32 (R267). -/
def Bin.zero : Bin := ⟨false, 0, 32, false, 0, none⟩

/-- The reason of a translation or window fault (R263, R286). -/
inductive XReason where
  | unmapped | perm | malformed | grant | window
  deriving DecidableEq, Repr

/-- A holder that withholds a stream on a fault (R286). -/
inductive Holder where
  | ag (t : TileId) (st : Nat)
  | mem (t : TileId) (st : Nat)
  | quarry (t : TileId) (st : Nat) (engine : Nat)
  | copy (c : Fin 64) (serial : BitVec 16)
  deriving DecidableEq, Repr

/-- An access of a station or engine that waits for its translation (R264), or has met the fault for which its stream is
about to be withheld (R286): the holder, the core that will be told, the tag, and the access. -/
structure WalkReq where
  holder : Holder
  core   : Fin 64
  seq    : BitVec 8
  iter   : BitVec 24
  part   : BitVec 4
  va     : BitVec 57
  write  : Bool
  fault  : Option XReason
  deriving DecidableEq, Repr

/-- A withheld stream (R286): its record is posted or waits at the holder (R382), the access is still withheld or was discarded
with its launch (R289), and the cycles since the fault was detected (R287). -/
structure Hold where
  holder : Holder
  core   : Fin 64
  seq    : BitVec 8
  va     : BitVec 57
  write  : Bool
  reason : XReason
  iter   : BitVec 24
  posted : Bool
  stuck  : Bool
  time   : Nat
  deriving DecidableEq, Repr

/-- A gather stream of a quarry engine (R277, R278). -/
structure Stream where
  tile   : TileId
  st     : Nat
  engine : Nat
  part   : BitVec 4
  trig   : Token
  shape  : Shape
  idx    : BitVec 57
  ixf    : BitVec 2
  row    : Nat
  group  : Nat
  deriving DecidableEq, Repr

/-! ## Control cores -/

/-- What a core is doing: not started, running, halted after a double trap (R372), stopped by brk for the debugger
(R434), or halted by a pre-emption (R391). -/
inductive RunState where
  | off | run | double | brk | preempted
  deriving DecidableEq, Repr

/-- STATE of a mailbox (R79). -/
inductive MbState where
  | unbound | bound | revoked
  deriving DecidableEq, Repr

/-- A mailbox (R104 to R112): its descriptor, credits and receive queue, and the flits read inside the open commit
region, which go back on an abort (R111). -/
structure Mailbox where
  state : MbState
  desc  : Word
  cred  : Nat
  rxq   : List Word
  taken : List Word
  deriving DecidableEq, Repr

/-- An unbound mailbox. -/
def Mailbox.zero : Mailbox := ⟨.unbound, 0, 0, [], []⟩

/-- What a core's outstanding load is: a plain load, which is issued again after a pre-emption; an atomic, which is not; or
a bin's ldc, whose dword has been taken (R270, R392). -/
inductive LoadKind where
  | plain | atomic | bin
  deriving DecidableEq, Repr

/-- What an atomic still has to do at its home (R337, R338): its sub, its operands, its scope and its ordering. -/
structure Rmw where
  op    : BitVec 4
  b     : Word
  e     : Word
  scope : BitVec 3
  ord   : BitVec 2
  deriving DecidableEq, Repr

/-! ## The race detector's agents and clocks (R351) -/

/-- An agent of the race detector (R351). -/
inductive Agent where
  | core (c : Fin 64)
  | region (c : Fin 64) (b : BitVec 3)
  | copies (c : Fin 64)
  | other
  deriving DecidableEq, Repr

/-- A release: its scope, the binding slot of the launch that a copy's release was charged to, the SERIAL of the launch that
made it, and the clocks that it carries (R335, R351). -/
structure Rel where
  scope  : BitVec 3
  via    : Option (BitVec 3)
  launch : Option (BitVec 32)
  clocks : List (Agent × Nat)
  deriving DecidableEq, Repr

/-- The race detector's interval number C and horizon H of one agent (R351), its last release at each scope, the releases of
other agents whose writes it has read and that it has not yet acquired, and those of its own copies that have landed since its
last wait (R142). -/
structure Clock where
  agent : Agent
  c     : Nat
  h     : List (Agent × Nat)
  rel   : List Rel
  seen  : List (Agent × Rel)
  landed : List (Agent × Rel)
  deriving DecidableEq, Repr

/-- The shadow state of a 256-byte sector (R351), the releases that stand before its write or before an earlier one in coherence
order (R334), the launch that wrote it, and the copy that made it with its destination and length (R352). -/
structure Shadow where
  writer : Agent
  ival   : BitVec 32
  atom   : Option (BitVec 3)
  rel    : List (Agent × Rel)
  launch : Option (BitVec 32)
  copy   : Option (BitVec 16 × Nat × Nat)
  deriving DecidableEq, Repr

/-! ## The order of accesses (R332 to R334) -/

/-- A byte's value before a write of memory took its place (R332): the count of writes with that one, the core that made it, if
it was one, and the narrow scope at which it had been performed earlier, with the count then. -/
structure Old where
  home : Nat
  byte : Byte
  at_  : Nat
  by_  : Option (Fin 64)
  near : Option (BitVec 2 × Nat)
  deriving DecidableEq, Repr

/-- How far back a core's loads may still read, in counts of writes (R333): by the scope of its acquires, by its latest load, by
dword that it has read, and by the loads that may stand behind each register. -/
structure Order where
  floors : Vector Nat 5
  last   : Nat
  dwords : List (Nat × Nat)
  regs   : Vector Nat 32
  deriving DecidableEq, Repr

/-- A core that has read nothing. -/
def Order.zero : Order := ⟨Vector.replicate 5 0, 0, [], Vector.replicate 32 0⟩

/-- A load, or an atomic that returns a value, whose data has not yet returned (R80, R101). `mbx` says that its destination
was a mailbox when it issued, and `place` where its flit stands among those that an open region holds (R111). `val` is its
value once it has been performed; until then it reads its bytes at `home`, under the first `older` of the core's outstanding
stores, which are those before it in program order (R94). `rmw` is an atomic's work at its home, `acq` that it acquires,
`check` that the detector checks it, `low` the count of writes that its address depends on (R333), and `via` the port that a remote
one's request left by. -/
structure LoadOp where
  dest  : Reg
  mbx   : Bool
  place : Option Nat
  ea    : Word
  home  : Nat
  size  : Nat
  sext  : Bool
  val   : Option Word
  older : Nat
  isRemote : Bool
  acq   : Bool
  check : Bool
  how   : LoadKind
  rmw   : Option Rmw
  low   : Nat
  via   : Option (Fin 18)
  deriving DecidableEq, Repr

/-- An accepted store not yet performed in memory (R101): virtual address, home address, bytes, whether a peer performs it, the
shadow state that it leaves where the detector checks it, an atomic's work at its home, whether it acquires, whether a commit
region sent it (R345), the narrow scope at which it has been performed, .rgn or .die, with the count of writes then (R336), and the
port that a remote one's request left by. -/
structure StoreOp where
  ea    : Word
  home  : Nat
  bytes : List Byte
  isRemote : Bool
  mark  : Option Shadow
  rmw   : Option Rmw
  acq   : Bool
  region : Bool
  near  : Option (BitVec 2 × Nat)
  via   : Option (Fin 18)
  deriving DecidableEq, Repr

/-- A plain store of this module's memory. -/
def StoreOp.plain (ea : Word) (home : Nat) (bytes : List Byte) (mark : Option Shadow) : StoreOp :=
  ⟨ea, home, bytes, false, mark, none, false, false, none, none⟩

/-- A copy in flight (R139 to R141). `charge` is the launch it is charged to: binding slot, sequence number, SERIAL. -/
structure CopyOp where
  serial : BitVec 16
  src    : BitVec 57
  dst    : BitVec 57
  len    : Nat
  acq    : Option (BitVec 3)
  rel    : Option (BitVec 3)
  chan   : Option (BitVec 12)
  charge : Option (BitVec 3 × BitVec 8 × BitVec 32)
  /-- copies charged to the launch on the channel before it (R288) -/
  nth    : Nat
  /-- CMODE at issue (R349) -/
  check  : Bool
  /-- stores of the core that stand before it and are not yet performed (R141) -/
  after  : Nat
  /-- the interval number of its core's copies at issue, and its core's horizon then: what was released before is ordered before
  its acquire (R142) -/
  since  : Nat
  known  : List (Agent × Nat)
  /-- it has ended, with a cause if it failed, and its DONE or ERROR has not yet been drained (R141) -/
  ended  : Option (Option (BitVec 6))
  deriving DecidableEq, Repr

/-- A copy that has landed: its partition, core and serial, its destination, its release with the slot it was charged to, and the
interval number of its core's copies then (R142, R351). Later copies that it does not stand before by release and acquire have no
order with it. -/
structure Laid where
  part   : BitVec 4
  core   : Fin 64
  serial : BitVec 16
  dst    : Nat
  len    : Nat
  rel    : Option (BitVec 3)
  via    : Option (BitVec 3)
  ival   : Nat
  deriving DecidableEq, Repr

/-- An open commit region (R341, R342): timestamp, checkpoint, read and write sets of 64-byte lines, held stores and held
flits in program order. A load into a mailbox holds the place of its flit until its data returns (R111). `failed` says that a
remote store of the attempt has failed, whose abort waits for the other answers (R370). -/
structure TxRegion where
  ts     : Word
  pc     : Word
  regs   : Vector Word 32
  poison : Vector (Option Word) 32
  reads  : List Nat
  writes : List Nat
  held   : List StoreOp
  flits  : List (Nat × Option Word)
  failed : Bool
  deriving DecidableEq, Repr

/-- A ring of 32-byte records in memory (R307, R352, R382). -/
structure Ring where
  base : BitVec 57
  size : BitVec 12
  head : BitVec 12
  tail : BitVec 12
  deriving DecidableEq, Repr

/-- A ring at reset: SIZE 0. -/
def Ring.zero : Ring := ⟨0, 0, 0, 0⟩

/-- A control core (R75). -/
structure Core where
  /-- g0 to g31; entry 0 reads 0 (R75); reset 0 -/
  regs   : Vector Word 32
  /-- poison marks, each with its load's address (R97); reset none -/
  poison : Vector (Option Word) 32
  /-- program counter (R75); reset the partition's ENTRY -/
  pc     : Word
  /-- whether the core runs (R372, R391, R434); reset not started -/
  run    : RunState
  /-- the partition it belongs to, PART_ID (R79); reset none, set by the supervisor -/
  part   : Option (BitVec 4)
  /-- CYCLE and INSTRET (R79); reset 0 -/
  cycle  : Word
  instret : Word
  /-- ARITH_STAT.DZ and OVF (R85); reset 0 -/
  dz     : Bool
  ovf    : Bool
  /-- outstanding loads, oldest first, at most 16; NL (R101) -/
  loads  : List LoadOp
  /-- outstanding stores, oldest first, at most 32; NS (R101) -/
  stores : List StoreOp
  /-- outstanding copies, oldest first, at most 64; NC (R101) -/
  copies : List CopyOp
  /-- serial of the next copy (R286); reset 0 -/
  copySerial : BitVec 16
  /-- launch records on their way, at most 16; NK (R101, R125) -/
  recs   : List OutRec
  /-- mailboxes 0 to 3, MB_STATE and MB_DESC (R79, R104); reset unbound -/
  mb     : Vector Mailbox 4
  /-- address of the oldest store that failed and is not yet reported, with the number of outstanding stores older than
  it (R97); reset none -/
  sterr  : Option (Word × Nat)
  /-- CPY_STAT V, CAUSE and ADDR (R141); reset 0 -/
  cpyV   : Bool
  cpyCause : BitVec 6
  cpyAddr : BitVec 57
  /-- the open commit region (R341); reset none -/
  tx     : Option TxRegion
  /-- TX_STAT CODE, CAUSE, RERUN (R343); reset 0 -/
  txCode : BitVec 5
  txCause : BitVec 4
  txRerun : BitVec 16
  /-- consecutive REMOTE aborts of the region (R343), and whether the next tbegin is a re-run; reset 0, no -/
  txRemote : Nat
  txAgain : Bool
  /-- the address of the tbegin whose re-run comes next, and the timestamp that it keeps (R342); reset none -/
  txKept : Option (Word × Word)
  /-- TX_FALL.ADDR, bits [63:2] (R343); reset 0 -/
  txFall : BitVec 62
  /-- RACE_CTL GMODE, CMODE, TRAP (R349); reset 0 -/
  gmode  : BitVec 16
  cmode  : Bool
  rtrap  : Bool
  /-- RLOG_BASE, RLOG_CTL and its DROP (R352); reset 0 -/
  rlog   : Ring
  rlogDrop : BitVec 12
  /-- BAL_CTL TH and EN (R144); reset 0 -/
  balTh  : BitVec 4
  balEn  : Bool
  /-- STAGE_CTL.EN (R348); reset 0 -/
  stageEn : Bool
  /-- HANG_CTL EN, HUNG, IVAL and HANG_MAP.BASE (R387); reset 0 -/
  hangEn : BitVec 8
  hung   : BitVec 8
  hangIval : BitVec 24
  hangMap : BitVec 42
  /-- CKPT_BASE.BASE (R384); reset 0 -/
  ckptBase : BitVec 29
  /-- DRAIN_STAT BSLOT, RES, GEN (R384); reset 0 -/
  drSlot : BitVec 3
  drRes  : BitVec 2
  drGen  : BitVec 32
  /-- commit generation that a fresh region takes, by binding slot: past every SERIAL given there (R113, R401); reset 0 -/
  gens   : Vector (BitVec 32) 8
  /-- LPRE0_H, LPRE0_V, LPRE1_H, LPRE1_V (R124); reset 0 -/
  lpre0h : Word
  lpre0v : BitVec 32
  lpre1h : Word
  lpre1v : BitVec 32
  /-- HOLD_LIM.LIM (R287); reset 50 -/
  holdLim : BitVec 14
  /-- RCLQ_BASE and RCLQ_CTL (R307); reset 0 -/
  rclq   : Ring
  /-- TAR_BSTAT.ST (R362) and SMP_BSTAT.ST (R405); reset 0 -/
  tarStat : BitVec 3
  smpStat : BitVec 3
  /-- TRAP_VEC.ADDR, bits [63:2] (R371); reset 0 -/
  trapVec : BitVec 62
  /-- TRAP_PC (R371); reset 0 -/
  trapPc : Word
  /-- FAULT_CAUSE CODE and INTR (R371); reset 0 -/
  fcode  : BitVec 6
  intr   : Bool
  /-- FAULT_ADDR (R371); reset 0 -/
  faddr  : Word
  /-- TRAP_STAT IE, PIE, INH (R371); reset 0 -/
  ie     : Bool
  pie    : Bool
  inh    : Bool
  /-- TRAP_SCR (R371); reset 0 -/
  scr    : Word
  /-- INT_EN.EN (R374); reset 0 -/
  intEn  : BitVec 7
  /-- TIMECMP (R374); reset all ones -/
  timecmp : Word
  /-- FQ_BASE and FQ_CTL (R382); reset 0 -/
  fq     : Ring
  /-- the core's TLB, at most 64 entries (R264); reset empty -/
  tlb    : List TlbEntry
  /-- the idle at PC is waiting and the core is clock-gated (R378); reset no -/
  idling : Bool
  /-- THE MODEL'S OWN: how far back its loads may still read (R333); reset nothing read -/
  ord    : Order
  deriving DecidableEq, Repr

/-- A control core right after core reset, at entry address `pc` (R75 and the Reset columns of the CSR tables). -/
def Core.reset (pc : Word) : Core :=
  { regs := Vector.replicate 32 0, poison := Vector.replicate 32 none, pc, run := .off, part := none,
    cycle := 0, instret := 0, dz := false, ovf := false, loads := [], stores := [], copies := [], copySerial := 0,
    recs := [], mb := Vector.replicate 4 Mailbox.zero, sterr := none, cpyV := false, cpyCause := 0, cpyAddr := 0, tx := none, txCode := 0,
    txCause := 0, txRerun := 0, txRemote := 0, txAgain := false, txKept := none, txFall := 0, gmode := 0, cmode := false,
    rtrap := false, rlog := Ring.zero, rlogDrop := 0, balTh := 0, balEn := false, stageEn := false, hangEn := 0,
    hung := 0, hangIval := 0, hangMap := 0, ckptBase := 0, drSlot := 0, drRes := 0, drGen := 0,
    gens := Vector.replicate 8 0, lpre0h := 0, lpre0v := 0, lpre1h := 0, lpre1v := 0, holdLim := 50, rclq := Ring.zero, tarStat := 0, smpStat := 0,
    trapVec := 0, trapPc := 0, fcode := 0, intr := false, faddr := 0, ie := false, pie := false, inh := false,
    scr := 0, intEn := 0, timecmp := 0xFFFFFFFFFFFFFFFF, fq := Ring.zero, tlb := [], idling := false, ord := Order.zero }

/-! ## Samplers -/

/-- An entry of a sampler, in the order in which its header or token arrived (R406, R427): a run with the tokens it
has and needs and the context it is in, or a token that waits to leave on its region's output edge. -/
structure SmpItem where
  core   : Fin 64
  bslot  : BitVec 3
  edge   : BitVec 12
  seq    : BitVec 8
  iter   : BitVec 24
  slot   : BitVec 12
  need   : Nat
  toks   : List Token
  ctx    : Option (Fin 2)
  out    : Option Token
  deriving DecidableEq, Repr

/-- A refused run whose remaining tokens are discarded (R406). -/
structure SmpSkip where
  core   : Fin 64
  bslot  : BitVec 3
  edge   : BitVec 12
  seq    : BitVec 8
  iter   : BitVec 24
  deriving DecidableEq, Repr

/-- The larder writes a run holds until halt (R415). -/
structure HeldWrites where
  params : List (Nat × Word)
  counts : List (Nat × Word)
  step   : Option (BitVec 32)
  last   : Option (BitVec 18)
  cfull  : Bool
  deriving DecidableEq, Repr

/-- A run context of a sampler (R415): the run's region, tag, larder slot and logits, v0 to v7, s0 to s7, the program
counter, the held writes, the first id emitted and the words executed. -/
structure Ctx where
  core   : Fin 64
  bslot  : BitVec 3
  seq    : BitVec 8
  iter   : BitVec 24
  slot   : BitVec 12
  pslot  : Nat
  logits : List W48
  v      : Vector (List W48) 8
  s      : Vector W48 8
  pc     : Nat
  held   : HeldWrites
  out    : Option Nat
  count  : Nat
  deriving DecidableEq, Repr

/-- A sampler (R404): its 64 program slots, the EXT edges bound to it, its entries, the refused runs being discarded, and
its two run contexts. -/
structure Sampler where
  progs   : List (Nat × List Word32)
  inputs  : List (Fin 64 × BitVec 3 × BitVec 12)
  outputs : List (Fin 64 × BitVec 3 × BitVec 12)
  items   : List SmpItem
  skips   : List SmpSkip
  ctx     : Vector (Option Ctx) 2
  /-- the partition that is out whose run a context holds (R422) -/
  parked  : Vector (Option (BitVec 4)) 2
  deriving DecidableEq, Repr

/-- A sampler at reset: nothing loaded, nothing bound. -/
def Sampler.zero : Sampler := ⟨[], [], [], [], [], Vector.replicate 2 none, Vector.replicate 2 none⟩

/-- Where a larder slot is bound (R412). -/
structure LBind where
  slot  : BitVec 12
  part  : BitVec 4
  smp   : Nat
  pslot : Nat
  deriving DecidableEq, Repr

/-! ## Partitions -/

/-- A piece removed by a splice, on its arena's retirement list (R306). -/
structure Retired where
  core   : Fin 64
  list   : BitVec 16
  mark   : BitVec 32
  vbase  : BitVec 57
  plen   : BitVec 24
  pitch  : BitVec 32
  borrow : Bool
  rdonly : Bool
  tagw   : BitVec 32
  /-- its arena has been initialised again since, and it waits only for room (R293) -/
  freed  : Bool
  deriving DecidableEq, Repr

/-- A phase (R133): the module whose core issued it, its serial, entries, counter, the acknowledgements it awaits, whether it has
started, whether it stages fills (R348), whether phend has closed its open entries (R131), whether it has been cancelled (R43), and
the core that issued it. -/
structure Phase where
  owner   : BitVec 10
  serial  : BitVec 32
  entries : List PhaseEntry
  pcc     : Counter
  acks    : List Acker
  started : Bool
  staging : Bool
  phended : Bool
  cancelled : Bool
  core    : Fin 64
  deriving DecidableEq, Repr

/-- A partition's saved context in the attics (R393, R396): its cores with their regions, its time-shared tiles, the
swap-map bins with their bytes, what its stations and copies withhold or await, its runs at the samplers (R422), what stands in
its reorder buffers, the tiles of its regions that have been reset meanwhile with whether their configuration words passed their
check (R397), whether the supervisor has copied it out to memory (R395), whether it was live when the fabric lost its power (R437),
and the launches, by core and binding slot, that own tokens of a channel lost meanwhile (R362). -/
structure Saved where
  cores   : List (Fin 64 × Core)
  regions : List Region
  tiles   : List Tile
  bins    : List (Nat × Bin)
  bytes   : List (Nat × List Byte)
  waits   : List WaitEntry
  walks   : List WalkReq
  holds   : List Hold
  streams : List Stream
  smps    : Vector Sampler 8
  flight  : List Flight
  lost    : List (TileId × Bool)
  out     : Bool
  awake   : Bool
  cut     : List (Fin 64 × BitVec 3 × List (BitVec 8))
  deriving DecidableEq, Repr

/-- How far a partition's pre-emption has gone (R391). -/
inductive PreState where
  | running | requested | halted
  deriving DecidableEq, Repr

/-- A partition (R390). -/
structure Partition where
  /-- its system image was verified and its cores started (R429); reset no -/
  booted  : Bool
  /-- what the supervisor grants it (R390); reset nothing -/
  grants  : Grants
  /-- DPN (R357); reset 0, set by the supervisor -/
  dpn     : BitVec 12
  /-- ENTRY, CFGKEY and body digest of its system image, and the owner key (R430, R435); reset none -/
  entry   : Word
  cfgKey  : List Byte
  ownerKey : List Byte
  image   : List Byte
  /-- PT_ROOT.ROOT bits [51:12] and PT_LEN.LEN (R262); reset 0 -/
  ptRoot  : BitVec 40
  ptLen   : BitVec 27
  /-- timestamp counter (R347); reset 1 -/
  tstamp  : Word
  /-- STA_BASE.BASE bits [56:16], STA_GEOM NLIST and NBLK (R293); reset 0 -/
  staBase : BitVec 41
  nlist   : BitVec 16
  nblk    : BitVec 24
  /-- retirement list, at most 4,096 (R306); reset empty -/
  retired : List Retired
  /-- version number in each version slot, by list and slot, which the engine keeps (R306); reset 0 -/
  slotVer : List ((BitVec 16 × Nat) × BitVec 32)
  /-- JCC and JCC_TARGET (R135); reset as R38, 0 -/
  jcc     : Counter
  jccTarget : BitVec 32
  /-- cancel.job has been applied, and the job ends cancelled once its live phases have ended (R43); reset no -/
  jobCancel : Bool
  /-- phases, live and ended, and the next phase serial (R113, R133); reset none, 0 -/
  phases  : List Phase
  nextPhase : BitVec 32
  /-- phases of other modules that have named graphs here, been cancelled or published here (R133, R348); reset none -/
  guests  : List Phase
  /-- supervisor notices, oldest first, at most 64 (R379); reset none -/
  notices : List Word
  /-- partition-debug, and the last nonce issued (R434, R435); reset closed, none -/
  debug   : Bool
  nonce   : Option Word
  /-- reset count (R431); reset 0 -/
  resets  : Nat
  /-- cfgchk requests waiting in the security processor's mailbox, at most 4: core and binding slot (R399) -/
  chkq    : List (Fin 64 × BitVec 3)
  /-- pre-emption (R391) and the saved context (R393); reset running, none -/
  pre     : PreState
  saved   : Option Saved
  deriving DecidableEq, Repr

/-- A partition before the supervisor has set it up. -/
def Partition.reset : Partition :=
  { booted := false, grants := Grants.none, dpn := 0, entry := 0, cfgKey := [], ownerKey := [], image := [],
    ptRoot := 0, ptLen := 0, tstamp := 1, staBase := 0, nlist := 0, nblk := 0, retired := [], slotVer := [], jcc := Counter.zero,
    jccTarget := 0, jobCancel := false, phases := [], nextPhase := 0, guests := [], notices := [], debug := false, nonce := none, resets := 0,
    chkq := [], pre := .running, saved := none }

/-! ## Tarior, host, security -/

/-- STATE of a Tarior port (R366). -/
inductive PortState where
  | down | training | up | failed
  deriving DecidableEq, Repr

/-- A packet of a class channel on its way out (R354, R355): its channel, the tile whose station sent it, the flits that have left,
and the payloads of those that wait for credits. -/
structure OutPkt where
  vc    : Nat
  owner : Option TileId
  gone  : Nat
  rest  : List (List Byte)
  deriving DecidableEq, Repr

/-- A Tarior port (R355, R356, R366): its registers, the FSEQ expected next, the failed replays of that flit, and the
packet or vector token being received by channel. A credit of a stream channel stands for one of the 16 flits of the receiving
hub's buffer (R362). -/
structure Port where
  state   : PortState
  peer    : BitVec 10
  crcerr  : BitVec 16
  replay  : BitVec 16
  proterr : BitVec 16
  fseq    : BitVec 12
  tries   : Nat
  partPay : List (Nat × List Byte)
  /-- credits the far end returned, by channel (R355) -/
  creds   : List (Nat × Nat)
  /-- packet traffic is rerouted around it (R364) -/
  rerouted : Bool
  /-- FSEQ of the next flit sent, and the last that the far end has acknowledged (R355) -/
  tseq    : BitVec 12
  acked   : BitVec 12
  /-- the replay buffer: the last 256 flits sent, oldest first, with how often each was replayed (R356) -/
  buffer  : List (BitVec 12 × List Byte × Nat)
  /-- tokens sent on a stream channel that the far end holds: channel, launch, flits not yet credited (R362) -/
  far     : List (Nat × BitVec 8 × Nat)
  /-- what stands in the receive buffers of the stream channels, oldest first: channel, tokens still in it, flits (R362) -/
  rx      : List (Nat × Nat × Nat)
  /-- packets of the class channels that wait for credits, oldest first (R354) -/
  outq    : List OutPkt
  deriving DecidableEq, Repr

/-- A port at reset (R366); its sequence numbers start at 0 in each direction. DESIGN CHOICE: log 99. -/
def Port.zero : Port := ⟨.down, 0x3FF, 0, 0, 0, 0, 0, [], [], false, 0, 0xFFF, [], [], [], []⟩

/-- A mailbox flit or a returned credit on its way to a core of this module (R105, R107). -/
structure MbMsg where
  part  : Option (BitVec 4)
  core  : Fin 64
  mbx   : Nat
  peer  : Word
  value : Word
  deriving DecidableEq, Repr

/-- How a host access completes (R436). -/
inductive HostResp where
  | data (bytes : List Byte)
  | written
  | unsupportedRequest
  deriving DecidableEq, Repr

/-- The security states (R429, R439). -/
inductive Sec where
  | booting | secure | failed
  deriving DecidableEq, Repr

/-! ## Turns -/

/-- Who moves next: a core fetches and executes its next word; a station fires; a sampler context executes its next
logit word; or one of the other steps of the table takes place, at a core, a tile and slot, or a sampler. -/
inductive Turn where
  | core (c : Fin 64)
  | fire (t : TileId) (st : Nat)
  | logit (n : Fin 8) (x : Fin 2)
  | event (c : Fin 64) (t : TileId) (st : Nat) (n : Fin 8) (i : Instr) (x : Input)
  deriving DecidableEq, Repr

/-- What a checkpoint keeps of one tile (R384): a CT's banks; an MT's recall unit, and its bins by number within the MT and
their bytes. -/
structure CkBlock where
  banks : Vector Bank 4
  rcl   : Recall
  bins  : List (Nat × Bin)
  bytes : List Byte
  deriving DecidableEq, Repr

/-- A checkpoint as the device wrote it (R384): SERIAL, GEN, the bytes of its area behind the header, and what they stand
for, in record order. -/
structure Snapshot where
  serial : BitVec 32
  gen    : BitVec 32
  area   : List Byte
  blocks : List CkBlock
  deriving DecidableEq, Repr

/-- The state of one module. -/
structure State where
  /-- number of this module in the domain (R79); reset 0 -/
  module  : BitVec 10
  /-- fused-off tiles, FUSE_MAP (R147); reset none -/
  fused   : List TileId
  /-- the 64 control cores, 16 × die + core (R79) -/
  cores   : Vector Core 64
  /-- the 16 partitions (R390) -/
  parts   : Vector Partition 16
  /-- regions, staged or resident (R117) -/
  regions : List Region
  /-- the tiles that hold anything (R47) -/
  tiles   : List Tile
  /-- tokens between stations (R148) -/
  flight  : List Flight
  /-- memory, by home address (R259 to R261): physical addresses below 2^52, window addresses above -/
  mem     : List Host.Cell
  /-- bins that are not at reset, by window offset / 256 (R267) -/
  bins    : List (Nat × Bin)
  /-- requests waiting for bins (R281) -/
  waits   : List WaitEntry
  /-- page walks in flight for stations (R264) -/
  walks   : List WalkReq
  /-- withheld streams and their records (R286, R382) -/
  holds   : List Hold
  /-- gather streams of the quarry engines (R278) -/
  streams : List Stream
  /-- the quarry engines' TLBs of 1,024 entries (R264), by engine number 8 × die + engine, and the hub's of 1,024 (R357); each
  entry with its partition -/
  qtlb    : List (Nat × List (BitVec 4 × TlbEntry))
  hubTlb  : List (BitVec 4 × TlbEntry)
  /-- mailbox flits and credits on their way (R105, R107) -/
  flits   : List MbMsg
  credits : List MbMsg
  /-- messages sent to other modules -/
  sent    : List Sent
  /-- the eight samplers (R404) and the larder slots bound to them (R412) -/
  smps    : Vector Sampler 8
  larder  : List LBind
  /-- the 18 Tarior ports (R366), and the supervisor's routing of the packet classes by target module (R354); reset none -/
  ports   : Vector Port 18
  routes  : List (BitVec 10 × Fin 18)
  /-- the credits that the aborted packets of a reset tile hold: tile, port, channel, flits (R365) -/
  owed    : List (TileId × Fin 18 × Nat × Nat)
  /-- the race detector's sectors and clocks (R351) -/
  shadow  : List (Nat × Shadow)
  clocks  : List Clock
  /-- copies that have landed (R142) -/
  laid    : List Laid
  /-- security state and vendor-debug (R429, R434); reset BOOTING, closed -/
  sec     : Sec
  vendor  : Bool
  /-- power state and a change asked for (R437, R440); reset P3, none -/
  power   : Power
  powerAsk : Option Power
  /-- measurement registers MR0 to MR19, 64 bytes each (R431); reset zero -/
  mrs     : List (List Byte)
  /-- PWR_GRANT: each die's GRANT, CAP and WIN; the cap of the next window (R438, R440); reset 0, 2400, 0 -/
  pwrGrant : Vector (BitVec 12) 4
  pwrCap  : BitVec 12
  pwrWin  : BitVec 32
  /-- a vendor's debug token has been accepted and waits for a pre-emption to end (R440) -/
  vendorAsk : Bool
  /-- the partition whose request the security processor served last (R399); reset 15 -/
  verified : BitVec 4
  /-- SPDM responses and host completions given, oldest first (R433, R436) -/
  spdm    : List SpdmResp
  hostOut : List HostResp
  /-- writes of virtual functions to their doorbells, oldest first: function, offset and bytes (R436) -/
  doorbells : List (BitVec 4 × Nat × List Byte)
  /-- DOUBLE notices posted to the supervisor (R372) -/
  doubles : List (Fin 64)
  /-- THE MODEL'S OWN: what the areas that ckpt wrote stand for, newest first; their layout is the device's (R384) -/
  ckpts   : List Snapshot
  /-- THE MODEL'S OWN: writes of memory made so far, and the bytes they replaced, newest first, which a load that nothing orders
  behind the write may still read (R332, R334) -/
  writes  : Nat
  olds    : List Old
  /-- THE MODEL'S OWN: the core, tile, station and sampler context that act -/
  cur     : Fin 64
  tile    : TileId
  st      : Nat
  smp     : Fin 8
  ctx     : Fin 2
  /-- THE MODEL'S OWN: what a step without a word reads from outside -/
  input   : Input
  /-- THE MODEL'S OWN: turns taken before any other -/
  agenda  : List Turn
  /-- THE MODEL'S OWN: counts the free values drawn -/
  fresh   : Nat
  /-- THE MODEL'S OWN: numbers the tokens that stations send and that come in at an ingress (R148, R152) -/
  sentNo  : Nat
  /-- THE MODEL'S OWN: how much of what was sent the hub has formed packets of (R354) -/
  packed  : Nat
  deriving DecidableEq, Repr

/-- Right after power-on (R429): BOOTING, closed, P3, nothing granted, no core started, memory unwritten, every
register at its Reset column's value. DESIGN CHOICE: log 2. DESIGN CHOICE: log 4. -/
def State.reset : State :=
  { module := 0, fused := [], cores := Vector.replicate 64 (Core.reset 0), parts := Vector.replicate 16 Partition.reset,
    regions := [], tiles := [], flight := [], mem := [], bins := [], waits := [], walks := [], holds := [],
    streams := [], qtlb := [], hubTlb := [], flits := [], credits := [], sent := [],
    smps := Vector.replicate 8 Sampler.zero, larder := [], ports := Vector.replicate 18 Port.zero, owed := [], routes := [], shadow := [],
    clocks := [], laid := [], sec := .booting, vendor := false, power := .p3, powerAsk := none,
    mrs := List.replicate 20 (List.replicate 64 0), pwrGrant := Vector.replicate 4 0, pwrCap := 2400, pwrWin := 0,
    verified := 15, vendorAsk := false, spdm := [], hostOut := [], doorbells := [], doubles := [], ckpts := [], writes := 0,
    olds := [], cur := 0, tile := ⟨0, 0, 0⟩, st := 0, smp := 0, ctx := 0, input := Input.none, agenda := [], fresh := 0,
    sentNo := 0, packed := 0 }

/-! ## Stops -/

/-- Why the machine stops with a fault. -/
inductive Fault where
  /-- Raised by no step of the spec: the D7 reports every failure through traps, statuses and ERROR tokens. Safe. -/
  | none_
  deriving DecidableEq, Repr

/-- Why an instruction is refused. -/
inductive Refusal where
  /-- Raised by exec for an instruction that has no meaning yet. Safe: the model stops where the hardware goes on. -/
  | notModelled (mnemonic : String)
  deriving DecidableEq, Repr

end Sys2Proof.Machine
end

