-- ==== Sys2Proof/Machine/Ops.lean ====
section
/-! DEFINITION. The shared operations of the machine: keyed lists, memory and its canonical form, the address map and
the page walk, traps and the return from them, commit-region aborts, register reads and writes through the mailboxes,
and how a control instruction issues, waits and retires. -/

namespace Sys2Proof.Machine

/-- What an instruction answers. -/
abbrev Out := Host.Outcome State Fault Refusal

/-! ## Keyed lists -/

/-- The value under a key, or a default. -/
def lookupD {κ α : Type} [DecidableEq κ] (l : List (κ × α)) (k : κ) (d : α) : α :=
  ((l.find? (fun p => p.1 = k)).map Prod.snd).getD d

/-- The list with one key's value replaced. -/
def assign {κ α : Type} [DecidableEq κ] (l : List (κ × α)) (k : κ) (v : α) : List (κ × α) :=
  (k, v) :: l.filter (fun p => p.1 ≠ k)

/-- The first element that satisfies `p`, replaced through `f`. -/
def updFirst {α : Type} (p : α → Bool) (f : α → α) : List α → List α
  | [] => []
  | x :: xs => if p x then f x :: xs else x :: updFirst p f xs

/-- The list without its first element that satisfies `p`. -/
def dropFirst {α : Type} (p : α → Bool) : List α → List α
  | [] => []
  | x :: xs => if p x then xs else x :: dropFirst p xs

/-- A vector with each entry replaced through its number. -/
def mapEach {α β : Type} {n : Nat} (v : Vector α n) (f : Fin n → α → β) : Vector β n :=
  ⟨⟨(List.finRange n).map fun i => f i v[i]⟩, by simp⟩

/-- A vector with each entry replaced. -/
def mapAll {α β : Type} {n : Nat} (v : Vector α n) (f : α → β) : Vector β n := mapEach v fun _ x => f x

/-! ## The acting core -/

/-- The core that acts. -/
def State.core (s : State) : Core := s.cores[s.cur]

/-- The state with the acting core replaced. -/
def State.setCore (s : State) (c : Core) : State := { s with cores := s.cores.set s.cur.val c s.cur.isLt }

/-- The state with any core replaced. -/
def State.setCoreAt (s : State) (i : Fin 64) (c : Core) : State := { s with cores := s.cores.set i.val c i.isLt }

/-- The number of the partition the acting core belongs to; a core of none counts as partition 0's, whose grants then
decide (R79). DESIGN CHOICE: log 21. -/
def State.pid (s : State) : BitVec 4 := s.core.part.getD 0

/-- A partition by number. -/
def State.part (s : State) (p : BitVec 4) : Partition := s.parts[p.toNat]'p.isLt

/-- The state with a port replaced. -/
def State.setPort (s : State) (p : Fin 18) (x : Port) : State := { s with ports := s.ports.set p.val x p.isLt }

/-- The state with a partition replaced. -/
def State.setPart (s : State) (p : BitVec 4) (x : Partition) : State := { s with parts := s.parts.set p.toNat x p.isLt }

/-- The die of a core (R79). -/
def dieOf (i : Fin 64) : BitVec 2 := BitVec.ofNat 2 (i.val / 16)

/-- The free value of this step. -/
def State.draw (s : State) : Nat × State := (s.fresh, { s with fresh := s.fresh + 1 })

/-! ## Memory -/

/-- What a byte that nothing has written reads as. DESIGN CHOICE: the manual gives no contents (log 1). -/
def unlisted : Byte := 0

/-- The byte at a home address. -/
def memGet : List Host.Cell → Nat → Byte
  | [], _ => unlisted
  | (k, v) :: m, a => if a = k then v else memGet m a

/-- Writing one byte keeps the list rising by address and free of entries that an unlisted address would read as. -/
def memSet : List Host.Cell → Nat → Byte → List Host.Cell
  | [], a, v => if v = unlisted then [] else [(a, v)]
  | (k, x) :: m, a, v =>
    if a < k then (if v = unlisted then (k, x) :: m else (a, v) :: (k, x) :: m)
    else if a = k then (if v = unlisted then m else (a, v) :: m)
    else (k, x) :: memSet m a v

/-- The canonical form of memory: addresses strictly rising, no entry equal to what an unlisted address reads as. -/
def memWf : List Host.Cell → Bool
  | [] => true
  | [(_, v)] => v != unlisted
  | (k, v) :: (k', v') :: m => v != unlisted && decide (k < k') && memWf ((k', v') :: m)

/-- The canonical form of a state's memory. -/
abbrev Memory.wf (s : State) : Bool := memWf s.mem

/-- `n` bytes from a home address. -/
def memGets (m : List Host.Cell) (a : Nat) : Nat → List Byte
  | 0 => []
  | n + 1 => memGet m a :: memGets m (a + 1) n

/-- Bytes written from a home address upward. -/
def memSets (m : List Host.Cell) (a : Nat) : List Byte → List Host.Cell
  | [] => m
  | b :: bs => memSets (memSet m a b) (a + 1) bs

/-- The number that bytes hold, least significant first (R6). -/
def leNat : List Byte → Nat
  | [] => 0
  | b :: bs => b.toNat + 256 * leNat bs

/-- The low `n` bytes of a number, least significant first (R6). -/
def leBytes : Nat → Nat → List Byte
  | 0, _ => []
  | n + 1, v => BitVec.ofNat 8 v :: leBytes n (v / 256)

/-- A dword of memory (R6). -/
def memDword (m : List Host.Cell) (a : Nat) : Word := BitVec.ofNat 64 (leNat (memGets m a 8))

/-- The 64-byte line of an address (R342). -/
def lineOf (a : Nat) : Nat := a / 64

/-- The lines that an access touches. -/
def linesOf (a n : Nat) : List Nat :=
  if n = 0 then [] else (List.range ((a + n - 1) / 64 - a / 64 + 1)).map (· + a / 64)

/-! ## The address map (R259 to R261, R368) -/

/-- Bases of the windows (R259). -/
def vaultBase : Nat := 0x0100000000000000
def spadBase : Nat := 0x0110000000000000
def larderBase : Nat := 0x0120000000000000
def peerBase : Nat := 0x0180000000000000
/-- Physical base of the scratchpad aperture (R368). -/
def apertureBase : Nat := 0x2000000000000

/-- The MT that a scratchpad offset names (R260). -/
def spadTile (off : Nat) : TileId :=
  ⟨BitVec.ofNat 2 (off / 2 ^ 27), BitVec.ofNat 5 (off / 2 ^ 22), BitVec.ofNat 4 (off / 2 ^ 18)⟩

/-- The scratchpad offset at which an MT begins (R260). -/
def tileOff (t : TileId) : Nat := t.die.toNat * 2 ^ 27 + t.col.toNat * 2 ^ 22 + t.row.toNat * 2 ^ 18

/-- The windows of the partition address map (R259). -/
inductive Window where
  | translated | vault | spad | larder | peer
  deriving DecidableEq, Repr

/-- The window an address lies in; none between windows (R259). -/
def windowOf (a : Nat) : Option Window :=
  if a < vaultBase then some .translated
  else if a < vaultBase + 2 ^ 32 then some .vault
  else if spadBase ≤ a ∧ a < spadBase + 2 ^ 29 then some .spad
  else if larderBase ≤ a ∧ a < larderBase + 2 ^ 29 then some .larder
  else if peerBase ≤ a ∧ a < 2 ^ 57 then some .peer
  else none

/-- A tile is granted to a partition and is not fused off (R3, R390). -/
def State.hasTile (s : State) (p : BitVec 4) (t : TileId) : Bool :=
  (s.part p).grants.tiles.contains t && !s.fused.contains t

/-- A bin of an MT is granted to a partition (R390, R394): every bin of its own MT; of a time-shared one, those of the swap
map and those it holds outside the run. -/
def State.hasBin (s : State) (p : BitVec 4) (t : TileId) (k : Nat) : Bool :=
  let g := (s.part p).grants
  match g.swapMaps.find? (·.1 = t) with
  | none => true
  | some q => decide (q.2.1 ≤ k ∧ k < q.2.1 + q.2.2) || g.bins.any fun b => b.1 == t && decide (b.2.1 ≤ k ∧ k < b.2.1 + b.2.2)

/-- The bytes of a partition's stitch arena (R293): first address and length; none when NLIST is 0. -/
def Partition.arena (x : Partition) : Option (Nat × Nat) :=
  if x.nlist = 0 then none
  else some (x.staBase.toNat * 2 ^ 16, (x.nlist.toNat * 64 + 511) / 512 * 512 + x.nblk.toNat * 512)

/-- An address lies in some partition's arena, which only its stitch engine writes (R293). -/
def State.inArena (s : State) (p : BitVec 4) (a n : Nat) : Bool :=
  match (s.part p).arena with
  | none => false
  | some (b, len) => decide (a < b + len) && decide (b < a + n)

/-- The resource that an untranslated address names is granted to the partition (R93, R259, R260, R293). -/
def State.granted (s : State) (p : BitVec 4) (w : Window) (a n : Nat) (write : Bool) : Bool :=
  match w with
  | .translated => true
  | .vault => (s.part p).grants.vaults.contains ((a - vaultBase) / 2 ^ 25) && !(write && s.inArena p a n)
  | .spad => (spadTile (a - spadBase)).isMT && s.hasTile p (spadTile (a - spadBase)) &&
      s.hasBin p (spadTile (a - spadBase)) ((a - spadBase) / 256 % 1024)
  | .larder => (s.part p).grants.larder.contains ((a - larderBase) / 2 ^ 17)
  | .peer => decide ((a / 2 ^ 45) % 1024 < 768) && decide ((a / 2 ^ 45) % 1024 ≠ s.module.toNat)

/-- Physical space that exists (R261, R368). -/
def physExists (pa n : Nat) : Bool :=
  if pa < 2 ^ 40 then decide (pa % 2 ^ 37 + n ≤ 80 * 2 ^ 30)
  else decide (2 ^ 48 ≤ pa ∧ pa + n ≤ apertureBase) || decide (apertureBase ≤ pa ∧ pa + n ≤ apertureBase + 2 ^ 29)

/-- A physical range lies within the partition's grants (R261, R263); the aperture follows the MT's grant (R368). -/
def State.physOk (s : State) (p : BitVec 4) (pa n : Nat) : Bool :=
  if apertureBase ≤ pa then
    decide (pa + n ≤ apertureBase + 2 ^ 29) && s.hasTile p (spadTile (pa - apertureBase))
  else physExists pa n && (s.part p).grants.phys.any (fun r => decide (r.1 ≤ pa ∧ pa + n ≤ r.2))

/-- The home of a physical address: the aperture names scratchpad bytes (R368). -/
def homeOf (pa : Nat) : Nat := if apertureBase ≤ pa then pa - apertureBase + spadBase else pa

/-- A home that the scratchpad aperture leads to is granted as an access to the scratchpad window is (R259, R368). -/
def State.binOk (s : State) (p : BitVec 4) (home n : Nat) : Bool := windowOf home != some .spad || s.granted p .spad home n false

/-- A home is still granted to the partition whose access goes there (R3, R390). -/
def State.homeOk (s : State) (p : BitVec 4) (home n : Nat) : Bool :=
  match windowOf home with
  | some .translated => s.physOk p home n
  | some w => s.granted p w home n false
  | none => false

/-! ## The page walk (R262 to R264) -/

/-- A page table entry's fields (R263). -/
def pteV (e : Word) : Bool := e.getLsbD 0
def pteT (e : Word) : Bool := e.getLsbD 1
def pteR (e : Word) : Bool := e.getLsbD 2
def pteW (e : Word) : Bool := e.getLsbD 3
def pteX (e : Word) : Bool := e.getLsbD 4
def ptePA (e : Word) : Nat := (e.toNat / 2 ^ 8 % 2 ^ 44) * 2 ^ 8

/-- A reserved bit of an entry is set (R263). -/
def pteRsv (e : Word) : Bool := e.extractLsb' 5 3 != 0 || e.extractLsb' 52 12 != 0

/-- Bytes that a leaf of a level maps (R262). -/
def leafSize : Nat → Nat
  | 0 => 2 ^ 30
  | 1 => 2 ^ 21
  | _ => 2 ^ 16

/-- Whether an entry is malformed at its level (R263, R368). -/
def pteMalformed (level : Nat) (e : Word) : Bool :=
  pteRsv e || (pteT e && level == 2) ||
  (pteT e && level == 0 && ptePA e % 4096 != 0) ||
  (!pteT e && ptePA e % leafSize level != 0) ||
  (pteW e && !pteR e) ||
  (!pteT e && decide (ptePA e < apertureBase + 2 ^ 29 ∧ apertureBase < ptePA e + leafSize level) &&
    (level != 2 || !(spadTile (ptePA e - apertureBase)).isMT))

/-- One level of the walk, then the levels below (R263): a leaf, or the first fault met. -/
def State.walkFrom (s : State) (p : BitVec 4) (va : Nat) : Nat → Nat → Nat → Except XReason TlbEntry
  | 0, _, _ => .error .malformed
  | fuel + 1, level, table =>
    let idx := match level with
      | 0 => va / 2 ^ 30 % 2 ^ 26
      | 1 => va / 2 ^ 21 % 2 ^ 9
      | _ => va / 2 ^ 16 % 2 ^ 5
    let e := memDword s.mem (homeOf (table + 8 * idx))
    if !pteV e || (level == 0 && decide ((s.part p).ptLen.toNat ≤ idx)) then .error .unmapped
    else if pteMalformed level e then .error .malformed
    else if pteT e then
      if s.physOk p (ptePA e) (if level = 0 then 4096 else 256) then s.walkFrom p va fuel (level + 1) (ptePA e)
      else .error .grant
    else if s.physOk p (ptePA e) (leafSize level) then
      .ok ⟨va / leafSize level * leafSize level, leafSize level, ptePA e, pteR e, pteW e, pteX e⟩
    else .error .grant

/-- The walk of a virtual address through its partition's table (R262, R263). The root is checked against the grants
before any entry is read. -/
def State.walk (s : State) (p : BitVec 4) (va : Nat) : Except XReason TlbEntry :=
  let root := (s.part p).ptRoot.toNat * 4096
  if s.physOk p root (8 * max 1 (s.part p).ptLen.toNat) then s.walkFrom p va 3 0 root else .error .grant

/-- A TLB's entry for an address (R264). -/
def tlbFind (tlb : List TlbEntry) (va : Nat) : Option TlbEntry :=
  tlb.find? (fun e => decide (e.va ≤ va ∧ va < e.va + e.size))

/-- Installing a translation in a TLB of `cap` entries; the oldest leaves. DESIGN CHOICE: log 13. -/
def tlbAdd (tlb : List TlbEntry) (cap : Nat) (e : TlbEntry) : List TlbEntry := (e :: tlb).take cap

/-- What an access needs of its page (R263). -/
inductive Need where
  | read | write | both | exec
  deriving DecidableEq, Repr

/-- A leaf gives the permission an access needs (R263, R338). -/
def TlbEntry.gives (e : TlbEntry) : Need → Bool
  | .read => e.r
  | .write => e.w
  | .both => e.r && e.w
  | .exec => e.x

/-- The translation of a virtual address for an access: from the TLB, else by a walk, whose leaf is then installed. -/
def State.translate (s : State) (p : BitVec 4) (tlb : List TlbEntry) (va : Nat) (need : Need) :
    Except XReason (Nat × Option TlbEntry) :=
  match tlbFind tlb va with
  | some e => if e.gives need then .ok (homeOf (e.pa + (va - e.va)), none) else .error .perm
  | none =>
    match s.walk p va with
    | .error r => .error r
    | .ok e => if e.gives need then .ok (homeOf (e.pa + (va - e.va)), some e) else .error .perm

/-! ## Trap causes (R82, R115, R302, R343, R352, R373) -/

def tILLEGAL : BitVec 6 := 0x01
def tFETCHALIGN : BitVec 6 := 0x02
def tFETCHFAULT : BitVec 6 := 0x03
def tLDALIGN : BitVec 6 := 0x04
def tSTALIGN : BitVec 6 := 0x05
def tLDFAULT : BitVec 6 := 0x06
def tSTFAULT : BitVec 6 := 0x07
def tADDR : BitVec 6 := 0x08
def tCSRNONE : BitVec 6 := 0x09
def tCSRPRIV : BitVec 6 := 0x0A
def tMBUNBOUND : BitVec 6 := 0x0B
def tMBSTATE : BitVec 6 := 0x0C
def tMBDENY : BitVec 6 := 0x0D
def tPOISONREG : BitVec 6 := 0x0E
def tSTERR : BitVec 6 := 0x0F
def tHANDLE : BitVec 6 := 0x10
def tCFGSTATE : BitVec 6 := 0x11
def tSTPIN : BitVec 6 := 0x12
def tTXABORT : BitVec 6 := 0x13
def tRACE : BitVec 6 := 0x14
def tSYSCALL : BitVec 6 := 0x15
def tBRK : BitVec 6 := 0x16
def tPRIV : BitVec 6 := 0x17

/-! ## Taking a trap -/

/-- The core whose bin request waits in a wait entry (R281). -/
def Waiter.core? : Waiter → Option (Fin 64)
  | .ldc c .. => some c
  | .stf c .. => some c
  | _ => none

/-- An instruction that waits without effect is abandoned: its wait entry is given up, and a waiting ckpt no longer
stops launch starts (R81, R281, R385). -/
def State.abandon (s : State) (c : Fin 64) : State :=
  { s.setCoreAt c { s.cores[c] with idling := false } with
    waits := s.waits.filter (·.who.core? ≠ some c),
    regions := s.regions.map fun (r : Region) => if r.core = c then { r with ckpting := false } else r }

/-- Trap entry (R372): the saved PC, cause and address are recorded, interrupts are disabled and the handler entered;
with no handler, or inside one, the core halts and a DOUBLE notice goes to the supervisor. -/
def State.enterTrap (s0 : State) (pc : Word) (intr : Bool) (code : BitVec 6) (addr : Word) : State :=
  let s := s0.abandon s0.cur
  let c := s.core
  if c.inh || c.trapVec == 0 then
    { s.setCore { c with run := .double } with doubles := s.doubles ++ [s.cur] }
  else
    s.setCore { c with trapPc := pc, fcode := code, intr, faddr := addr, pie := c.ie, ie := false, inh := true,
                       pc := c.trapVec ++ (0 : BitVec 2) }

/-! ## Commit-region aborts (R343) -/

/-- A load whose value goes nowhere any more. -/
def LoadOp.drop (l : LoadOp) : LoadOp := { l with dest := 0, mbx := false, place := none }

/-- Credits that come back to a mailbox; a revoked or freed one takes none (R108, R109). -/
def Mailbox.refund (m : Mailbox) (n : Nat) : Mailbox := if m.state = .bound then { m with cred := m.cred + n } else m

/-- Discards an open region: held stores and flits go, flits read go back to their queues in order, credits of held
flits come back, and the checkpoint is restored (R111, R343). -/
def Core.rollback (c : Core) (x : TxRegion) : Core :=
  { c with regs := x.regs, poison := x.poison, pc := x.pc, tx := none, loads := c.loads.map LoadOp.drop,
           mb := mapEach c.mb fun i m =>
             Mailbox.refund { m with rxq := m.taken ++ m.rxq, taken := [] } (x.flits.filter (fun f => f.1 = i.val)).length }

/-- 16-bit saturating increment (R343). -/
def incSat16 (b : BitVec 16) : BitVec 16 := if b = 0xFFFF then b else b + 1

/-- The abort of a core's open region with a cause of R343, before any trap: rollback, TX_STAT, the timestamp that a re-run
keeps (R342), and the fallback's TXABORT left to the caller. -/
def Core.abort (c : Core) (x : TxRegion) (cause : BitVec 4) (again : Bool) : Core :=
  { c.rollback x with txCause := cause, txRerun := incSat16 c.txRerun, txAgain := again,
                      txKept := if again then some (x.pc, x.ts) else none,
                      txRemote := if cause = 4 then c.txRemote + 1 else 0 }

/-- An abort that takes the fallback (R343): TX_FALL when it holds an address, else TXABORT at the tbegin. -/
def State.fallback (s : State) (x : TxRegion) (cause : BitVec 4) : State :=
  let c := { s.core.abort x cause false with txRemote := 0 }
  if c.txFall = 0 then
    (s.setCore c).enterTrap x.pc false tTXABORT (BitVec.ofNat 64 (cause.toNat + 16 * c.txCode.toNat))
  else s.setCore { c with pc := c.txFall ++ (0 : BitVec 2) }

/-- The abort of the acting core's region with a cause (R343). DEDUCED: log 78. -/
def State.txAbort (s : State) (cause : BitVec 4) : State :=
  match s.core.tx with
  | none => s
  | some x =>
    if cause = 1 ∨ cause = 7 ∨ (cause = 4 ∧ s.core.txRemote < 7) then s.setCore (s.core.abort x cause true)
    else s.fallback x cause

/-- A synchronous trap (R82, R372). Inside a commit region it aborts the region with TRAP and is taken at the tbegin
with the checkpoint's registers (R344). -/
def State.trap (s : State) (code : BitVec 6) (addr : Word) : State :=
  match s.core.tx with
  | none => s.enterTrap s.core.pc false code addr
  | some x => (s.setCore (s.core.abort x 6 true)).enterTrap x.pc false code addr

/-- The return from a trap (R378). -/
def State.leaveTrap (s : State) : State :=
  let c := s.core
  if c.trapPc.extractLsb' 0 2 ≠ 0 then s.trap tFETCHALIGN c.trapPc
  else s.setCore { c with ie := c.pie, inh := false, pc := c.trapPc, instret := c.instret + 1 }

/-! ## Memory writes and commit regions (R342) -/

/-- Other cores' open regions that have read a line being written abort with CONFLICT (R342). -/
def State.conflicts (s : State) (by_ : Option (Fin 64)) (lines : List Nat) : State :=
  { s with cores := mapEach s.cores fun i c =>
      match c.tx with
      | none => c
      | some x =>
        if by_ ≠ some i ∧ x.reads.any (fun l => lines.contains l) then c.abort x 1 true else c }

/-- The bytes that a write replaces, kept for loads that may still read them (R332). -/
def State.replaced (s : State) (by_ : Option (Fin 64)) (near : Option (BitVec 2 × Nat)) (home n : Nat) : List Old :=
  (List.range n).map fun i => ⟨home + i, memGet s.mem (home + i), s.writes + 1, by_, near⟩

/-- A write becomes visible in memory, by a core or by another agent, performed at a narrow scope before it or not. -/
def State.writeNear (s : State) (by_ : Option (Fin 64)) (near : Option (BitVec 2 × Nat)) (home : Nat) (bytes : List Byte) : State :=
  { s with mem := memSets s.mem home bytes, writes := s.writes + 1, olds := s.replaced by_ near home bytes.length ++ s.olds }.conflicts
    by_ (linesOf home bytes.length)

/-- A write becomes visible in memory. -/
def State.writeMem (s : State) (by_ : Option (Fin 64)) (home : Nat) (bytes : List Byte) : State := s.writeNear by_ none home bytes

/-- The bits of a byte that no access writes: LAST, LV and CFULL of a larder slot's header, which its sampler alone sets (R7,
R409). -/
def roBits (a : Nat) : Byte :=
  if a < larderBase ∨ larderBase + 2 ^ 29 ≤ a then 0
  else match (a - larderBase) % 2 ^ 17 with
    | 16 => 0xFF
    | 17 => 0xFF
    | 18 => 0x0F
    | _ => 0

/-- What a byte becomes when an access writes it over another (R7). -/
def keepRo (a : Nat) (old new : Byte) : Byte := (new &&& ~~~roBits a) ||| (old &&& roBits a)

/-- Bytes as an access leaves them in memory (R7). -/
def keepRos (m : List Host.Cell) (a : Nat) : List Byte → List Byte
  | [] => []
  | b :: bs => keepRo a (memGet m a) b :: keepRos m (a + 1) bs

/-- An access writes memory: what is read only stays (R7). -/
def State.writeAs (s : State) (by_ : Option (Fin 64)) (home : Nat) (bytes : List Byte) : State :=
  s.writeMem by_ home (keepRos s.mem home bytes)

/-! ## Registers and mailboxes -/

/-- What comes of reading a register: a value and the state after, a wait without effect (R81), or a trap. -/
inductive Got where
  | ok (w : Word) (s : State)
  | wait
  | trap (code : BitVec 6) (addr : Word)

/-- The mailbox that a register names (R75). -/
def mbOf (r : Reg) : Fin 4 := ⟨r.toNat % 4, Nat.mod_lt _ (by decide)⟩

/-- A register that is a mailbox now (R75, R106). -/
def Core.isMb (c : Core) (r : Reg) : Bool := decide (28 ≤ r.toNat) && c.mb[mbOf r].state != .unbound

/-- A register whose load or launch handle has not yet come back (R80, R125). -/
def Core.busy (c : Core) (r : Reg) : Bool :=
  c.loads.any (fun l => l.dest = r && !l.mbx) || c.recs.any (fun l => l.dest = r && !l.mbx)

/-- A descriptor's fields (R104). -/
def dModule (d : Word) : BitVec 10 := d.extractLsb' 54 10
def dCore (d : Word) : Fin 64 := ⟨(d.extractLsb' 48 6).toNat, (d.extractLsb' 48 6).isLt⟩
def dMbx (d : Word) : Fin 4 := ⟨(d.extractLsb' 40 2).toNat, (d.extractLsb' 40 2).isLt⟩

/-- A descriptor names a mailbox of this module (R104). -/
def State.isLocal (s : State) (d : Word) : Bool := dModule d == 0x3FF || dModule d == s.module

/-- The descriptor by which this module's mailbox `n` of core `c` is named (R104). -/
def mbName (module : BitVec 10) (c : Fin 64) (n : Fin 4) : Word :=
  module ++ BitVec.ofNat 6 c.val ++ (0 : BitVec 6) ++ BitVec.ofNat 2 n.val ++ (0 : BitVec 40)

/-- The port by which packets for a module leave: the supervisor's routing, else the port that leads there, and one that has
failed until its traffic is rerouted (R354, R364). DESIGN CHOICE: log 91. -/
def State.routeTo (s : State) (m : BitVec 10) : Option (Fin 18) :=
  match s.routes.find? (·.1 = m) with
  | some r => some r.2
  | none =>
    let leads (n : Fin 18) : Bool := s.ports[n].peer == m
    ((List.finRange 18).find? fun n => s.ports[n].state == .up && leads n) <|>
      (List.finRange 18).find? fun n => s.ports[n].state == .failed && !s.ports[n].rerouted && leads n

/-- A remote request of a core, or of a tile's station, leaves for its module on the request class (R149, R354). -/
def State.request (s : State) (m : BitVec 10) (tile : Option TileId) (q : RemoteReq) : State :=
  { s with sent := s.sent ++ [.remoteReq (s.routeTo m) m tile q] }

/-- One credit goes back to the peer that a mailbox is bound to (R105). -/
def State.giveCredit (s : State) (n : Fin 4) (desc : Word) : State :=
  if s.isLocal desc then
    { s with credits := s.credits ++ [⟨s.core.part, dCore desc, (dMbx desc).val, mbName s.module s.cur n, 0⟩] }
  else { s with sent := s.sent ++ [.credit (dModule desc) (desc.extractLsb' 48 6) (desc.extractLsb' 40 2)] }

/-- One flit leaves mailbox `n` for its peer (R107). -/
def State.sendFlit (s : State) (n : Fin 4) (desc v : Word) : State :=
  if s.isLocal desc then
    { s with flits := s.flits ++ [⟨s.core.part, dCore desc, (dMbx desc).val, mbName s.module s.cur n, v⟩] }
  else { s with sent := s.sent ++ [.flit (dModule desc) (desc.extractLsb' 48 6) (desc.extractLsb' 40 2) v] }

/-- Reading a register (R75, R97, R106): g0 is 0; a mailbox gives its oldest flit and returns a credit, at tcommit when
a region is open (R111); a register still awaited waits; a poisoned one traps. DEDUCED: log 79. -/
def State.getReg (s : State) (r : Reg) : Got :=
  let c := s.core
  if r = 0 then .ok 0 s
  else if c.isMb r then
    let n := mbOf r
    let m := c.mb[n]
    match m.rxq with
    | v :: rest =>
      if c.tx.isSome then
        .ok v (s.setCore { c with mb := c.mb.set n.val { m with rxq := rest, taken := m.taken ++ [v] } n.isLt })
      else
        .ok v ((s.setCore { c with mb := c.mb.set n.val { m with rxq := rest } n.isLt }).giveCredit n m.desc)
    | [] => if m.state = .revoked then .trap tMBUNBOUND (BitVec.ofNat 64 n.val) else .wait
  else if c.busy r then .wait
  else
    match c.poison[r.toNat]'r.isLt with
    | some a => .trap tPOISONREG a
    | none => .ok (c.regs[r.toNat]'r.isLt) s

/-- Reading registers in order (R76), then going on; a wait or a trap leaves everything as it was (R81). -/
def State.withRegs (s0 : State) (rs : List Reg) (k : List Word → State → State) : State :=
  go rs [] s0
where
  /-- the registers still to read, and the values read so far -/
  go : List Reg → List Word → State → State
    | [], ws, s => k ws s
    | r :: rs, ws, s =>
      match s.getReg r with
      | .ok w s' => go rs (ws ++ [w]) s'
      | .wait => s0
      | .trap code addr => s0.trap code addr

/-- A load or handle still on its way to a general register is discarded when it comes. -/
def Core.supersede (c : Core) (r : Reg) : Core :=
  { c with loads := c.loads.map (fun l => if l.dest = r && !l.mbx then { l with dest := 0 } else l),
           recs := c.recs.map (fun l => if l.dest = r && !l.mbx then { l with dest := 0 } else l) }

/-- The number of a scope, .dom for the codes past it (R331). -/
def scopeIx (c : BitVec 3) : Fin 5 := ⟨Nat.min c.toNat 4, Nat.lt_succ_of_le (Nat.min_le_right _ _)⟩

/-- An acquire at a scope orders what has been read or written up to a count of writes before every later access (R333). -/
def Order.fence (o : Order) (c : BitVec 3) (t : Nat) : Order :=
  { o with floors := o.floors.set (scopeIx c).val (Nat.max o.floors[scopeIx c] t) (scopeIx c).isLt }

/-- A load of a dword took its value at a count of writes (R332). -/
def Order.read (o : Order) (home t : Nat) : Order :=
  { o with last := Nat.max o.last t, dwords := assign o.dwords (home / 8) (Nat.max t (lookupD o.dwords (home / 8) 0)) }

/-- What a register's value may depend on (R333). -/
def Order.reg (o : Order) (r : Reg) : Nat := o.regs[r.toNat]'r.isLt

/-- A register's value may depend on every load so far (R333). DEDUCED: log 95. -/
def Order.wrote (o : Order) (r : Reg) : Order := { o with regs := o.regs.set r.toNat o.last r.isLt }

/-- Setting a general register: the poison mark goes, and a load or handle still on its way to it is discarded. -/
def Core.setReg (c : Core) (r : Reg) (w : Word) : Core :=
  { c.supersede r with regs := c.regs.set r.toNat w r.isLt, poison := c.poison.set r.toNat none r.isLt, ord := c.ord.wrote r }

/-- Writing a register (R75, R106): g0 discards; a bound mailbox sends a flit for one credit, held inside a region
(R111), and waits without one; a revoked one traps (R109). -/
def State.putReg (s : State) (r : Reg) (w : Word) : Got :=
  let c := s.core
  if r = 0 then .ok w s
  else if c.isMb r then
    let n := mbOf r
    let m := c.mb[n]
    if m.state = .revoked then .trap tMBUNBOUND (BitVec.ofNat 64 n.val)
    else if m.cred = 0 then .wait
    else
      let c' := { c with mb := c.mb.set n.val { m with cred := m.cred - 1 } n.isLt }
      match c.tx with
      | some x => .ok w (s.setCore { c' with tx := some { x with flits := x.flits ++ [(n.val, some w)] } })
      | none => .ok w ((s.setCore c').sendFlit n m.desc w)
  else .ok w (s.setCore (c.setReg r w))

/-! ## Issue and retirement -/

/-- Retiring an instruction: the next word's address, and INSTRET (R79). -/
def State.retireAt (s : State) (pc : Word) : State :=
  s.setCore { s.core with pc, instret := s.core.instret + 1 }

/-- Retiring an instruction that goes on at the next word. -/
def State.retire (s : State) : State := s.retireAt (s.core.pc + 4)

/-- Writing the result and retiring; without a credit nothing has happened (R81, R106). -/
def State.finish (s0 s : State) (d : Reg) (w : Word) : State :=
  match s.putReg d w with
  | .ok _ s' => s'.retire
  | .wait => s0
  | .trap code addr => s0.trap code addr

/-- What stands before every control instruction: a store that failed traps with STERR at the next to issue, or aborts
the open region (R97). DEDUCED: log 23. -/
def State.issue (s : State) (k : State → State) : State :=
  match s.core.sterr with
  | none => k s
  | some (a, _) =>
    let s' := s.setCore { s.core with sterr := none }
    if s.core.tx.isSome then s'.txAbort 8 else s'.trap tSTERR a

/-- An instruction that computes a register from registers (R76, R83). -/
def State.compute (s : State) (rs : List Reg) (d : Reg) (f : List Word → Word) : State :=
  s.issue fun s => s.withRegs rs fun ws s' => s.finish s' d (f ws)

/-- Instructions that abort an open region with UNSAFE before they take effect (R344). -/
def State.unsafeIssue (s : State) (k : State → State) : State :=
  s.issue fun s => if s.core.tx.isSome then s.txAbort 5 else k s

end Sys2Proof.Machine
end

