-- ==== Sys2Proof/Machine/Operands.lean ====
section
/-! DEFINITION. The operand forms of control instructions: immediates, scaled indexes, targets, bit-field selectors, and
effective addresses checked against the address map. -/

namespace Sys2Proof.Machine

/-! ## Immediates, indexes and targets -/

/-- The sign-extended 16-bit immediate (R52, R88, R91). -/
def immW (i : BitVec 16) : Word := i.signExtend 64

/-- The weighted 21-bit immediate of lui and auipc (R90). -/
def immU (i : BitVec 21) : Word := i.signExtend 64 * 65536

/-- Base plus scaled index (R87, R92). -/
def indexed (a b : Word) (s : BitVec 2) : Word := a + b <<< s.toNat

/-- The target of a conditional branch (R98). -/
def branchTo (pc : Word) (i : BitVec 16) : Word := pc + i.signExtend 64 * 4

/-- The target of jmp and call (R99). -/
def jumpTo (pc : Word) (i : BitVec 26) : Word := pc + i.signExtend 64 * 4

/-- The bytes of a size code (R58). -/
def sizeOf (z : BitVec 2) : Nat := 2 ^ z.toNat

/-- Position and length of a bit field (R86). -/
def fieldPos (b : Word) : Nat := (b.extractLsb' 0 6).toNat
def fieldLen (b : Word) : Nat := (b.extractLsb' 8 6).toNat + 1

/-- The low `n` ones (R86). -/
def ones (n : Nat) : Word := BitVec.ofNat 64 (2 ^ n - 1)

/-- The bit field of `a` that `b` names (R86). -/
def bextOf (a b : Word) : Word := (a >>> fieldPos b) &&& ones (fieldLen b)

/-- `d` with the bit field that `b` names replaced by low bits of `a` (R86). -/
def binsOf (a b d : Word) : Word :=
  (d &&& ~~~(ones (fieldLen b) <<< fieldPos b)) ||| ((a &&& ones (fieldLen b)) <<< fieldPos b)

/-- A value of `size` bytes brought to a register (R91). -/
def extend (size : Nat) (sext : Bool) (v : Nat) : Word :=
  if sext then BitVec.ofInt 64 (if v < 2 ^ (8 * size - 1) then v else (v : Int) - 2 ^ (8 * size))
  else BitVec.ofNat 64 v

/-! ## Effective addresses (R93) -/

/-- Where an access goes: a home address of this module, with the state in which the translation is installed; an
address of a peer module; or the trap that the check raises. -/
inductive Loc where
  | at_ (home : Nat) (s : State)
  | peer
  | trap (code : BitVec 6)

/-- The alignment and translation causes of an access (R82, R338). -/
def alignCause : Need → BitVec 6
  | .read => tLDALIGN
  | .exec => tFETCHALIGN
  | _ => tSTALIGN
def xlateCause : Need → BitVec 6
  | .read => tLDFAULT
  | .exec => tFETCHFAULT
  | _ => tSTFAULT

/-- The checks of R93 past alignment: window and grant, then translation. -/
def State.locateAligned (s : State) (ea : Word) (size : Nat) (need : Need) : Loc :=
  match windowOf ea.toNat with
  | none => .trap tADDR
  | some .translated =>
    match s.translate s.pid s.core.tlb ea.toNat need with
    | .error _ => .trap (xlateCause need)
    | .ok (home, e) =>
      if !s.binOk s.pid home size then .trap tADDR
      else .at_ home (match e with
        | none => s
        | some e => s.setCore { s.core with tlb := tlbAdd s.core.tlb 64 e })
  | some w =>
    if !s.granted s.pid w ea.toNat size (need != .read) then .trap tADDR
    else if w = .peer then .peer
    else .at_ ea.toNat s

/-- The checks of a load or store in the order of R93. -/
def State.locate (s : State) (ea : Word) (size : Nat) (need : Need) : Loc :=
  if ea.extractLsb' 57 7 ≠ 0 then .trap tADDR
  else if ea.toNat % size ≠ 0 then .trap (alignCause need)
  else s.locateAligned ea size need

/-- The module and the offset that a peer address names (R260). -/
def peerModule (ea : Word) : BitVec 10 := ea.extractLsb' 45 10
def peerOff (ea : Word) : BitVec 45 := ea.extractLsb' 0 45

end Sys2Proof.Machine
end

