-- ==== Sys2Proof/Machine/Flags.lean ====
section
/-! DEFINITION. The flags of the machine: the saturating divisions with the sticky flags of ARITH_STAT (R84, R85), and
the status words OUTST, MB_STATE and TX_STAT (R79, R343). -/

namespace Sys2Proof.Machine

/-! ## Division (R84, R85) -/

/-- The most negative and most positive signed dword. -/
def minS : Word := 0x8000000000000000
def maxS : Word := 0x7FFFFFFFFFFFFFFF

/-- A quotient or remainder with the flags it sets: DZ and OVF. -/
structure Quot where
  val : Word
  dz  : Bool
  ovf : Bool
  deriving DecidableEq, Repr

/-- Signed division (R84). -/
def divS (a b : Word) : Quot :=
  if b = 0 then ⟨if a = 0 then 0 else if a.slt 0 then minS else maxS, true, false⟩
  else if a = minS ∧ b = -1 then ⟨maxS, false, true⟩
  else ⟨BitVec.ofInt 64 (a.toInt.tdiv b.toInt), false, false⟩

/-- Unsigned division (R84). -/
def divU (a b : Word) : Quot :=
  if b = 0 then ⟨if a = 0 then 0 else -1, true, false⟩ else ⟨a / b, false, false⟩

/-- Signed remainder (R84). -/
def remS (a b : Word) : Quot :=
  if b = 0 then ⟨a, true, false⟩
  else ⟨BitVec.ofInt 64 (a.toInt.tmod b.toInt), false, false⟩

/-- Unsigned remainder (R84). -/
def remU (a b : Word) : Quot := if b = 0 then ⟨a, true, false⟩ else ⟨a % b, false, false⟩

/-- The sticky flags after a division (R85). -/
def Core.setArith (c : Core) (q : Quot) : Core := { c with dz := c.dz || q.dz, ovf := c.ovf || q.ovf }

/-- A division: the flags are set in the cycle in which `d` is written (R85). -/
def State.divide (s : State) (a b d : Reg) (f : Word → Word → Quot) : State :=
  s.issue fun s => s.withRegs [a, b] fun ws s' =>
    let q := f (ws.getD 0 0) (ws.getD 1 0)
    s.finish (s'.setCore (s'.core.setArith q)) d q.val

/-! ## Status words -/

/-- A field of `n` bits with a value, at bit `lo` of a dword. -/
def field (lo n v : Nat) : Word := BitVec.ofNat 64 (v % 2 ^ n * 2 ^ lo)

/-- One bit of a dword. -/
def bit (lo : Nat) (b : Bool) : Word := if b then BitVec.ofNat 64 (2 ^ lo) else 0

/-- OUTST (R79, R101). -/
def Core.outst (c : Core) : Word :=
  field 0 8 c.loads.length ||| field 8 8 c.stores.length ||| field 16 8 c.copies.length ||| field 24 8 c.recs.length

/-- STATE of a mailbox as MB_STATE gives it (R79). -/
def MbState.code : MbState → Nat
  | .unbound => 0
  | .bound => 1
  | .revoked => 2

/-- A mailbox's group of MB_STATE (R79). Flits read inside an open region still stand in the queue (R111). -/
def Mailbox.group (m : Mailbox) : Nat := m.state.code + 4 * (m.taken.length + m.rxq.length) + 64 * m.cred

/-- MB_STATE (R79). -/
def Core.mbState (c : Core) : Word :=
  (List.finRange 4).foldl (fun w i => w ||| field (16 * i.val) 16 c.mb[i].group) 0

/-- TX_STAT (R343). -/
def Core.txStat (c : Core) : Word :=
  bit 0 c.tx.isSome ||| field 1 5 c.txCode.toNat ||| field 8 4 c.txCause.toNat ||| field 16 16 c.txRerun.toNat

/-- ARITH_STAT (R85). -/
def Core.arithStat (c : Core) : Word := bit 0 c.dz ||| bit 1 c.ovf

end Sys2Proof.Machine
end

