-- ==== Sys2Proof/Machine/Virtual.lean ====
section
/-! DEFINITION. Accesses that a unit other than a core's own pipeline makes by virtual address (R259, R263), the
32-byte record rings (R307, R352, R382), and the register CPY_STAT (R141). -/

namespace Sys2Proof.Machine

/-- The pieces of a virtual range that lie in one 64-byte line each, as address and length. -/
def chunksFrom (va : Nat) : Nat → Nat → List (Nat × Nat)
  | 0, _ => []
  | _, 0 => []
  | fuel + 1, n =>
    let k := Nat.min n (64 - va % 64)
    (va, k) :: chunksFrom (va + k) fuel (n - k)

/-- All line pieces of a range. -/
def chunks (va n : Nat) : List (Nat × Nat) := chunksFrom va (n / 64 + 2) n

/-- The windows that engines, stations and copies may reach beside the peer window (R259). -/
def memWindows : List Window := [.translated, .vault, .spad]

/-- Where a piece of a line lies, for an agent that reaches the given windows. -/
def State.resolve (s : State) (p : BitVec 4) (ws : List Window) (va n : Nat) (need : Need) : Except XReason Nat :=
  match windowOf va with
  | none => .error .window
  | some .translated =>
    if !ws.contains .translated then .error .window
    else match s.translate p [] va need with
      | .error r => .error r
      | .ok (home, _) => if s.binOk p home n then .ok home else .error .window
  | some w =>
    if ws.contains w && w != .peer && s.granted p w va n (need != .read) then .ok va else .error .window

/-- The first fault that a range meets, with the address at which it is met. -/
def State.check (s : State) (p : BitVec 4) (ws : List Window) (need : Need) :
    List (Nat × Nat) → Except (Nat × XReason) (List (Nat × Nat × Nat))
  | [] => .ok []
  | (va, n) :: rest =>
    match s.resolve p ws va n need with
    | .error r => .error (va, r)
    | .ok h =>
      match s.check p ws need rest with
      | .error e => .error e
      | .ok hs => .ok ((h, va, n) :: hs)

/-- Bytes read at a virtual address. -/
def State.readV (s : State) (p : BitVec 4) (ws : List Window) (va n : Nat) : Except (Nat × XReason) (List Byte) :=
  (s.check p ws .read (chunks va n)).map fun hs => hs.flatMap fun h => memGets s.mem h.1 h.2.2

/-- Writing line pieces that have been resolved. -/
def State.writePieces (s : State) (by_ : Option (Fin 64)) (base : Nat) (bytes : List Byte) :
    List (Nat × Nat × Nat) → State
  | [] => s
  | (h, va, n) :: rest =>
    (s.writeAs by_ h ((bytes.drop (va - base)).take n)).writePieces by_ base bytes rest

/-- Bytes written at a virtual address; nothing is written when any of them faults. -/
def State.writeV (s : State) (p : BitVec 4) (ws : List Window) (va : Nat) (bytes : List Byte) :
    Except (Nat × XReason) State :=
  (s.check p ws .write (chunks va bytes.length)).map fun hs => s.writePieces none va bytes hs

/-! ## Cause codes (R39) -/

def eCANCEL : BitVec 6 := 0x01
def eKIND : BitVec 6 := 0x02
def eSTOPMIS : BitVec 6 := 0x03
def eSDDIGIT : BitVec 6 := 0x04
def eTAGOVF : BitVec 6 := 0x05
def eHOLD : BitVec 6 := 0x06
def eXLATE : BitVec 6 := 0x07
def eECC : BitVec 6 := 0x08
def eLINK : BitVec 6 := 0x09
def eRESET : BitVec 6 := 0x0A
def eRECFG : BitVec 6 := 0x0B
def ePOISON : BitVec 6 := 0x0C
def ePEER : BitVec 6 := 0x0D
def eRACE : BitVec 6 := 0x0E
def ePREEMPT : BitVec 6 := 0x0F

/-- CPY_STAT records the first failure while none is recorded (R141). -/
def Core.noteCopy (c : Core) (cause : BitVec 6) (addr : Nat) : Core :=
  if c.cpyV then c else { c with cpyV := true, cpyCause := cause, cpyAddr := BitVec.ofNat 57 addr }

/-- The same at any core. -/
def State.noteCopyAt (s : State) (i : Fin 64) (cause : BitVec 6) (addr : Nat) : State :=
  s.setCoreAt i (s.cores[i].noteCopy cause addr)

/-! ## Record rings (R307) -/

/-- The ring is full (R307). -/
def Ring.full (r : Ring) : Bool := r.size != 0 && (r.tail.toNat + 1) % r.size.toNat == r.head.toNat

/-- The ring after TAIL has advanced (R307). -/
def Ring.advance (r : Ring) : Ring := { r with tail := BitVec.ofNat 12 ((r.tail.toNat + 1) % r.size.toNat) }

/-- A ring holds a record that software has not read. -/
def Ring.holds (r : Ring) : Bool := r.tail != r.head

/-- A write of SIZE and HEAD (R307): a changed SIZE resets HEAD and TAIL; else HEAD is set. -/
def Ring.write (r : Ring) (v : Word) : Ring :=
  if v.extractLsb' 0 12 ≠ r.size then { r with size := v.extractLsb' 0 12, head := 0, tail := 0 }
  else { r with head := v.extractLsb' 12 12 }

/-- SIZE, HEAD and TAIL as a CSR holds them (R307). -/
def Ring.word (r : Ring) : Word := field 0 12 r.size.toNat ||| field 12 12 r.head.toNat ||| field 24 12 r.tail.toNat

/-- How posting a record to a ring ends: posted, no room (or SIZE 0), or its entry is not granted. -/
inductive Post where
  | posted (s : State) (r : Ring)
  | full
  | denied (addr : Nat)

/-- Posting a 32-byte record for a core of partition `p` (R307). -/
def State.post (s : State) (p : BitVec 4) (r : Ring) (dwords : List Word) : Post :=
  if r.size = 0 ∨ r.full then .full
  else
    let addr := r.base.toNat + 32 * r.tail.toNat
    match s.writeV p [.translated, .vault] addr (dwords.flatMap fun w => leBytes 8 w.toNat) with
    | .error _ => .denied addr
    | .ok s' => .posted s' r.advance

end Sys2Proof.Machine
end

