-- ==== Sys2Proof/Machine/Race.lean ====
section
/-! DEFINITION. The hardware race detector (R349 to R352): agents, interval numbers and horizons, sector shadow state,
releases, acquires, reports and their log records. -/

namespace Sys2Proof.Machine

/-- The core that an agent belongs to. -/
def Agent.core? : Agent → Option (Fin 64)
  | .core c => some c
  | .region c _ => some c
  | .copies c => some c
  | .other => none

/-- The binding slots in whose regions' scopes an agent's access stands: one region's own, that of the launch a copy is charged
to, and any for a core (R331). -/
def Agent.inSlot (a : Agent) (via : Option (BitVec 3)) (b : BitVec 3) : Bool :=
  match a with
  | .core _ => true
  | .region _ b' => b == b'
  | .copies _ => via == some b
  | .other => false

/-- A scope includes both agents (R331). `vx` and `vw` are the slots that copies are charged to. A region's stations are one
agent here, so .tile joins no two agents; a copy that is charged to nothing stands in its core's scopes. -/
def scopeJoins (c : BitVec 3) (x : Agent) (vx : Option (BitVec 3)) (w : Agent) (vw : Option (BitVec 3)) : Bool :=
  match x.core?, w.core? with
  | some i, some j =>
    if c = 0 then false
    else if c = 1 then
      i == j && ((List.range 8).any (fun n => x.inSlot vx (BitVec.ofNat 3 n) && w.inSlot vw (BitVec.ofNat 3 n)) ||
        x == .core i && w == .copies i || x == .copies i && w == .core i)
    else if c = 2 then dieOf i == dieOf j
    else true
  | _, _ => decide (3 ≤ c.toNat)

/-- An agent's clock: C starts at 1 and every horizon at 0 (R351). -/
def State.clock (s : State) (a : Agent) : Clock := (s.clocks.find? (·.agent = a)).getD ⟨a, 1, [], [], [], []⟩

/-- The clocks with one agent's replaced. -/
def State.setClock (s : State) (k : Clock) : State :=
  { s with clocks := k :: s.clocks.filter (·.agent ≠ k.agent) }

/-- The pointwise maximum of two horizons. -/
def joinClocks (h g : List (Agent × Nat)) : List (Agent × Nat) :=
  g.foldl (fun h e => assign h e.1 (Nat.max (lookupD h e.1 0) e.2)) h

/-- Two releases of one agent of which the later takes the earlier's place: of one scope, and of copies or launches that are the
same. -/
def Rel.same (r q : Rel) : Bool := r.scope == q.scope && r.via == q.via && r.launch == q.launch

/-- A release by an agent at a scope carries C and H; then C advances (R351). -/
def State.raceReleaseVia (s : State) (a : Agent) (scope : BitVec 3) (via : Option (BitVec 3)) (launch : Option (BitVec 32)) : State :=
  let k := s.clock a
  let r : Rel := ⟨scope, via, launch, (a, k.c) :: k.h.filter (·.1 ≠ a)⟩
  s.setClock { k with rel := r :: k.rel.filter (!r.same ·), c := k.c + 1 }

/-- A release by a core. -/
def State.raceRelease (s : State) (a : Agent) (scope : BitVec 3) : State := s.raceReleaseVia a scope none none

/-- An acquire by `a` at a scope closes an edge with a release of `w`: each scope includes both (R333, R334). -/
def Rel.joins (r : Rel) (w a : Agent) (scope : BitVec 3) (via : Option (BitVec 3)) : Bool :=
  scopeJoins r.scope a via w r.via && scopeJoins scope a via w r.via

/-- An acquire by an agent at a scope takes the clocks of the releases that its earlier accesses have read (R336, R351). -/
def State.raceAcquireVia (s : State) (a : Agent) (scope : BitVec 3) (via : Option (BitVec 3)) : State :=
  let k := s.clock a
  let ok (q : Agent × Rel) : Bool := q.2.joins q.1 a scope via
  let h := (k.seen.filter ok).foldl (fun h q => joinClocks h q.2.clocks) k.h
  s.setClock { k with h, seen := k.seen.filter (!ok ·) }

/-- An acquire by an agent that is no copy. -/
def State.raceAcquire (s : State) (a : Agent) (scope : BitVec 3) : State := s.raceAcquireVia a scope none

/-- An acquire by `a` that closes an edge with those of `b`'s releases that `ok` names, without a location between them (R335). -/
def State.raceJoin (s : State) (a b : Agent) (scope : BitVec 3) (ok : Rel → Bool) : State :=
  let k := s.clock a
  let rels := (s.clock b).rel.filter fun r => ok r && r.joins b a scope none
  s.setClock { k with h := rels.foldl (fun h r => joinClocks h r.clocks) k.h }

/-- The acting core acquires at a scope: its later loads read no earlier than now what the agents of the scope have written
(R333), and the detector takes the releases that it has read (R351). -/
def State.acquire (s : State) (scope : BitVec 3) : State :=
  (s.setCore { s.core with ord := s.core.ord.fence scope s.writes }).raceAcquire (.core s.cur) scope

/-- The 256-byte sectors of an access. -/
def sectorsOf (home n : Nat) : List Nat :=
  if n = 0 then [] else (List.range ((home + n - 1) / 256 - home / 256 + 1)).map (· + home / 256)

/-- The accesses that the detector tracks: scratchpad, vault outside the arena, and HBM (R351). -/
def State.tracked (s : State) (p : BitVec 4) (home n : Nat) : Bool :=
  decide (home < 2 ^ 40) ||
    (match windowOf home with
     | some .vault => !s.inArena p home n
     | some .spad => true
     | _ => false)

/-- Two copies of one core overlap at their destinations, with no release and acquire that order the later, `op`, behind the
earlier (R142, R352). -/
def Shadow.overlaps (sh : Shadow) (op : CopyOp) : Bool :=
  match sh.copy with
  | none => false
  | some (ser, dst, len) =>
    ser != op.serial && decide (dst < op.dst.toNat + op.len ∧ op.dst.toNat < dst + len) &&
      !(op.acq.isSome && decide (sh.ival.toNat < op.since))

/-- The writer that an access races with, if the detector reports one (R351). `atom` is the access's scope when it is
an atomic, `cp` the copy that writes. -/
def State.raceWith (s : State) (a : Agent) (home n : Nat) (atom : Option (BitVec 3)) (cp : Option CopyOp) : Option Shadow :=
  (sectorsOf home n).findSome? fun k =>
    match s.shadow.find? (·.1 = k) with
    | none => none
    | some (_, sh) =>
      let both : Bool := match atom, sh.atom with
        | some x, some y => scopeJoins x a none sh.writer none && scopeJoins y a none sh.writer none
        | _, _ => false
      if sh.writer = a then (if cp.any sh.overlaps then some sh else none)
      else if sh.ival.toNat ≤ lookupD (s.clock a).h sh.writer 0 ∨ both then none
      else some sh

/-- The launch that an agent's access belongs to: the one given for a station's, for a copy the one it is charged to. -/
def launchOf (launch : Option (BitVec 32)) (cp : Option CopyOp) : Option (BitVec 32) :=
  launch <|> cp.bind fun op => op.charge.map (·.2.2)

/-- The shadow state that a write leaves (R351): IVAL is the writer's C. -/
def State.raceShadow (s : State) (a : Agent) (atom : Option (BitVec 3)) (cp : Option CopyOp) (launch : Option (BitVec 32)) : Shadow :=
  ⟨a, BitVec.ofNat 32 (s.clock a).c, atom, (s.clock a).rel.map fun r => (a, r), launchOf launch cp,
   cp.map fun op => (op.serial, op.dst.toNat, op.len)⟩

/-- One more release that an agent has read and not yet acquired. -/
def addSeen (l : List (Agent × Rel)) (w : Agent) (r : Rel) : List (Agent × Rel) :=
  let same (q : Agent × Rel) : Bool := q.1 == w && q.2.same r
  if l.any same then l.map fun q => if same q then (w, { r with clocks := joinClocks q.2.clocks r.clocks }) else q
  else (w, r) :: l

/-- The releases that stand before what an access of `a` reads. -/
def State.relsAt (s : State) (a : Agent) (home n : Nat) : List (Agent × Rel) :=
  (sectorsOf home n).flatMap fun k => match s.shadow.find? (·.1 = k) with
    | none => []
    | some (_, sh) => sh.rel.filter (·.1 ≠ a)

/-- An access that reads meets the releases of those that wrote before (R351). -/
def State.raceSee (s : State) (a : Agent) (home n : Nat) : State :=
  let k := s.clock a
  s.setClock { k with seen := (s.relsAt a home n).foldl (fun l q => addSeen l q.1 q.2) k.seen }

/-- An access that acquires takes the releases that stand before what it reads (R333, R351). -/
def State.raceTake (s : State) (a : Agent) (scope : BitVec 3) (home n : Nat) : State :=
  let k := s.clock a
  let rels := (s.relsAt a home n).filter fun q => q.2.joins q.1 a scope none
  s.setClock { k with h := rels.foldl (fun h q => joinClocks h q.2.clocks) k.h }

/-- A shadow state behind an earlier one of its sector: the releases before earlier writes stand before it in coherence order
(R334). -/
def Shadow.after (sh : Shadow) (old : Option (Nat × Shadow)) : Shadow :=
  match old with
  | none => sh
  | some q => { sh with rel := sh.rel.foldl (fun l x => addSeen l x.1 x.2) q.2.rel }

/-- A write leaves its shadow state. -/
def State.raceLeave (s : State) (home n : Nat) (sh : Shadow) : State :=
  { s with shadow := (sectorsOf home n).foldl (fun l x => assign l x (sh.after (l.find? (·.1 = x)))) s.shadow }

/-- The shadow state after a tracked access that is performed (R351). DEDUCED: log 25. -/
def State.raceMark (s : State) (a : Agent) (home n : Nat) (write : Bool) (atom : Option (BitVec 3)) (cp : Option CopyOp)
    (launch : Option (BitVec 32)) : State :=
  let s1 := s.raceSee a home n
  if write then s1.raceLeave home n (s1.raceShadow a atom cp launch) else s1

/-- The acting core has seen with wait that its copies have landed: an acquire of its takes their releases from now on (R142). -/
def State.raceLanded (s : State) : State :=
  let k := s.clock (.core s.cur)
  if k.landed.isEmpty then s
  else s.setClock { k with seen := k.landed.foldl (fun l q => addSeen l q.1 q.2) k.seen, landed := [] }

/-- The agent word of a log record (R352). -/
def State.agentWord (s : State) : Agent → Word
  | .core c => field 0 2 0 ||| field 2 2 (c.val / 16) ||| field 4 5 (c.val % 16) ||| field 16 10 s.module.toNat
  | .copies c => field 0 2 2 ||| field 2 2 (c.val / 16) ||| field 4 5 (c.val % 16) ||| field 16 10 s.module.toNat
  | .region c b =>
    let o := ((s.regions.find? (fun r => r.core = c ∧ r.bslot = b)).map (·.origin)).getD ⟨0, 0, 0⟩
    field 0 2 1 ||| field 2 2 o.die.toNat ||| field 4 5 o.col.toNat ||| field 9 4 o.row.toNat |||
      field 16 10 s.module.toNat
  | .other => field 16 10 s.module.toNat

/-- A log record goes to a core's race log; a full ring counts it in DROP (R352). -/
def State.raceLog (s : State) (i : Fin 64) (dwords : List Word) : State :=
  let c := s.cores[i]
  match s.post (c.part.getD 0) c.rlog dwords with
  | .posted s' r => s'.setCoreAt i { s'.cores[i] with rlog := r }
  | .full => if c.rlog.size = 0 then s
             else s.setCoreAt i { c with rlogDrop := if c.rlogDrop = 0xFFF then 0xFFF else c.rlogDrop + 1 }
  | .denied addr => s.noteCopyAt i eXLATE addr

/-- A detector record (R352). -/
def State.raceRecord (s : State) (va : Nat) (write : Bool) (a : Agent) (sh : Shadow) : List Word :=
  [field 0 57 va ||| bit 57 write, s.agentWord a, s.agentWord sh.writer, field 0 32 sh.ival.toNat]

/-- What the detector says of an access under its check (R351, R352): none when TRAP stops it, else the state once a report has
been logged. -/
def State.raceSays (s : State) (owner : Fin 64) (a : Agent) (va home n : Nat) (write : Bool) (atom : Option (BitVec 3))
    (cp : Option CopyOp) : Option State :=
  let c := s.cores[owner]
  if !s.tracked (c.part.getD 0) home n then some s
  else
    match s.raceWith a home n atom (if write then cp else none) with
    | none => some s
    | some sh => if c.rtrap then none else some (s.raceLog owner (s.raceRecord va write a sh))

/-- The check of an access that is performed at once: what the detector says of it, and the shadow state after it. -/
def State.raceCheck (s : State) (owner : Fin 64) (a : Agent) (va home n : Nat) (write : Bool) (atom : Option (BitVec 3))
    (cp : Option CopyOp) (launch : Option (BitVec 32)) : Option State :=
  (s.raceSays owner a va home n write atom cp).map fun s1 =>
    if s.tracked (s.cores[owner].part.getD 0) home n then s1.raceMark a home n write atom cp launch else s1

/-- GMODE of a binding slot (R349). -/
def Core.gmodeOf (c : Core) (b : BitVec 3) : BitVec 2 := c.gmode.extractLsb' (2 * b.toNat) 2

end Sys2Proof.Machine
end

