-- ==== Sys2Proof/Machine/Memory.lean ====
section
/-! DEFINITION. Loads and stores (R91 to R97, R101): their checks, the operations they leave outstanding, the replies and
failures that come back, and the sets of an open commit region (R341, R342). -/

namespace Sys2Proof.Machine

/-! ## Store buffers -/

/-- The byte that a list of stores gives an address: the latest wins. -/
def byteFrom (stores : List StoreOp) (a : Nat) : Option Byte :=
  stores.reverse.findSome? fun st =>
    if !st.isRemote && decide (st.home ≤ a ∧ a < st.home + st.bytes.length) then st.bytes[a - st.home]? else none

/-- The stores that a core's own later loads see before they are performed (R94, R341). -/
def Core.ownStores (c : Core) : List StoreOp :=
  c.stores ++ (match c.tx with
    | none => []
    | some x => x.held)

/-- A byte under some stores, over a given byte of memory; what is read only they leave (R7). -/
def byteUnder (stores : List StoreOp) (a : Nat) (m : Byte) : Byte := keepRo a m ((byteFrom stores a).getD m)

/-- Memory under some stores. -/
def State.bytesUnder (s : State) (stores : List StoreOp) (home n : Nat) : List Byte :=
  (List.range n).map fun i => byteUnder stores (home + i) (memGet s.mem (home + i))

/-- Bytes as a core sees them: memory under its own stores (R94). -/
def State.viewBytes (s : State) (home n : Nat) : List Byte := s.bytesUnder s.core.ownStores home n

/-- Two ranges share a byte. -/
def meets (a n b m : Nat) : Bool := decide (a < b + m) && decide (b < a + n)

/-- Bytes that a store reaches; an atomic reaches its dword. -/
def StoreOp.span (x : StoreOp) : Nat := if x.rmw.isSome then 8 else Nat.max 1 x.bytes.length

/-- Two stores touch a common byte: of this module's memory by its home address, of a peer's as this core addresses it (R94). -/
def StoreOp.overlaps (x y : StoreOp) : Bool :=
  x.isRemote == y.isRemote &&
    (if x.isRemote then meets x.ea.toNat x.span y.ea.toNat y.span else meets x.home x.span y.home y.span)

/-- An atomic of this core that is still to be performed touches a range of this module's memory: a later access waits for it
(R94). -/
def Core.atomicOn (c : Core) (home n : Nat) : Bool :=
  (c.loads.any fun l => l.rmw.isSome && l.val.isNone && !l.isRemote && meets l.home l.size home n) ||
    c.stores.any fun x => x.rmw.isSome && !x.isRemote && meets x.home x.span home n

/-- A load or store of this core that is still to be performed touches a range of this module's memory (R94). -/
def Core.pendingOn (c : Core) (home n : Nat) : Bool :=
  (c.loads.any fun l => l.val.isNone && !l.isRemote && meets l.home l.size home n) ||
    c.stores.any fun x => !x.isRemote && meets x.home x.span home n

/-! ## Commit-region sets (R341, R342) -/

/-- The place of a region in the order of R341. -/
def txOrder (i : Nat) (x : TxRegion) : Nat := x.ts.toNat * 64 + i

/-- Live regions of the acting core's partition, other than its own. -/
def State.otherRegions (s : State) : List (Nat × TxRegion) :=
  (List.finRange 64).filterMap fun i =>
    if i = s.cur ∨ s.cores[i].part ≠ s.core.part then none else s.cores[i].tx.map fun x => (i.val, x)

/-- Some line is in the write set of a live region earlier in the order (R342). -/
def State.earlierWrites (s : State) (me : TxRegion) (lines : List Nat) : Bool :=
  s.otherRegions.any fun o => decide (txOrder o.1 o.2 < txOrder s.cur.val me) && o.2.writes.any (lines.contains ·)

/-- Later regions that have read a line that this region now writes abort with CONFLICT (R342). -/
def State.abortLater (s : State) (me : TxRegion) (lines : List Nat) : State :=
  { s with cores := mapEach s.cores fun i c =>
      match c.tx with
      | none => c
      | some x =>
        if c.part = s.core.part ∧ i ≠ s.cur ∧ txOrder s.cur.val me < txOrder i.val x ∧
            x.reads.any (lines.contains ·) then c.abort x 1 true else c }

/-- The union of two sets of lines. -/
def addLines (have_ : List Nat) (new : List Nat) : List Nat := new.foldl (fun l x => if l.contains x then l else x :: l) have_

/-- An access of an open region enters its lines in the sets; a conflict or an overflow aborts before the access has
effect, a conflict first (R342, R353). `s0` is the state that an abort starts from. -/
def State.txTouch (s0 s : State) (lines : List Nat) (rd wr : Bool) (k : State → State) : State :=
  match s.core.tx with
  | none => k s
  | some x =>
    if rd && s.earlierWrites x lines then s0.txAbort 1
    else
      let reads := if rd then addLines x.reads lines else x.reads
      let writes := if wr then addLines x.writes lines else x.writes
      if reads.length > 1024 ∨ writes.length > 256 then s0.txAbort 2
      else
        let s' := s.setCore { s.core with tx := some { x with reads, writes } }
        k (if wr then s'.abortLater x lines else s')

/-! ## Destinations of operations that return later -/

/-- What a destination needs at issue: a bound mailbox gives its credit now (R106); a revoked one traps (R109). The flit of a load
leaves when the data returns; outside a region, one that a later instruction sends may leave before it. DESIGN CHOICE: log 92. -/
def State.reserve (s : State) (d : Reg) : Got :=
  let c := s.core
  if d ≠ 0 ∧ c.isMb d then
    let n := mbOf d
    let m := c.mb[n]
    if m.state = .revoked then .trap tMBUNBOUND (BitVec.ofNat 64 n.val)
    else if m.cred = 0 then .wait
    else .ok 0 (s.setCore { c with mb := c.mb.set n.val { m with cred := m.cred - 1 } n.isLt })
  else .ok 0 s

/-- A value reaches the destination that its instruction had: a register, or a flit for a mailbox whose credit was taken at
issue, which takes its place among those that an open region holds (R106, R111). A mailbox freed since discards it (R108). -/
def State.deliver (s : State) (d : Reg) (mbx : Bool) (place : Option Nat) (w : Word) : State :=
  let c := s.core
  if d = 0 then s
  else if mbx then
    match place, c.tx with
    | some i, some x => s.setCore { c with tx := some { x with flits := x.flits.modify i fun f => (f.1, some w) } }
    | _, _ => if c.mb[mbOf d].state = .unbound then s else s.sendFlit (mbOf d) c.mb[mbOf d].desc w
  else s.setCore { c with regs := c.regs.set d.toNat w d.isLt, poison := c.poison.set d.toNat none d.isLt, ord := c.ord.wrote d }

/-- A failed load: its register is poisoned, and g0 never (R97). One into a mailbox sends nothing, and its credit comes back.
DESIGN CHOICE: log 93. -/
def State.poisonReg (s : State) (l : LoadOp) : State :=
  let c := s.core
  if l.dest = 0 then s
  else if l.mbx then
    s.setCore { c with mb := c.mb.set (mbOf l.dest).val (c.mb[mbOf l.dest].refund 1) (mbOf l.dest).isLt }
  else s.setCore { c with poison := c.poison.set l.dest.toNat (some l.ea) l.dest.isLt }

/-- A load of this module's memory as it issues: nothing of it is known yet. -/
def Core.newLoad (c : Core) (d : Reg) (ea : Word) (home size : Nat) (sext : Bool) : LoadOp :=
  { dest := d, mbx := d != 0 && c.isMb d, place := none, ea, home, size, sext, val := none, older := c.stores.length,
    isRemote := false, acq := false, check := c.cmode, how := .plain, rmw := none, low := 0, via := none }

/-- Entering a load among the outstanding ones; an older load on its way to the same register is discarded, and one into a
mailbox takes its place among the flits of an open region (R111). -/
def Core.pushLoad (c : Core) (l : LoadOp) : Core :=
  if l.mbx then
    match c.tx with
    | none => { c with loads := c.loads ++ [l] }
    | some x => { c with loads := c.loads ++ [{ l with place := some x.flits.length }],
                         tx := some { x with flits := x.flits ++ [((mbOf l.dest).val, none)] } }
  else
    let c1 := c.supersede l.dest
    { c1 with loads := c1.loads ++ [l] }

/-- Entering a store among the outstanding ones. -/
def Core.pushStore (c : Core) (x : StoreOp) : Core := { c with stores := c.stores ++ [x] }

/-- Entering a store among those that an open region holds, or else among the outstanding ones (R341). -/
def Core.holdStore (c : Core) (x : StoreOp) : Core :=
  match c.tx with
  | some t => { c with tx := some { t with held := t.held ++ [x] } }
  | none => c.pushStore x

/-- An acquiring atomic has not been performed, and later accesses wait for it (R333). -/
def Core.acquiring (c : Core) : Bool := c.loads.any (·.acq) || c.stores.any (·.acq)

/-- Nothing that a fence.ar waits for is outstanding. -/
def Core.quiet (c : Core) : Bool := c.loads.isEmpty && c.stores.isEmpty

/-! ## Loads -/

/-- The check of the detector on a core's own access when it issues (R349, R352): none when it traps. -/
def State.coreCheck (s : State) (ea : Word) (home n : Nat) (write : Bool) (atom : Option (BitVec 3)) : Option State :=
  if s.core.cmode then s.raceSays s.cur (.core s.cur) ea.toNat home n write atom none else some s

/-- The shadow state that a checked store of this core leaves once it is performed (R349, R351). -/
def State.coreMark (s : State) (home n : Nat) (atom : Option (BitVec 3)) : Option Shadow :=
  if s.core.cmode && s.tracked s.pid home n then some (s.raceShadow (.core s.cur) atom none none) else none

/-- A checked load of this core meets the releases before what it reads. -/
def State.coreSee (s : State) (on : Bool) (home n : Nat) : State :=
  if on && s.tracked s.pid home n then s.raceSee (.core s.cur) home n else s

/-- What an address computed from registers may depend on (R333). -/
def Core.behind (c : Core) (rs : List Reg) : Nat := rs.foldl (fun t r => Nat.max t (c.ord.reg r)) 0

/-- A dword that the acting core reads now (R332). -/
def State.reads (s : State) (home : Nat) : State := s.setCore { s.core with ord := s.core.ord.read home s.writes }

/-- A load of `size` bytes at an address computed from registers (R91 to R93). Inside a region it is performed at once; else at
some time before its value comes back, with LOAD_REPLY (R333). A mailbox's credit or trap stands before the checks of the
address. DEDUCED: log 17. DESIGN CHOICE: log 94. -/
def State.load (s : State) (rs : List Reg) (eaOf : List Word → Word) (d : Reg) (size : Nat) (sext : Bool) : State :=
  s.issue fun s => s.withRegs rs fun ws s' =>
    let ea := eaOf ws
    if s.core.loads.length ≥ 16 ∨ s.core.acquiring then s
    else
      match s'.reserve d with
      | .wait => s
      | .trap code addr => s.trap code addr
      | .ok _ s1 =>
        match s1.locate ea size .read with
        | .trap code => s.trap code ea
        | .peer =>
          ((s1.setCore (s1.core.pushLoad { s1.core.newLoad d ea 0 size sext with
              isRemote := true, via := s.routeTo (peerModule ea) })).retire).request (peerModule ea) none (.read (s.part s.pid).dpn (peerOff ea) size)
        | .at_ home s2 =>
          if s2.core.atomicOn home size then s
          else match s2.coreCheck ea home size false none with
          | none => s.trap tRACE ea
          | some s3 =>
            State.txTouch s s3 (linesOf home size) true false fun s4 =>
              let l := { s4.core.newLoad d ea home size sext with low := s.core.behind rs }
              if s4.core.tx.isNone then (s4.setCore (s4.core.pushLoad l)).retire
              else
                let v := extend size sext (leNat (s4.viewBytes home size))
                let s5 := (s4.coreSee s4.core.cmode home size).reads home
                (s5.setCore (s5.core.pushLoad { l with val := some v })).retire

/-- A load by size (R91). -/
def State.loadRI (s : State) (d a : Reg) (i : BitVec 16) (size : Nat) (sext : Bool) : State :=
  s.load [a] (fun ws => ws.getD 0 0 + immW i) d size sext

/-- ldb (R91). -/
def execLdb (d a : Reg) (i : BitVec 16) (s : State) : Out := .next (s.loadRI d a i 1 true)
/-- ldh (R91). -/
def execLdh (d a : Reg) (i : BitVec 16) (s : State) : Out := .next (s.loadRI d a i 2 true)
/-- ldw (R91). -/
def execLdw (d a : Reg) (i : BitVec 16) (s : State) : Out := .next (s.loadRI d a i 4 true)
/-- ldd (R91). -/
def execLdd (d a : Reg) (i : BitVec 16) (s : State) : Out := .next (s.loadRI d a i 8 false)
/-- ldbu (R91). -/
def execLdbu (d a : Reg) (i : BitVec 16) (s : State) : Out := .next (s.loadRI d a i 1 false)
/-- ldhu (R91). -/
def execLdhu (d a : Reg) (i : BitVec 16) (s : State) : Out := .next (s.loadRI d a i 2 false)
/-- ldwu (R91). -/
def execLdwu (d a : Reg) (i : BitVec 16) (s : State) : Out := .next (s.loadRI d a i 4 false)

/-- ldx (R92). -/
def execLdx (d a b : Reg) (z k : BitVec 2) (s : State) : Out :=
  .next (s.load [a, b] (fun ws => indexed (ws.getD 0 0) (ws.getD 1 0) k) d (sizeOf z) (z != 3))

/-- ldxu (R92). -/
def execLdxu (d a b : Reg) (z k : BitVec 2) (s : State) : Out :=
  .next (s.load [a, b] (fun ws => indexed (ws.getD 0 0) (ws.getD 1 0) k) d (sizeOf z) false)

/-! ## Stores -/

/-- A store of the low `size` bytes of the last register read, at an address computed from the others (R91 to R93).
Inside a region it is held (R341), at most 256 of them remote (R370). -/
def State.store (s : State) (rs : List Reg) (eaOf : List Word → Word) (size : Nat) : State :=
  s.issue fun s => s.withRegs rs fun ws s' =>
    let ea := eaOf ws
    let bytes := leBytes size (ws.getLastD 0).toNat
    if s.core.acquiring ∨ (s.core.tx.isNone ∧ s.core.stores.length ≥ 32) then s
    else
      match s'.locate ea size .write with
      | .trap code => s.trap code ea
      | .peer =>
        if s'.core.tx.any fun x => decide (256 ≤ (x.held.filter (·.isRemote)).length) then s.txAbort 2
        else
        let s1 := (s'.setCore (s'.core.holdStore { StoreOp.plain ea 0 bytes none with
          isRemote := true, via := s.routeTo (peerModule ea) })).retire
        if s'.core.tx.isSome then s1
        else s1.request (peerModule ea) none (.write (s.part s.pid).dpn (peerOff ea) bytes none)
      | .at_ home s2 =>
        if s2.core.atomicOn home size then s
        else match s2.coreCheck ea home size true none with
        | none => s.trap tRACE ea
        | some s3 =>
          State.txTouch s s3 (linesOf home size) false true fun s4 =>
            (s4.setCore (s4.core.holdStore (StoreOp.plain ea home bytes (s4.coreMark home size none)))).retire

/-- A store by size: a, then d is read (R76, R91). -/
def State.storeRI (s : State) (d a : Reg) (i : BitVec 16) (size : Nat) : State :=
  s.store [a, d] (fun ws => ws.getD 0 0 + immW i) size

/-- stb (R91). -/
def execStb (d a : Reg) (i : BitVec 16) (s : State) : Out := .next (s.storeRI d a i 1)
/-- sth (R91). -/
def execSth (d a : Reg) (i : BitVec 16) (s : State) : Out := .next (s.storeRI d a i 2)
/-- stw (R91). -/
def execStw (d a : Reg) (i : BitVec 16) (s : State) : Out := .next (s.storeRI d a i 4)
/-- std (R91). -/
def execStd (d a : Reg) (i : BitVec 16) (s : State) : Out := .next (s.storeRI d a i 8)

/-- stx (R92). -/
def execStx (d a b : Reg) (z k : BitVec 2) (s : State) : Out :=
  .next (s.store [a, b, d] (fun ws => indexed (ws.getD 0 0) (ws.getD 1 0) k) (sizeOf z))

/-! ## What comes back (R97, R101) -/

/-! ### Performing -/

/-- The new value of an atomic by its sub, 0 to 9 (R337); none when atcas does not write. -/
def atomicNew (op : BitVec 4) (t b e : Word) : Option Word :=
  match op.toNat with
  | 0 => some (t + b)
  | 1 => some (t &&& b)
  | 2 => some (t ||| b)
  | 3 => some (t ^^^ b)
  | 4 => some (if t.sle b then t else b)
  | 5 => some (if t.sle b then b else t)
  | 6 => some (if t.ule b then t else b)
  | 7 => some (if t.ule b then b else t)
  | 8 => some b
  | _ => if t = e then some b else none

/-- An ordering of R59 releases; one acquires. -/
def ordRel (o : BitVec 2) : Bool := o.getLsbD 1
def ordAcq (o : BitVec 2) : Bool := o.getLsbD 0

/-- An atomic that acquires orders what it read before every later access (R333, R351). -/
def State.rmwAcquires (s : State) (home : Nat) (q : Rmw) (check : Bool) : State :=
  if !ordAcq q.ord then s
  else
    let s1 := s.setCore { s.core with ord := s.core.ord.fence q.scope (s.writes + 1) }
    if check && s.tracked s.pid home 8 then s1.raceTake (.core s.cur) q.scope home 8 else s1

/-- An atomic of the acting core is performed at its home, indivisibly: the dword before it, and the state after, with the shadow
state of a write that is checked (R338, R351). -/
def State.performRmw (s : State) (home : Nat) (q : Rmw) (check : Bool) (mark : Option Shadow) : Word × State :=
  let t := memDword s.mem home
  let s2 := ((s.coreSee check home 8).reads home).rmwAcquires home q check
  (t, match atomicNew q.op t q.b q.e with
    | none => s2
    | some n =>
      let s3 := s2.writeAs (some s.cur) home (leBytes 8 n.toNat)
      match mark with
      | some sh => s3.raceLeave home 8 sh
      | none => s3)

/-- One outstanding load of the acting core is performed: it takes its value now (R332, R333). -/
def State.performLoad (s : State) (i : Nat) : State :=
  match s.core.loads[i]? with
  | none => s
  | some l =>
    if l.val.isSome || l.isRemote then s
    else
      let r : Word × State := match l.rmw with
        | some q => s.performRmw l.home q l.check (if l.check && s.tracked s.pid l.home 8 then
            some (s.raceShadow (.core s.cur) (some q.scope) none none) else none)
        | none => (extend l.size l.sext (leNat (s.bytesUnder (s.core.stores.take l.older) l.home l.size)),
            (s.coreSee l.check l.home l.size).reads l.home)
      r.2.setCore { r.2.core with loads := r.2.core.loads.modify i fun l => { l with val := some r.1 } }

/-- The outstanding loads that satisfy `p` are performed, in program order. -/
def State.performLoads (s : State) (p : LoadOp → Bool) : State :=
  (List.range s.core.loads.length).foldl (fun s i => if (s.core.loads[i]?).any p then s.performLoad i else s) s

/-- Of the first `i` loads, as far as `p` names them, those that stand before some ranges by common bytes: a load of one of the ranges,
and whatever stands before it in the same way (R94). -/
def loadsBefore (loads : List LoadOp) (p : LoadOp → Bool) (ranges : List (Nat × Nat)) : Nat → List Nat
  | 0 => []
  | i + 1 =>
    match loads[i]? with
    | none => loadsBefore loads p ranges i
    | some l =>
      if !l.isRemote && p l && ranges.any (fun r => meets l.home l.size r.1 r.2) then
        loadsBefore loads p ((l.home, l.size) :: ranges) i ++ [i]
      else loadsBefore loads p ranges i

/-- Of the first `i` loads, as far as `p` names them, those that stand before an access of a range by common bytes are performed, the
oldest first (R94). -/
def State.performBefore (s : State) (p : LoadOp → Bool) (i home n : Nat) : State :=
  (loadsBefore s.core.loads p [(home, n)] i).foldl (fun s j => s.performLoad j) s

/-- Load `i` is performed, after the older loads that stand before it by common bytes (R94). -/
def State.performTo (s : State) (i : Nat) : State :=
  match s.core.loads[i]? with
  | none => s
  | some l => (s.performBefore (fun _ => true) i l.home l.size).performLoad i

/-! ### Reading what memory held before (R332 to R334) -/

/-- A core stands in the narrow scope at which another core's store has been performed (R331). -/
def nearTo (me : Fin 64) (by_ : Option (Fin 64)) (near : Option (BitVec 2 × Nat)) : Bool :=
  match by_, near with
  | some w, some (k, _) => k == 2 && dieOf w == dieOf me
  | _, _ => false

/-- The count of writes at which a core may see a write. -/
def Old.seenFrom (o : Old) (me : Fin 64) : Nat := if nearTo me o.by_ o.near then ((o.near.map Prod.snd).getD o.at_) else o.at_

/-- A byte as a core would have read it when `t` writes had been made, and the writes passed over, from the newest on. -/
def byteAt (me : Fin 64) (t a : Nat) (v : Byte) : List Old → Byte × List Old
  | [] => (v, [])
  | o :: os =>
    if o.home ≠ a then byteAt me t a v os
    else if o.seenFrom me ≤ t then (v, [])
    else ((byteAt me t a o.byte os).1, o :: (byteAt me t a o.byte os).2)

/-- What the acquires of the acting core order before its loads among the writes of a core, or of another agent (R331, R333): its
scopes take in every agent of the module from .mod on, the cores of its die at .die. -/
def State.floorFor (s : State) (w : Option (Fin 64)) : Nat :=
  let f := s.core.ord.floors
  let wide := Nat.max f[3] f[4]
  match w with
  | none => Nat.max (Nat.max f[1] f[2]) wide
  | some j => if dieOf j = dieOf s.cur then Nat.max f[2] wide else wide

/-- A load may pass over a write: it is another agent's, and nothing orders it before the load (R334). -/
def State.mayPass (s : State) (o : Old) : Bool := o.by_ != some s.cur && decide (s.floorFor o.by_ < o.seenFrom s.cur)

/-- Outstanding load `i` takes the value that memory held when `t` writes had been made, where nothing orders it behind what has
been written since: not its address, nor an earlier read of the dword, nor an acquire (R332 to R334). -/
def State.performOld (s : State) (i t : Nat) : Option State :=
  match s.core.loads[i]? with
  | none => none
  | some l =>
    let bytes := (List.range l.size).map fun k => byteAt s.cur t (l.home + k) (memGet s.mem (l.home + k)) s.olds
    if l.how != .plain || l.isRemote || l.val.isSome || decide (t < l.low) || decide (s.writes < t) ||
        decide (t < lookupD s.core.ord.dwords (l.home / 8) 0) || !(loadsBefore s.core.loads (fun _ => true) [(l.home, l.size)] i).isEmpty ||
        !bytes.all (fun b => b.2.all s.mayPass) then none
    else
      let v := (bytes.mapIdx fun k b => byteUnder (s.core.stores.take l.older) (l.home + k) b.1)
      some (s.setCore { s.core with
        ord := s.core.ord.read l.home t,
        loads := s.core.loads.modify i fun l => { l with val := some (extend l.size l.sext (leNat v)) } })

/-! ### Returning -/

/-- The core's partition is halted: what its memory answers waits in the attic to be asked for again (R392). -/
def State.haltedCore (s : State) : Bool := s.core.part.any fun p => (s.part p).pre == .halted

/-- Which load returns when load `i` is chosen: of two on their way to one destination the older returns first. -/
def Core.loadIndex (c : Core) (i : Nat) : Nat :=
  match c.loads[i]? with
  | none => i
  | some chosen => c.loads.findIdx fun l => l.dest = chosen.dest && l.mbx = chosen.mbx

/-- A load has failed: inside a region it aborts it with a cause of R343, else its destination is poisoned (R97, R345).
DEDUCED: log 29. -/
def State.failLoad (s : State) (i : Nat) (cause : BitVec 4) : State :=
  match s.core.loads[i]? with
  | none => s
  | some l =>
    let s1 := s.setCore { s.core with loads := s.core.loads.eraseIdx i }
    if s.core.tx.isSome then s1.txAbort cause else s1.poisonReg l

/-- A request left by a port that has failed: it is answered with a failure (R364). -/
def State.viaLost (s : State) (via : Option (Fin 18)) : Bool := via.any fun p => s.ports[p].state == .failed

/-- LOAD_REPLY: one outstanding load returns (R97). The input chooses which, and what comes back. An atomic that fails has not
been performed. -/
def execLoadReply (s : State) : Out :=
  let i := s.core.loadIndex s.input.index
  match s.core.loads[i]? with
  | none => .next s
  | some l =>
    if s.haltedCore then .next s
    else if l.val.isNone && !l.isRemote && !s.homeOk s.pid l.home l.size then .next (s.failLoad i 8)
    else
      let done (s : State) (w : Word) : State :=
        (s.setCore { s.core with loads := s.core.loads.eraseIdx i }).deliver l.dest l.mbx l.place w
      let value (s1 : State) : State := done s1 (((s1.core.loads[i]?).bind (·.val)).getD 0)
      match s.input.load with
      | .data => .next (if l.isRemote then s else value (s.performTo i))
      | .old t => .next ((s.performOld i t).elim s value)
      | .remote w => .next (if !l.isRemote then s else if s.viaLost l.via then s.failLoad i 4
          else done s (extend l.size l.sext (w.toNat % 2 ^ (8 * l.size))))
      | .ecc => .next (s.failLoad i (if l.isRemote then 4 else 8))
      | .fail => .next (if l.isRemote then s.failLoad i 4 else s)

/-- Which store is performed or fails: the chosen one, unless an older store to the same bytes stands before it (R94). -/
def Core.storeIndex (c : Core) (i : Nat) : Nat :=
  match c.stores[i]? with
  | none => 0
  | some st => if (c.stores.take i).any (·.overlaps st) then 0 else i

/-- Taking one store off the outstanding list; the place of a failure not yet reported follows, and so do the loads that it
stands before and the copies that it stood before. -/
def Core.dropStore (c : Core) (i : Nat) : Core :=
  { c with stores := c.stores.eraseIdx i, sterr := c.sterr.map fun e => (e.1, if i < e.2 then e.2 - 1 else e.2),
           loads := c.loads.map fun l => { l with older := if i < l.older then l.older - 1 else l.older },
           copies := c.copies.map fun (o : CopyOp) => { o with after := if i < o.after then o.after - 1 else o.after } }

/-- Store `i` is performed: the earlier loads of its bytes first (R94), then its bytes, or an atomic at its home. -/
def State.performStore (s : State) (i : Nat) (st : StoreOp) : State :=
  let s1 := if st.isRemote then s else s.performBefore (fun l => decide (l.older ≤ i)) s.core.loads.length st.home st.span
  let s2 := s1.setCore (s1.core.dropStore i)
  if st.isRemote then s2
  else match st.rmw with
    | some q => (s2.performRmw st.home q st.mark.isSome st.mark).2
    | none =>
      let s3 := s2.writeNear (some s.cur) st.near st.home (keepRos s2.mem st.home st.bytes)
      match st.mark with
      | some sh => s3.raceLeave st.home st.bytes.length sh
      | none => s3

/-- Where outstanding store `i` goes is no longer granted to the partition: it fails (R97, R390). DESIGN CHOICE: log 113. -/
def State.homeGone (s : State) (x : StoreOp) : Bool := !x.isRemote && !s.homeOk s.pid x.home x.span

/-- The acting core's loads and stores of a range that are outstanding are performed: what it does there at once follows them in
coherence order (R94, R425). -/
def State.performOwn (s : State) (home n : Nat) : State :=
  let s1 := s.performBefore (fun _ => true) s.core.loads.length home n
  (List.range s1.core.stores.length).foldl (fun s _ =>
    match s.core.stores.findIdx? fun x => !x.isRemote && meets x.home x.span home n with
    | none => s
    | some i => match s.core.stores[i]? with
      | none => s
      | some x => s.performStore i x) s1

/-- Store `i` is performed at a narrow scope, .rgn or .die, and not yet in memory (R331, R336): every agent of the scope sees it
from now on. -/
def State.performNear (s : State) (i : Nat) (k : BitVec 2) : State :=
  s.setCore { s.core with stores := s.core.stores.modify i fun x =>
    if x.isRemote || x.rmw.isSome || decide (k ≤ (x.near.map Prod.fst).getD 0) then x
    else { x with near := some (k, (x.near.map Prod.snd).getD (s.writes + 1)) } }

/-- An accepted store has failed; STERR keeps the oldest (R97). One that a commit region's tcommit sent makes tcommit abort the
region with REMOTE once the others have been answered (R345, R370); one left of a region that has aborted is only dropped. -/
def State.failStore (s : State) (i : Nat) : State :=
  match s.core.stores[i]? with
  | none => s
  | some st =>
    let c := s.core.dropStore i
    let older := match s.core.sterr with
      | none => true
      | some e => decide (i < e.2)
    if st.region then s.setCore { c with tx := c.tx.map fun x => { x with failed := true } }
    else if s.core.tx.isSome then (s.setCore c).txAbort (if st.isRemote then 4 else 8)
    else s.setCore (if older then { c with sterr := some (st.ea, i) } else c)

/-- STORE_PERFORMED: an accepted store becomes visible to every agent and NS falls (R101), or to those of a narrow scope that the
input names (R336). One whose home is no longer the partition's fails, and so does a remote one whose request left by a failed port
(R364). -/
def execStorePerformed (s : State) : Out :=
  let i := s.core.storeIndex s.input.index
  match s.core.stores[i]? with
  | none => .next s
  | some st =>
    .next (if s.haltedCore then s
      else if s.homeGone st || s.viaLost st.via then s.failStore i
      else if s.input.near = 1 ∨ s.input.near = 2 then s.performNear i s.input.near
      else s.performStore i st)

/-- STORE_FAILURE: the store that the input chooses fails (R97); one that some agent has seen does not. -/
def execStoreFailure (s : State) : Out :=
  .next (if s.haltedCore ∨ (s.core.stores[s.input.index]?).any (·.near.isSome) then s else s.failStore s.input.index)

/-! ## Stores at a narrow scope (R331, R336) -/

/-- The stores of core `c` that are performed at a narrow scope and that `sees` chooses are performed in memory. -/
def State.performSeen (s : State) (c : Fin 64) (sees : StoreOp → Bool) : State :=
  let go (s : State) : State := match s.core.stores.findIdx? fun x => x.near.isSome && sees x with
    | none => s
    | some i => match s.core.stores[i]? with
      | none => s
      | some x => s.performStore i x
  { (List.range s.cores[c].stores.length).foldl (fun s _ => go s) { s with cur := c } with cur := s.cur }

/-- Before an agent acts, the stores that have been performed at a scope it stands in are performed in memory, where it finds them:
for a core those of the cores of its die, for any other agent all. DEDUCED: log 95. -/
def State.heed (s : State) (me : Option (Fin 64)) : State :=
  if s.cores.any fun c => c.stores.any (·.near.isSome) then
    (List.finRange 64).foldl (fun s c => match me with
      | none => s.performSeen c fun _ => true
      | some i => if i = c then s else s.performSeen c fun x => nearTo i (some c) x.near) s
  else s

end Sys2Proof.Machine
end

