-- ==== Sys2Proof/Machine/Bins.lean ====
section
/-! DEFINITION. Full-or-empty bins (R267 to R271), the wait entries of an MT (R281), and the control-core bin
instructions (R270). -/

namespace Sys2Proof.Machine

/-! ## Bin state -/

/-- A bin of this module by number: scratchpad offset / 256 (R260, R267). -/
def State.bin (s : State) (k : Nat) : Bin := lookupD s.bins k Bin.zero

/-- The state with a bin replaced; a bin at reset is not listed. -/
def State.setBin (s : State) (k : Nat) (b : Bin) : State :=
  { s with bins := if b = Bin.zero then s.bins.filter (·.1 ≠ k) else assign s.bins k b }

/-- The state word of a bin (R267, R348). -/
def Bin.word (b : Bin) : Word :=
  (if b.full then 1 else 0) + BitVec.ofNat 64 (2 * b.cnt + 2 ^ 7 * b.decl + (if b.ovr then 2 ^ 13 else 0)) +
    BitVec.ofNat 64 (b.seq.toNat * 2 ^ 16)

/-- A staging phase by partition, module and serial (R348). -/
abbrev StageId := BitVec 4 × BitVec 10 × BitVec 32

/-- A filling write of `w` dwords (R268); in a staging phase a completed fill leaves the bin staged (R348). -/
def Bin.fill (b : Bin) (w : Nat) (phase : Option StageId) : Bin :=
  if w = 0 then b
  else if b.full || b.staged.isSome then { b with ovr := true }
  else if b.cnt + w < b.decl then { b with cnt := b.cnt + w }
  else if phase.isSome then { b with cnt := b.decl, staged := phase }
  else { b with full := true, cnt := 0 }

/-- A bin that leaves staging: full when its phase has committed, else empty (R348). -/
def Bin.unstage (b : Bin) (committed : Bool) : Bin := { b with staged := none, full := committed, cnt := 0 }

/-- A phase of this module or of another one that a partition knows. -/
def State.phaseAt (s : State) (p : BitVec 4) (k : PhaseKey) : Option Phase :=
  if k.1 = s.module then (s.part p).phases.find? (·.serial = k.2)
  else (s.part p).guests.find? fun x => x.owner == k.1 && x.serial == k.2

/-- How a staging phase has ended, or is about to, when it has: a cancelled one keeps its bins empty (R348,
R353). -/
def State.stageEnded (s : State) (q : StageId) : Option Bool :=
  match s.phaseAt q.1 q.2 with
  | none => none
  | some ph => match ph.pcc.state with
    | .open_ => if ph.cancelled then some false else none
    | .complete => some true
    | .cancelled => some false

/-- The event that makes a bin full is a release at .dom of its counted dwords (R271). DEDUCED: log 25. -/
def State.raceFill (s : State) (home : Nat) : State :=
  match s.shadow.find? (·.1 = home / 256) with
  | none => s
  | some (_, sh) =>
    let s1 := s.raceReleaseVia sh.writer 4 none sh.launch
    s1.raceLeave home 1 { sh with rel := (s1.clock sh.writer).rel.map fun r => (sh.writer, r) }

/-- The event that a bin's change is, when it has become full. -/
def State.fillEvent (s : State) (k : Nat) (was now : Bin) : State :=
  if !was.full && now.full then s.raceFill (spadBase + 256 * k) else s

/-- A filling write of `w` dwords reaches bin `k` (R268, R348, R353). -/
def State.fillBin (s : State) (k w : Nat) (phase : Option StageId) : State :=
  let b := s.bin k
  let b1 := b.fill w phase
  let b2 := match b1.staged.bind s.stageEnded with
    | none => b1
    | some ok => b1.unstage ok
  (s.setBin k b2).fillEvent k b b2

/-- The dwords of bin `k` that a range of the scratchpad touches (R268). -/
def dwordsIn (k off n : Nat) : Nat :=
  let lo := Nat.max off (k * 256)
  let hi := Nat.min (off + n) (k * 256 + 256)
  if lo < hi then (hi + 7) / 8 - lo / 8 else 0

/-- The bins that a range of the scratchpad reaches. -/
def binsIn (off n : Nat) : List Nat :=
  if n = 0 then [] else (List.range ((off + n - 1) / 256 - off / 256 + 1)).map (· + off / 256)

/-- The tags of the bins that a filling write reaches (R268). -/
def State.fillTags (s : State) (off n : Nat) (phase : Option StageId) : State :=
  (binsIn off n).foldl (fun s k => s.fillBin k (dwordsIn k off n) phase) s

/-- What a filling write of `n` bytes counts: nothing outside the scratchpad (R268). -/
def State.fillCount (s : State) (home n : Nat) (phase : Option StageId) : State :=
  if spadBase ≤ home ∧ home < spadBase + 2 ^ 29 then s.fillTags (home - spadBase) n phase else s

/-- A write by a station, an engine, a copy or a peer: into the scratchpad it is a filling write (R268). -/
def State.fillWrite (s : State) (home : Nat) (bytes : List Byte) (phase : Option StageId) : State :=
  (s.writeAs none home bytes).fillCount home bytes.length phase

/-- A write by a station of one line or less, of which `w` dwords are enabled; with none nothing is written (R173, R268,
R269). -/
def State.fillPart (s : State) (home : Nat) (bytes : List Byte) (w : Nat) (phase : Option StageId) : State :=
  if w = 0 then s
  else
    let s1 := s.writeMem none home bytes
    if spadBase ≤ home ∧ home < spadBase + 2 ^ 29 then s1.fillBin ((home - spadBase) / 256) w phase else s1

/-! ## Waiting (R281) -/

/-- A waiting request's bin is ready for it (R270, R281 to R283). -/
def State.binReady (s : State) (e : WaitEntry) : Bool :=
  let b := s.bin e.bin
  match e.who with
  | .ldc .. => b.full
  | .stf .. => !b.full
  | .ldcs _ _ _ any => b.full && (any || b.seq == e.sseq)
  | .stfs .. => !b.full

/-- A request for a bin is served at once: it is ready and no earlier request is ready there too. -/
def State.binNow (s : State) (e : WaitEntry) : Bool :=
  s.binReady e && !(s.waits.any fun o => o.bin == e.bin && o.sent && s.binReady o)

/-- The MT whose scratchpad holds a bin (R260, R267). -/
def binTile (k : Nat) : TileId := spadTile (256 * k)

/-- A request takes a wait entry of its MT's 16, or is refused and will be re-sent (R281). -/
def State.enqueueWait (s : State) (e : WaitEntry) : State :=
  let used := (s.waits.filter fun o => o.mt = e.mt ∧ o.sent).length
  { s with waits := s.waits ++ [{ e with sent := decide (used < 16) }] }

/-- WAIT_ENTRY_RESEND: the oldest refused request is sent again (R281). -/
def execWaitEntryResend (s : State) : Out :=
  match s.waits.find? (!·.sent) with
  | none => .next s
  | some e => .next ({ s with waits := dropFirst (!·.sent) s.waits }.enqueueWait e)

/-! ## Core instructions (R270) -/

/-- The scratchpad offset that a bin instruction names, after the checks of R93; only a scratchpad-window address will
do (R270). DEDUCED: log 26. -/
def State.binAddr (s : State) (a : Word) (aligned : Bool) (cause : BitVec 6) : Except (BitVec 6) Nat :=
  if a.extractLsb' 57 7 ≠ 0 then .error tADDR
  else if !aligned then .error cause
  else if windowOf a.toNat = some .spad ∧ s.granted s.pid .spad a.toNat 8 false then .ok (a.toNat - spadBase)
  else .error tADDR

/-- ldc has found its bin full: the dword is on its way to d, an acquire at .dom of the fill, and a consuming read empties the
bin (R270, R271). -/
def State.ldcTake (s : State) (d : Reg) (off : Nat) (peek : Bool) : State :=
  match s.reserve d with
  | .ok _ s1 =>
    let home := spadBase + off / 8 * 8
    let ea := BitVec.ofNat 64 (spadBase + off)
    let on := s.core.cmode && s.tracked s.pid home 8
    let s1 := (s1.performBefore (fun _ => true) s1.core.loads.length home 8).reads home
    let s2 := if on then s1.raceTake (.core s.cur) 4 home 8 else s1
    match s2.coreCheck ea home 8 false none with
    | none => s.trap tRACE ea
    | some s3 =>
      let l : LoadOp := { s3.core.newLoad d ea home 8 false with
        val := some (BitVec.ofNat 64 (leNat (s3.viewBytes home 8))), how := .bin }
      let s4 := (s3.coreSee s3.core.cmode home 8).acquire 4
      let b := s.bin (off / 256)
      ((if peek then s4 else s4.setBin (off / 256) { b with full := false, cnt := 0 }).setCore (s4.core.pushLoad l)).retire
  | _ => s

/-- stf has found its bin empty: the dword is written and the bin is full, a release at .dom (R270, R271). -/
def State.stfPut (s : State) (off : Nat) (v : Word) : State :=
  let home := spadBase + off / 8 * 8
  let ea := BitVec.ofNat 64 home
  match s.coreCheck ea home 8 true none with
  | none => s.trap tRACE ea
  | some s1 =>
    let s2 := match s1.coreMark home 8 none with
      | some sh => s1.raceLeave home 8 sh
      | none => s1
    let b := s.bin (off / 256)
    let b' := { b with full := true, cnt := 0, staged := none }
    let s3 := ((s2.writeMem (some s.cur) home (leBytes 8 v.toNat)).setBin (off / 256) b').fillEvent (off / 256) b b'
    (s3.setCore (s3.core.pushStore (StoreOp.plain ea home [] none))).retire

/-- The request that this core already has waiting. -/
def State.waitsNow (s : State) : Bool := s.waits.any (·.who.core? = some s.cur)

/-- ldc (R270): consumes or peeks once the bin is full; until then it waits in the MT. -/
def execLdc (d a : Reg) (s : State) : Out :=
  .next (s.unsafeIssue fun s =>
    if s.waitsNow ∨ s.core.loads.length ≥ 16 ∨ s.core.acquiring then s
    else s.withRegs [a] fun ws s' =>
      let w := ws.getD 0 0
      let peek := w.getLsbD 0
      match s.binAddr w (w.extractLsb' 1 2 == 0) tLDALIGN with
      | .error code => s.trap code w
      | .ok off =>
        match s.reserve d with
        | .trap code addr => s.trap code addr
        | .wait => s
        | .ok _ _ =>
          let e : WaitEntry := ⟨binTile (off / 256), off / 256, 0, .ldc s.cur [a] d (off / 8 * 8) peek, true⟩
          if s.core.atomicOn (spadBase + off / 8 * 8) 8 then s
          else if s.binNow e then s'.ldcTake d (off / 8 * 8) peek else s.enqueueWait e)

/-- stf (R270): fills once the bin is empty and every earlier access of the core has been performed (R271). -/
def execStf (a b : Reg) (s : State) : Out :=
  .next (s.unsafeIssue fun s =>
    if s.waitsNow ∨ !s.core.quiet then s
    else s.withRegs [a, b] fun ws s' =>
      let w := ws.getD 0 0
      match s.binAddr w (w.extractLsb' 0 3 == 0) tSTALIGN with
      | .error code => s.trap code w
      | .ok off =>
        let e : WaitEntry := ⟨binTile (off / 256), off / 256, 0, .stf s.cur [a, b] off (ws.getD 1 0), true⟩
        if s.binNow e then s'.stfPut off (ws.getD 1 0) else s.enqueueWait e)

/-- binq (R270): the bin's state word. -/
def execBinq (d a : Reg) (s : State) : Out :=
  .next (s.unsafeIssue fun s => if s.core.acquiring then s else s.withRegs [a] fun ws s' =>
    let w := ws.getD 0 0
    match s.binAddr w true tLDALIGN with
    | .error code => s.trap code w
    | .ok off => s.finish s' d (s.bin (off / 256)).word)

/-- binset (R270): sets the tag and DECL, clears CNT and OVR, and removes the bin from staging (R348). -/
def execBinset (a : Reg) (v : BitVec 1) (s : State) : Out :=
  .next (s.unsafeIssue fun s =>
    if s.core.stores.length ≥ 32 ∨ s.core.acquiring then s
    else s.withRegs [a] fun ws s' =>
      let w := ws.getD 0 0
      match s.binAddr w (w.extractLsb' 0 3 == 0) tSTALIGN with
      | .error code => s.trap code w
      | .ok off =>
        let b := s.bin (off / 256)
        let s1 := s'.setBin (off / 256)
          { b with full := v == 1, cnt := 0, ovr := false, decl := off / 8 % 32 + 1, staged := none }
        (s1.setCore (s1.core.pushStore (StoreOp.plain w (spadBase + off) [] none))).retire)

end Sys2Proof.Machine
end

