-- ==== Sys2Proof/Machine/Branch.lean ====
section
/-! DEFINITION. Branches, jumps and calls (R98 to R100). -/

namespace Sys2Proof.Machine

/-- A conditional branch (R98). -/
def State.branch (s : State) (a b : Reg) (i : BitVec 16) (f : Word → Word → Bool) : State :=
  s.issue fun s => s.withRegs [a, b] fun ws s' =>
    s'.retireAt (if f (ws.getD 0 0) (ws.getD 1 0) then branchTo s.core.pc i else s.core.pc + 4)

/-- beq (R98). -/
def execBeq (a b : Reg) (i : BitVec 16) (s : State) : Out := .next (s.branch a b i (· == ·))
/-- bne (R98). -/
def execBne (a b : Reg) (i : BitVec 16) (s : State) : Out := .next (s.branch a b i (· != ·))
/-- blt (R98). -/
def execBlt (a b : Reg) (i : BitVec 16) (s : State) : Out := .next (s.branch a b i BitVec.slt)
/-- bge (R98). -/
def execBge (a b : Reg) (i : BitVec 16) (s : State) : Out := .next (s.branch a b i fun a b => b.sle a)
/-- bltu (R98). -/
def execBltu (a b : Reg) (i : BitVec 16) (s : State) : Out := .next (s.branch a b i BitVec.ult)
/-- bgeu (R98). -/
def execBgeu (a b : Reg) (i : BitVec 16) (s : State) : Out := .next (s.branch a b i fun a b => b.ule a)

/-- The write of the link register g1, which no mailbox ever is (R75, R99). -/
def State.link (s : State) : State := s.setCore (s.core.setReg 1 (s.core.pc + 4))

/-- jmp (R99). -/
def execJmp (i : BitVec 26) (s : State) : Out := .next (s.issue fun s => s.retireAt (jumpTo s.core.pc i))

/-- call (R99). -/
def execCall (i : BitVec 26) (s : State) : Out := .next (s.issue fun s => s.link.retireAt (jumpTo s.core.pc i))

/-- jr and callr: the target is read before any write, and a misaligned one traps (R99). -/
def State.jumpReg (s : State) (a : Reg) (links : Bool) : State :=
  s.issue fun s => s.withRegs [a] fun ws s' =>
    let t := ws.getD 0 0
    if t.extractLsb' 0 2 ≠ 0 then s.trap tFETCHALIGN t
    else (if links then s'.link else s').retireAt t

/-- jr (R99). -/
def execJr (a : Reg) (s : State) : Out := .next (s.jumpReg a false)
/-- callr (R99). -/
def execCallr (a : Reg) (s : State) : Out := .next (s.jumpReg a true)

end Sys2Proof.Machine
end

