-- ==== Sys2Proof/Machine/Crypto.lean ====
section
/-! DEFINITION. The hash functions and the check that the manual names: SHAKE256 and SHA3-512 (FIPS 202; R155, R420,
R431) and CRC-32C (R155, R384). -/

namespace Sys2Proof.Machine

/-! ## Keccak-f[1600] -/

/-- The round constants of FIPS 202. -/
def keccakRC : List Word :=
  [0x0000000000000001, 0x0000000000008082, 0x800000000000808A, 0x8000000080008000, 0x000000000000808B, 0x0000000080000001] ++
  [0x8000000080008081, 0x8000000000008009, 0x000000000000008A, 0x0000000000000088, 0x0000000080008009, 0x000000008000000A] ++
  [0x000000008000808B, 0x800000000000008B, 0x8000000000008089, 0x8000000000008003, 0x8000000000008002, 0x8000000000000080] ++
  [0x000000000000800A, 0x800000008000000A, 0x8000000080008081, 0x8000000000008080, 0x0000000080000001, 0x8000000080008008]

/-- The rotation of lane x + 5y. -/
def keccakRot : List Nat :=
  [0, 1, 62, 28, 27, 36, 44, 6, 55, 20, 3, 10, 43, 25, 39, 41, 45, 15, 21, 8, 18, 2, 61, 56, 14]

/-- Lane x + 5y. -/
def keccakLane (a : List Word) (x y : Nat) : Word := a.getD (x % 5 + 5 * (y % 5)) 0

/-- The step θ. -/
def keccakTheta (a : List Word) : List Word :=
  let c := (List.range 5).map fun x => keccakLane a x 0 ^^^ keccakLane a x 1 ^^^ keccakLane a x 2 ^^^ keccakLane a x 3 ^^^ keccakLane a x 4
  let d := (List.range 5).map fun x => c.getD ((x + 4) % 5) 0 ^^^ (c.getD ((x + 1) % 5) 0).rotateLeft 1
  (List.range 25).map fun i => a.getD i 0 ^^^ d.getD (i % 5) 0

/-- The steps ρ and π: lane (x, y) moves, rotated, to (y, 2x + 3y). -/
def keccakRhoPi (a : List Word) : List Word :=
  (List.range 25).map fun i =>
    let x := i % 5
    let y := i / 5
    let x0 := (x + 3 * y) % 5
    (keccakLane a x0 x).rotateLeft (keccakRot.getD (x0 + 5 * x) 0)

/-- The step χ. -/
def keccakChi (a : List Word) : List Word :=
  (List.range 25).map fun i =>
    let x := i % 5
    let y := i / 5
    keccakLane a x y ^^^ (~~~(keccakLane a (x + 1) y) &&& keccakLane a (x + 2) y)

/-- The step ι. -/
def keccakIota (rc : Word) : List Word → List Word
  | [] => []
  | w :: ws => (w ^^^ rc) :: ws

/-- The permutation. -/
def keccakF (a : List Word) : List Word :=
  keccakRC.foldl (fun a rc => keccakIota rc (keccakChi (keccakRhoPi (keccakTheta a)))) a

/-- A dword of bytes, least significant first. -/
def wordLE (b : List Byte) : Word := b.foldr (fun x acc => acc * 256 + x.setWidth 64) 0

/-- The `i`-th byte of a dword. -/
def byteLE (w : Word) (i : Nat) : Byte := (w >>> (8 * i)).setWidth 8

/-- A block of bytes exclusive-ored into the state. -/
def keccakAbsorb (a : List Word) (block : List Byte) : List Word :=
  keccakF ((List.range 25).map fun i => a.getD i 0 ^^^ wordLE ((block.drop (8 * i)).take 8))

/-- The padded message: the suffix byte, zeros, and a last one bit. -/
def keccakPad (rate : Nat) (suffix : Byte) (m : List Byte) : List Byte :=
  let n := rate - m.length % rate
  if n = 1 then m ++ [suffix ||| 0x80] else m ++ [suffix] ++ List.replicate (n - 2) 0 ++ [0x80]

/-- All blocks absorbed. -/
def keccakBlocks (rate : Nat) : Nat → List Word → List Byte → List Word
  | 0, a, _ => a
  | n + 1, a, m => keccakBlocks rate n (keccakAbsorb a (m.take rate)) (m.drop rate)

/-- `n` further blocks of output. -/
def keccakSqueeze (rate : Nat) : Nat → List Word → List Byte
  | 0, _ => []
  | n + 1, a => (a.flatMap fun w => (List.range 8).map (byteLE w)).take rate ++ keccakSqueeze rate n (keccakF a)

/-- The sponge: `out` bytes of a message's digest. -/
def sponge (rate : Nat) (suffix : Byte) (m : List Byte) (out : Nat) : List Byte :=
  let p := keccakPad rate suffix m
  (keccakSqueeze rate (out / rate + 1) (keccakBlocks rate (p.length / rate) (List.replicate 25 0) p)).take out

/-- SHAKE256. -/
def shake256 (m : List Byte) (out : Nat) : List Byte := sponge 136 0x1F m out

/-- SHA3-512. -/
def sha3_512 (m : List Byte) : List Byte := sponge 72 0x06 m 64

/-! ## CRC-32C -/

/-- One bit of the reflected CRC with polynomial 0x1EDC6F41. -/
@[irreducible] def crcBit (c : Nat) : Nat := if c % 2 = 1 then (c / 2) ^^^ 0x82F63B78 else c / 2

/-- One byte of it. -/
def crcByte (c : Nat) (b : Byte) : Nat :=
  crcBit (crcBit (crcBit (crcBit (crcBit (crcBit (crcBit (crcBit (c ^^^ b.toNat))))))))

/-- The remainder after more bytes. Each byte's is matched, so that an evaluation has it before the next byte. -/
def crcFrom : List Byte → Nat → Nat
  | [], c => c
  | b :: m, c =>
    match crcByte c b with
    | 0 => crcFrom m 0
    | n + 1 => crcFrom m (n + 1)

/-- CRC-32C of bytes: initial value and final exclusive-or of all ones. -/
def crc32c (m : List Byte) : Word32 := ~~~BitVec.ofNat 32 (crcFrom m 0xFFFFFFFF)

end Sys2Proof.Machine
end

