-- ==== Sys2Proof/Machine/Ed448.lean ====
section
/-! DEFINITION. Ed448 keys, signatures and their verification, pure, with an empty context (R155), as RFC 8032 defines it (log 5). -/

namespace Sys2Proof.Machine

/-- The field prime, the curve's d, the group order and the base point of edwards448. -/
def edP : Nat := 2 ^ 448 - 2 ^ 224 - 1
def edD : Nat := edP - 39081
def edL : Nat := 2 ^ 446 - 13818066809895115352007386748515426880336692474882178609894547503885
def edBx : Nat := 224580040295924300187604334099896036246789641632564134246125461686950415467406032909029192869357953282578032075146446173674602635247710
def edBy : Nat := 298819210078481492676017930443930673437544040154080242095928241372331506189835876003536878655418784733982303233503462500531545062832660

/-- Powers modulo the prime, by the exponent's bits. -/
def edPow (b e : Nat) : Nat :=
  (List.range 448).reverse.foldl (fun r i =>
    let r2 := r * r % edP
    if e.testBit i then r2 * b % edP else r2) 1

/-- A point in projective coordinates. -/
structure EdPoint where
  x : Nat
  y : Nat
  z : Nat
  deriving DecidableEq, Repr

/-- The neutral point and the base point. -/
def edZero : EdPoint := ⟨0, 1, 1⟩
def edBase : EdPoint := ⟨edBx, edBy, 1⟩

/-- The complete addition law of the curve. -/
def edAdd (p q : EdPoint) : EdPoint :=
  let a := p.z * q.z % edP
  let b := a * a % edP
  let c := p.x * q.x % edP
  let d := p.y * q.y % edP
  let e := edD * c % edP * d % edP
  let f := (b + (edP - e)) % edP
  let g := (b + e) % edP
  let h := (p.x + p.y) * (q.x + q.y) % edP
  ⟨a * f % edP * ((h + 2 * edP - c - d) % edP) % edP, a * g % edP * ((d + edP - c) % edP) % edP, f * g % edP⟩

/-- A multiple of a point, from the highest bit down. -/
def edMul (k : Nat) (p : EdPoint) : EdPoint :=
  (List.range 448).reverse.foldl (fun r i =>
    let r2 := edAdd r r
    if k.testBit i then edAdd r2 p else r2) edZero

/-- Equality of points. -/
def edEq (p q : EdPoint) : Bool :=
  p.x * q.z % edP == q.x * p.z % edP && p.y * q.z % edP == q.y * p.z % edP

/-- A number from bytes, least significant first. -/
def edNat (b : List Byte) : Nat := b.foldr (fun x acc => acc * 256 + x.toNat) 0

/-- A point from its 57 bytes; none when there is no such point. -/
def edPoint (b : List Byte) : Option EdPoint :=
  let n := edNat b
  let y := n % 2 ^ 448
  let top := n / 2 ^ 448
  if b.length ≠ 57 ∨ edP ≤ y ∨ top % 128 ≠ 0 then none
  else
    let sign := top / 128
    let u := (y * y + edP - 1) % edP
    let v := (edD * (y * y % edP) + edP - 1) % edP
    let u3v := edPow u 3 * v % edP
    let x := u3v * edPow (edPow u 5 * edPow v 3 % edP) ((edP - 3) / 4) % edP
    if v * (x * x % edP) % edP ≠ u then none
    else if x = 0 ∧ sign = 1 then none
    else some ⟨if x % 2 = sign then x else edP - x, y, 1⟩

/-- The 57 bytes of a point. -/
def edBytes (p : EdPoint) : List Byte :=
  let i := edPow p.z (edP - 2)
  leBytes 57 (p.y * i % edP + if p.x * i % edP % 2 = 1 then 2 ^ 455 else 0)

/-- What a 57-byte private key stands for: its scalar, and the prefix of its signatures (RFC 8032, section 5.2.5). -/
def edSecret (key : List Byte) : Nat × List Byte :=
  let h := shake256 key 114
  (edNat (h.take 55) / 4 * 4 + 2 ^ 447 + edNat ((h.drop 55).take 1) % 2 ^ 7 * 2 ^ 440, h.drop 57)

/-- The public key of a private key. PRESUMED: log 5. -/
def edPublic (key : List Byte) : List Byte := edBytes (edMul (edSecret key).1 edBase)

/-- What is hashed in front of a message: the domain of pure Ed448 with an empty context. -/
def edDom : List Byte := [0x53, 0x69, 0x67, 0x45, 0x64, 0x34, 0x34, 0x38, 0, 0]

/-- The Ed448 signature of a message by a private key (RFC 8032, section 5.2.6). PRESUMED: log 5. -/
def edSign (key msg : List Byte) : List Byte :=
  let (a, pre) := edSecret key
  let r := edNat (shake256 (edDom ++ pre ++ msg) 114) % edL
  let rb := edBytes (edMul r edBase)
  let k := edNat (shake256 (edDom ++ rb ++ edPublic key ++ msg) 114) % edL
  rb ++ leBytes 57 ((r + k * a) % edL)

/-- Ed448 verification of a signature over a message by a public key (RFC 8032, section 5.2.7, with the cofactor).
PRESUMED: log 5. -/
def ed448 (key msg sig : List Byte) : Bool :=
  if sig.length ≠ 114 then false
  else match edPoint key, edPoint (sig.take 57) with
    | some a, some r =>
      let s := edNat (sig.drop 57)
      if edL ≤ s then false
      else
        let k := edNat (shake256 (edDom ++ sig.take 57 ++ key ++ msg) 114) % edL
        edEq (edMul 4 (edMul s edBase)) (edMul 4 (edAdd r (edMul k a)))
    | _, _ => false

end Sys2Proof.Machine
end

