-- ==== Sys2Proof/Machine/Floats.lean ====
section
/-! DEFINITION. W48 arithmetic (R174 to R179, R189 to R193): exact values, the one rounding, and the operations of the
W48, vector, exponential and estimate stations. -/

namespace Sys2Proof.Machine

/-! ## Values -/

/-- Rounding modes as RM codes them (R62): RNE, RZ, RU, RD. -/
abbrev RMode := BitVec 2
def rNE : RMode := 0
def rZ : RMode := 1
def rU : RMode := 2
def rD : RMode := 3

/-- The exact value of a float: a NaN with its W48 word, a signed infinity, or (−1)^neg × m × 2^e. -/
inductive FV where
  | nan (w : W48)
  | inf (neg : Bool)
  | num (neg : Bool) (m : Nat) (e : Int)
  deriving DecidableEq, Repr

/-- Sign, exponent and significand of a W48 word (R174). -/
def wSign (w : W48) : Bool := w.getLsbD 47
def wExp (w : W48) : Int := (w.extractLsb' 36 11).toInt
def wMant (w : W48) : Nat := (w.extractLsb' 0 36).toNat

/-- A W48 word from sign, exponent and significand. -/
def wMake (neg : Bool) (e : Int) (m : Nat) : W48 :=
  (if neg then (1 : BitVec 1) else 0) ++ BitVec.ofInt 11 e ++ BitVec.ofNat 36 m

/-- The value of a W48 word; an unnormal is taken at its value (R174). -/
def fvOf (w : W48) : FV :=
  if wExp w = -1024 then .num (wSign w) (wMant w) (-1058)
  else if wExp w = 1023 then (if wMant w = 0 then .inf (wSign w) else .nan w)
  else .num (wSign w) (wMant w) (wExp w - 35)

/-- The marked words (R175). -/
def wZero (neg : Bool) : W48 := wMake neg (-1024) 0
def wInf (neg : Bool) : W48 := wMake neg 1023 0
def wNaN : W48 := wMake false 1023 0x800000000
def wMax (neg : Bool) : W48 := wMake neg 1022 (2 ^ 36 - 1)

/-- A NaN made quiet (R178). -/
def quiet (w : W48) : W48 := w ||| BitVec.ofNat 48 (2 ^ 35)

/-! ## Rounding (R176) -/

/-- The direction of a rounding on the magnitude. -/
inductive Dir where
  | up | down | near
  deriving DecidableEq, Repr

/-- The direction that a mode takes for a sign (R176). -/
def dirOf (rm : RMode) (neg : Bool) : Dir :=
  if rm = rU then (if neg then .down else .up)
  else if rm = rD then (if neg then .up else .down)
  else if rm = rZ then .down
  else .near

/-- m × 2^e in units of 2^q, rounded to an integer in a direction. -/
def roundAt (dir : Dir) (m : Nat) (e q : Int) : Nat :=
  if q ≤ e then m * 2 ^ (e - q).toNat
  else
    let k := (q - e).toNat
    let mi := m / 2 ^ k
    let r := m % 2 ^ k
    match dir with
    | .down => mi
    | .up => if r = 0 then mi else mi + 1
    | .near => if 2 ^ k < 2 * r ∨ (2 * r = 2 ^ k ∧ mi % 2 = 1) then mi + 1 else mi

/-- floor(log2 (m × 2^e)) of a nonzero magnitude. -/
def log2V (m : Nat) (e : Int) : Int := (Nat.log2 m : Int) + e

/-- RoundW48 of a value that is not a NaN or an infinity (R176). A zero keeps the sign given. -/
def roundNum (neg : Bool) (m : Nat) (e : Int) (rm : RMode) : W48 :=
  if m = 0 then wZero neg
  else
    let dir := dirOf rm neg
    let q := max (log2V m e - 35) (-1058)
    let mi := roundAt dir m e q
    let q' := if mi = 2 ^ 36 then q + 1 else q
    let mi' := if mi = 2 ^ 36 then 2 ^ 35 else mi
    if mi' = 0 then wZero neg
    else
      let ex := if mi' < 2 ^ 35 then -1024 else q' + 35
      if 1022 < ex then (if dir = .down then wMax neg else wInf neg) else wMake neg ex mi'

/-- RoundW48 (R176). -/
def roundW48 (v : FV) (rm : RMode) : W48 :=
  match v with
  | .nan w => quiet w
  | .inf neg => wInf neg
  | .num neg m e => roundNum neg m e rm

/-- RoundInt of a finite value (R172, R176). -/
def roundInt (neg : Bool) (m : Nat) (e : Int) (rm : RMode) : Int :=
  let k : Int := roundAt (dirOf rm neg) m e 0
  if neg then -k else k

/-- An exact integer times a power of two, as a value; zero with sign `negZero`. -/
def fvInt (n : Int) (e : Int) (negZero : Bool) : FV :=
  if n = 0 then .num negZero 0 0 else .num (decide (n < 0)) n.natAbs e

/-- A value as an integer in units of 2^e0, for e0 no greater than its exponent. -/
def signedAt (neg : Bool) (m : Nat) (e e0 : Int) : Int :=
  let k : Int := m * 2 ^ (e - e0).toNat
  if neg then -k else k

/-! ## Operations (R177 to R179, R218 to R223) -/

/-- The exact sum of two values under the zero-sign rule of R177; NaNs and ∞ − ∞ by R178. -/
def fvAdd (a b : FV) (rm : RMode) : FV :=
  match a, b with
  | .nan w, _ => .nan w
  | _, .nan w => .nan w
  | .inf s, .inf t => if s = t then .inf s else .nan wNaN
  | .inf s, _ => .inf s
  | _, .inf t => .inf t
  | .num s m e, .num t n f =>
    let e0 := min e f
    let v := signedAt s m e e0 + signedAt t n f e0
    if v = 0 then .num (if m = 0 ∧ n = 0 ∧ s = t then s else rm == rD) 0 0 else fvInt v e0 false

/-- The exact product (R177, R178). -/
def fvMul (a b : FV) : FV :=
  match a, b with
  | .nan w, _ => .nan w
  | _, .nan w => .nan w
  | .inf s, .inf t => .inf (s != t)
  | .inf s, .num t n _ => if n = 0 then .nan wNaN else .inf (s != t)
  | .num s m _, .inf t => if m = 0 then .nan wNaN else .inf (s != t)
  | .num s m e, .num t n f => .num (s != t) (m * n) (e + f)

/-- The value with its sign inverted; a NaN keeps its word. -/
def fvNeg : FV → FV
  | .nan w => .nan w
  | .inf s => .inf (!s)
  | .num s m e => .num (!s) m e

def wAdd (a b : W48) (rm : RMode) : W48 := roundW48 (fvAdd (fvOf a) (fvOf b) rm) rm
def wSub (a b : W48) (rm : RMode) : W48 := roundW48 (fvAdd (fvOf a) (fvNeg (fvOf b)) rm) rm
def wMul (a b : W48) (rm : RMode) : W48 := roundW48 (fvMul (fvOf a) (fvOf b)) rm

/-- A fused multiply-add with signs on product and addend; the first NaN of a, b, c governs, then an invalid product
(R176 to R178). -/
def wFma (negP negC : Bool) (a b c : W48) (rm : RMode) : W48 :=
  match fvOf a, fvOf b, fvOf c with
  | .nan w, _, _ => quiet w
  | _, .nan w, _ => quiet w
  | x, y, z =>
    match fvMul x y, z with
    | .nan _, .nan n => quiet n
    | p, z => roundW48 (fvAdd (if negP then fvNeg p else p) (if negC then fvNeg z else z) rm) rm

/-- Integer square root, bit by bit from 2^k downward. -/
def isqrtFrom (n : Nat) : Nat → Nat → Nat
  | 0, r => if (r + 1) * (r + 1) ≤ n then r + 1 else r
  | k + 1, r =>
    let c := r + 2 ^ (k + 1)
    isqrtFrom n k (if c * c ≤ n then c else r)

/-- floor(√n). -/
def isqrt (n : Nat) : Nat := isqrtFrom n (Nat.log2 n / 2 + 1) 0

/-- fdiv (R179): the quotient to 54 bits and more, with what is left as a sticky bit. -/
def wDiv (a b : W48) (rm : RMode) : W48 :=
  match fvOf a, fvOf b with
  | .nan w, _ => quiet w
  | _, .nan w => quiet w
  | .inf _, .inf _ => wNaN
  | .inf s, .num t _ _ => wInf (s != t)
  | .num s _ _, .inf t => wZero (s != t)
  | .num s m e, .num t n f =>
    if n = 0 then (if m = 0 then wNaN else wInf (s != t))
    else if m = 0 then wZero (s != t)
    else
      let x := m * 2 ^ 90
      roundNum (s != t) (2 * (x / n) + (if x % n = 0 then 0 else 1)) (e - f - 91) rm

/-- fsqrt (R179). -/
def wSqrt (a : W48) (rm : RMode) : W48 :=
  match fvOf a with
  | .nan w => quiet w
  | .inf s => if s then wNaN else wInf false
  | .num s m e =>
    if m = 0 then wZero s
    else if s then wNaN
    else
      let odd := e % 2 = 1
      let x := (if odd then 2 * m else m) * 2 ^ 120
      let r := isqrt x
      roundNum false (2 * r + (if r * r = x then 0 else 1)) ((if odd then e - 1 else e) / 2 - 61) rm

/-- fneg and fabs (R219). -/
def wNeg (a : W48) : W48 :=
  let q := match fvOf a with
    | .nan _ => quiet a
    | _ => a
  q ^^^ BitVec.ofNat 48 (2 ^ 47)
def wAbs (a : W48) : W48 :=
  let q := match fvOf a with
    | .nan _ => quiet a
    | _ => a
  q &&& BitVec.ofNat 48 (2 ^ 47 - 1)

/-- A word is a NaN. -/
def wIsNaN (a : W48) : Bool :=
  match fvOf a with
  | .nan _ => true
  | _ => false

/-- An order key of a value that is not a NaN: a sign class for infinities, else the value in units of 2^-1058. Two
zeros have equal keys. -/
def fvKey : FV → Int × Int
  | .nan _ => (0, 0)
  | .inf s => (if s then -1 else 1, 0)
  | .num s m e => (0, signedAt s m e (-1058))

/-- Less than, of values that are not NaNs, +0 and −0 equal (R221). -/
def fvLt (a b : FV) : Bool :=
  let x := fvKey a
  let y := fvKey b
  decide (x.1 < y.1) || (x.1 == y.1 && decide (x.2 < y.2))

/-- Equal, of values that are not NaNs. -/
def fvEq (a b : FV) : Bool := fvKey a == fvKey b

/-- Less than in the order of fmin and fmax, where −0 < +0 (R220). -/
def wBelow (a b : W48) : Bool :=
  fvLt (fvOf a) (fvOf b) || (fvEq (fvOf a) (fvOf b) && wSign a && !wSign b && (fvKey (fvOf a)).2 == 0 && (fvKey (fvOf a)).1 == 0)

/-- fmin and fmax (R220). -/
def wMinMax (max_ : Bool) (a b : W48) : W48 :=
  if wIsNaN a then (if wIsNaN b then quiet a else b)
  else if wIsNaN b then a
  else if max_ then (if wBelow a b then b else a)
  else (if wBelow b a then b else a)

/-- The condition of fcmp (R221). -/
def wCmp (cond : BitVec 3) (a b : W48) : Bool :=
  let un := wIsNaN a || wIsNaN b
  let lt := !un && fvLt (fvOf a) (fvOf b)
  let eq := !un && fvEq (fvOf a) (fvOf b)
  match cond.toNat with
  | 0 => eq
  | 1 => !eq
  | 2 => lt
  | 3 => lt || eq
  | 4 => !un && !lt && !eq
  | 5 => !un && !lt
  | 6 => un
  | _ => !un

/-- fclass (R222). -/
def wClass (a : W48) : Nat :=
  let s := wSign a
  let e := wExp a
  let m := wMant a
  if e = 1023 then (if m = 0 then (if s then 0 else 7) else if 2 ^ 35 ≤ m then 9 else 8)
  else if e = -1024 then (if m = 0 then (if s then 3 else 4) else if s then 2 else 5)
  else if m < 2 ^ 35 then 10
  else if s then 1 else 6

/-- fscale (R223). -/
def wScale (a : W48) (b : Word) (rm : RMode) : W48 :=
  match fvOf a with
  | .nan w => quiet w
  | .inf s => wInf s
  | .num s m e => roundNum s m (e + max (-2200) (min 2200 b.toInt)) rm

/-- frnd (R223). -/
def wRnd (a : W48) (rm : RMode) : W48 :=
  match fvOf a with
  | .nan w => quiet w
  | .inf s => wInf s
  | .num s m e => roundW48 (fvInt (roundInt s m e rm) 0 s) rm

/-- RoundInt saturated to a range: NaN gives 0 and infinities the ends (R180, R230). -/
def satInt (v : FV) (rm : RMode) (lo hi : Int) : Int :=
  match v with
  | .nan _ => 0
  | .inf s => if s then lo else hi
  | .num s m e => max lo (min hi (roundInt s m e rm))

/-- The I64 range. -/
def i64Lo : Int := -(2 ^ 63)
def i64Hi : Int := 2 ^ 63 - 1

/-! ## Sums (R189) -/

/-- One level of the pairwise tree. -/
def pairLevel (f : W48 → W48 → W48) : List W48 → List W48
  | a :: b :: rest => f a b :: pairLevel f rest
  | l => l

/-- The pairwise tree over a list, by levels. -/
def pairTree (f : W48 → W48 → W48) : Nat → List W48 → W48
  | _, [] => wZero false
  | 0, a :: _ => a
  | _ + 1, [a] => a
  | n + 1, l => pairTree f n (pairLevel f l)

/-- PairSum (R189). -/
def pairSum (l : List W48) (rm : RMode) : W48 := pairTree (fun a b => wAdd a b rm) l.length l

/-! ## Exponential, logarithm and estimates (R191 to R193) -/

/-- Nearest integer to a quotient, ties to even. -/
def rneQ (n d : Nat) : Nat :=
  let q := n / d
  if d < 2 * (n % d) ∨ (2 * (n % d) = d ∧ q % 2 = 1) then q + 1 else q

/-- T[i] = RNE(2^(i/64) × 2^38) (R191). -/
def tabT : List Int :=
  [0x4000000000, 0x40B268F9DE, 0x4166C34C56, 0x421D1461D6, 0x42D561B3E6, 0x438FB0CB4F, 0x444C074049, 0x450A6ABAA5] ++
  [0x45CAE0F1F5, 0x468D6FADBF, 0x47521CC5A3, 0x4818EE218A, 0x48E1E9B9D6, 0x49AD15978A, 0x4A7A77D47F, 0x4B4A169B90] ++
  [0x4C1BF828C7, 0x4CF022C990, 0x4DC69CDCEB, 0x4E9F6CD396, 0x4F7A993049, 0x50582887DD, 0x5138218186, 0x521A8AD705] ++
  [0x52FF6B54D9, 0x53E6C9DA75, 0x54D0AD5A75, 0x55BD1CDAD5, 0x56AC1F7521, 0x579DBC56B5, 0x5891FAC0E9, 0x5988E20955] ++
  [0x5A827999FD, 0x5B7EC8F194, 0x5C7DD7A3B1, 0x5D7FAD590A, 0x5E8451CFAC, 0x5F8BCCDB3D, 0x6096266533, 0x61A3666D12] ++
  [0x62B39508AB, 0x63C6BA6456, 0x64DCDEC337, 0x65F60A7F79, 0x6712460A90, 0x683199ED78, 0x69540EC8F9, 0x6A79AD55E8] ++
  [0x6BA27E656B, 0x6CCE8AE13C, 0x6DFDDBCBED, 0x6F307A412F, 0x70666F7615, 0x719FC4B95F, 0x72DC8373BE, 0x741CB5281E] ++
  [0x75606373EF, 0x76A7980F6D, 0x77F25CCDEE, 0x7940BB9E2D, 0x7A92BE8A92, 0x7BE86FB985, 0x7D41D96DB9, 0x7E9F06067A]

/-- LT[i] = RNE(−2^48 × log2(RT[i] × 2^-40)) (R192). -/
def tabLT : List Int :=
  [0x0, 0x5B9E5A17058, 0xB5D69BAC773, 0x10EB389FA238, 0x1663F6FAC8FC, 0x1BC84240ADC3, 0x2118B119B45E, 0x2655D3C4F11D] ++
  [0x2B803473F809, 0x309857A05E13, 0x359EBC5B6994, 0x3A93DC986473, 0x3F782D7205A0, 0x444C1F6B4C62, 0x49101EAC3857, 0x4DC4933A928B] ++
  [0x5269E12F3412, 0x570068E7EFEA, 0x5B88873673CC, 0x6002958C57B9, 0x646EEA247CB8, 0x68CDD829FD08, 0x6D1FAFDCE267, 0x7164BEB4A5B8] ++
  [0x759D4F80CB1E, 0x79C9AA879D6A, 0x7DEA15A32CDF, 0x81FED45CBD51, 0x86082806B1EC, 0x8A064FD50E83, 0x8DF988F4AD77, 0x91E20EA138C5] ++
  [0x95C01A39FB1E, 0x9993E355A45B, 0x9D5D9FD50168, 0xA11D83F4C34A, 0xA4D3C25E680D, 0xA8808C3844DA, 0xAC241134C40E, 0xAFBE7FA0F0F5] ++
  [0xB35004723BEA, 0xB6D8CB53B034, 0xBA58FEB26FB0, 0xBDD0C7C9A6F1, 0xC1404EADF4B0, 0xC4A7BA583874, 0xC80730AFFF0D, 0xCB5ED6956640] ++
  [0xCEAECFEA80E2, 0xD1F73F9C7065, 0xD53847AC009B, 0xD8720935E65A, 0xDBA4A47AA93A, 0xDED038E6334C, 0xE1F4E5170D99, 0xE512C6E54A46] ++
  [0xE829FB692F02, 0xEB3A9F019705, 0xEE44CD59FF2C, 0xF148A1706EB6, 0xF446359B11F9, 0xF73DA38D9E2C, 0xFA2F045E788F, 0xFD1A708BBE6E]

/-- C0 to C3 (R191). -/
def expC : List Int := [0x10163DA9FAE40, 0xB268C0B8E8F4, 0x3DD50233EB84, 0xE4944C49359]

/-- P_1 to P_8 (R192). -/
def logP : List Int :=
  [0x171547652B830, -0xB8AA3B295C18, 0x7B1C2770E810, -0x5C551D94AE0C, 0x49DDB143BE70, -0x3D8E13B87408, 0x34C2EC54F5BE, -0x2E2A8ECA5706]

/-- LOG2E = RoundW48(log2 e, RNE) (R191). -/
def wLog2e : W48 := 0xB8AA3B296
/-- RT[i] = RNE(2^40 × 64/(64 + i)) (R192). -/
def tabRT (i : Nat) : Nat := rneQ (2 ^ 46) (64 + i)

/-- Exp2W (R191). -/
def exp2W (t : W48) (rm : RMode) : W48 :=
  match fvOf t with
  | .nan w => quiet w
  | .inf s => if s then wZero false else wInf false
  | .num s m e =>
    let v := fvInt (signedAt s m e (-1058)) (-1058) false
    if !fvLt v (.num false 1 10) then roundNum false 1 1024 rm
    else if fvLt v (.num true 1100 0) then roundNum false 1 (-1100) rm
    else
      let x := signedAt s m e (-1058)
      let n := x / 2 ^ 1058
      let f := x % 2 ^ 1058
      if f = 0 then roundNum false 1 n rm
      else
        let ff := f / 2 ^ (1058 - 64)
        let i := (ff / 2 ^ 58).toNat
        let u := (ff % 2 ^ 58 - 2 ^ 57) / 2 ^ 16
        let p3 := expC.getD 3 0
        let p2 := expC.getD 2 0 + p3 * u / 2 ^ 48
        let p1 := expC.getD 1 0 + p2 * u / 2 ^ 48
        let p0 := expC.getD 0 0 + p1 * u / 2 ^ 48
        roundNum false ((tabT.getD i 0) * p0).toNat (n - 86) rm

/-- fexp (R191). -/
def expW (x : W48) (rm : RMode) : W48 := exp2W (wMul x wLog2e rNE) rm

/-- q ← P_k + floor(q × Z / 2^48), from P_8 down to P_1 (R192). -/
def logHorner (z : Int) : Int := logP.reverse.foldl (fun q p => p + q * z / 2 ^ 48) 0

/-- A positive value as m / 2^35 × 2^e with 2^35 ≤ m < 2^36, or less exactly when m has more bits. -/
def normM (m : Nat) (e : Int) : Nat × Int := (m * 2 ^ (35 - Nat.log2 m), log2V m e)

/-- Log2W (R192). -/
def log2W (x : W48) (rm : RMode) : W48 :=
  match fvOf x with
  | .nan w => quiet w
  | .inf s => if s then wNaN else wInf false
  | .num s m e =>
    if m = 0 then wInf true
    else if s then wNaN
    else
      let (mm, ex) := normM m e
      if mm = 2 ^ 35 then roundW48 (fvInt ex 0 false) rm
      else
        let i := (mm - 2 ^ 35) * 64 / 2 ^ 35
        let z : Int := ((mm * tabRT i : Nat) - 2 ^ 75 : Int) / 2 ^ 27
        let q := logHorner z * z / 2 ^ 48
        roundW48 (fvInt (ex * 2 ^ 48 + tabLT.getD i 0 + q) (-48) false) rm

/-- E[i] (R193). -/
def tabE (i : Nat) : Nat := rneQ (4096 * (1024 - (513 + 2 * i))) (513 + 2 * i)

/-- G[k] for e mod 2 and j (R193). -/
def tabG (odd : Bool) (j : Nat) : Nat :=
  (isqrt (2 ^ 36 / ((257 + 2 * j) * (if odd then 2 else 1))) + 1) / 2 - 4096

/-- frcp (R193). -/
def wRcp (x : W48) (rm : RMode) : W48 :=
  match fvOf x with
  | .nan w => quiet w
  | .inf s => wZero s
  | .num s m e =>
    if m = 0 then wInf s
    else
      let (mm, ex) := normM m e
      roundNum s (4096 + tabE ((mm - 2 ^ 35) / 2 ^ 27)) (-ex - 13) rm

/-- frsq (R193). -/
def wRsq (x : W48) (rm : RMode) : W48 :=
  match fvOf x with
  | .nan w => quiet w
  | .inf s => if s then wNaN else wZero false
  | .num s m e =>
    if m = 0 then wInf s
    else if s then wNaN
    else
      let (mm, ex) := normM m e
      let r := ex % 2
      roundNum false (4096 + tabG (r == 1) ((mm - 2 ^ 35) / 2 ^ 28)) (-((ex - r) / 2) - 13) rm

end Sys2Proof.Machine
end

