-- ==== Sys2Proof/Machine/Codec.lean ====
section
/-! DEFINITION. Storage formats and the codec of a memory tile (R167 to R173, R180 to R188): storage floats, integers, MX
blocks, BVB segments, signed-digit bursts and L6. -/

namespace Sys2Proof.Machine

/-! ## Storage floats (R168, R180, R181) -/

/-- How a storage float ends its range: with infinities and NaNs, with one NaN code, or with neither. -/
inductive FloatKind where
  | ieee | e4m3 | e2m1
  deriving DecidableEq, Repr

/-- A storage float: exponent and fraction widths, bias, kind (R168). -/
structure FloatFmt where
  eb   : Nat
  fw   : Nat
  bias : Int
  kind : FloatKind
  deriving DecidableEq, Repr

def fFP32 : FloatFmt := ⟨8, 23, 127, .ieee⟩
def fFP16 : FloatFmt := ⟨5, 10, 15, .ieee⟩
def fBF16 : FloatFmt := ⟨8, 7, 127, .ieee⟩
def fE4M3 : FloatFmt := ⟨4, 3, 7, .e4m3⟩
def fE5M2 : FloatFmt := ⟨5, 2, 15, .ieee⟩
def fE2M1 : FloatFmt := ⟨2, 1, 1, .e2m1⟩

/-- The largest exponent field of a finite value. -/
def FloatFmt.emax (f : FloatFmt) : Nat := if f.kind = .ieee then 2 ^ f.eb - 2 else 2 ^ f.eb - 1

/-- The magnitude code of the largest finite value (R168). -/
def FloatFmt.big (f : FloatFmt) : Nat :=
  if f.kind = .e4m3 then 0x7E else f.emax * 2 ^ f.fw + (2 ^ f.fw - 1)

/-- The magnitude codes of ∞ and of the quiet NaN. -/
def FloatFmt.infCode (f : FloatFmt) : Nat := (2 ^ f.eb - 1) * 2 ^ f.fw
def FloatFmt.nanCode (f : FloatFmt) : Nat := if f.kind = .e4m3 then 0x7F else f.infCode + 2 ^ (f.fw - 1)

/-- The sign bit over a magnitude code. -/
def FloatFmt.signed (f : FloatFmt) (neg : Bool) (code : Nat) : Nat :=
  (if neg then 2 ^ (f.eb + f.fw) else 0) + code

/-- A stored float to W48, exactly (R180). -/
def FloatFmt.toW48 (f : FloatFmt) (raw : Nat) : W48 :=
  let neg := raw / 2 ^ (f.eb + f.fw) % 2 = 1
  let ex := raw / 2 ^ f.fw % 2 ^ f.eb
  let fr := raw % 2 ^ f.fw
  if f.kind = .ieee ∧ ex = 2 ^ f.eb - 1 then
    (if fr = 0 then wInf neg else wMake neg 1023 (fr * 2 ^ (36 - f.fw)))
  else if f.kind = .e4m3 ∧ ex = 15 ∧ fr = 7 then wMake neg 1023 0x800000000
  else if ex = 0 then roundNum neg fr (1 - f.bias - f.fw) rNE
  else roundNum neg (2 ^ f.fw + fr) (ex - f.bias - f.fw) rNE

/-- The code of a finite value that overflows, by the rounding direction on its magnitude (R181). -/
def FloatFmt.overflow (f : FloatFmt) (dir : Dir) (nsat : Bool) : Nat :=
  match f.kind with
  | .ieee => if dir = .down then f.big else f.infCode
  | .e4m3 => if nsat && dir != .down then f.nanCode else f.big
  | .e2m1 => f.big

/-- A value to a storage float, rounded once at the format's last kept bit, a tie with the first code beyond the
largest included (R180, R181). DESIGN CHOICE: log 110. -/
def FloatFmt.ofFV (f : FloatFmt) (v : FV) (rm : RMode) (nsat : Bool) : Nat :=
  match v with
  | .nan w =>
    match f.kind with
    | .e2m1 => 0
    | .e4m3 => f.signed (wSign w) f.nanCode
    | .ieee => f.signed (wSign w) (f.nanCode + wMant w % 2 ^ 35 / 2 ^ (36 - f.fw))
  | .inf s =>
    match f.kind with
    | .ieee => f.signed s f.infCode
    | .e4m3 => f.signed s (if nsat then f.nanCode else f.big)
    | .e2m1 => f.signed s f.big
  | .num s m e =>
    if m = 0 then f.signed s 0
    else
      let q := max (log2V m e - f.fw) (1 - f.bias - f.fw)
      let mi := roundAt (dirOf rm s) m e q
      let q' := if mi = 2 ^ (f.fw + 1) then q + 1 else q
      let mi' := if mi = 2 ^ (f.fw + 1) then 2 ^ f.fw else mi
      let code := if mi' < 2 ^ f.fw then (mi' : Int) else (q' + f.fw + f.bias) * 2 ^ f.fw + (mi' - 2 ^ f.fw : Int)
      if (f.big : Int) < code then f.signed s (f.overflow (dirOf rm s) nsat) else f.signed s code.toNat

/-! ## L6 (R187, R188) -/

/-- Lin(c) for a code of 0 or more, in units of 2^-16 (R187). -/
def linL6 (c : Nat) : Nat := [0x1000, 0x1307, 0x16A1, 0x1AE9].getD (c % 4) 0 * 2 ^ (c / 4)

/-- The magnitude that a code decodes to, in units of 2^-16: code 0 is zero. -/
def magL6 (c : Nat) : Nat := if c = 0 then 0 else linL6 c

/-- An L6 byte to W48 (R187). -/
def l6ToW48 (b : Nat) : W48 :=
  let c := b % 32
  let s := b / 32 % 2 = 1
  if c = 0 then (if s then wNaN else wZero false) else roundNum s (linL6 c) (-16) rNE

/-- Comparison of two magnitudes: m × 2^e ≤ n × 2^f. -/
def magLe (m : Nat) (e : Int) (n : Nat) (f : Int) : Bool :=
  let e0 := min e f
  decide (m * 2 ^ (e - e0).toNat ≤ n * 2 ^ (f - e0).toNat)

/-- A value to L6 (R188). -/
def l6OfFV (v : FV) (rm : RMode) : Nat :=
  match v with
  | .nan _ => 32
  | .inf _ => 32
  | .num s m e =>
    if m = 0 then 0
    else
      let lo := ((List.range 32).filter fun c => magLe (magL6 c) (-16) m e).length - 1
      let exact := magLe m e (magL6 lo) (-16)
      let hi := lo + 1
      let c :=
        if lo = 31 ∨ exact then lo
        else match dirOf rm s with
          | .down => lo
          | .up => hi
          | .near =>
            let mid := magL6 lo + magL6 hi
            if !magLe mid (-17) m e then lo
            else if !magLe m e mid (-17) then hi
            else if lo % 2 = 0 then lo else hi
      if c = 0 then 0 else (if s then 32 else 0) + c

/-! ## Integers (R169, R180) -/

/-- Width and signedness of an integer format code (R71). -/
def intFmt : Nat → Option (Nat × Bool)
  | 0x0A => some (4, true)
  | 0x0B => some (8, true)
  | 0x0C => some (16, true)
  | 0x0D => some (32, true)
  | 0x0E => some (64, true)
  | 0x0F => some (8, false)
  | 0x10 => some (16, false)
  | 0x11 => some (32, false)
  | 0x12 => some (64, false)
  | _ => none

/-- The value of stored integer bits. -/
def intValue (width : Nat) (signed : Bool) (raw : Nat) : Int :=
  if signed ∧ 2 ^ (width - 1) ≤ raw then (raw : Int) - 2 ^ width else raw

/-- The range of an integer format. -/
def intLo (width : Nat) (signed : Bool) : Int := if signed then -(2 ^ (width - 1)) else 0
def intHi (width : Nat) (signed : Bool) : Int := if signed then 2 ^ (width - 1) - 1 else 2 ^ width - 1

/-- An integer as bits of a width. -/
def intBits (width : Nat) (v : Int) : Nat := (v % 2 ^ width).toNat

/-! ## Elements -/

/-- The storage float of a format code. -/
def floatOf : Nat → Option FloatFmt
  | 0x00 => some fFP32
  | 0x01 => some fFP16
  | 0x02 => some fBF16
  | 0x03 => some fE4M3
  | 0x04 => some fE5M2
  | _ => none

/-- The value that a token's payload carries: a W48, or the exact integer of an i64. -/
def fvPay (isInt : Bool) (w : Word) : FV := if isInt then fvInt w.toInt 0 false else fvOf (w.extractLsb' 0 48)

/-- A W48 as a payload, or an exact W48 rounded to an i64 as R180 gives. -/
def payOfW48 (isInt : Bool) (rm : RMode) (w : W48) : Word :=
  if isInt then BitVec.ofInt 64 (satInt (fvOf w) rm i64Lo i64Hi) else w.setWidth 64

/-- A stored element of a single-element format to a payload (R180). -/
def decodeElem (fmt : Nat) (isInt : Bool) (rm : RMode) (raw : Nat) : Word :=
  match floatOf fmt, intFmt fmt with
  | some f, _ => payOfW48 isInt rm (f.toW48 raw)
  | none, some (width, sg) =>
    if isInt then BitVec.ofInt 64 (intValue width sg raw)
    else (roundW48 (fvInt (intValue width sg raw) 0 false) rm).setWidth 64
  | none, none => payOfW48 isInt rm (l6ToW48 raw)

/-- A payload to a stored element of a single-element format (R180, R181, R188). -/
def encodeElem (fmt : Nat) (isInt : Bool) (rm : RMode) (nsat : Bool) (w : Word) : Nat :=
  match floatOf fmt, intFmt fmt with
  | some f, _ => f.ofFV (fvPay isInt w) rm nsat
  | none, some (width, sg) =>
    if isInt && width == 64 && !sg then (max 0 w.toInt).toNat
    else intBits width (satInt (fvPay isInt w) rm (intLo width sg) (intHi width sg))
  | none, none => l6OfFV (fvPay isInt w) rm

/-! ## Groups (R170, R171, R173, R182) -/

/-- Bytes and elements of a group (R71, R173). -/
def groupShape : Nat → Nat × Nat
  | 0x00 => (4, 1)
  | 0x01 => (2, 1)
  | 0x02 => (2, 1)
  | 0x05 => (36, 32)
  | 0x06 => (36, 32)
  | 0x07 => (20, 32)
  | 0x08 => (36, 32)
  | 0x0A => (1, 2)
  | 0x0C => (2, 1)
  | 0x0D => (4, 1)
  | 0x0E => (8, 1)
  | 0x10 => (2, 1)
  | 0x11 => (4, 1)
  | 0x12 => (8, 1)
  | 0x13 => (272, 128)
  | _ => (1, 1)

/-- A format whose group holds more than one element. -/
def isGroup (fmt : Nat) : Bool := decide (1 < (groupShape fmt).2)

/-- A value times a power of two. -/
def fvShift (v : FV) (k : Int) : FV :=
  match v with
  | .num s m e => .num s m (e + k)
  | v => v

/-- Element e of packed 4-bit elements. -/
def nibble (bytes : List Byte) (e : Nat) : Nat := (bytes.getD (e / 2) 0).toNat / 16 ^ (e % 2) % 16

/-- The exact value of element e of an MX block before its scale (R170). -/
def mxElem (fmt : Nat) (bytes : List Byte) (e : Nat) : FV :=
  if fmt = 0x05 then fvOf (fE4M3.toW48 (bytes.getD e 0).toNat)
  else if fmt = 0x06 then fvOf (fE5M2.toW48 (bytes.getD e 0).toNat)
  else if fmt = 0x07 then fvOf (fE2M1.toW48 (nibble bytes e))
  else fvInt (intValue 8 true (bytes.getD e 0).toNat) (-6) false

/-- The place of the scale byte of an MX block. -/
def mxScaleAt (fmt : Nat) : Nat := if fmt = 0x07 then 16 else 32

/-- Decoding an MX block to W48 (R170). A NaN element keeps its word (R180). -/
def mxDecode (fmt : Nat) (bytes : List Byte) : List W48 :=
  let b := (bytes.getD (mxScaleAt fmt) 0).toNat
  (List.range 32).map fun e =>
    if b = 0xFF then wNaN
    else match mxElem fmt bytes e with
      | .nan w => w
      | v => roundW48 (fvShift v (b - 127)) rNE

/-- emax of an element format (R182). -/
def mxEmax (fmt : Nat) : Int := if fmt = 0x05 then 8 else if fmt = 0x06 then 15 else if fmt = 0x07 then 2 else 0

/-- The magnitude of the largest finite element; none when none is nonzero (R182, R185). -/
def maxLog2 (vs : List FV) : Option Int :=
  vs.foldl (fun acc v =>
    match v with
    | .num _ m e => if m = 0 then acc else some (match acc with
        | none => log2V m e
        | some x => max x (log2V m e))
    | _ => acc) none

/-- A value is a NaN or an infinity. -/
def fvSpecial : FV → Bool
  | .num .. => false
  | _ => true

/-- The scale exponent of an MX block: 0xFF, 0x00, or x + 127 with x (R182). -/
def mxScale (fmt : Nat) (vs : List FV) : Nat × Option Int :=
  if vs.any fvSpecial then (0xFF, none)
  else match maxLog2 vs with
    | none => (0, none)
    | some l =>
      let x := max (-127) (min 127 (l - mxEmax fmt))
      ((x + 127).toNat, some x)

/-- One element code of an MX block with scale exponent x (R182). -/
def mxCode (fmt : Nat) (rm : RMode) (nsat : Bool) (x : Int) (v : FV) : Nat :=
  if fmt = 0x05 then fE4M3.ofFV (fvShift v (-x)) rm nsat
  else if fmt = 0x06 then fE5M2.ofFV (fvShift v (-x)) rm false
  else if fmt = 0x07 then fE2M1.ofFV (fvShift v (-x)) rm false
  else intBits 8 (satInt (fvShift v (6 - x)) rm (-127) 127)

/-- Pairs of 4-bit codes packed in bytes. -/
def packNibbles : List Nat → List Byte
  | a :: b :: rest => BitVec.ofNat 8 (a % 16 + 16 * (b % 16)) :: packNibbles rest
  | [a] => [BitVec.ofNat 8 (a % 16)]
  | [] => []

/-- Encoding an MX block; an element that is absent is zero and outside the scale (R173, R182). -/
def mxEncode (fmt : Nat) (rm : RMode) (nsat : Bool) (vs : List (Option FV)) : List Byte :=
  let (b, x) := mxScale fmt (vs.filterMap id)
  let codes := (List.range 32).map fun e =>
    match x, (vs.getD e none) with
    | some x, some v => mxCode fmt rm nsat x v
    | _, _ => 0
  let body := if fmt = 0x07 then packNibbles codes else codes.map (BitVec.ofNat 8)
  body ++ [BitVec.ofNat 8 b, 0, 0, 0]

/-! ## BVB (R171, R172) -/

/-- A boundary bit; bit 0 reads as 1 (R171). -/
def bvbBit (seg : List Byte) (j : Nat) : Bool := j == 0 || (seg.getD (j / 8) 0).getLsbD (j % 8)

/-- The block of element j (R171). -/
def bvbBlock (seg : List Byte) (j : Nat) : Nat := ((List.range (j + 1)).filter (bvbBit seg)).length - 1

/-- The scale of a block (R171). -/
def bvbScale (seg : List Byte) (b : Nat) : Int := intValue 8 true (seg.getD (144 + b) 0).toNat

/-- The stored value k of element j. -/
def bvbK (seg : List Byte) (j : Nat) : Int := intValue 8 true (seg.getD (16 + j) 0).toNat

/-- A segment with an element's bitmap bit, value and, where given, its block's scale written. -/
def bvbSet (seg : List Byte) (j : Nat) (opens : Bool) (k : Int) (s : Option Int) : List Byte :=
  let old := seg.getD (j / 8) 0
  let m : Byte := BitVec.ofNat 8 (2 ^ (j % 8))
  let seg1 := seg.set (j / 8) (if opens then old ||| m else old &&& ~~~m)
  let seg2 := seg1.set (16 + j) (BitVec.ofNat 8 (intBits 8 k))
  match s with
  | none => seg2
  | some s => seg2.set (144 + bvbBlock seg2 j) (BitVec.ofNat 8 (intBits 8 s))

/-- The scale that a value opens a block with (R172). An infinity opens with the largest; a NaN counts as zero.
DEDUCED: log 57. -/
def bvbOpen (v : FV) : Int :=
  match v with
  | .nan _ => -128
  | .inf _ => 127
  | .num _ m e => if m = 0 then -128 else max (-128) (min 127 (log2V m e - 5))

/-- The integer that a value gives under a scale; saturation at the ends of the range is the caller's (R172). -/
def bvbRound (v : FV) (s : Int) (rm : RMode) : Int := satInt (fvShift v (-s)) rm (-(2 ^ 1200)) (2 ^ 1200)

/-- Whether a value joins a block of scale s (R172). -/
def bvbJoins (v : FV) (s : Int) (rm : RMode) : Bool := decide (-127 ≤ bvbRound v s rm ∧ bvbRound v s rm ≤ 127)

/-- Writing one element by value, with the scale of the block it then belongs to: against that of the last block opened or joined,
else of the one that holds the element before it (R172, R276). -/
def bvbPut (seg : List Byte) (j : Nat) (v : FV) (rm : RMode) (last : Option Int) : List Byte × Int :=
  let s := last.getD (bvbScale seg (bvbBlock seg (j - 1)))
  if j ≠ 0 ∧ bvbJoins v s rm then (bvbSet seg j false (bvbRound v s rm) none, s)
  else
    let s' := bvbOpen v
    (bvbSet seg j true (max (-127) (min 127 (bvbRound v s' rm))) (some s'), s')

/-- Writing one element from qbmap's layout (R180, R250). -/
def bvbPutRaw (seg : List Byte) (j : Nat) (w : Word) : List Byte :=
  bvbSet seg j (w.getLsbD 8) (intValue 8 true (w.toNat % 256))
    (if w.getLsbD 8 then some (intValue 8 true (w.toNat / 2 ^ 16 % 256)) else none)

/-- Element j of a segment as a payload: its W48 value, or qbmap's layout (R171, R180). -/
def bvbGet (seg : List Byte) (isInt : Bool) (j : Nat) : Word :=
  let b := bvbBlock seg j
  if isInt then
    BitVec.ofNat 64 ((seg.getD (16 + j) 0).toNat + (if bvbBit seg j then 256 else 0) + j * 2 ^ 9 +
      (seg.getD (144 + b) 0).toNat * 2 ^ 16)
  else (roundW48 (fvInt (bvbK seg j) (bvbScale seg b) false) rNE).setWidth 64

/-! ## Whole groups -/

/-- A group's bytes to payloads, in element order (R173, R180). -/
def decodeGroup (fmt : Nat) (isInt : Bool) (rm : RMode) (bytes : List Byte) : List Word :=
  if fmt = 0x13 then (List.range 128).map (bvbGet bytes isInt)
  else if 0x05 ≤ fmt ∧ fmt ≤ 0x08 then (mxDecode fmt bytes).map (payOfW48 isInt rm)
  else if fmt = 0x0A then [decodeElem fmt isInt rm (nibble bytes 0), decodeElem fmt isInt rm (nibble bytes 1)]
  else [decodeElem fmt isInt rm (leNat bytes)]

/-- The elements of a BVB segment that are present, written in order (R172, R173). -/
def bvbPutAll (isInt : Bool) (rm : RMode) : Option Int → List (Nat × Option Word) → List Byte → List Byte
  | _, [], seg => seg
  | last, (_, none) :: rest, seg => bvbPutAll isInt rm last rest seg
  | last, (j, some w) :: rest, seg =>
    if isInt then bvbPutAll isInt rm last rest (bvbPutRaw seg j w)
    else
      let q := bvbPut seg j (fvPay false w) rm last
      bvbPutAll isInt rm (some q.2) rest q.1

/-- The bytes of a BVB segment that its present elements write: bitmap, element, and the scale of a block that one opens
(R171, R172). -/
def bvbWrote (elems : List (Option Word)) (seg : List Byte) : List Nat :=
  ((List.range elems.length).zip elems).flatMap fun q =>
    if q.2.isNone then []
    else [q.1 / 8, 16 + q.1] ++ (if (seg.getD (q.1 / 8) 0).getLsbD (q.1 % 8) then [144 + bvbBlock seg q.1] else [])

/-- The bytes of a BVB segment that its present elements are sure to write: bitmap and element (R171). -/
def bvbSure (elems : List (Option Word)) : List Nat :=
  (elems.zipIdx.filter (·.1.isSome)).flatMap fun q => [q.2 / 8, 16 + q.2]

/-- The scale byte that quantising the first present element reads: that of the block of the element before it (R172). -/
def bvbScaleOf (isInt : Bool) (elems : List (Option Word)) (seg : List Byte) : List Nat :=
  match elems.zipIdx.find? (·.1.isSome) with
  | some (_, j) => if isInt || j == 0 then [] else [144 + bvbBlock seg (j - 1)]
  | none => []

/-- Payloads to a group's bytes over its old bytes. An absent element is zero in an I4 or MX group and left as it was
in a BVB segment (R173, R276). -/
def encodeGroup (fmt : Nat) (isInt : Bool) (rm : RMode) (nsat : Bool) (elems : List (Option Word)) (old : List Byte) :
    List Byte :=
  if fmt = 0x13 then bvbPutAll isInt rm none ((List.range elems.length).zip elems) old
  else if 0x05 ≤ fmt ∧ fmt ≤ 0x08 then mxEncode fmt rm nsat (elems.map fun e => e.map (fvPay isInt))
  else if fmt = 0x0A then
    packNibbles ((List.range 2).map fun i => ((elems.getD i none).map (encodeElem fmt isInt rm nsat)).getD 0)
  else leBytes (groupShape fmt).1 (((elems.getD 0 none).map (encodeElem fmt isInt rm nsat)).getD 0)

/-- The group formats whose write reads what stood before. -/
def keepsOld (fmt : Nat) : Bool := fmt == 0x13

/-! ## Signed digits (R184, R185) -/

/-- A digit from its code; none when the code is invalid, as 0b101 is too (R184). DESIGN CHOICE: log 109. -/
def sdDigit (code : Nat) : Option Int :=
  match code with
  | 0 => some 0
  | 1 => some 1
  | 2 => some 2
  | 6 => some (-2)
  | 7 => some (-1)
  | _ => none

/-- The n digits of a payload, most significant first; none when one is invalid (R184). -/
def sdDigits (n : Nat) (pay : Nat) : Option (List Int) :=
  (List.range n).foldr (fun i acc => match sdDigit (pay / 2 ^ (21 - 3 * i) % 8), acc with
    | some d, some ds => some (d :: ds)
    | _, _ => none) (some [])

/-- The number that digits stand for: Σ d_i × 4^(n−1−i). -/
def sdValue (ds : List Int) : Int := ds.foldl (fun v d => 4 * v + d) 0

/-- Digits as a payload. -/
def sdPayload (ds : List Int) : Nat :=
  ((List.range ds.length).map fun i => intBits 3 (ds.getD i 0) * 2 ^ (21 - 3 * i)).foldl (· + ·) 0

/-- The digits of V, least significant first; the last keeps what is left (R185). -/
def sdRecode : Nat → Int → List Int
  | 0, v => [v]
  | k + 1, v =>
    let d := (v + 2) % 4 - 2
    d :: sdRecode k ((v - d) / 4)

/-- The block exponent of a burst (R185). -/
def sdExp (vs : List FV) (n : Nat) : Int :=
  match maxLog2 vs with
  | none => 0
  | some l => max (-128) (min 127 (l - 2 * n + 2))

/-- One element of SDEncode as a payload (R185). -/
def sdElem (v : FV) (n : Nat) (e : Int) (rm : RMode) : Nat :=
  let cap : Int := 2 * 4 ^ (n - 1)
  match v with
  | .nan _ => ((List.range n).map fun i => 4 * 2 ^ (21 - 3 * i)).foldl (· + ·) 0
  | .inf s => sdPayload (sdRecode (n - 1) (if s then -cap else cap)).reverse
  | .num s m x =>
    let k := roundInt s m (x - e) rm
    sdPayload (sdRecode (n - 1) (max (-cap) (min cap k))).reverse

/-- SDEncode: the block exponent and the payloads (R185). -/
def sdEncode (vs : List FV) (n : Nat) (rm : RMode) : Int × List Nat :=
  let e := sdExp vs n
  (e, vs.map fun v => sdElem v n e rm)

/-- A signed-digit element to W48, exactly; none when a code is invalid (R184, R232). -/
def sdDecode (n : Nat) (e : Int) (pay : Nat) : Option W48 :=
  (sdDigits n pay).map fun ds => roundW48 (fvInt (sdValue ds) e false) rNE

end Sys2Proof.Machine
end

