-- ==== Sys2Proof/Machine/Mailboxes.lean ====
section
/-! DEFINITION. Mailbox binding, freeing, revocation, and the arrival of flits and credits (R103 to R111). -/

namespace Sys2Proof.Machine

/-- A mailbox replaced, at any core. -/
def State.setMb (s : State) (i : Fin 64) (n : Fin 4) (m : Mailbox) : State :=
  s.setCoreAt i { s.cores[i] with mb := s.cores[i].mb.set n.val m n.isLt }

/-- A descriptor's reserved fields are zero and its module exists (R104). -/
def descOk (d : Word) : Bool :=
  d.extractLsb' 42 6 == 0 && d.extractLsb' 0 40 == 0 &&
    (decide ((dModule d).toNat < 768) || dModule d == 0x3FF)

/-- A peer module that a partition reaches: through a granted port that is up and leads there, directly or by the supervisor's
routing (R104, R354). DESIGN CHOICE: log 14. -/
def State.reaches (s : State) (p : BitVec 4) (m : BitVec 10) : Bool :=
  (List.finRange 18).any fun n => (s.part p).grants.ports.contains n.val && s.ports[n].state == .up &&
    (s.ports[n].peer == m || s.routes.contains (m, n))

/-- The peer may be bound (R104). -/
def State.peerOk (s : State) (d : Word) : Bool :=
  if s.isLocal d then s.cores[dCore d].part.isSome && s.cores[dCore d].part == s.core.part
  else s.reaches s.pid (dModule d)

/-- Mailbox `n` of core `c` is the one that a descriptor of this module names (R104). -/
def State.names (s : State) (d : Word) (c : Fin 64) (n : Fin 4) : Bool := s.isLocal d && dCore d == c && dMbx d == n

/-- Two mailboxes of this module that now name each other receive 8 credits each (R105). -/
def State.pair (s : State) (c : Fin 64) (n : Fin 4) : State :=
  let m := s.cores[c].mb[n]
  if !s.isLocal m.desc then s
  else
    let c' := dCore m.desc
    let n' := dMbx m.desc
    let m' := s.cores[c'].mb[n']
    if m'.state = .bound ∧ s.names m'.desc c n then
      let s1 := s.setMb c n { m with cred := 8 }
      let m2 := s1.cores[c'].mb[n']
      s1.setMb c' n' { m2 with cred := 8 }
    else s

/-- mbbind (R103 to R105). -/
def execMbbind (a : Reg) (n : BitVec 2) (s : State) : Out :=
  .next (s.unsafeIssue fun s => s.withRegs [a] fun ws s' =>
    let d := ws.getD 0 0
    let k : Fin 4 := ⟨n.toNat, n.isLt⟩
    let addr := BitVec.ofNat 64 n.toNat
    if s.core.mb[k].state ≠ .unbound then s.trap tMBSTATE addr
    else if !descOk d ∨ !s.peerOk d then s.trap tMBDENY addr
    else ((s'.setMb s.cur k ⟨.bound, d, 0, [], []⟩).pair s.cur k).retire)

/-- A register that names mailbox `n` (R75). -/
def mbReg (n : Fin 4) : Reg := BitVec.ofNat 5 (28 + n.val)

/-- What was on its way into a mailbox that is freed goes nowhere, and its register is a plain one again (R108). -/
def Core.forgetMb (c : Core) (n : Fin 4) : Core :=
  { c with loads := c.loads.map fun l => if l.mbx && l.dest == mbReg n then l.drop else l,
           recs := c.recs.map fun l => if l.mbx && l.dest == mbReg n then { l with dest := 0, mbx := false } else l }

/-- mbfree (R108): queued flits go and their credits return; the register is a plain one again. -/
def execMbfree (n : BitVec 2) (s : State) : Out :=
  .next (s.unsafeIssue fun s =>
    let k : Fin 4 := ⟨n.toNat, n.isLt⟩
    let m := s.core.mb[k]
    if m.state = .unbound then s.retire
    else
      let s1 := (m.rxq.foldl (fun s _ => s.giveCredit k m.desc) s).setMb s.cur k Mailbox.zero
      (s1.setCore (s1.core.forgetMb k)).retire)

/-! ## Arrival (R105, R107, R112) -/

/-- A mailbox that is bound to a sender; one that has been revoked takes no flit that is still on its way (R109).
DESIGN CHOICE: log 103. -/
def Mailbox.boundTo (m : Mailbox) (from_ : Word → Bool) : Bool := m.state == .bound && from_ m.desc

/-- Whose messages a mailbox takes: core `c`, its mailbox `n`, in the context of a partition, and the descriptors of the sender. -/
structure MbAt where
  part : Option (BitVec 4)
  core : Fin 64
  mbx  : Fin 4
  deriving DecidableEq, Repr

/-- The mailbox at which a message is aimed, when it is bound to the sender: that of the context that stands on the core, when it is the
partition's, else that of the partition's context in the attics (R108, R112). -/
def State.boundMb (s : State) (a : MbAt) (from_ : Word → Bool) : Option Mailbox :=
  if s.cores[a.core].part = a.part then
    (if s.cores[a.core].mb[a.mbx].boundTo from_ then some s.cores[a.core].mb[a.mbx] else none)
  else ((a.part.bind fun p => (s.part p).saved).bind fun v => v.cores.find? (·.1 = a.core)).bind fun q =>
    if q.2.mb[a.mbx].boundTo from_ then some q.2.mb[a.mbx] else none

/-- The state with that mailbox changed. -/
def State.onBound (s : State) (a : MbAt) (from_ : Word → Bool) (f : Mailbox → Mailbox) : State :=
  match s.boundMb a from_ with
  | none => s
  | some m =>
    if s.cores[a.core].part = a.part then s.setMb a.core a.mbx (f m)
    else match a.part with
      | none => s
      | some p => s.setPart p { s.part p with saved := (s.part p).saved.map fun v => { v with cores := v.cores.map fun q =>
          if q.1 = a.core then (q.1, { q.2 with mb := q.2.mb.set a.mbx.val (f m) a.mbx.isLt }) else q } }

/-- A flit for a mailbox that its queue of 8 has no room for yet. -/
def State.flitWaits (s : State) (a : MbAt) (from_ : Word → Bool) : Bool :=
  (s.boundMb a from_).any fun m => decide (8 ≤ m.taken.length + m.rxq.length)

/-- A flit for a mailbox: queued when the mailbox is bound to its sender, discarded otherwise (R105, R108). -/
def State.takeFlit (s : State) (a : MbAt) (from_ : Word → Bool) (v : Word) : State :=
  s.onBound a from_ fun m => { m with rxq := m.rxq ++ [v] }

/-- A descriptor names mailbox `x` of core `c` of a module (R104). -/
def descIs (m : BitVec 10) (c : Fin 64) (x : Nat) (d : Word) : Bool :=
  dModule d == m && dCore d == c && (dMbx d).val == x % 4

/-- The mailbox of another module that the input names as a sender: its module, core and number (R105). -/
def State.farPeer (s : State) (d : Word) : Bool := descIs s.input.module s.input.core s.input.index d

/-- A descriptor names the mailbox of this module from which a flit or credit comes (R105). -/
def State.nearPeer (s : State) (g : MbMsg) (d : Word) : Bool := s.isLocal d && mbName s.module (dCore d) (dMbx d) == g.peer

/-- The mailbox that a message within the module is for, which is one of the sender's own partition (R104). -/
def MbMsg.to (g : MbMsg) : MbAt := ⟨g.part, g.core, g.mbx % 4, Nat.mod_lt _ (by decide)⟩

/-- The mailbox of the acting core that the input names, in the context of the input's partition where that is out, else in the one that
stands there. -/
def State.mbHere (s : State) : MbAt :=
  ⟨if (s.part s.input.p).saved.isSome then some s.input.p else s.core.part, s.cur, s.input.k.toNat, s.input.k.isLt⟩

/-- A flit on its way within the module reaches its mailbox, or waits for room there. -/
def State.landFlit (s : State) (i : Nat) : State :=
  match s.flits[i]? with
  | none => s
  | some g =>
    if s.flitWaits g.to (s.nearPeer g) then s
    else State.takeFlit { s with flits := s.flits.eraseIdx i } g.to (s.nearPeer g) g.value

/-- MAILBOX_FLIT_ARRIVAL (R107): the chosen flit on its way within the module that no older flit of the same pair
precedes; or, when the input names another module, its mailbox's flit for mailbox `k` of the acting core. -/
def execMailboxFlitArrival (s : State) : Out :=
  if s.input.module ≠ s.module then
    .next (if s.flitWaits s.mbHere s.farPeer then s else s.takeFlit s.mbHere s.farPeer s.input.val)
  else
    match s.flits[s.input.index]? with
    | none => .next s
    | some f => .next (s.landFlit (s.flits.findIdx fun g => g.core = f.core ∧ g.mbx = f.mbx ∧ g.peer = f.peer))

/-- Credits reach a mailbox bound to the peer that returned them, up to the 8 of a pair; a revoked or freed one takes none
(R105, R109). -/
def State.takeCredit (s : State) (a : MbAt) (from_ : Word → Bool) (k : Nat) : State :=
  s.onBound a from_ fun m => { m with cred := Nat.min 8 (m.cred + k) }

/-- MAILBOX_CREDIT_RETURN (R105): a credit on its way within the module; or those another module's mailbox returns, 8 when the
pair has just become complete there. -/
def execMailboxCreditReturn (s : State) : Out :=
  if s.input.module ≠ s.module then
    .next (s.takeCredit s.mbHere s.farPeer s.input.val.toNat)
  else
    match s.credits[s.input.index]? with
    | none => .next s
    | some g =>
      .next (State.takeCredit { s with credits := s.credits.eraseIdx s.input.index } g.to (s.nearPeer g) 1)

/-- A notice joins a partition's queue of 64; the oldest is dropped when it is full (R379). -/
def State.notice (s : State) (p : BitVec 4) (w : Word) : State :=
  let x := s.part p
  let q := x.notices ++ [w]
  s.setPart p { x with notices := if q.length > 64 then q.drop 1 else q }

/-- A bound mailbox of a core revoked (R109). -/
def Core.revoke (c : Core) (n : Fin 4) : Core :=
  if c.mb[n].state = .bound then { c with mb := c.mb.set n.val { c.mb[n] with state := .revoked, cred := 0 } n.isLt } else c

/-- MAILBOX_REVOKE (R109, R379): the binding of mailbox `k` of the named core is revoked; that of a core of partition `p`
which is out, where its context is (R397). -/
def execMailboxRevoke (s : State) : Out :=
  let n : Fin 4 := ⟨s.input.k.toNat, s.input.k.isLt⟩
  let c := s.input.core
  let note : Word := BitVec.ofNat 64 (1 + 16 * n.val)
  match ((s.part s.input.p).saved).bind fun v => (v.cores.find? (·.1 = c)).map fun q => (v, q.2) with
  | some (v, k) =>
    if k.mb[n].state = .bound then
      .next ((s.setPart s.input.p { s.part s.input.p with
        saved := some { v with cores := v.cores.map fun q => if q.1 = c then (c, q.2.revoke n) else q } }).notice s.input.p note)
    else .next s
  | none =>
    if s.cores[c].mb[n].state = .bound then
      .next ((s.setCoreAt c (s.cores[c].revoke n)).notice (s.cores[c].part.getD 0) note)
    else .next s

end Sys2Proof.Machine
end

