-- ==== Sys2Proof/Machine/Sync.lean ====
section
/-! DEFINITION. wait, fences, atomics and commit regions (R102, R336 to R347). -/

namespace Sys2Proof.Machine

/-- wait: completes once every count is at or under its field (R102). -/
def execWait (l s_ n k : BitVec 5) (s : State) : Out :=
  .next (s.unsafeIssue fun s =>
    let c := s.core
    if c.loads.length ≤ l.toNat ∧ c.stores.length ≤ s_.toNat ∧ c.copies.length ≤ n.toNat ∧ c.recs.length ≤ k.toNat
    then (if n.toNat < 64 then s.raceLanded else s).retire else s)

/-- A store has been performed for every agent of a scope: past .die only once it has left the outstanding ones (R331). -/
def StoreOp.doneAt (x : StoreOp) (c : Nat) : Bool := decide (c ≤ ((x.near.map Prod.fst).getD 0).toNat)

/-- The accesses that a fence orders first have not all been performed at its scope (R336). A core is alone at .tile (R331), but
fence.ar.tile orders the instruction fetch behind them (R96). DEDUCED: log 95. -/
def State.fenceWaits (s : State) (c : BitVec 3) (k : BitVec 2) : Bool :=
  if c = 0 ∧ k ≠ 3 then false
  else !s.core.loads.isEmpty || (ordRel k && s.core.stores.any (!·.doneAt (if c = 0 then 3 else c.toNat)))

/-- fence (R336): waits for the accesses that it orders first; inside a region it has no further effect. -/
def execFence (c : BitVec 3) (k : BitVec 2) (s : State) : Out :=
  .next (s.issue fun s =>
    if s.core.tx.isSome then s.retire
    else if s.fenceWaits c k then s
    else
      let s1 := if ordRel k then s.raceRelease (.core s.cur) c else s
      let upTo := if ordRel k then s.writes else s.core.ord.last
      let s2 := s1.setCore { s1.core with ord := if ordAcq k then s1.core.ord.fence c upTo else s1.core.ord }
      (if ordAcq k then s2.raceAcquire (.core s.cur) c else s2).retire)

/-! ## Atomics -/

/-- An atomic of the acting core leaves for its home: as a load when it returns a value, else as a store (R339). -/
def Core.pushAtomic (c : Core) (d : Reg) (ea : Word) (home : Nat) (isRemote : Bool) (via : Option (Fin 18)) (q : Rmw) (mark : Option Shadow) : Core :=
  let acq := ordAcq q.ord && q.scope != 0
  let rmw := if isRemote then none else some q
  if d = 0 then c.pushStore { StoreOp.plain ea home [] mark with isRemote, via, rmw, acq }
  else c.pushLoad { c.newLoad d ea home 8 false with isRemote, via, acq, how := .atomic, rmw }

/-- An atomic (R338, R339). One with d counts as a load and one without as a store, and it is performed at its home before it
returns; inside a region it reads at once and its write is held (R342). -/
def State.atomic (s : State) (op : BitVec 4) (d a b : Reg) (c : BitVec 3) (o : BitVec 2) : State :=
  s.issue fun s => s.withRegs [a, b, d] fun ws s' =>
    let ea := ws.getD 0 0
    let q : Rmw := ⟨op, ws.getD 1 0, ws.getD 2 0, c, o⟩
    let k := s.core
    if k.acquiring ∨ (d ≠ 0 ∧ k.loads.length ≥ 16) ∨ (d = 0 ∧ k.tx.isNone ∧ k.stores.length ≥ 32) then s
    else
      match s'.reserve d with
      | .wait => s
      | .trap code addr => s.trap code addr
      | .ok _ s1 =>
        match s1.locate ea 8 .both with
        | .trap code => s.trap code ea
        | .peer =>
          if k.tx.isSome then s.txAbort 5
          else if ordRel o ∧ s.fenceWaits c 2 then s
          else
            ((s1.setCore (s1.core.pushAtomic d ea 0 true (s.routeTo (peerModule ea)) q none)).retire).request (peerModule ea) none
              (.atomic (s.part s.pid).dpn (peerOff ea) op q.b q.e)
        | .at_ home s2 =>
          match k.tx with
          | some _ =>
            match (if ordRel o then s2.raceRelease (.core s2.cur) c else s2).coreCheck ea home 8 true (some c) with
            | none => s.trap tRACE ea
            | some s3 =>
              State.txTouch s s3 (linesOf home 8) true true fun s4 =>
                let t := BitVec.ofNat 64 (leNat (s4.viewBytes home 8))
                let s5 := ((s4.coreSee s4.core.cmode home 8).reads home).rmwAcquires home q s4.core.cmode
                let c' := match atomicNew op t q.b q.e with
                  | some n => s5.core.holdStore (StoreOp.plain ea home (leBytes 8 n.toNat) (s5.coreMark home 8 (some c)))
                  | none => s5.core
                (s5.setCore (if d = 0 then c' else c'.pushLoad { c'.newLoad d ea home 8 false with val := some t, how := .atomic })).retire
          | none =>
            if (ordRel o ∧ s.fenceWaits c 2) ∨ s2.core.pendingOn home 8 then s
            else
              let s3 := if ordRel o then s2.raceRelease (.core s2.cur) c else s2
              match s3.coreCheck ea home 8 (atomicNew op (memDword s3.mem home) q.b q.e).isSome (some c) with
              | none => s.trap tRACE ea
              | some s4 => (s4.setCore (s4.core.pushAtomic d ea home false none q (s4.coreMark home 8 (some c)))).retire

/-- atadd (R337, R338). -/
def execAtadd (d a b : Reg) (c : BitVec 3) (o : BitVec 2) (s : State) : Out := .next (s.atomic 0 d a b c o)
/-- atand (R337, R338). -/
def execAtand (d a b : Reg) (c : BitVec 3) (o : BitVec 2) (s : State) : Out := .next (s.atomic 1 d a b c o)
/-- ator (R337, R338). -/
def execAtor (d a b : Reg) (c : BitVec 3) (o : BitVec 2) (s : State) : Out := .next (s.atomic 2 d a b c o)
/-- atxor (R337, R338). -/
def execAtxor (d a b : Reg) (c : BitVec 3) (o : BitVec 2) (s : State) : Out := .next (s.atomic 3 d a b c o)
/-- atmin (R337, R338). -/
def execAtmin (d a b : Reg) (c : BitVec 3) (o : BitVec 2) (s : State) : Out := .next (s.atomic 4 d a b c o)
/-- atmax (R337, R338). -/
def execAtmax (d a b : Reg) (c : BitVec 3) (o : BitVec 2) (s : State) : Out := .next (s.atomic 5 d a b c o)
/-- atminu (R337, R338). -/
def execAtminu (d a b : Reg) (c : BitVec 3) (o : BitVec 2) (s : State) : Out := .next (s.atomic 6 d a b c o)
/-- atmaxu (R337, R338). -/
def execAtmaxu (d a b : Reg) (c : BitVec 3) (o : BitVec 2) (s : State) : Out := .next (s.atomic 7 d a b c o)
/-- atxch (R337, R338). -/
def execAtxch (d a b : Reg) (c : BitVec 3) (o : BitVec 2) (s : State) : Out := .next (s.atomic 8 d a b c o)
/-- atcas (R337, R338). -/
def execAtcas (d a b : Reg) (c : BitVec 3) (o : BitVec 2) (s : State) : Out := .next (s.atomic 9 d a b c o)

/-! ## Commit regions -/

/-- A commit region opens with a timestamp and a checkpoint (R341). -/
def State.openRegion (s : State) (ts : Word) : State :=
  let c := s.core
  let x : TxRegion := ⟨ts, c.pc, c.regs, c.poison, [], [], [], [], false⟩
  let c1 := if c.txAgain then c else { c with txRerun := 0, txRemote := 0 }
  let s1 := s.setCore { c1 with tx := some x, txKept := none }
  ((s1.raceRelease (.core s.cur) 4).acquire 4).retire

/-- tbegin (R341): acts as fence.ar.dom, then opens a region with timestamp a; a re-run keeps the one it had (R342). A launch
handle still on its way to a register is waited for, since the checkpoint reads every register. DEDUCED: log 28. -/
def execTbegin (a : Reg) (s : State) : Out :=
  .next (s.unsafeIssue fun s =>
    if !s.core.quiet ∨ s.core.recs.any (fun r => r.dest ≠ 0 ∧ !r.mbx) then s
    else match s.core.txKept.filter (·.1 = s.core.pc) with
      | some q => s.openRegion q.2
      | none => s.withRegs [a] fun ws s' => s'.openRegion (ws.getD 0 0))

/-- The held stores become visible in program order, in one step (R341), with the shadow state that each left when it issued
(R349, R351). -/
def State.commitStores (s : State) : List StoreOp → State
  | [] => s
  | st :: rest =>
    let s1 := match st.mark with
      | some sh => s.raceLeave st.home st.bytes.length sh
      | none => s
    (s1.writeAs (some s.cur) st.home st.bytes).commitStores rest

/-- The held flits leave in program order (R111). -/
def State.sendHeld (s : State) : List (Nat × Option Word) → State
  | [] => s
  | (_, none) :: rest => s.sendHeld rest
  | (n, some w) :: rest =>
    let k : Fin 4 := ⟨n % 4, Nat.mod_lt _ (by decide)⟩
    (s.sendFlit k s.core.mb[k].desc w).sendHeld rest

/-- The credits of flits read in the region go back (R111). -/
def State.creditTaken (s : State) : List (Fin 4) → State
  | [] => s
  | n :: rest =>
    let m := s.core.mb[n]
    let s1 := m.taken.foldl (fun s _ => s.giveCredit n m.desc) s
    (s1.setCore { s1.core with mb := s1.core.mb.set n.val { m with taken := [] } n.isLt }).creditTaken rest

/-- The first `n` remote stores of a list taken out of it. -/
def takeFar : Nat → List StoreOp → List StoreOp × List StoreOp
  | _, [] => ([], [])
  | 0, l => ([], l)
  | n + 1, x :: l =>
    if x.isRemote then (x :: (takeFar n l).1, (takeFar n l).2) else ((takeFar (n + 1) l).1, x :: (takeFar (n + 1) l).2)

/-- tcommit hands its remote stores to the hub, as many as NS has room for (R101, R345). -/
def State.sendFar (s : State) (x : TxRegion) : State :=
  let q := takeFar (32 - s.core.stores.length) x.held
  let s1 := s.setCore { s.core with
    stores := s.core.stores ++ q.1.map fun st => { st with region := true, via := s.routeTo (peerModule st.ea) }, tx := some { x with held := q.2 } }
  q.1.foldl (fun s st => s.request (peerModule st.ea) none (.write (s.part s.pid).dpn (peerOff st.ea) st.bytes none)) s1

/-- tcommit (R341, R345, R370): waits for earlier live regions and for its own accesses, sends remote stores and waits for
their answers, aborting if one failed, then makes every local store visible in one step and sends the held flits. -/
def execTcommit (s : State) : Out :=
  .next (s.issue fun s =>
    match s.core.tx with
    | none => s.retire
    | some x =>
      if s.otherRegions.any (fun o => decide (txOrder o.1 o.2 < txOrder s.cur.val x)) ∨ s.core.loads ≠ [] then s
      else if x.held.any (·.isRemote) then s.sendFar x
      else if s.core.stores ≠ [] then s
      else if x.failed then s.txAbort 4
      else
        let s1 := s.setCore { s.core with tx := none, txAgain := false, txRemote := 0, txKept := none }
        let s2 := ((s1.commitStores x.held).sendHeld x.flits).creditTaken (List.finRange 4)
        ((s2.raceRelease (.core s.cur) 4).acquire 4).retire)

/-- tabort (R341, R343): CODE is recorded and the region takes the fallback; outside a region, no effect. -/
def execTabort (code : BitVec 5) (s : State) : Out :=
  .next (s.issue fun s =>
    if s.core.tx.isNone then s.retire else (s.setCore { s.core with txCode := code }).txAbort 3)

/-- tstamp (R347): d receives the partition's timestamp counter, which advances. -/
def execTstamp (d : Reg) (s : State) : Out :=
  .next (s.issue fun s =>
    let p := s.part s.pid
    s.finish (s.setPart s.pid { p with tstamp := p.tstamp + 1 }) d p.tstamp)

end Sys2Proof.Machine
end

