-- ==== Sys2Proof/Machine/Stitch.lean ====
section
/-! DEFINITION. Stitched tensors (R293 to R309): the arena as bytes of its vault, lists, versions and pieces, pins, the
stitch instructions, retirement and reclaim records. -/

namespace Sys2Proof

/-- Which of the free arena blocks a splice takes, by draw and block (R300 leaves it open): log 33. -/
opaque Config.blockPick : Nat → Nat → Nat

namespace Machine

/-! ## Reads on behalf of a core -/

/-- The windows that a core's own reads reach in this module (R259). -/
def coreWindows : List Window := [.translated, .vault, .spad, .larder]

/-- Bytes read as an engine reads for a core: every earlier store of the core is seen (R300, R400, R425). -/
def State.readCore (s : State) (va n : Nat) : Except (Nat × XReason) (List Byte) :=
  (s.check s.pid coreWindows .read (chunks va n)).map fun hs => hs.flatMap fun h => s.viewBytes h.1 h.2.2

/-- A dword of a list of bytes. -/
def dwordAt (b : List Byte) (i : Nat) : Word := BitVec.ofNat 64 (leNat ((b.drop (8 * i)).take 8))

/-! ## Pieces (R297) -/

/-- A piece of a list. -/
structure Piece where
  vbase  : BitVec 57
  plen   : Nat
  pitch  : BitVec 32
  borrow : Bool
  rdonly : Bool
  tagw   : BitVec 32
  deriving DecidableEq, Repr

/-- A descriptor's 32 bytes as a piece. -/
def Piece.of (b : List Byte) : Piece :=
  let d1 := dwordAt b 1
  let d2 := dwordAt b 2
  ⟨(dwordAt b 0).extractLsb' 0 57, (d1.extractLsb' 0 24).toNat, d1.extractLsb' 32 32, d2.getLsbD 0, d2.getLsbD 1,
   d2.extractLsb' 32 32⟩

/-- A descriptor that does not break R297: a length, reserved fields of zero, and a base in the translated or vault
window (R299). -/
def descriptorOk (b : List Byte) : Bool :=
  let d0 := dwordAt b 0
  let d1 := dwordAt b 1
  let w := windowOf (d0.extractLsb' 0 57).toNat
  d0.extractLsb' 57 7 == 0 && d1.extractLsb' 0 24 != 0 && d1.extractLsb' 24 8 == 0 &&
    (dwordAt b 2).extractLsb' 2 30 == 0 && dwordAt b 3 == 0 && (w == some .translated || w == some .vault)

/-- A piece's 32 bytes (R297). -/
def Piece.bytes (p : Piece) : List Byte :=
  leBytes 8 p.vbase.toNat ++ leBytes 8 (p.plen + p.pitch.toNat * 2 ^ 32) ++
    leBytes 8 ((if p.borrow then 1 else 0) + (if p.rdonly then 2 else 0) + p.tagw.toNat * 2 ^ 32) ++ leBytes 8 0

/-- The address of a row of a piece (R297). -/
def Piece.row (p : Piece) (k : Nat) : BitVec 57 := p.vbase + BitVec.ofInt 57 ((k : Int) * p.pitch.toInt)

/-- `n` rows of a piece from row `k`: a split piece keeps its fields (R300). -/
def Piece.sub (p : Piece) (k n : Nat) : Piece := { p with vbase := p.row k, plen := n }

/-- Rows of a sequence of pieces. -/
def rowsOf (ps : List Piece) : Nat := (ps.map (·.plen)).foldl (· + ·) 0

/-! ## The arena's bytes (R293, R295, R296) -/

/-- The block index of the empty version (R295). -/
def noSpine : Nat := 0xFFFFFF

/-- Where list header `n` and block `k` of a partition's arena begin (R293). -/
def Partition.hdrAt (x : Partition) (n : Nat) : Nat := x.staBase.toNat * 2 ^ 16 + 64 * n
def Partition.blkAt (x : Partition) (k : Nat) : Nat :=
  x.staBase.toNat * 2 ^ 16 + (64 * x.nlist.toNat + 511) / 512 * 512 + 512 * k

/-- A version slot (R295). -/
structure VSlot where
  spine : Nat
  pins  : Nat
  live  : Bool
  deriving DecidableEq, Repr

/-- A list header (R295). -/
structure ListHdr where
  ver   : BitVec 32
  len   : Nat
  cur   : Nat
  slots : List VSlot
  deriving DecidableEq, Repr

/-- The header of a new list: empty at version 0 (R293, R295). -/
def ListHdr.zero : ListHdr := ⟨0, 0, 0, ⟨noSpine, 0, true⟩ :: List.replicate 7 ⟨noSpine, 0, false⟩⟩

/-- A header from its 64 bytes (R295). -/
def ListHdr.of (b : List Byte) : ListHdr :=
  let d0 := dwordAt b 0
  ⟨d0.extractLsb' 0 32, (d0.extractLsb' 32 24).toNat, (d0.extractLsb' 56 3).toNat,
   (List.range 8).map fun i =>
     let n := leNat ((b.drop (8 + 6 * i)).take 6)
     ⟨n % 2 ^ 24, n / 2 ^ 24 % 2 ^ 16, n / 2 ^ 47 % 2 = 1⟩⟩

/-- The header word (R295). -/
def ListHdr.word (h : ListHdr) : Word := field 0 32 h.ver.toNat ||| field 32 24 h.len ||| field 56 3 h.cur

/-- A header's 64 bytes (R295). -/
def ListHdr.bytes (h : ListHdr) : List Byte :=
  leBytes 8 h.word.toNat ++
    (h.slots.flatMap fun v => leBytes 6 (v.spine + v.pins * 2 ^ 24 + (if v.live then 2 ^ 47 else 0))) ++ leBytes 8 0

/-- A list's header as the arena holds it. -/
def State.listHdr (s : State) (p : BitVec 4) (n : Nat) : ListHdr := ListHdr.of (memGets s.mem ((s.part p).hdrAt n) 64)

/-- A slot of a header. -/
def ListHdr.slot (h : ListHdr) (i : Nat) : VSlot := h.slots.getD i ⟨noSpine, 0, false⟩

/-- The runs of a version: each with its descriptor block and its pieces (R296). -/
def State.runsOf (s : State) (p : BitVec 4) (spine : Nat) : List (Nat × List Piece) :=
  if spine = noSpine then []
  else
    let x := s.part p
    let b := memGets s.mem (x.blkAt spine) 512
    (List.range ((dwordAt b 0).extractLsb' 56 8).toNat).map fun j =>
      let w := leNat ((b.drop (64 + 4 * j)).take 4)
      (w % 2 ^ 24, (List.range (w / 2 ^ 24 % 32)).map fun i => Piece.of (memGets s.mem (x.blkAt (w % 2 ^ 24) + 32 * i) 32))

/-- The pieces of a version, in order. -/
def State.piecesOf (s : State) (p : BitVec 4) (spine : Nat) : List Piece := (s.runsOf p spine).flatMap Prod.snd

/-- The piece that holds a row, and the row's number in it (R297). -/
def findRow : List Piece → Nat → Option (Piece × Nat)
  | [], _ => none
  | p :: ps, x => if x < p.plen then some (p, x) else findRow ps (x - p.plen)

/-- The header written back, with every slot live that is current or pinned (R295). -/
def State.putHdr (s : State) (p : BitVec 4) (n : Nat) (h : ListHdr) : State :=
  let h1 := { h with slots := h.slots.mapIdx fun i (v : VSlot) => { v with live := decide (i = h.cur) || decide (0 < v.pins) } }
  s.writeMem none ((s.part p).hdrAt n) h1.bytes

/-- The blocks that the live versions of a partition refer to (R296). -/
def State.usedBlocks (s : State) (p : BitVec 4) : List Nat :=
  (List.range (s.part p).nlist.toNat).flatMap fun n =>
    ((s.listHdr p n).slots.filter fun v => v.live && v.spine != noSpine).flatMap fun v =>
      v.spine :: (s.runsOf p v.spine).map Prod.fst

/-- The free blocks (R296). -/
def State.freeBlocks (s : State) (p : BitVec 4) : List Nat :=
  let used := s.usedBlocks p
  (List.range (s.part p).nblk.toNat).filter fun k => !used.contains k

/-- `n` of the free blocks. DESIGN CHOICE: log 33. -/
def pickBlocks (draw : Nat) : Nat → Nat → List Nat → List Nat
  | 0, _, _ => []
  | n + 1, j, free =>
    let b := free.getD (Config.blockPick draw j % Nat.max 1 free.length) 0
    b :: pickBlocks draw n (j + 1) (free.erase b)

/-! ## Handles, tokens, statuses (R294, R299) -/

def stNOARENA : Int := -16
def stBADLIST : Int := -17
def stVFULL : Int := -18
def stLIMIT : Int := -19
def stNOSPACE : Int := -20
def stDESC : Int := -21
def stPINFULL : Int := -22
def stRANGE : Int := -23
def stSTALEV : Int := -24
def stBADPIN : Int := -25

/-- A status as d receives it (R114, R299). -/
def stStatus (n : Int) : Word := BitVec.ofInt 64 n

/-- The list that a handle names (R294, R299). -/
def State.listOf (s : State) (p : BitVec 4) (h : Word) : Except Int Nat :=
  if (s.part p).nlist = 0 then .error stNOARENA
  else if h.extractLsb' 16 48 ≠ 0 ∨ (s.part p).nlist.toNat ≤ h.toNat then .error stBADLIST
  else .ok h.toNat

/-- The version number in a slot (R306). -/
def Partition.verOf (x : Partition) (n slot : Nat) : BitVec 32 := lookupD x.slotVer (BitVec.ofNat 16 n, slot) 0

/-- A pin token (R299). -/
def pinToken (n slot : Nat) (v : BitVec 32) : Word :=
  field 0 32 v.toNat ||| field 32 3 slot ||| field 35 16 n ||| bit 62 true

/-- The list and slot of a token of a live pinned version (R299). -/
def State.tokenOf (s : State) (p : BitVec 4) (t : Word) : Option (Nat × Nat) :=
  let n := (t.extractLsb' 35 16).toNat
  let i := (t.extractLsb' 32 3).toNat
  let x := s.part p
  if t.extractLsb' 62 2 ≠ 1 ∨ t.extractLsb' 51 11 ≠ 0 ∨ x.nlist.toNat ≤ n then none
  else if ((s.listHdr p n).slot i).pins = 0 ∨ x.verOf n i ≠ t.extractLsb' 0 32 then none
  else some (n, i)

/-! ## Pins (R302, R308) -/

/-- A slot with one pin more or fewer. -/
def ListHdr.pinBy (h : ListHdr) (i : Nat) (up : Bool) : ListHdr :=
  { h with slots := h.slots.mapIdx fun j (v : VSlot) => if j = i then { v with pins := if up then v.pins + 1 else v.pins - 1 } else v }

/-- One pin of a list's current version; none when PINS would pass a limit. -/
def State.pinList (s : State) (p : BitVec 4) (n limit : Nat) : Option (Nat × BitVec 32 × State) :=
  let h := s.listHdr p n
  if limit ≤ (h.slot h.cur).pins then none
  else some (h.cur, h.ver, s.putHdr p n (h.pinBy h.cur true))

/-- A pin given back. -/
def State.unpinList (s : State) (p : BitVec 4) (n i : Nat) : State :=
  let h := s.listHdr p n
  if (s.part p).nlist.toNat ≤ n ∨ (h.slot i).pins = 0 then s else s.putHdr p n (h.pinBy i false)

/-- The row of a pinned or current version: its address and RDONLY; none beyond the version's length (R297, R309). -/
def State.listRow (s : State) (p : BitVec 4) (n slot x : Nat) : Option (BitVec 57 × Bool) :=
  (findRow (s.piecesOf p ((s.listHdr p n).slot slot).spine) x).map fun q => (q.1.row q.2, q.1.rdonly)

/-! ## Instructions (R298 to R303) -/

/-- What every stitch instruction does before its effect. -/
def State.stitch (s : State) (rs : List Reg) (k : List Word → State → State → State) : State :=
  s.unsafeIssue fun s => s.withRegs rs fun ws s' => k ws s s'

/-- Where the clocks of a list's last publication are kept: the arena itself is not tracked (R351), and four headers share a
sector. -/
def Partition.hdrKey (x : Partition) (n : Nat) : Nat := 2 ^ 64 + x.hdrAt n

/-- Reading a header word is an acquire at .dom of the release that published the version (R304). -/
def State.readHdrWord (s0 : State) (a : Agent) (p : BitVec 4) (n : Nat) : State :=
  let s := match a with
    | .core i => s0.setCoreAt i { s0.cores[i] with ord := s0.cores[i].ord.fence 4 s0.writes }
    | _ => s0
  match s.shadow.find? (·.1 = (s.part p).hdrKey n) with
  | none => s
  | some (_, sh) =>
    let k := s.clock a
    s.setClock { k with h := (sh.rel.filter fun q => q.2.joins q.1 a 4 none).foldl (fun h q => joinClocks h q.2.clocks) k.h }

/-- A splice's publication is a release at its scope by the issuing core (R300, R304). -/
def State.publishHdr (s : State) (p : BitVec 4) (n : Nat) (scope : BitVec 3) : State :=
  let me := Agent.core s.cur
  let s1 := s.raceRelease me scope
  { s1 with shadow := assign s1.shadow ((s.part p).hdrKey n) ⟨me, 0, none, (s1.clock me).rel.map fun r => (me, r), none, none⟩ }

/-- stver (R303). -/
def execStver (d a : Reg) (s : State) : Out :=
  .next (s.stitch [a] fun ws s s' =>
    match s.listOf s.pid (ws.getD 0 0) with
    | .error e => s.finish s' d (stStatus e)
    | .ok n => s.finish (s'.readHdrWord (.core s.cur) s.pid n) d (s.listHdr s.pid n).word)

/-- stpin (R302). -/
def execStpin (d a : Reg) (s : State) : Out :=
  .next (s.stitch [a] fun ws s s' =>
    match s.listOf s.pid (ws.getD 0 0) with
    | .error e => s.finish s' d (stStatus e)
    | .ok n =>
      match s'.pinList s.pid n 49151 with
      | none => s.finish s' d (stStatus stPINFULL)
      | some (i, v, s1) => s.finish (s1.readHdrWord (.core s.cur) s.pid n) d (pinToken n i v))

/-- stunpin (R302). -/
def execStunpin (a : Reg) (s : State) : Out :=
  .next (s.stitch [a] fun ws s s' =>
    match s.tokenOf s.pid (ws.getD 0 0) with
    | none => s.trap tSTPIN (ws.getD 0 0)
    | some (n, i) => (s'.unpinList s.pid n i).retire)

/-- stlook (R303). -/
def execStlook (d a b : Reg) (s : State) : Out :=
  .next (s.stitch [a, b] fun ws s s' =>
    let t := ws.getD 0 0
    let row (n i : Nat) : Word := match s.listRow s.pid n i (ws.getD 1 0).toNat with
      | none => stStatus stRANGE
      | some r => r.1.setWidth 64
    if (s.part s.pid).nlist = 0 then s.finish s' d (stStatus stNOARENA)
    else if t.getLsbD 62 then
      match s.tokenOf s.pid t with
      | none => s.finish s' d (stStatus stBADPIN)
      | some (n, i) => s.finish s' d (row n i)
    else match s.listOf s.pid t with
      | .error e => s.finish s' d (stStatus e)
      | .ok n => s.finish (s'.readHdrWord (.core s.cur) s.pid n) d (row n (s.listHdr s.pid n).cur))

/-! ## splice (R300, R301) -/

/-- A request block (R300). -/
structure SpliceReq where
  index : Nat
  nrem  : Nat
  scope : BitVec 3
  chk   : Bool
  expv  : BitVec 32
  ins   : List Piece
  deriving DecidableEq, Repr

/-- The request block at an address, read as an engine reads for the core; none is DESC (R299, R300). -/
def State.spliceReq (s : State) (a : Word) : Option SpliceReq :=
  if a.toNat % 32 ≠ 0 ∨ a.extractLsb' 57 7 ≠ 0 then none
  else match s.readCore a.toNat 32 with
    | .error _ => none
    | .ok h =>
      let d0 := dwordAt h 0
      let d1 := dwordAt h 1
      let n := (d1.extractLsb' 0 5).toNat
      if d0.extractLsb' 48 16 ≠ 0 ∨ d1.extractLsb' 9 23 ≠ 0 ∨ 4 < (d1.extractLsb' 5 3).toNat ∨ dwordAt h 2 ≠ 0 ∨
          dwordAt h 3 ≠ 0 ∨ 16 < n then none
      else match s.readCore (a.toNat + 32) (32 * n) with
        | .error _ => none
        | .ok b =>
          let ds := (List.range n).map fun i => (b.drop (32 * i)).take 32
          if ds.all descriptorOk then
            some ⟨(d0.extractLsb' 0 24).toNat, (d0.extractLsb' 24 24).toNat, d1.extractLsb' 5 3, d1.getLsbD 8,
              d1.extractLsb' 32 32, ds.map Piece.of⟩
          else none

/-- Pieces with the rows from `lo` to `hi` taken out of a sequence that begins at row `at`. -/
def cutOut (lo hi : Nat) : Nat → List Piece → List Piece
  | _, [] => []
  | r, p :: ps =>
    let a := Nat.max r lo
    let b := Nat.min (r + p.plen) hi
    (if a < b then [p.sub (a - r) (b - a)] else []) ++ cutOut lo hi (r + p.plen) ps

/-- The runs after a splice: a run not cut is shared (R300). The pieces of the runs cut, with the inserted ones between,
fill new descriptor blocks of 16. -/
def spliceRuns (runs : List (Nat × List Piece)) (index hi : Nat) (ins : List Piece) : List (Option Nat × List Piece) :=
  let ends := runs.foldl (fun (acc : Nat × List (Nat × (Nat × List Piece))) r =>
    (acc.1 + rowsOf r.2, acc.2 ++ [(acc.1, r)])) (0, [])
  let left := ends.2.filter fun q => decide (q.1 + rowsOf q.2.2 ≤ index)
  let rest := ends.2.filter fun q => !decide (q.1 + rowsOf q.2.2 ≤ index)
  let right := rest.filter fun q => decide (hi ≤ q.1)
  let mid := rest.filter fun q => !decide (hi ≤ q.1)
  let all := runs.flatMap Prod.snd
  let midFrom := (mid.head?.map (·.1)).getD index
  let midTo := (mid.getLast?.map fun q => q.1 + rowsOf q.2.2).getD hi
  let new := cutOut midFrom index 0 all ++ ins ++ cutOut hi midTo 0 all
  (left.map fun q => (some q.2.1, q.2.2)) ++
    ((List.range ((new.length + 15) / 16)).map fun i => (none, (new.drop (16 * i)).take 16)) ++
    right.map fun q => (some q.2.1, q.2.2)

/-- The spine's bytes (R296). -/
def spineBytes (v : BitVec 32) (runs : List (Nat × List Piece)) : List Byte :=
  let ps := runs.flatMap Prod.snd
  leBytes 8 (v.toNat + rowsOf ps * 2 ^ 32 + runs.length * 2 ^ 56) ++ leBytes 8 ps.length ++ List.replicate 48 0 ++
    runs.flatMap fun r => leBytes 4 (r.1 + r.2.length * 2 ^ 24)

/-- New runs take the blocks of a list in order. -/
def giveBlocks : List (Option Nat × List Piece) → List Nat → List (Nat × List Piece)
  | [], _ => []
  | (some b, ps) :: rest, bs => (b, ps) :: giveBlocks rest bs
  | (none, ps) :: rest, b :: bs => (b, ps) :: giveBlocks rest bs
  | (none, ps) :: rest, [] => (0, ps) :: giveBlocks rest []

/-- The slot that the new version takes: the lowest that is not live, else the current one if it is unpinned (R300,
R428). -/
def ListHdr.newSlot (h : ListHdr) : Option Nat :=
  match (List.range 8).find? fun i => !(h.slot i).live with
  | some i => some i
  | none => if (h.slot h.cur).pins = 0 then some h.cur else none

/-- splice on list `n` (R300): the value for d and the state after. -/
def State.splice (s : State) (p : BitVec 4) (n : Nat) (q : SpliceReq) : Word × State :=
  let h := s.listHdr p n
  let x := s.part p
  let runs := s.runsOf p (h.slot h.cur).spine
  let hi := q.index + q.nrem
  if q.chk ∧ h.ver ≠ q.expv then (stStatus stSTALEV, s)
  else if h.len < hi then (stStatus stRANGE, s)
  else match h.newSlot with
    | none => (stStatus stVFULL, s)
    | some i =>
      let new := spliceRuns runs q.index hi q.ins
      let len := h.len - q.nrem + rowsOf q.ins
      let npiece := (new.map fun r => r.2.length).foldl (· + ·) 0
      if 2 ^ 24 - 1 < len ∨ 1792 < npiece ∨ 112 < new.length then (stStatus stLIMIT, s)
      else
        let removed := cutOut q.index hi 0 (runs.flatMap Prod.snd)
        let fresh := (new.filter fun r => r.1.isNone).length
        let need := if len = 0 then 0 else fresh + 1
        let free := s.freeBlocks p
        if free.length < need ∨ 4096 < x.retired.length + removed.length then (stStatus stNOSPACE, s)
        else
          let (k, s0) := s.draw
          let bs := pickBlocks k need 0 free
          let ver := h.ver + 1
          let runs' := giveBlocks new bs
          let spine := if len = 0 then noSpine else bs.getD fresh 0
          let s1 := ((new.zip runs').filter fun r => r.1.1.isNone).foldl (fun s r =>
            s.writeMem none (x.blkAt r.2.1) (r.2.2.flatMap Piece.bytes)) s0
          let s2 := if len = 0 then s1 else s1.writeMem none (x.blkAt spine) (spineBytes ver runs')
          let h' : ListHdr := ⟨ver, len, i, h.slots.mapIdx fun j (v : VSlot) => if j = i then ⟨spine, 0, true⟩ else v⟩
          let s4 := (s2.publishHdr p n q.scope).putHdr p n h'
          let rs := removed.map fun r =>
            (⟨s.cur, BitVec.ofNat 16 n, ver, r.vbase, BitVec.ofNat 24 r.plen, r.pitch, r.borrow, r.rdonly, r.tagw, false⟩ : Retired)
          let y := s4.part p
          (ver.setWidth 64, s4.setPart p { y with retired := y.retired ++ rs, slotVer := assign y.slotVer (BitVec.ofNat 16 n, i) ver })

/-- splice (R298, R300): its release at PSCOPE waits for the core's earlier accesses (R304). -/
def execSplice (d a b : Reg) (s : State) : Out :=
  .next (s.stitch [a, b] fun ws s s' =>
    match s.listOf s.pid (ws.getD 0 0) with
    | .error e => s.finish s' d (stStatus e)
    | .ok n =>
      match s'.spliceReq (ws.getD 1 0) with
      | none => s.finish s' d (stStatus stDESC)
      | some q =>
        if s.fenceWaits q.scope 2 then s
        else
          let r := s'.splice s.pid n q
          s.finish r.2 d r.1)

/-! ## Retirement (R306, R307) -/

/-- A version number was published before another. -/
def verBefore (v w : BitVec 32) : Bool := v != w && decide ((w - v).toNat < 2 ^ 31)

/-- No version published before the piece's mark is live (R306). -/
def State.isRetired (s : State) (p : BitVec 4) (r : Retired) : Bool :=
  r.freed || !(List.range 8).any fun i =>
    ((s.listHdr p r.list.toNat).slot i).live && verBefore ((s.part p).verOf r.list.toNat i) r.mark

/-- A reclaim record (R307). -/
def Retired.record (r : Retired) : List Word :=
  [field 0 57 r.vbase.toNat ||| bit 57 r.borrow ||| bit 58 r.rdonly, field 0 24 r.plen.toNat ||| field 32 32 r.pitch.toNat,
   field 0 16 r.list.toNat ||| field 32 32 r.tagw.toNat, field 0 32 r.mark.toNat]

/-- The reclaim queue of a core of partition `p`: in the core, or in the attics while its context is there (R307, R393). -/
def State.rclqOf (s : State) (p : BitVec 4) (c : Fin 64) : Option Ring :=
  match ((s.part p).saved).bind fun v => v.cores.find? (·.1 = c) with
  | some q => some q.2.rclq
  | none => if s.cores[c].part = some p then some s.cores[c].rclq else none

/-- That queue replaced. -/
def State.setRclq (s : State) (p : BitVec 4) (c : Fin 64) (r : Ring) : State :=
  match ((s.part p).saved).filter fun v => v.cores.any (·.1 = c) with
  | some v => s.setPart p { s.part p with saved := some { v with
      cores := v.cores.map fun q => if q.1 = c then (c, { q.2 with rclq := r }) else q } }
  | none => s.setCoreAt c { s.cores[c] with rclq := r }

/-- The piece that is posted next: of those that are retired and whose core's queue has room, the first of the earliest mark
(R306). -/
def State.nextReclaim (s : State) (p : BitVec 4) : Option Retired :=
  let can := (s.part p).retired.filter fun r =>
    s.isRetired p r && (s.rclqOf p r.core).any fun q => q.size != 0 && !q.full
  (can.find? fun r => !can.any fun o => verBefore o.mark r.mark).or can.head?

/-- A reclaim record that may not be written is noted in CPY_STAT of its core, in the attics while its context is there (R307). -/
def State.noteReclaim (s : State) (p : BitVec 4) (c : Fin 64) (addr : Nat) : State :=
  match ((s.part p).saved).filter fun v => v.cores.any (·.1 = c) with
  | some v => s.setPart p { s.part p with saved := some { v with
      cores := v.cores.map fun q => if q.1 = c then (c, q.2.noteCopy eXLATE addr) else q } }
  | none => s.noteCopyAt c eXLATE addr

/-- RECLAIM_RECORD_POST: a retired piece's record goes to the queue of the core that removed it, or is dropped when it
would be written outside the grants (R306, R307). -/
def execReclaimRecordPost (s : State) : Out :=
  let p := s.input.p
  match s.nextReclaim p with
  | none => .next s
  | some r =>
    let s1 := s.setPart p { s.part p with retired := (s.part p).retired.erase r }
    match s1.post p ((s.rclqOf p r.core).getD Ring.zero) r.record with
    | .posted s2 q => .next (s2.setRclq p r.core q)
    | .denied addr => .next (s1.noteReclaim p r.core addr)
    | .full => .next s

/-! ## STA_GEOM (R293) -/

/-- Some version of some list is pinned. -/
def State.anyPinned (s : State) (p : BitVec 4) : Bool :=
  (List.range (s.part p).nlist.toNat).any fun n => (s.listHdr p n).slots.any fun v => decide (0 < v.pins)

/-- The arena fits: inside the vault window, on one die, in vaults granted to the partition. -/
def State.arenaFits (s : State) (p : BitVec 4) (nlist nblk : Nat) : Bool :=
  let lo := (s.part p).staBase.toNat * 2 ^ 16
  let hi := lo + (64 * nlist + 511) / 512 * 512 + 512 * nblk - 1
  windowOf lo == some .vault && windowOf hi == some .vault &&
    decide ((lo - vaultBase) / 2 ^ 30 = (hi - vaultBase) / 2 ^ 30) &&
    (List.range ((hi - vaultBase) / 2 ^ 25 - (lo - vaultBase) / 2 ^ 25 + 1)).all fun i =>
      (s.part p).grants.vaults.contains ((lo - vaultBase) / 2 ^ 25 + i)

/-- A write of STA_GEOM (R293). -/
def State.writeStaGeom (s : State) (p : BitVec 4) (v : Word) : State :=
  if s.anyPinned p then s
  else
    let nlist := v.extractLsb' 0 16
    let nblk := v.extractLsb' 16 24
    let x := s.part p
    let y := { x with slotVer := [], retired := x.retired.map fun (r : Retired) => { r with freed := true } }
    if nblk = 0xFFFFFF ∨ (nlist ≠ 0 ∧ !s.arenaFits p nlist.toNat nblk.toNat) then s.setPart p { y with nlist := 0, nblk := 0 }
    else
      let s1 := s.setPart p { y with nlist, nblk }
      (List.range nlist.toNat).foldl (fun s n => s.writeMem none ((s.part p).hdrAt n) ListHdr.zero.bytes) s1

/-- STA_GEOM_WRITE: a core of the partition writes STA_GEOM (R293). -/
def execStaGeomWrite (s : State) : Out := .next (s.writeStaGeom s.pid s.input.val)

end Machine
end Sys2Proof
end

