-- ==== Sys2Proof/Machine/Fabric.lean ====
section
/-! DEFINITION. The fabric's shared machinery: tiles, regions and their edges, counters and launches (R37 to R44), tokens
on their way and their credits (R35, R148, R157), the matching store (R31 to R34), and the purge of a cancelled launch
(R41). -/

namespace Sys2Proof.Machine

/-! ## Tiles, regions, configurations -/

/-- A tile by name; one that holds nothing is not listed. -/
def State.tileAt (s : State) (t : TileId) : Tile := (s.tiles.find? (·.id = t)).getD (Tile.zero t)

/-- The state with a tile replaced. -/
def State.setTile (s : State) (x : Tile) : State := { s with tiles := x :: s.tiles.filter (·.id ≠ x.id) }

/-- The state with a tile changed. -/
def State.onTile (s : State) (t : TileId) (f : Tile → Tile) : State := s.setTile (f (s.tileAt t))

/-- The resident region that holds a tile (R2). -/
def State.regionOf (s : State) (t : TileId) : Option Region := s.regions.find? fun r => r.resident && r.tiles.contains t

/-- The regions of the partitions that are swapped out (R393). -/
def State.savedRegions (s : State) : List Region :=
  s.parts.toList.flatMap fun x => match x.saved with
    | none => []
    | some v => v.regions

/-- The region in a core's binding slot (R113). -/
def State.region (s : State) (c : Fin 64) (b : BitVec 3) : Option Region :=
  s.regions.find? fun r => r.core == c && r.bslot == b

/-- The state with a region replaced. -/
def State.setRegion (s : State) (r : Region) : State :=
  { s with regions := updFirst (fun x => x.core == r.core && x.bslot == r.bslot) (fun _ => r) s.regions }

/-- The state with the region in a binding slot changed. -/
def State.onRegion (s : State) (c : Fin 64) (b : BitVec 3) (f : Region → Region) : State :=
  { s with regions := updFirst (fun x => x.core == c && x.bslot == b) f s.regions }

/-- A tile's block of a configuration (R47). -/
def Tile.cfg (x : Tile) (n : BitVec 2) : Option CfgBlock := (x.cfgs.find? (·.1 = n.toNat)).map Prod.snd

/-- The operation word of a used slot (R62, R154). -/
def CfgBlock.op (b : CfgBlock) (st : Nat) : Option Word32 := if b.used.getLsbD st then b.ops[st]? else none

/-- The opcode of a word (R62). -/
def opOf (w : Word32) : Nat := (w.extractLsb' 24 8).toNat

/-- Port p of a word is marked in IN: a, b, c, or 3, the parameter port of an AG-family word (R62). -/
def inMarked (w : Word32) (p : Nat) : Bool :=
  let ag := decide (0x80 ≤ opOf w ∧ opOf w ≤ 0x89)
  match p with
  | 0 => w.getLsbD 21
  | 1 => w.getLsbD 20
  | 2 => w.getLsbD 19 && !ag
  | _ => w.getLsbD 19 && ag

/-- Output o of a word is enabled (R62). -/
def outOn (w : Word32) (o : Nat) : Bool := decide (o < 4) && w.getLsbD (10 + o)

/-- The word of a station in configuration `n` of its tile. -/
def State.wordIn (s : State) (t : TileId) (n : BitVec 2) (st : Nat) : Option Word32 :=
  ((s.tileAt t).cfg n).bind (·.op st)

/-- The word of a station in its region's selected configuration (R47). -/
def State.wordAt (s : State) (t : TileId) (st : Nat) : Option Word32 :=
  (s.regionOf t).bind fun r => s.wordIn t r.sel st

/-- An edge-table entry belongs to configuration `n` (R442). The target of a pport is a parameter port that no edge
feeds. -/
def State.edgeIn (s : State) (n : BitVec 2) (e : Edge) : Bool :=
  (e.psrc || (e.ext && e.xin) || ((s.wordIn e.src n e.sst).map (outOn · e.sout)).getD false) &&
  ((e.ext && !e.xin) || ((s.wordIn e.dst n e.dstSt).map (inMarked · e.dport)).getD false)

/-- The edges that leave an output in the selected configuration. -/
def State.outEdges (s : State) (r : Region) (t : TileId) (st o : Nat) : List Edge :=
  r.edges.filter fun e => !e.psrc && !(e.ext && e.xin) && e.src == t && e.sst == st && e.sout == o && s.edgeIn r.sel e

/-! ## Tokens -/

/-- A STOP level. -/
def Kind.level : Kind → Nat
  | .stop n => n
  | _ => 0

/-- The iteration tag of launch-wide ERROR tokens (R28). -/
def wideIter : BitVec 24 := 0xFFFFFF

/-- A launch-wide ERROR (R41). -/
def Token.isWide (t : Token) : Bool := t.kind == .error && t.iter == wideIter

/-- An ERROR's payload word (R29). -/
def ErrInfo.word (e : ErrInfo) : Word :=
  e.origin ++ e.tile.die ++ e.tile.col ++ e.tile.row ++ (0 : BitVec 37) ++ e.cause

/-- The fields of an ERROR's payload word (R29). -/
def errOfWord (w : Word) : ErrInfo :=
  ⟨w.extractLsb' 54 10, ⟨w.extractLsb' 52 2, w.extractLsb' 47 5, w.extractLsb' 43 4⟩, w.extractLsb' 0 6⟩

/-- A 64-bit word in a vector payload's lanes 0 and 1 (R29). -/
def lanesOfWord (w : Word) : List W48 :=
  w.setWidth 48 :: (w.extractLsb' 48 16).setWidth 48 :: List.replicate 14 0

/-- The 64-bit word of a vector payload's lanes 0 and 1 (R29, R201). -/
def wordOfLanes (l : List W48) : Word := (l.getD 1 0).extractLsb' 0 16 ++ l.getD 0 0

/-- A payload read as a 64-bit word: a scalar, or a vector's lanes 0 and 1, or the control bit. -/
def Payload.word : Payload → Word
  | .scalar w => w
  | .vector l => wordOfLanes l
  | .ctl b => if b then 1 else 0

/-- What an ERROR says. On the control network it has no cause (R29): every station then passes it on as its own failure
with cause 0, as R203 says of gate. DESIGN CHOICE: log 81. -/
def Token.err (t : Token) (self : ErrInfo) : ErrInfo :=
  match t.pay with
  | .ctl _ => { self with cause := 0 }
  | p => errOfWord p.word

/-- A token as a network carries it: an ERROR by R29, a STOP with payload zero (R27). The control network carries DATA and
ERROR and nothing else (R45): a value becomes a pulse of its bit 0, a PARAM the same, a DONE a pulse of 1, and a STOP, KEY
or QUERY does not travel there. A payload of one data network stays as produced on the other. DESIGN CHOICE: log 82. -/
def Token.onNet (t : Token) (net : BitVec 2) (self : ErrInfo) : Option Token :=
  let w := (t.err self).word
  if net = 2 then
    match t.kind with
    | .error => some { t with pay := .ctl true }
    | .data => some { t with pay := .ctl (t.pay.word.getLsbD 0) }
    | .param => some { t with kind := .data, pay := .ctl (t.pay.word.getLsbD 0) }
    | .done => some { t with kind := .data, pay := .ctl true }
    | _ => none
  else
    match t.kind with
    | .error => some { t with pay := if net = 0 then .scalar w else .vector (lanesOfWord w) }
    | .stop _ => some { t with pay := if net = 0 then .scalar 0 else .vector (List.replicate 16 0) }
    | _ => some t

/-- A token that holds a scalar. -/
def tokS (seq : BitVec 8) (iter : BitVec 24) (k : Kind) (w : Word) : Token := ⟨seq, iter, k, .scalar w, (0, 0)⟩

/-- A token that holds lanes. -/
def tokV (seq : BitVec 8) (iter : BitVec 24) (k : Kind) (l : List W48) : Token := ⟨seq, iter, k, .vector l, (0, 0)⟩

/-- An ERROR token. -/
def tokE (seq : BitVec 8) (iter : BitVec 24) (e : ErrInfo) : Token := ⟨seq, iter, .error, .scalar e.word, (0, 0)⟩

/-- A STOP token. -/
def tokStop (seq : BitVec 8) (iter : BitVec 24) (n : Nat) : Token := ⟨seq, iter, .stop n, .scalar 0, (0, 0)⟩

/-! ## Counters (R38, R40) -/

/-- A counter after `n` more events; `bad` says why they ended cancelled. -/
def Counter.add (c : Counter) (n : Nat) (bad : Option ErrInfo) : Counter :=
  let c1 := { c with count := c.count + BitVec.ofNat 32 n }
  match bad with
  | none => c1
  | some e =>
    let c2 := { c1 with cncl := BitVec.ofNat 12 (Nat.min 0xFFF (c1.cncl.toNat + n)) }
    if c2.cause = 0 then { c2 with cause := e.cause, origin := e.origin } else c2

/-- A counter that records a cancellation without counting an event. -/
def Counter.blame (c : Counter) (e : ErrInfo) : Counter :=
  if c.cause = 0 then { c with cause := e.cause, origin := e.origin } else c

/-- A counter at its end: cancelled when any part was, else complete. -/
def Counter.finish (c : Counter) (cancelled : Bool) : Counter :=
  { c with state := if cancelled || c.cncl != 0 then .cancelled else .complete }

/-- A counter's word (R38). -/
def Counter.word (c : Counter) : Word :=
  let st : BitVec 2 := match c.state with
    | .open_ => 0
    | .complete => 1
    | .cancelled => 2
  st ++ (0 : BitVec 2) ++ c.cause ++ c.origin ++ c.cncl ++ c.count

/-- What an ended counter hands upward when it ended cancelled. -/
def Counter.blamed (c : Counter) : Option ErrInfo :=
  if c.state = .cancelled then some ⟨c.origin, ⟨0, 0, 0⟩, c.cause⟩ else none

/-- A launch's runs at a sampler are purged, one in progress with no larder write (R403, R406). -/
def Sampler.release (x : Sampler) (c : Fin 64) (b : BitVec 3) (seq : BitVec 8) : Sampler :=
  { x with items := x.items.filter fun q => !(q.core == c && q.bslot == b && q.seq == seq && q.out.isNone),
           skips := x.skips.filter fun q => !(q.core == c && q.bslot == b && q.seq == seq),
           ctx := mapEach x.ctx fun _ o => o.filter fun q => !(q.core == c && q.bslot == b && q.seq == seq) }

/-! ## Ends of launches, graphs, phases, jobs (R37, R40) -/

/-- An entry of this module (R132). -/
def State.isHere (s : State) (e : PhaseEntry) : Bool := e.module == 0x3FF || e.module == s.module

/-- The job's end, when its target is reached, or, after cancel.job, when no phase that has started is left (R43, R135). -/
def State.jobEnd (s : State) (p : BitVec 4) : State :=
  let x := s.part p
  if x.jcc.state ≠ .open_ then s
  else if x.jobCancel then
    if x.phases.any fun q => q.started && q.pcc.state == .open_ then s else s.setPart p { x with jcc := x.jcc.finish true }
  else if x.jcc.count = x.jccTarget then s.setPart p { x with jcc := x.jcc.finish false }
  else s

/-- The job counts a phase that ended, after the job's own end as well (R38, R135). -/
def State.jobCount (s : State) (p : BitVec 4) (bad : Option ErrInfo) : State :=
  (s.setPart p { s.part p with jcc := (s.part p).jcc.add 1 bad }).jobEnd p

/-- The bins of this module that a phase holds staged: published when it committed, a release at .dom of what each counted, else
emptied (R348). -/
def State.endStaging (s : State) (q : StageId) (committed : Bool) : State :=
  (s.bins.filter (·.2.staged = some q)).foldl (fun s b =>
    let now := b.2.unstage committed
    (s.setBin b.1 now).fillEvent b.1 b.2 now) s

/-- The other modules where a phase of this module may have staged bins: those of its entries, and those that its stations have
written to (R348). -/
def State.stagesAt (s : State) (ph : Phase) : List (BitVec 10) :=
  let asked := s.sent.filterMap fun x => match x with
    | .remoteReq _ m _ (.write _ _ _ (some (own, ser))) => if own = s.module ∧ ser = ph.serial then some m else none
    | _ => none
  (((ph.entries.filter fun e => !s.isHere e).map (·.module)) ++ asked).eraseDups

/-- A phase's staged bins leave staging on every module (R348). -/
def State.publish (s : State) (p : BitVec 4) (ph : Phase) (committed : Bool) : State :=
  let s1 := s.endStaging (p, s.module, ph.serial) committed
  if ph.staging then
    { s1 with sent := s1.sent ++ (s.stagesAt ph).map fun m => .hub p s.module ph.serial m (.publish committed) }
  else s1

/-- A phase's PCC counts the graph of an entry that ended, and the phase ends at NG, cancelled if it or any of its graphs was (R37, R38,
R43, R133). The count goes on after the end. -/
def State.phaseCount (s : State) (p : BitVec 4) (serial : BitVec 32) (which : PhaseEntry → Bool) (bad : Option ErrInfo) : State :=
  let x := s.part p
  match x.phases.find? (fun ph => ph.serial == serial) with
  | none => s
  | some ph =>
    let entries := updFirst which (fun e => { e with ended := true }) ph.entries
    let pcc := ph.pcc.add 1 bad
    let done := ph.pcc.state == .open_ && decide (entries.length ≤ pcc.count.toNat)
    let pcc' := if done then pcc.finish ph.cancelled else pcc
    let s1 := s.setPart p { x with phases := updFirst (·.serial == serial) (fun ph => { ph with entries, pcc := pcc' }) x.phases }
    if done then (s1.publish p ph (pcc'.state == .complete)).jobCount p pcc'.blamed else s1

/-- Fields of a handle (R113). -/
def hLevel (h : Word) : Nat := (h.extractLsb' 60 3).toNat
def hPart (h : Word) : BitVec 4 := h.extractLsb' 56 4
def hCore (h : Word) : Fin 64 := ⟨(h.extractLsb' 50 6).toNat, (h.extractLsb' 50 6).isLt⟩
def hBslot (h : Word) : BitVec 3 := h.extractLsb' 47 3
def hSeq (h : Word) : BitVec 8 := h.extractLsb' 32 8
def hSerial (h : Word) : BitVec 32 := h.extractLsb' 0 32

/-- The graph handle of a region (R113). -/
def Region.handle (r : Region) : Word :=
  (0 : BitVec 1) ++ (2 : BitVec 3) ++ r.part ++ dieOf r.core ++ BitVec.ofNat 4 (r.core.val % 16) ++ r.bslot ++
    (0 : BitVec 7) ++ (0 : BitVec 8) ++ r.serial

/-- An entry of a phase of another module has ended here, which that module is told (R133). -/
def State.guestEnded (s : State) (p : BitVec 4) (k : PhaseKey) (which : PhaseEntry → Bool) (bad : Option ErrInfo) : State :=
  match s.phaseAt p k with
  | none => s
  | some ph =>
    let mark (x : Phase) : Phase := { x with entries := updFirst which (fun e => { e with ended := true }) x.entries }
    let s1 := s.setPart p { s.part p with guests := updFirst (fun x => x.owner == k.1 && x.serial == k.2) mark (s.part p).guests }
    { s1 with sent := s1.sent ++ [.hub p k.1 k.2 k.1 (.ended (ph.entries.findIdx which) (bad.map fun e => (e.cause, e.origin)))] }

/-- The graph of an entry of a phase has ended: the phase counts it, here or at the module that issued it. -/
def State.entryEnded (s : State) (p : BitVec 4) (k : PhaseKey) (which : PhaseEntry → Bool) (bad : Option ErrInfo) : State :=
  if k.1 = s.module then s.phaseCount p k.2 which bad else s.guestEnded p k which bad

/-- An entry of a phase names the graph of a region, by its binding slot: a commit within the phase gives it another handle (R121). -/
def Region.isEntry (r : Region) (e : PhaseEntry) : Bool :=
  hPart e.graph == r.part && hCore e.graph == r.core && hBslot e.graph == r.bslot

/-- The region whose graph an entry of this module names. -/
def State.entryOf (s : State) (e : PhaseEntry) : Option Region :=
  if s.isHere e then s.regions.find? (·.isEntry e) else none

/-- A graph's epoch ends (R131, R137): GCC takes its final state, and a phase that holds the graph counts it. -/
def State.endEpoch (s : State) (r : Region) (cancelled : Bool) : State :=
  let gcc := r.gcc.finish cancelled
  let s1 := s.setRegion { r with gcc, epochOpen := false, closing := false, cancelling := false, phase := none,
                                 phaseCount := 0, phaseDone := 0, slave := false }
  match r.phase with
  | none => s1
  | some k => s1.entryEnded r.part k (fun e => s.isHere e && r.isEntry e && !e.ended) gcc.blamed

/-- Launch records of a region that have left its core and not yet entered its queue (R125). -/
def State.recsOf (s : State) (r : Region) : List OutRec := s.cores[r.core].recs.filter (·.bslot = r.bslot)

/-- A region's epoch ends: in a phase, once GCC has reached the count declared there; else, once the live launches have
ended, when it is cancelled, or closed by phend with nothing queued (R37, R43, R131). -/
def State.epochCheck (s : State) (c : Fin 64) (b : BitVec 3) : State :=
  match s.region c b with
  | none => s
  | some r =>
    if !r.epochOpen then s
    else if r.cancelling then (if r.live = [] then s.endEpoch r true else s)
    else if r.phase.isSome ∧ r.phaseCount ≠ 0 ∧ r.phaseCount ≤ r.phaseDone then s.endEpoch r false
    else if r.closing ∧ r.live = [] ∧ r.queue = [] ∧ s.recsOf r = [] then s.endEpoch r false
    else s

/-! ## Cut graphs (R134) -/

/-- The entries of a region's cut graph, the lead's first, with their numbers in the phase, and the phase; none for a region by
itself. -/
def State.group (s : State) (r : Region) : Option (PhaseKey × List (PhaseEntry × Nat)) :=
  match r.phase.bind fun k => (s.phaseAt r.part k).map fun ph => (k, ph) with
  | none => none
  | some (k, ph) =>
    match ph.entries.find? fun e => s.isHere e && r.isEntry e with
    | none => none
    | some e => if e.group = 0 then none else some (k, ph.entries.zipIdx.filter (·.1.group = e.group))

/-- The pieces of a region's cut graph on this module, the lead first if it is here; a region by itself otherwise. -/
def State.pieces (s : State) (r : Region) : List Region :=
  match s.group r with
  | none => [r]
  | some (_, es) => es.filterMap fun x => s.entryOf x.1

/-- The piece on which launches are issued and counted. -/
def State.lead (s : State) (r : Region) : Region := ((s.pieces r).head?).getD r

/-- The module that holds the lead of a region's cut graph, when that is another one, with the phase and the number of this
piece's entry (R134). -/
def State.leadAway (s : State) (r : Region) : Option (BitVec 10 × PhaseKey × Nat) :=
  match s.group r with
  | some (k, e :: es) =>
    if s.isHere e.1 then none
    else some (e.1.module, k, ((es.find? fun x => s.isHere x.1 && r.isEntry x.1).map (·.2)).getD 0)
  | _ => none

/-- The hub tells every other module that holds a piece of a region's cut graph (R134). -/
def State.tellPieces (s : State) (r : Region) (m : Nat → HubMsg) : State :=
  match s.group r with
  | none => s
  | some (k, es) =>
    let told := (es.filter fun q => !s.isHere q.1).map fun q => Sent.hub r.part k.1 k.2 q.1.module (m q.2)
    { s with sent := s.sent ++ told }

/-- An ended counter's cause and origin, when it ended cancelled. -/
def Counter.why (k : Counter) : Option (BitVec 6 × BitVec 10) := k.blamed.map fun e => (e.cause, e.origin)

/-- A recall unit without a launch's partly gathered runs (R328). -/
def Recall.dropLaunch (x : Recall) (seq : BitVec 8) : Recall :=
  { x with gather := (x.gather.map fun g => (g.1, g.2.filter (·.seq ≠ seq))).filter fun g => !g.2.isEmpty }

/-- Every entry of a recall unit ages by one, and those that reach the limit are removed (R325). -/
def Recall.older (x : Recall) : Recall :=
  { x with entries := (x.entries.map fun (e : REntry) => { e with age := e.age + 1 }).filter fun e => e.age.ult x.alim }

/-- What a tile still has of a sequence number is forgotten when a later launch takes the number (R28, R41, R200). -/
def Tile.forget (x : Tile) (seq : BitVec 8) : Tile :=
  { x with slots := x.slots.filter (·.seq ≠ seq), purged := x.purged.filter (·.2 ≠ seq),
           barBad := x.barBad.filter (·.2 ≠ seq) }

/-- A slot of a station that keeps state between firings (R200), and not the round of an AG, memory or recall station. -/
def State.freedSlot (s : State) (t : TileId) (x : Slot) : Bool :=
  ((s.wordAt t x.st).map fun w => !(t.isMT && decide (0x80 ≤ opOf w ∧ opOf w < 0xB0))).getD true

/-- What a tile releases when a launch ends (R403): the slots of its stations and its reply slots, and the parameter tokens
queued at AG stations (R275). Other tokens stay: nothing discards those of a launch that ended without being purged. -/
def State.releaseTile (s : State) (seq : BitVec 8) (x : Tile) : Tile :=
  { x with slots := x.slots.filter (fun q => q.seq != seq || !s.freedSlot x.id q),
           queue := x.queue.filter fun q => q.port != 3 || q.tok.seq != seq,
           remote := x.remote.filter (·.tok.seq ≠ seq) }

/-- The station of a tile for which a wait entry waits, and the launch's number (R281). -/
def Waiter.of (w : Waiter) (t : TileId) (seq : BitVec 8) : Bool :=
  match w with
  | .ldcs t' _ req _ => t' == t && req.seq == seq
  | .stfs t' _ sq _ _ _ => t' == t && sq == seq
  | _ => false

/-- A launch ends in one region (R40, R403): its LCC is kept, GCC counts it, and what R403 names is released. -/
def State.endPiece (s : State) (r : Region) (l : Live) (lcc : Counter) (bad : Option ErrInfo) : State :=
  let r1 : Region := { r with
    live := r.live.filter (·.seq ≠ l.seq), gcc := r.gcc.add 1 bad,
    history := (l.seq, l.serial, lcc) :: r.history.filter (·.1 ≠ l.seq),
    phaseDone := if l.phase.isSome ∧ l.phase = r.phase then r.phaseDone + 1 else r.phaseDone }
  let s1 := { s.setRegion r1 with
    waits := s.waits.filter (fun q => !(r.tiles.any fun t => q.who.of t l.seq)),
    smps := mapEach s.smps fun _ x => x.release r.core r.bslot l.seq,
    tiles := s.tiles.map fun (x : Tile) => if r.tiles.contains x.id then s.releaseTile l.seq x else x }
  let s2 := l.pins.foldl (fun s q => s.unpinList r.part q.2.1 q.2.2.1) s1
  s2.epochCheck r.core r.bslot

/-- A launch ends in every piece of its graph, with the lead's LCC (R40, R134). DEDUCED: log 46. -/
def State.endLaunch (s : State) (r : Region) (l : Live) : State :=
  let lcc := { l.lcc with state := if l.cancelled.isSome || l.lcc.cncl != 0 then .cancelled else .complete }
  (s.pieces r).foldl (fun s q =>
    match s.region q.core q.bslot with
    | none => s
    | some x =>
      match x.live.find? (·.seq == l.seq) with
      | none => s
      | some y => s.endPiece x y lcc lcc.blamed) (s.tellPieces r fun i => .finish i l.seq lcc.count lcc.why)

/-- A launch ends once its lead's LCC has reached its target and every copy has landed (R40). -/
def State.launchCheck (s : State) (c : Fin 64) (b : BitVec 3) (seq : BitVec 8) : State :=
  match s.region c b with
  | none => s
  | some q =>
    let r := s.lead q
    match r.live.find? (·.seq == seq) with
    | none => s
    | some l =>
      if (s.leadAway q).isNone ∧ l.target ≤ l.lcc.count.toNat ∧ l.copies = 0 then s.endLaunch r l else s

/-- A live launch changed. -/
def State.onLive (s : State) (c : Fin 64) (b : BitVec 3) (seq : BitVec 8) (f : Live → Live) : State :=
  s.onRegion c b fun r => { r with live := updFirst (·.seq == seq) f r.live }

/-! ## Credits and emission (R35, R148 to R150, R157) -/

/-- Queue depth of an edge's receiving port (R30, R45), or its share of the reorder buffer when it is an ordered edge into
an MT (R157, R158). -/
def Edge.depth (e : Edge) : Nat :=
  if e.ord && e.dst.isMT then e.robsh else if e.net = 2 then 2 else if e.dst.isMT then 8 else 4

/-- Tokens that a port's queue holds at most (R30, R45). -/
def portDepth (t : TileId) (tok : Token) : Nat :=
  match tok.pay with
  | .ctl _ => 2
  | _ => if t.isMT then 8 else 4

/-- The port's queue has room for a token (R30). -/
def State.portRoom (s : State) (t : TileId) (st p : Nat) (tok : Token) : Bool :=
  decide (((s.tileAt t).queue.filter fun q => q.st == st && q.port == p).length < portDepth t tok)

/-- An edge's receiving port, or its share of the reorder buffer, has a free entry that no token on its way is to take
(R35, R157). -/
def State.edgeRoom (s : State) (e : Edge) : Bool :=
  let fly := s.flight.filter fun q => q.dst == e.dst && q.st == e.dstSt && q.port == e.dport
  if e.ord && e.dst.isMT then decide ((fly.filter (·.edge = e.id)).length < e.depth)
  else decide (fly.length + ((s.tileAt e.dst).queue.filter fun q => q.st == e.dstSt && q.port == e.dport).length < e.depth)

/-- The stream that a switch word carries: its SRC, and its source where that is local (R65). -/
def swKey (w : BitVec 16) : Nat × Nat :=
  let src := (w.extractLsb' 13 3).toNat
  (src, if src = 5 then (w.extractLsb' 7 6).toNat else 0)

/-- The word is in use (R65). -/
def swV (w : BitVec 16) : Bool := w.getLsbD 2

/-- SRC of a word at the neighbour that an output leads to (R65). -/
def facing : Nat → Nat
  | 0 => 3
  | 1 => 4
  | 2 => 1
  | _ => 2

/-- The tile that switch output `i` of a tile leads to (R148). -/
def swNext (t : TileId) (i : Nat) : Option TileId :=
  match i % 5 with
  | 0 => if t.row = 0 then none else some { t with row := t.row - 1 }
  | 1 => if t.col = 31 then none else some { t with col := t.col + 1 }
  | 2 => if t.row = 15 then none else some { t with row := t.row + 1 }
  | 3 => if t.col = 0 then none else some { t with col := t.col - 1 }
  | _ => none

/-- The switch outputs that a stream passes from a tile to a station's port, or to a side of a boundary tile, through the words of
the region's selected configuration (R65, R148, R150). -/
def State.trace (s : State) (r : Region) (net : Nat) (dst : TileId) (place : Nat) (side : Option Nat) :
    Nat → TileId → Nat × Nat → Option (List (TileId × Nat))
  | 0, _, _ => none
  | n + 1, t, key =>
    match (s.tileAt t).cfg r.sel with
    | none => none
    | some b => (List.range 5).findSome? fun o =>
        let w := b.sw.getD (net * 5 + o) 0
        if !swV w || swKey w != key then none
        else if o = 4 then
          (if side.isNone ∧ t = dst ∧ (w.extractLsb' 7 6).toNat = place then some [(t, net * 5 + o)] else none)
        else if t = dst ∧ side = some o then some [(t, net * 5 + o)]
        else ((swNext t o).bind fun q =>
            if r.tiles.contains q then s.trace r net dst place side n q (facing o, 0) else none).map ((t, net * 5 + o) :: ·)

/-- The switch outputs on an edge's path; none passed on a bypass, and by a launch parameter (R148). -/
def State.pathOf (s : State) (r : Region) (e : Edge) : List (TileId × Nat) :=
  if e.psrc then []
  else
    let key := if e.ext && e.xin then (e.side.toNat + 1, 0) else (5, e.sst * 4 + e.sout)
    let side := if e.ext && !e.xin then some e.side.toNat else none
    (s.trace r e.net.toNat e.dst (e.dstSt * 4 + e.dport) side (4 * r.tiles.length + 1) e.src key).getD []

/-- A switch output's buffer holds a token (R148). -/
def State.bufTaken (s : State) (h : TileId × Nat) : Bool := s.flight.any (·.hops.head? == some h)

/-- The first switch output's buffer on an edge's path is free. -/
def State.pathOpen (s : State) (r : Region) (e : Edge) : Bool := !((s.pathOf r e).head?.any s.bufTaken)

/-- The end of an edge at its destination. -/
def Edge.end_ (e : Edge) : TileId × Nat × Nat := (e.dst, e.dstSt, e.dport)

/-- The tokens held for an entry of an ingress edge, which stand before any that comes now. -/
def Region.heldFor (r : Region) (e : Edge) : Nat := (r.ingress.filter fun q => q.edge = e.id ∧ q.goal.getD e.end_ = e.end_).length

/-- The entries of an ingress edge that the selected configuration declares, one for each destination (R152, R442). -/
def State.entries (s : State) (r : Region) (id : BitVec 12) : List Edge :=
  r.edges.filter fun e => e.id == id && e.ext && e.xin && s.edgeIn r.sel e

/-- An ingress edge can take `n` tokens and one more from outside. -/
def State.injectRoom (s : State) (r : Region) (id : BitVec 12) (n : Nat) : Bool :=
  match s.entries r id with
  | [] => (r.edges.find? fun e => e.id == id && e.ext && e.xin).all fun e => decide (r.heldFor e + n < e.depth)
  | es => es.all fun e => decide (r.heldFor e + n < e.depth) && s.edgeRoom e

/-- Flits that a token of an edge takes on a Tarior channel (R355). -/
def Edge.flits (e : Edge) : Nat := if e.net = 1 then 2 else 1

/-- The far end of an egress EXT edge takes `n` tokens and one more. One that is bound to nothing takes none (R150). A link channel
between the dies of one module has as many credits as the receiving port has entries, and a sampler's input always has one.
DESIGN CHOICE: log 83. -/
def State.endRoom (s : State) (r : Region) (e : Edge) (n : Nat) : Bool :=
  match r.ends.find? (·.1 = e.id) with
  | none => false
  | some (_, .tarior p vc _) =>
    if h : p < 18 then s.ports[p].state == .up && decide ((n + 1) * e.flits ≤ lookupD s.ports[p].creds vc 0) else false
  | some (_, .piece c b) => (s.region c b).any fun q => s.injectRoom q e.id n
  | some _ => true

/-- Tokens of an egress EXT edge that are still on their way to the rectangle's side. -/
def State.leaving (s : State) (r : Region) (e : Edge) : Nat :=
  (s.flight.filter fun q => q.edge == e.id && decide (4 ≤ q.port) && r.tiles.contains q.dst).length

/-- An edge has a free credit (R35), and the first buffer of its path is free (R148). -/
def State.credit (s : State) (r : Region) (e : Edge) : Bool :=
  (if e.ext then s.endRoom r e (s.leaving r e) else s.edgeRoom e) && s.pathOpen r e

/-- A stage-crossing edge (R161) of the selected configuration. -/
def State.crosses (s : State) (r : Region) (e : Edge) : Bool :=
  !e.psrc && !e.ext &&
    (((s.tileAt e.src).cfg r.sel).map (·.stage.getD e.sst 0)) != (((s.tileAt e.dst).cfg r.sel).map (·.stage.getD e.dstSt 0))

/-- The balancer is moving a tile, which its ingress hold then covers (R143). -/
def Region.moving (r : Region) (t : TileId) : Bool := r.move.any (·.1 == t)

/-- The tile at an edge's destination serves the destination's stage now, and is not being moved (R143). -/
def State.serves (s : State) (r : Region) (e : Edge) : Bool :=
  !r.moving e.dst && some (lookupD r.serving e.dst 0) == ((s.tileAt e.dst).cfg r.sel).map (·.stage.getD e.dstSt 0)

/-- The edges by which an output's tokens may leave: every edge, but of a stage-crossing stream only those to tiles that
serve the receiving stage (R143). -/
def State.mayLeave (s : State) (r : Region) (t : TileId) (st o : Nat) : List Edge :=
  (s.outEdges r t st o).filter fun e => !s.crosses r e || s.serves r e

/-- An output whose stage-crossing stream no tile serves lets nothing leave. -/
def State.served_ (s : State) (r : Region) (t : TileId) (st o : Nat) : Bool :=
  !((s.outEdges r t st o).any (s.crosses r)) || (s.mayLeave r t st o).any (s.crosses r)

/-- Every edge of an output, or of every bound output, has a credit. -/
def State.outCredit (s : State) (r : Region) (t : TileId) (st : Nat) (o : Option Nat) : Bool :=
  let ok (o : Nat) : Bool := s.served_ r t st o && (s.mayLeave r t st o).all (s.credit r)
  match o with
  | some o => ok o
  | none => (List.range 4).all ok

/-- The edges by which one token of a launch leaves an output: a stage-crossing stream is dealt in turn, by its sequence
number, to the tiles that serve the stage (R143). DEDUCED: log 55. -/
def State.dealt (s : State) (r : Region) (t : TileId) (st o : Nat) (seq : BitVec 8) : List Edge :=
  let es := s.mayLeave r t st o
  let turn := es.filter (s.crosses r)
  es.filter (!s.crosses r ·) ++
    (match turn with
     | [] => []
     | e :: _ => (turn.drop ((lookupD r.ordNext (e.id, seq) 0).toNat % turn.length)).take 1)

/-- This module and tile as the origin of a failure (R29). -/
def State.self (s : State) (t : TileId) (cause : BitVec 6) : ErrInfo := ⟨s.module, t, cause⟩

/-- New tokens are held at the region's ingress while a decision is pending or a commit fences it (R49, R165), and at that
of a tile that the balancer is moving (R143). -/
def Region.holding (r : Region) (e : Edge) : Bool := r.decision.isSome || r.fenced || r.moving e.dst

/-! ## A copy's DONE or ERROR is drained (R40, R141) -/

/-- A copy's token has been drained at its destination: NC falls, and the charged launch, live or still queued, counts the copy
(R40, R141); its core's next wait shows that it has landed (R142). -/
def State.drained (s : State) : Option (Fin 64 × BitVec 16) → State
  | none => s
  | some (c, ser) =>
    match s.cores[c].copies.find? fun o => o.serial == ser && o.ended.isSome with
    | none => s
    | some op =>
      let core := s.cores[c]
      let k := s.clock (.core c)
      let mine := (s.clock (.copies c)).rel.filter fun r => r.via == op.charge.map (·.1) && r.launch == op.charge.map (·.2.2)
      let s0 := if op.rel.isSome && (op.ended.join).isNone then
          s.setClock { k with landed := mine.foldl (fun l r => addSeen l (.copies c) r) k.landed } else s
      let s1 := s0.setCoreAt c { core with copies := core.copies.filter (·.serial ≠ ser) }
      match op.charge with
      | none => s1
      | some (b, _, launch) =>
        match (s1.region c b).bind fun r => r.live.find? (·.serial = launch) with
        | none => s1.onRegion c b fun r => { r with queue := r.queue.map fun (y : LaunchRec) =>
            if y.serial = launch then { y with landed := y.landed + 1 } else y }
        | some l =>
          let bad := if l.cancelled.isSome then l.cancelled else (op.ended.join).map fun k => s.self ⟨dieOf c, 0, 0⟩ k
          (s1.onLive c b l.seq fun y =>
            { y with copies := y.copies - 1, lcc := y.lcc.add 1 (if (op.ended.join).isSome then bad else none) }).launchCheck c b l.seq

/-! ## Flits (R355, R356, R362) -/

/-- The 80 bytes of a flit (R355). -/
def flitBytes (vc : Nat) (fseq fack : BitVec 12) (cvc cred : Nat) (pay : List Byte) : List Byte :=
  let d := field 0 6 vc ||| field 8 12 fseq.toNat ||| field 20 12 fack.toNat ||| field 32 6 cvc ||| field 38 8 cred
  let body := leBytes 8 d.toNat ++ (pay ++ List.replicate (64 - pay.length) 0)
  body ++ leBytes 4 (crc32c body).toNat ++ List.replicate 4 0

/-- The next flit of a port, which the replay buffer keeps, 256 at most (R356). -/
def Port.nextFlit (x : Port) (vc cvc cred : Nat) (pay : List Byte) : List Byte × Port :=
  let b := flitBytes vc x.tseq (x.fseq - 1) cvc cred pay
  (b, { x with tseq := x.tseq + 1, buffer := (x.buffer ++ [(x.tseq, b, 0)]).drop (x.buffer.length - 255) })

/-- A flit leaves at a port. -/
def State.transmit (s : State) (p : Fin 18) (vc cvc cred : Nat) (pay : List Byte) : State :=
  let q := s.ports[p].nextFlit vc cvc cred pay
  { s.setPort p q.2 with sent := s.sent ++ [.wire p q.1] }

/-- The code of a kind (R27). -/
def Kind.code : Kind → Nat
  | .data => 0
  | .stop n => n
  | .error => 8
  | .done => 9
  | .param => 10
  | .key => 11
  | .query => 12

/-- The payloads of the flits that carry a token (R355); a digit burst's header has no place in them. DESIGN CHOICE: log 111. -/
def Token.flits (t : Token) : List (List Byte) :=
  let tag := leBytes 4 (t.seq ++ t.iter).toNat ++ [BitVec.ofNat 8 t.kind.code]
  match t.pay with
  | .vector l =>
    let b := l.flatMap (fun w => leBytes 6 w.toNat) ++ tag
    [b.take 64, b.drop 64]
  | p => [leBytes 8 p.word.toNat ++ tag]

/-- A token leaves on a stream channel: a credit for each of its flits goes (R362). -/
def State.toChannel (s : State) (p : Fin 18) (vc : Nat) (t : Token) : State :=
  let x := s.ports[p]
  let x1 : Port := { x with
    creds := assign x.creds vc (lookupD x.creds vc 0 - t.flits.length),
    far := x.far ++ [(vc, t.seq, t.flits.length)] }
  t.flits.foldl (fun s b => s.transmit p vc 0 0 b) { s with ports := s.ports.set p.val x1 p.isLt }

/-- A token of an ingress edge has left the receive buffer of the channel that the edge is bound to, if any: a flit all of
whose tokens have left is credited to the far end, in an idle flit (R355, R356, R362). -/
def State.channelTaken (s : State) (r : Region) (id : BitVec 12) : State :=
  match r.ends.find? (·.1 = id) with
  | some (_, .tarior p vc _) =>
    if h : p < 18 then
      let x := s.ports[p]
      match x.rx.find? (·.1 = vc) with
      | none => s
      | some (_, k, n) =>
        if k ≤ 1 then
          let s1 := { s with ports := s.ports.set p { x with rx := dropFirst (·.1 = vc) x.rx } h }
          s1.transmit ⟨p, h⟩ 62 vc n []
        else { s with ports := s.ports.set p { x with rx := updFirst (·.1 = vc) (fun q => (q.1, q.2.1 - 1, q.2.2)) x.rx } h }
    else s
  | _ => s

/-- A copy of a held token has left the boundary port: with the last of them the token has left its channel's buffer. -/
def State.leftHeld (s : State) (r : Region) (q : Held) : State :=
  if (s.region r.core r.bslot).any fun x => x.ingress.any (·.no = q.no) then s else s.channelTaken r q.edge

/-- A token of an ingress edge that has left the boundary without entering the region. -/
def State.dropHeld (s : State) (r : Region) (q : Held) : State := (s.leftHeld r q).drained q.copy

/-- The held tokens with one for each entry that the selected configuration declares of their edge (R152). Those of an edge that it
does not declare stay as they are, as do all while a decision is pending or a commit fences the region (R49, R165).
DESIGN CHOICE: log 119. -/
def State.spread (s : State) (r : Region) : List Held :=
  if r.decision.isSome || r.fenced then r.ingress
  else r.ingress.flatMap fun q =>
    match q.goal, s.entries r q.edge with
    | none, e :: es => { q with goal := some e.end_ } :: es.map fun x => { q with goal := some x.end_, copy := none }
    | _, _ => [q]

/-- The oldest token that waits in a boundary port's queue for a port enters the region, once its edge is no longer held and
has room (R49, R150). -/
def State.letIn (s0 : State) (t : TileId) (st p : Nat) : State :=
  match s0.regionOf t with
  | none => s0
  | some r0 =>
    let r := { r0 with ingress := s0.spread r0 }
    let s := s0.setRegion r
    match r.ingress.findSome? fun q => ((s.entries r q.edge).find? fun e =>
        q.goal = some e.end_ ∧ e.end_ = (t, st, p)).map fun e => (q, e) with
    | none => s
    | some (q, e) =>
      if r.holding e ∨ !s.edgeRoom e ∨ !s.pathOpen r e then s
      else
        let s1 := (s.setRegion { r with ingress := r.ingress.erase q }).leftHeld r q
        { s1 with flight := s1.flight ++ [⟨e.id, none, e.dst, e.dstSt, e.dport, q.tok, s.pathOf r e, q.copy, q.no⟩] }

/-- A held token joins the boundary port's queue, and enters the region at once on each entry of its edge for which none waits
(R150). -/
def State.enter (s : State) (r : Region) (q : Held) : State :=
  let free := ((s.entries r q.edge).filter fun e => r.heldFor e == 0).map (·.end_)
  let s1 := s.onRegion r.core r.bslot fun r => { r with ingress := r.ingress ++ [q] }
  free.foldl (fun s e => s.letIn e.1 e.2.1 e.2.2) s1

/-- A token comes to the region on an ingress EXT edge (R150). -/
def State.injectC (s : State) (r : Region) (id : BitVec 12) (t : Token) (copy : Option (Fin 64 × BitVec 16)) : State :=
  let q : Held := ⟨id, t, copy, s.sentNo, none⟩
  let s1 := { s with sentNo := s.sentNo + 1 }
  match (r.edges.find? fun e => e.id == id && e.ext && e.xin).bind fun e => t.onNet e.net (s.self e.dst 0) with
  | none => s1.dropHeld r q
  | some t => s1.enter r { q with tok := t }

/-- A token that is no copy's comes to the region on an ingress EXT edge. -/
def State.inject (s : State) (r : Region) (id : BitVec 12) (t : Token) : State := s.injectC r id t none

/-! ## Samplers' inputs and outputs (R405 to R407, R427) -/

/-- The state with a sampler changed. -/
def State.onSmp (s : State) (n : Fin 8) (f : Sampler → Sampler) : State :=
  { s with smps := s.smps.set n.val (f s.smps[n]) n.isLt }

/-- The home address of a larder slot (R408). -/
def larderAt (slot : BitVec 12) : Nat := larderBase + slot.toNat * 2 ^ 17

/-- The vocabulary V in a larder slot's header (R409). -/
def State.vocab (s : State) (slot : BitVec 12) : Nat :=
  ((memDword s.mem (larderAt slot + 24)).extractLsb' 0 19).toNat

/-- A failure that a sampler reports: its die, at column and row 0, is the origin (R29, R406; log 30). -/
def State.smpErr (s : State) (n : Fin 8) (cause : BitVec 6) : ErrInfo := s.self ⟨BitVec.ofNat 2 (n.val / 2), 0, 0⟩ cause

/-- The output edge of a region on a sampler. -/
def State.smpOutEdge (s : State) (n : Fin 8) (c : Fin 64) (b : BitVec 3) : Option (Region × Edge) :=
  match s.smps[n].outputs.find? (fun o => o.1 == c && o.2.1 == b), s.region c b with
  | some o, some r => (r.edges.find? (·.id = o.2.2)).map fun e => (r, e)
  | _, _ => none

/-- The first entry that may leave: none of its region stands before it, and its port has room or there is no output
binding, and then it is drained (R407, R427). -/
def State.smpLeaves (s : State) (n : Fin 8) : List SmpItem → List SmpItem → Option SmpItem
  | _, [] => none
  | before, q :: rest =>
    let room := match s.smpOutEdge n q.core q.bslot with
      | none => true
      | some (r, e) => s.injectRoom r e.id 0
    if q.out.isSome && room && !before.any (fun p => p.core == q.core && p.bslot == q.bslot) then some q
    else s.smpLeaves n (q :: before) rest

/-- Tokens that wait at a sampler leave in order while there is room. -/
def State.smpFlush (n : Fin 8) : Nat → State → State
  | 0, s => s
  | k + 1, s =>
    match s.smpLeaves n [] s.smps[n].items with
    | none => s
    | some q =>
      let s1 := s.onSmp n fun x => { x with items := x.items.erase q }
      let s2 := match s.smpOutEdge n q.core q.bslot, q.out with
        | some (r, e), some t => s1.inject r e.id t
        | _, _ => s1
      State.smpFlush n k s2

/-- A token for a region's output joins the sampler's entries. -/
def State.smpPush (s : State) (n : Fin 8) (c : Fin 64) (b : BitVec 3) (e : BitVec 12) (t : Token) : State :=
  s.onSmp n fun x => { x with items := x.items ++ [⟨c, b, e, t.seq, t.iter, 0, 0, [], none, some t⟩] }

/-- A run whose tokens are still arriving on an edge. -/
def SmpItem.open_ (q : SmpItem) (c : Fin 64) (b : BitVec 3) (e : BitVec 12) : Bool :=
  q.core == c && q.bslot == b && q.edge == e && q.ctx.isNone && q.out.isNone && decide (q.toks.length < q.need)

/-- The binding of a larder slot (R412). -/
def State.lbind (s : State) (slot : BitVec 12) : Option LBind := s.larder.find? (·.slot = slot)

/-- The tag of a discarded run is kept, by which its remaining tokens are known (R406). -/
def State.smpSkip (s : State) (n : Fin 8) (r : Region) (e : BitVec 12) (seq : BitVec 8) (iter : BitVec 24) : State :=
  s.onSmp n fun x => { x with skips := x.skips ++ [⟨r.core, r.bslot, e, seq, iter⟩] }

/-- A token between runs (R406): a STOP or an ERROR passes on, what is left of a discarded run goes, a header opens a run or is
refused. DEDUCED: log 100. -/
def State.smpBetween (s : State) (n : Fin 8) (r : Region) (e : BitVec 12) (t : Token) : State :=
  if t.kind = .data ∧ s.smps[n].skips.contains ⟨r.core, r.bslot, e, t.seq, t.iter⟩ then s
  else if t.kind.level ≠ 0 ∨ t.kind = .error then s.smpPush n r.core r.bslot e t
  else if t.kind ≠ .data then s.smpPush n r.core r.bslot e (tokE t.seq t.iter (s.smpErr n eKIND))
  else
    let lanes := match t.pay with
      | .vector l => l
      | p => [p.word.setWidth 48]
    let slot : BitVec 12 := (lanes.getD 0 0).extractLsb' 0 12
    let clean := (lanes.getD 0 0).extractLsb' 12 36 == 0 && (lanes.drop 1).all (· == 0)
    let bound := match s.lbind slot with
      | none => false
      | some b => b.smp == n.val && b.part == r.part
    if clean && bound then
      s.onSmp n fun x => { x with items := x.items ++
        [⟨r.core, r.bslot, e, t.seq, t.iter, slot, 1 + (s.vocab slot + 15) / 16, [t], none, none⟩] }
    else
      (s.smpSkip n r e t.seq t.iter).smpPush n r.core r.bslot e (tokE t.seq t.iter (s.smpErr n eKIND))

/-- A token reaches a sampler's input (R406). What R406 does not name of it is DEDUCED: log 100. -/
def State.smpRecv (s : State) (n : Fin 8) (r : Region) (e : BitVec 12) (t : Token) : State :=
  let s1 :=
    if t.isWide then (s.onSmp n (·.release r.core r.bslot t.seq)).smpPush n r.core r.bslot e t
    else if !(r.live.any fun l => l.seq == t.seq && l.cancelled.isNone) then s
    else
      let same (seq : BitVec 8) (it : BitVec 24) : Bool := t.seq == seq && t.iter == it
      match s.smps[n].items.find? (·.open_ r.core r.bslot e) with
      | some q =>
        if t.kind = .data ∧ same q.seq q.iter then
          s.onSmp n fun x => { x with items := updFirst (· == q) (fun q => { q with toks := q.toks ++ [t] }) x.items }
        else
          let s2 := (s.onSmp n fun x => { x with items := x.items.erase q }).smpSkip n r e q.seq q.iter
          if t.kind = .error ∧ same q.seq q.iter then s2.smpPush n r.core r.bslot e t
          else if t.kind.level = 0 ∧ same q.seq q.iter then
            s2.smpPush n r.core r.bslot e (tokE t.seq t.iter (s.smpErr n eKIND))
          else (s2.smpPush n r.core r.bslot e (tokE q.seq q.iter (s.smpErr n eSTOPMIS))).smpBetween n r e t
      | none => s.smpBetween n r e t
  State.smpFlush n s1.smps[n].items.length s1

/-- A token of an egress EXT edge has come to the rectangle's side, and goes on to the edge's far end (R150): a Tarior channel
(R362), a sampler (R405), or the piece that its cut graph has there (R134). -/
def State.leaveBy (s : State) (r : Region) (id : BitVec 12) (t : Token) : State :=
  match r.ends.find? (·.1 = id) with
  | some (_, .tarior p vc _) => if h : p < 18 then s.toChannel ⟨p, h⟩ vc t else s
  | some (_, .smpIn n) => if h : n < 8 then s.smpRecv ⟨n, h⟩ r id t else s
  | some (_, .piece c b) =>
    match s.region c b with
    | none => s
    | some q => s.inject q id t
  | _ => s

/-- One token, by number, leaves on one edge. -/
def State.sendEdge (s : State) (r : Region) (e : Edge) (ord : Option (BitVec 16)) (no : Nat) (t : Token) : State :=
  match t.onNet e.net (s.self e.src 0) with
  | none => s
  | some t =>
    let at_ : Nat × Nat := if e.ext && !e.xin then (0, 4 + e.side.toNat) else (e.dstSt, e.dport)
    { s with flight := s.flight ++ [⟨e.id, ord, e.dst, at_.1, at_.2, t, s.pathOf r e, none, no⟩] }

/-- A token leaves on every edge of one output; an ordered edge's tokens are numbered per launch (R157). -/
def State.sendOut (s : State) (r0 : Region) (t : TileId) (st o : Nat) (tok : Token) : State :=
  let es := s.dealt r0 t st o tok.seq
  let s1 := es.foldl (fun s' e =>
    s'.sendEdge r0 e (if e.ord then some (lookupD r0.ordNext (e.id, tok.seq) 0) else none) s.sentNo tok)
    { s with sentNo := s.sentNo + 1 }
  match es.find? (·.ord) with
  | none => s1
  | some e => s1.onRegion r0.core r0.bslot fun r =>
      { r with ordNext := assign r.ordNext (e.id, tok.seq) (lookupD r.ordNext (e.id, tok.seq) 0 + 1) }

/-- One waiting token leaves on its output or on every bound output. -/
def State.sendTok (s : State) (r : Region) (t : TileId) (q : OutTok) : State :=
  match q.out with
  | some o => s.sendOut r t q.st o q.tok
  | none => (List.range 4).foldl (fun s o => s.sendOut r t q.st o q.tok) s

/-- Tokens that a station's firings have produced leave in order while their outputs have credits. -/
def State.flushN (t : TileId) (st : Nat) : Nat → State → State
  | 0, s => s
  | n + 1, s =>
    match s.regionOf t, (s.tileAt t).outq.find? (·.st = st) with
    | some r, some q =>
      if s.outCredit r t st q.out then
        State.flushN t st n ((s.onTile t fun x => { x with outq := dropFirst (·.st = st) x.outq }).sendTok r t q)
      else s
    | _, _ => s

/-- A station has tokens that still wait for credits. -/
def State.blocked (s : State) (t : TileId) (st : Nat) : Bool := (s.tileAt t).outq.any (·.st = st)

/-- A firing's tokens join the station's output and leave as credits allow (R35, R198). -/
def State.emits (s : State) (t : TileId) (st : Nat) (es : List (Option Nat × Token)) : State :=
  let s1 := s.onTile t fun x => { x with outq := x.outq ++ es.map fun e => ⟨st, e.1, e.2⟩ }
  State.flushN t st (s1.tileAt t).outq.length s1

/-! ## Slots (R200) -/

/-- A station's slot for a launch. -/
def State.slot (s : State) (t : TileId) (st : Nat) (seq : BitVec 8) : Slot :=
  ((s.tileAt t).slots.find? fun x => x.st == st && x.seq == seq).getD (Slot.zero st seq)

/-- The state with a slot replaced. -/
def State.setSlot (s : State) (t : TileId) (x : Slot) : State :=
  s.onTile t fun y => { y with slots := x :: y.slots.filter fun z => !(z.st == x.st && z.seq == x.seq) }

/-! ## Arrival and pairing (R32, R34, R254) -/

/-- The token ports of a word, in the order a, b, c. -/
def tokenPorts (w : Word32) : List Nat := (List.range 3).filter (inMarked w)

/-- The stations that never pair tokens: ordered merges, qbmap, ksto, kqry and the controllers (R209, R250, R256,
R317). DESIGN CHOICE: log 106. -/
def merges (w : Word32) : Bool :=
  [0x01, 0x02, 0x03, 0x04, 0x0E, 0x0F, 0x55, 0x90, 0x91, 0xB2, 0xB3, 0xB4].contains (opOf w)

/-- A station that pairs tokens by tag (R32). -/
def pairs (w : Word32) : Bool := decide (1 < (tokenPorts w).length) && !merges w

/-- bar's tag offset of a port (R254). -/
def tagOff (w : Word32) (p : Nat) : Nat :=
  if opOf w ≠ 0xB0 then 0
  else match p with
    | 1 => (w.extractLsb' 0 4).toNat
    | 2 => (w.extractLsb' 4 4).toNat
    | _ => 0

/-- The tag by which a token of a port finds its partners. -/
def pairKey (w : Word32) (p : Nat) (t : Token) : BitVec 8 × Nat := (t.seq, t.iter.toNat + tagOff w p)

/-- The ports that a set with a key needs: bar leaves out a port whose offset reaches below tag 0 (R254). -/
def needed (w : Word32) (k : BitVec 8 × Nat) : List Nat := (tokenPorts w).filter fun p => p == 0 || decide (tagOff w p ≤ k.2)

/-- The head of a port's queue. -/
def Tile.head (x : Tile) (st p : Nat) : Option Token := (x.queue.find? fun q => q.st = st ∧ q.port = p).map (·.tok)

/-- The tile without the head of a port's queue. -/
def Tile.pop (x : Tile) (st p : Nat) : Tile := { x with queue := dropFirst (fun q => q.st = st ∧ q.port = p) x.queue }

/-- The oldest stored token of a port with a key. -/
def Tile.stored (x : Tile) (w : Word32) (st p : Nat) (k : BitVec 8 × Nat) : Option Token :=
  (x.store.find? fun q => q.st = st ∧ q.port = p ∧ pairKey w p q.tok = k).map (·.tok)

/-- All values of a list of options, if none is missing. -/
def allSome {α β : Type} (l : List α) (f : α → Option β) : Option (List (α × β)) :=
  l.foldr (fun a acc => match f a, acc with
    | some b, some r => some ((a, b) :: r)
    | _, _ => none) (some [])

/-- A set formed from the heads alone (R32, 1), when no port has an earlier token of the tag in the store (R34). -/
def Tile.fromHeads (x : Tile) (w : Word32) (st : Nat) : Option (List (Nat × Token)) :=
  (tokenPorts w).findSome? fun p0 =>
    match x.head st p0 with
    | none => none
    | some h =>
      if h.isWide then none
      else
        let k := pairKey w p0 h
        allSome (needed w k) fun p => (x.head st p).filter fun t => pairKey w p t == k && !t.isWide && (x.stored w st p k).isNone

/-- A set formed from one head and the matching store (R32, 2), when the head's port has no earlier token of the tag there
(R34). -/
def Tile.fromStore (x : Tile) (w : Word32) (st p : Nat) (h : Token) : Option (List (Nat × Token)) :=
  let k := pairKey w p h
  if (needed w k).contains p && (x.stored w st p k).isNone then allSome (needed w k) fun q => if q = p then some h else x.stored w st q k
  else none

/-- The tile after a set was formed from the heads at `hs` and the store. -/
def Tile.form (x : Tile) (w : Word32) (st : Nat) (hs : List Nat) (toks : List (Nat × Token)) : Tile :=
  let y := hs.foldl (fun y p => y.pop st p) x
  let y := (toks.filter fun q => !hs.contains q.1).foldl (fun y q =>
    { y with store := dropFirst (fun e => e.st = st ∧ e.port = q.1 ∧ pairKey w q.1 e.tok = pairKey w q.1 q.2) y.store }) y
  { y with ready := y.ready ++ [⟨st, toks⟩] }

/-- The reservation of a station (R31). -/
def CfgBlock.room (b : CfgBlock) (w : Word32) (st : Nat) : Nat := b.tagb.getD st 0 * ((tokenPorts w).length - 1)

/-- One examination of a station's heads (R32); none when nothing moves. -/
def Tile.examine1 (x : Tile) (b : CfgBlock) (w : Word32) (st : Nat) : Option Tile :=
  match x.fromHeads w st with
  | some toks => some (x.form w st (toks.map Prod.fst) toks)
  | none =>
    let heads := (tokenPorts w).filterMap fun p => ((x.head st p).filter (!·.isWide)).map fun h => (p, h)
    match heads.findSome? fun q => (x.fromStore w st q.1 q.2).map fun toks => x.form w st [q.1] toks with
    | some y => some y
    | none =>
      if b.room w st ≤ (x.store.filter (·.st = st)).length then none
      else heads.head?.map fun q => { x.pop st q.1 with store := x.store ++ [⟨st, q.1, q.2⟩] }

/-- Examinations until nothing moves. -/
def Tile.examine (b : CfgBlock) (w : Word32) (st : Nat) : Nat → Tile → Tile
  | 0, x => x
  | n + 1, x =>
    match x.examine1 b w st with
    | none => x
    | some y => Tile.examine b w st n y

/-- A station's heads examined against its matching store (R32). -/
def State.examineAt (s : State) (t : TileId) (st : Nat) : State :=
  match s.regionOf t with
  | none => s
  | some r =>
    match (s.tileAt t).cfg r.sel with
    | none => s
    | some b =>
      match b.op st with
      | none => s
      | some w => if pairs w then s.onTile t fun x => Tile.examine b w st (x.queue.length + 1) x else s

/-! ## Purging a launch (R41) -/

/-- Everything of a launch that a station holds is removed (R41, R200); the slots of its remote operations are held until their
replies come or the launch ends (R367, R403). -/
def Tile.purgeSt (x : Tile) (st : Nat) (seq : BitVec 8) : Tile :=
  { x with queue := x.queue.filter fun q => !(q.st == st && q.tok.seq == seq),
           store := x.store.filter fun q => !(q.st == st && q.tok.seq == seq),
           ready := x.ready.filter fun q => !(q.st == st && q.toks.any (·.2.seq == seq)),
           outq := x.outq.filter fun q => !(q.st == st && q.tok.seq == seq),
           slots := x.slots.filter fun z => !(z.st == st && z.seq == seq),
           remote := x.remote.map fun q => if q.st = st ∧ q.tok.seq = seq then { q with dead := true } else q,
           rcl := if st = 6 then x.rcl.dropLaunch seq else x.rcl,
           purged := (st, seq) :: x.purged }

/-- Poisoning the banks of a mask (R242). -/
def Matrix.poison (m : Matrix) (mask : Nat) : Matrix :=
  { m with banks := mapEach m.banks fun i b => if mask / 2 ^ i.val % 2 = 1 then { b with poison := true } else b }

/-- The banks that an mxdot word writes (R240). -/
def mxMask (w : Word32) : Nat :=
  if w.getLsbD 7 then 2 ^ ((w.extractLsb' 16 2).toNat + 1) - 1 else 2 ^ (w.extractLsb' 14 2).toNat

/-- The matrix engine when an mxdot station purges a launch: its filling slot goes and its banks are poisoned (R242). -/
def Matrix.purge (m : Matrix) (st : Nat) (seq : BitVec 8) (w : Word32) : Matrix :=
  if m.abuf.any (fun a => a.st == st && a.seq == seq) then
    ({ m with abuf := m.abuf.filter fun a => !(a.st == st && a.seq == seq) }).poison (mxMask w)
  else m

/-- A launch's LCC counts events of a declared sink, on the lead of its graph, which another module may hold (R40, R134). -/
def State.lccCount (s : State) (r : Region) (seq : BitVec 8) (n : Nat) (bad : Option ErrInfo) : State :=
  match s.leadAway r with
  | some (m, k, i) => { s with sent := s.sent ++ [.hub r.part k.1 k.2 m (.sinks i seq n (bad.map (·.word)))] }
  | none =>
    let q := s.lead r
    (s.onLive q.core q.bslot seq fun l => { l with lcc := l.lcc.add n bad }).launchCheck q.core q.bslot seq

/-- A sink counts events in its slot and toward the launch's LCC (R200, R210). -/
def State.sinkCount (s : State) (r : Region) (t : TileId) (st : Nat) (seq : BitVec 8) (n : Nat) (bad : Option ErrInfo) :
    State :=
  let x := s.slot t st seq
  (s.setSlot t { x with cnt := x.cnt + n }).lccCount r seq n bad

/-- A launch-wide ERROR at a station, in one firing (R41): everything of the launch goes, one ERROR leaves on each bound
output, and a declared sink counts what it still awaited. DEDUCED: log 80. -/
def State.purgeAt (s : State) (r : Region) (t : TileId) (st : Nat) (seq : BitVec 8) (e : ErrInfo) : State :=
  if (s.tileAt t).purged.contains (st, seq) then s.onTile t fun x => { x with queue := x.queue.filter fun q => !(q.st == st && q.tok.seq == seq) }
  else
    match s.wordAt t st with
    | none => s.onTile t (·.purgeSt st seq)
    | some w =>
      let s1 := s.onTile t fun x =>
        let y := x.purgeSt st seq
        if opOf w = 0x61 then { y with mx := y.mx.purge st seq w } else y
      let s2 := { s1 with
        waits := s1.waits.filter fun q => match q.who with
          | .ldcs t' st' req _ => !(t' == t && st' == st && req.seq == seq)
          | .stfs t' st' sq _ _ _ => !(t' == t && st' == st && sq == seq)
          | _ => true,
        holds := s1.holds.map fun h => match h.holder with
          | .ag t' st' => if t' = t ∧ st' = st ∧ h.seq = seq then { h with stuck := false } else h
          | .mem t' st' => if t' = t ∧ st' = st ∧ h.seq = seq then { h with stuck := false } else h
          | .quarry t' st' _ => if t' = t ∧ st' = st ∧ h.seq = seq then { h with stuck := false } else h
          | .copy .. => h,
        walks := s1.walks.filter fun q => !((q.holder == .ag t st || q.holder == .mem t st || (match q.holder with
          | .quarry t' st' _ => t' == t && st' == st
          | _ => false)) && q.seq == seq),
        streams := s1.streams.filter fun q => !(q.tile == t && q.st == st && q.trig.seq == seq) }
      if opOf w = 0x06 then
        if r.live.any (·.seq == seq) then s2.lccCount r seq ((w.extractLsb' 0 8).toNat - (s.slot t st seq).cnt) (some e) else s2
      else s2.emits t st [(none, tokE seq wideIter e)]

/-- A purge at a station, after which the heads that it has uncovered, and those for which it has made room in the matching
store, are examined (R32, R41). -/
def State.purge (s : State) (r : Region) (t : TileId) (st : Nat) (seq : BitVec 8) (e : ErrInfo) : State :=
  (s.purgeAt r t st seq e).examineAt t st

/-- The launch-wide ERROR that waits at a station. -/
def Tile.wideAt (x : Tile) (st : Nat) : Option Token := ((x.queue.find? fun q => q.st = st ∧ q.tok.isWide)).map (·.tok)

/-- The stations that start a launch's tokens: AG stations without a token port (R274). -/
def State.sources (s : State) (r : Region) : List (TileId × Nat) :=
  r.tiles.flatMap fun t => (List.range 4).filterMap fun st =>
    match s.wordIn t r.sel st with
    | some w => if t.isMT && (opOf w == 0x80 || opOf w == 0x82) && !inMarked w 0 then some (t, st) else none
    | none => none

/-- The parameter edges of the selected configuration (R122, R152). -/
def State.psrcEdges (s : State) (r : Region) : List Edge := r.edges.filter fun e => e.psrc && s.edgeIn r.sel e

/-- One piece of a cancelled launch: its sources stop and send launch-wide ERRORs, its parameter edges carry one, and what is held
of it at the ingress is discarded (R41, R166). -/
def State.cancelPiece (s : State) (c : Fin 64) (b : BitVec 3) (seq : BitVec 8) (e : ErrInfo) : State :=
  match s.region c b with
  | none => s
  | some r =>
    let s1 := s.onLive c b seq fun l => { l with cancelled := some e }
    let s2 := (s.sources r).foldl (fun s q => s.purge r q.1 q.2 seq e) s1
    let s3 := (s.psrcEdges r).foldl (fun s x => s.sendEdge r x none s.sentNo (tokE seq wideIter e)) s2
    let held := r.ingress.filter fun q => q.tok.seq == seq && !q.tok.isWide && q.copy.isNone
    held.foldl (fun s q => s.dropHeld r q)
      (s3.onRegion c b fun x => { x with ingress := x.ingress.filter fun q => !held.contains q })

/-- A live launch is cancelled (R41), in every piece of its graph, those of other modules through their hubs: the first cause
is kept. -/
def State.cancelLive (s : State) (c : Fin 64) (b : BitVec 3) (seq : BitVec 8) (e : ErrInfo) : State :=
  match s.region c b with
  | none => s
  | some q =>
    let r := s.lead q
    match r.live.find? (·.seq == seq) with
    | none => s
    | some l =>
      if l.cancelled.isSome then s
      else
        let s1 := s.onLive r.core r.bslot seq fun l => { l with lcc := l.lcc.blame e }
        let s2 := s1.tellPieces r fun i => .cancel i seq e.word
        ((s.pieces r).foldl (fun s x => s.cancelPiece x.core x.bslot seq e) s2).launchCheck r.core r.bslot seq

/-- A live launch cancelled by a failure: the queue is frozen first (R42). A launch that has ended or is already cancelled
keeps its first cause, and nothing is added (R44). -/
def State.failLive (s : State) (c : Fin 64) (b : BitVec 3) (seq : BitVec 8) (e : ErrInfo) : State :=
  match s.region c b with
  | none => s
  | some q =>
    let r := s.lead q
    if r.live.any fun l => l.seq == seq && l.cancelled.isNone then
      ((s.onRegion c b fun r => { r with frozen := true }).onRegion r.core r.bslot fun r => { r with frozen := true }).cancelLive
        c b seq e
    else s

/-- Every live launch of a region cancelled. -/
def State.cancelAll (s : State) (c : Fin 64) (b : BitVec 3) (e : ErrInfo) : State :=
  match s.region c b with
  | none => s
  | some r => (r.live.map (·.seq)).foldl (fun s q => s.cancelLive c b q e) s

/-! ## The empty test (R48) -/

/-- A slot that counts as a token held (R48, R200). The counters of AG, memory and recall stations do not, nor does a storing
station's place in its record between tokens; a round that still has addresses to give does. -/
def State.slotHeld (s : State) (t : TileId) (x : Slot) : Bool :=
  match s.wordAt t x.st with
  | none => false
  | some w =>
    if 0x80 ≤ opOf w ∧ opOf w < 0xB0 then
      (x.walk.map fun k => !k.elems.isEmpty || !(opOf w == 0x81 || opOf w == 0x84)).getD false || x.held.isSome ||
        !x.buf.isEmpty || x.err.isSome
    else x != Slot.zero x.st x.seq

/-- A tile of a region reports empty (R48). -/
def State.tileEmpty (s : State) (t : TileId) : Bool :=
  let x := s.tileAt t
  x.queue.isEmpty && x.store.isEmpty && x.ready.isEmpty && x.outq.isEmpty && x.remote.all (·.dead) && x.mx.abuf.isEmpty &&
    x.mx.banks.toList.all (·.q.isEmpty) && x.rcl.gather.isEmpty && !x.slots.any (s.slotHeld t) &&
    !s.flight.any (·.dst = t) && !s.streams.any (·.tile = t) &&
    !s.waits.any fun q => match q.who with
      | .ldcs t' .. => t' == t
      | .stfs t' .. => t' == t
      | _ => false

/-- Every tile of a region reports empty (R48). DEDUCED: log 47. -/
def State.regionEmpty (s : State) (r : Region) : Bool := r.tiles.all s.tileEmpty

/-! ## Arrival (R30, R32) -/

/-- A token joins a port's queue and is examined; one of a launch that the station has purged is discarded (R41). -/
def State.arrive (s : State) (t : TileId) (st p : Nat) (tok : Token) : State :=
  if (s.tileAt t).purged.contains (st, tok.seq) then s
  else (s.onTile t fun x => { x with queue := x.queue ++ [⟨st, p, tok⟩] }).examineAt t st

/-- An ordered token must wait: a lower number of its stream is still on its way, to the same port, or, of a dealt
stream, to any (R143, R157). -/
def State.robWaits (s : State) (q : Flight) : Bool :=
  match q.ord with
  | none => false
  | some n =>
    let any_ := match s.regionOf q.dst with
      | none => false
      | some r => r.edges.any fun e => e.id == q.edge && s.crosses r e
    !q.tok.isWide && s.flight.any fun f => f.edge == q.edge && f.tok.seq == q.tok.seq &&
      (any_ || (f.dst == q.dst && f.st == q.st && f.port == q.port)) &&
      (match f.ord with
       | some m => m != n && decide ((n - m).toNat < 2 ^ 15)
       | none => false)

/-- The next switch output's buffer on a token's path is free: no other token is in it, a copy of the same multicast token
apart (R148). -/
def State.hopFree (s : State) (q : Flight) (h : TileId × Nat) : Bool :=
  !s.flight.any fun f => f.hops.head? == some h && f.no != q.no

/-- The token leaves its region on an egress EXT edge. -/
def Flight.leaves (q : Flight) : Bool := decide (4 ≤ q.port)

/-- The token's edge is an ordered one into an MT, which has a reorder buffer for it (R157). -/
def Flight.reorders (q : Flight) : Bool := q.ord.isSome && q.dst.isMT && !q.leaves

/-- The balancer is moving the token's tile, which takes in nothing from outside (R143): a token waits in the last buffer of its
path, and a parameter before its port. What the tile's own bypass or reorder buffer holds is inside. -/
def State.heldOut (s : State) (q : Flight) : Bool :=
  !q.leaves && (s.regionOf q.dst).any fun r => r.moving q.dst &&
    match q.hops with
    | _ :: _ :: _ => false
    | [_] => true
    | [] => r.edges.any fun e => e.id == q.edge && e.psrc

/-- A token that leaves its path is taken: by the reorder buffer, by its port's queue, in sequence and while there is room, or by the
far end of its egress edge (R30, R150, R157). -/
def State.takes (s : State) (q : Flight) : Bool :=
  if q.leaves then
    match (s.regionOf q.dst).bind fun r => (r.edges.find? fun e => e.id == q.edge && e.ext && !e.xin).map fun e => (r, e) with
    | some (r, e) => s.endRoom r e 0
    | none => true
  else (q.reorders && !q.hops.isEmpty) || (!s.robWaits q && s.portRoom q.dst q.st q.port q.tok)

/-- A token on its way can go on: to the next buffer of its path, or off its path (R148). -/
def State.mayMove (s : State) (q : Flight) : Bool :=
  match q.hops with
  | _ :: h :: _ => s.hopFree q h
  | _ => !s.heldOut q && s.takes q

/-- The token in flight to a port that moves next: the oldest that can, or on an ordered edge the next in sequence (R157). -/
def State.nextFlight (s : State) (t : TileId) (st p : Nat) : Option Flight :=
  s.flight.find? fun q => q.dst == t && q.st == st && q.port == p && s.mayMove q

/-- The token in flight to a side of a boundary tile that moves next. -/
def State.nextEgress (s : State) (t : TileId) (side : Nat) : Option Flight :=
  s.flight.find? fun q => q.dst == t && q.port == 4 + side && s.mayMove q

/-- A token has come to its end: the port's queue, where it is examined (R32) and a copy's is drained (R141), or the side of the
rectangle (R150). -/
def State.ends_ (s : State) (q : Flight) : State :=
  if q.leaves then
    match s.regionOf q.dst with
    | none => s
    | some r => s.leaveBy r q.edge q.tok
  else (s.arrive q.dst q.st q.port q.tok).drained q.copy

/-- A token on its way goes one step further. -/
def State.advance (s : State) (q : Flight) : State :=
  let s1 := { s with flight := s.flight.erase q }
  let on (hops : List (TileId × Nat)) : State := { s with flight := updFirst (· == q) (fun x => { x with hops }) s.flight }
  match q.hops with
  | _ :: h :: rest => on (h :: rest)
  | [_] => if q.reorders then on [] else s1.ends_ q
  | [] => s1.ends_ q

/-- TOKEN_ARRIVAL: the next token on its way to port `k` of the acting station goes on, and into the queue from the last
buffer of its path, or, with none, the next that leaves at side `k` of the acting tile (R32, R148, R150). -/
def execTokenArrival (s : State) : Out :=
  let s1 := s.letIn s.tile s.st s.input.k.toNat
  match s1.nextFlight s.tile s.st s.input.k.toNat <|> s1.nextEgress s.tile s.input.k.toNat with
  | none => .next s1
  | some q => .next (s1.advance q)

/-- LAUNCH_WIDE_ERROR_PURGE: the acting station purges the launch of a launch-wide ERROR that waits at it, taking credits
on every bound output (R41). -/
def execLaunchWideErrorPurge (s : State) : Out :=
  match s.regionOf s.tile, (s.tileAt s.tile).wideAt s.st with
  | some r, some w =>
    if r.hung || (s.tileAt s.tile).broken || (s.part r.part).pre != .running then .next s
    else if s.outCredit r s.tile s.st none then .next (s.purge r s.tile s.st w.seq (w.err (s.self s.tile 0))) else .next s
  | _, _ => .next s

end Sys2Proof.Machine
end

