-- ==== Sys2Proof/Machine/Stations.lean ====
section
/-! DEFINITION. What every station's firing shares (R32 to R36, R194 to R200): the station that acts, its operands, its
next ready set, the rows of R33, and the output of a firing. -/

namespace Sys2Proof.Machine

/-! ## The acting station -/

/-- The station that acts: its region, tile, slot and fields, and its tile's selected configuration. -/
structure Sta where
  r  : Region
  t  : TileId
  st : Nat
  f  : StF
  b  : CfgBlock
  deriving DecidableEq, Repr

/-- The ports that a word's IN field marks among a, b, c (R62). -/
def portsOf (f : StF) : List Nat :=
  (if f.inp.getLsbD 2 then [0] else []) ++ (if f.inp.getLsbD 1 then [1] else []) ++ (if f.inp.getLsbD 0 then [2] else [])

/-- The acting station, when its tile belongs to a resident region. -/
def State.sta? (s : State) (f : StF) : Option Sta :=
  match s.regionOf s.tile with
  | none => none
  | some r => ((s.tileAt s.tile).cfg r.sel).map fun b => ⟨r, s.tile, s.st, f, b⟩

/-- The K source: an immediate, a constant or a tile register (R196). -/
def immOf (f : StF) : Nat := f.k.toNat
def State.kWord (s : State) (x : Sta) : Word :=
  if x.f.k.getLsbD 4 then (s.tileAt x.t).q[(x.f.k.extractLsb' 0 4).toNat]'(x.f.k.extractLsb' 0 4).isLt
  else x.b.consts.getD (x.f.k.extractLsb' 0 4).toNat 0

/-- The stations that take a PARAM token as DATA (R199, R238, R257, R285); at any other, one is a kind that is not accepted (R33). -/
def takesParam (op : Nat) : Bool := decide (op < 0x54 ∨ (0x60 ≤ op ∧ op < 0x66) ∨ op = 0x89 ∨ op = 0xB5)

/-- A token as a station of an opcode takes it. -/
def Token.plain (op : Nat) (t : Token) : Token := if t.kind = .param ∧ takesParam op then { t with kind := .data } else t

/-- The opcode of a station's word. -/
def Sta.op (x : Sta) : Nat := ((x.b.op x.st).map opOf).getD 0x54

/-- A launch-wide ERROR waits at a station whose next waiting output is its launch's: the purge comes first, and what still
waits is not sent (R41, R211). -/
def Tile.wideFirst (x : Tile) (st : Nat) : Bool :=
  match x.wideAt st, x.outq.find? (·.st = st) with
  | some w, some o => o.tok.seq == w.seq && !o.tok.isWide
  | _, _ => false

/-- What stands before every firing: a hung region is frozen (R387), and so is one whose partition is halted (R391); waiting output
goes first (R35); a tile whose words failed their check fires nothing (R389), a partition that is pre-empted starts no firing
(R391), a launch-wide ERROR governs (R41, R44), and a tile that was reset waits until its credits have come back (R365). -/
def State.withSta (s : State) (f : StF) (k : Sta → State → State) : State :=
  match s.sta? f with
  | none => s
  | some x =>
    let y := s.tileAt s.tile
    if x.r.hung || (s.part x.r.part).pre == .halted then s
    else if s.blocked s.tile s.st && !y.wideFirst s.st then State.flushN s.tile s.st 1 s
    else if y.broken || (s.part x.r.part).pre != .running then s
    else match y.wideAt s.st with
      | some w => if s.outCredit x.r x.t x.st none then s.purge x.r x.t x.st w.seq (w.err (s.self x.t 0)) else s
      | none => if y.aborted then s else k x s

/-! ## Ready sets -/

/-- The age of a tag, less for an older one: how many launches of the region have started since its launch, counted down from
255, then its iteration (R28). A launch that has ended keeps its place. -/
def Region.age (r : Region) (t : Token) : Nat := (255 - (r.lastSeq - t.seq).toNat) * 2 ^ 24 + t.iter.toNat

/-- The ready set with the oldest tag, the earliest formed among equals (R32, R34). -/
def oldest (r : Region) : List Ready → Option Ready
  | [] => none
  | q :: qs =>
    match oldest r qs with
    | none => some q
    | some o =>
      if ((o.toks.head?.map fun p => r.age p.2).getD 0) < ((q.toks.head?.map fun p => r.age p.2).getD 0) then some o
      else some q

/-- The next ready set of a station, and the state in which it is consumed. -/
def State.nextSet (s : State) (x : Sta) (ports : List Nat) : Option (List (Nat × Token) × State) :=
  let y := s.tileAt x.t
  match ports with
  | [p] => (y.head x.st p).map fun h => ([(p, h.plain x.op)], s.onTile x.t fun y => y.pop x.st p)
  | _ => (oldest x.r (y.ready.filter (·.st = x.st))).map fun q =>
      (q.toks.map fun e => (e.1, e.2.plain x.op), s.onTile x.t fun y => { y with ready := y.ready.erase q })

/-- The tag of a set. -/
def setSeq (q : List (Nat × Token)) : BitVec 8 := (q.head?.map (·.2.seq)).getD 0
def setIter (q : List (Nat × Token)) : BitVec 24 := (q.head?.map (·.2.iter)).getD 0

/-- The token of a set at a port. -/
def tokAt (q : List (Nat × Token)) (p : Nat) : Option Token := (q.find? (·.1 = p)).map Prod.snd

/-- A firing that fails: ERROR with the set's tag on every bound output (R33). -/
def State.errFire (s : State) (x : Sta) (seq : BitVec 8) (iter : BitVec 24) (e : ErrInfo) : State :=
  s.emits x.t x.st [(none, tokE seq iter e)]

/-- The kinds that carry a value: DATA, and for routing data ports DONE, KEY and QUERY (R199). -/
def isValue (k : Kind) : Bool := k == .data || k == .done || k == .key || k == .query

/-- The rows of R33 over a set, in their order: ERROR, KIND, STOPMIS, all STOP, all values. -/
def State.rows (s : State) (x : Sta) (q : List (Nat × Token)) (acc : Nat → Kind → Bool)
    (stop : Nat → State → State) (vals : State → State) : State :=
  let seq := setSeq q
  let it := setIter q
  match q.find? (·.2.kind = .error) with
  | some e => s.errFire x seq it (e.2.err (s.self x.t 0))
  | none =>
    if q.any (fun e => e.2.kind.level = 0 ∧ !acc e.1 e.2.kind) then s.errFire x seq it (s.self x.t eKIND)
    else
      let lv := q.map (·.2.kind.level)
      if lv.all (· = 0) then vals s
      else if lv.all (· = lv.headD 0) then stop (lv.headD 0) s
      else s.errFire x seq it (s.self x.t eSTOPMIS)

/-- DATA only is accepted, on every port. -/
def dataOnly (_p : Nat) (k : Kind) : Bool := k == .data

/-- Every value kind on port a, DATA elsewhere: the routing stations (R199). -/
def routeA (p : Nat) (k : Kind) : Bool := k == .data || (p == 0 && isValue k)

/-- The next ready set is consumed when every bound output has a credit (R35), and R33 decides. -/
def State.fireNext (s : State) (x : Sta) (ports : List Nat) (acc : Nat → Kind → Bool)
    (stop : List (Nat × Token) → Nat → State → State) (vals : List (Nat × Token) → State → State) : State :=
  if !s.outCredit x.r x.t x.st none then s
  else match s.nextSet x ports with
    | none => s
    | some (q, s1) => s1.rows x q acc (stop q) (vals q)

/-- A firing of a station that pairs its token ports, or has one. -/
def State.fireSet (s : State) (f : StF) (ports : List Nat) (acc : Nat → Kind → Bool)
    (stop : Sta → List (Nat × Token) → Nat → State → State) (vals : Sta → List (Nat × Token) → State → State) : State :=
  s.withSta f fun x s => s.fireNext x ports acc (stop x) (vals x)

/-- A station whose earlier firing left more to give, each in a firing of its own: the slot that holds it (R211, R228). -/
def State.owing (s : State) (x : Sta) : Option Slot := (s.tileAt x.t).slots.find? fun z => z.st == x.st && z.held.isSome

/-- A firing of a station that first gives what it owes, one part a firing, while every bound output has a credit (R35). -/
def State.fireOwing (s : State) (f : StF) (part : Sta → Slot → Token → State → State) (k : Sta → State → State) : State :=
  s.withSta f fun x s =>
    if !s.outCredit x.r x.t x.st none then s
    else match (s.owing x).bind fun z => z.held.map fun t => (z, t) with
      | some (z, t) => part x z t s
      | none => k x s

/-- A STOP set gives one STOP with the set's tag on every bound output (R33). -/
def passStop (x : Sta) (q : List (Nat × Token)) (n : Nat) (s : State) : State :=
  s.emits x.t x.st [(none, tokStop (setSeq q) (setIter q) n)]

/-! ## Operands and results -/

/-- A port's 64-bit operand: its token's payload, else the K source (R196). -/
def State.opWord (s : State) (x : Sta) (q : List (Nat × Token)) (p : Nat) : Word :=
  match tokAt q p with
  | some t => t.pay.word
  | none => s.kWord x

/-- A port's W48 operand. -/
def State.opW (s : State) (x : Sta) (q : List (Nat × Token)) (p : Nat) : W48 := (s.opWord x q p).setWidth 48

/-- A port's lanes: a vector's, or one W48 for all of them (R218). -/
def State.opLanes (s : State) (x : Sta) (q : List (Nat × Token)) (p : Nat) : List W48 :=
  match tokAt q p with
  | some ⟨_, _, _, .vector l, _⟩ => l
  | some t => List.replicate 16 (t.pay.word.setWidth 48)
  | none => List.replicate 16 ((s.kWord x).setWidth 48)

/-- Pred(p) (R197). -/
def State.pred (s : State) (x : Sta) (q : List (Nat × Token)) (p : Nat) : Bool := s.opWord x q p != 0

/-- Fire(v, t): DATA with the set's tag on every bound output (R197). -/
def State.fireV (s : State) (x : Sta) (q : List (Nat × Token)) (v : Payload) : State :=
  s.emits x.t x.st [(none, ⟨setSeq q, setIter q, .data, v, (0, 0)⟩)]

/-- A station whose result is a function of its operands. -/
def State.fireFn (s : State) (f : StF) (g : State → Sta → List (Nat × Token) → Payload) : State :=
  s.fireSet f (portsOf f) dataOnly passStop fun x q s => s.fireV x q (g s x q)

/-- TY = v16 (R62). -/
def isV (f : StF) : Bool := f.ty == 1

/-- A W48 as a scalar payload. -/
def payW (w : W48) : Payload := .scalar (w.setWidth 64)

/-- A lanewise W48 result, one lane for w48 and 16 for v16 (R218). -/
def State.lanewise (s : State) (x : Sta) (q : List (Nat × Token)) (g : Nat → W48 → W48 → W48 → W48) : Payload :=
  if isV x.f then
    let a := s.opLanes x q 0
    let b := s.opLanes x q 1
    let c := s.opLanes x q 2
    .vector ((List.range 16).map fun j => g j (a.getD j 0) (b.getD j 0) (c.getD j 0))
  else payW (g 0 (s.opW x q 0) (s.opW x q 1) (s.opW x q 2))

/-- The largest iteration tag that a tag station gives, and the failure above it (R212). -/
def tagOvf (n : Nat) : Bool := decide (0xFFFFFE ≤ n)

/-- A token with a new iteration tag, or the error firing TAGOVF (R212). -/
def State.retag (s : State) (x : Sta) (t : Token) (n : Nat) : Token :=
  if tagOvf n then tokE t.seq t.iter (s.self x.t eTAGOVF) else { t with iter := BitVec.ofNat 24 n }

/-! ## Heads, for the stations that never pair (R209) -/

/-- The head of a port as the station takes it. -/
def State.hd (s : State) (x : Sta) (p : Nat) : Option Token := ((s.tileAt x.t).head x.st p).map (Token.plain x.op)

/-- Consuming heads. -/
def State.take (s : State) (x : Sta) (ps : List Nat) : State := s.onTile x.t fun y => ps.foldl (fun y p => y.pop x.st p) y

/-- A firing of a station that never pairs: it may fire when every bound output has a credit (R35). -/
def State.fireHeads (s : State) (f : StF) (k : Sta → State → State) : State :=
  s.withSta f fun x s => if s.outCredit x.r x.t x.st none then k x s else s

/-! ## Arbitration (R36) -/

/-- The issue class of an opcode; the memory class is not arbitrated. -/
def issueClass (op : Nat) : Option Nat :=
  if op < 0x20 ∨ 0xB0 ≤ op then some 0
  else if op < 0x60 then some 1
  else if 0x70 ≤ op ∧ op < 0x80 then some 2
  else if 0x60 ≤ op ∧ op < 0x70 then some 3
  else none

/-- The hang monitor's timer of a tile's region restarts (R387). -/
def State.stirred (s : State) (t : TileId) : State :=
  { s with regions := s.regions.map fun (r : Region) => if r.tiles.contains t then { r with quiet := 0 } else r }

/-- A station has fired: its class's pointer stands on it (R36), and the hang monitor's timer restarts (R387). -/
def State.won (s : State) (t : TileId) (st : Nat) : State :=
  match s.wordAt t st with
  | none => s
  | some w =>
    match issueClass (opOf w) with
    | none => s.stirred t
    | some k => (s.stirred t).onTile t fun x => { x with rr := assign x.rr k st }

end Sys2Proof.Machine
end

