-- ==== Sys2Proof/Machine/Feeding.lean ====
section
/-! DEFINITION. The memory and AG stations (R272 to R285): their accesses, withheld streams (R286), rounds, gathers and
quarry engines, sequence-named buffers, port reduction and parameter feeding. -/

namespace Sys2Proof.Machine

/-! ## Accesses of stations (R259, R263, R264, R286) -/

/-- Where a piece of an access lies: a home address, a translation that the TLB lacks, or a fault. -/
inductive StLoc where
  | at_ (home : Nat)
  | miss
  | fault (r : XReason)

/-- A piece of an access, by a unit with a TLB that reaches the given windows. -/
def State.stLoc (s : State) (tlb : List TlbEntry) (p : BitVec 4) (ws : List Window) (va n : Nat) (write : Bool) : StLoc :=
  match windowOf va with
  | none => .fault .window
  | some w =>
    if !ws.contains w then .fault .window
    else if w = .translated then
      match tlbFind tlb va with
      | none => .miss
      | some e =>
        if !e.gives (if write then .write else .read) then .fault .perm
        else if s.binOk p (homeOf (e.pa + (va - e.va))) n then .at_ (homeOf (e.pa + (va - e.va))) else .fault .window
    else if s.granted p w va n write then .at_ va
    else .fault .window

/-- All pieces of an access, or the first address that is not there, with its fault if it has one. -/
def State.stPieces (s : State) (tlb : List TlbEntry) (p : BitVec 4) (ws : List Window) (write : Bool) :
    List (Nat × Nat) → Except (Nat × Option XReason) (List (Nat × Nat × Nat))
  | [] => .ok []
  | (va, n) :: rest =>
    match s.stLoc tlb p ws va n write with
    | .miss => .error (va, none)
    | .fault r => .error (va, some r)
    | .at_ h => (s.stPieces tlb p ws write rest).map ((h, va, n) :: ·)

/-- The TLB that a holder of a partition translates through (R264). -/
def State.holderTlb (s : State) (p : BitVec 4) : Holder → List TlbEntry
  | .ag t _ => (s.tileAt t).tlb
  | .mem t _ => (s.tileAt t).tlb
  | .quarry _ _ e => ((lookupD s.qtlb e []).filter (·.1 = p)).map Prod.snd
  | .copy .. => []

/-- A holder's stream of a launch waits for a walk or is withheld (R264, R286). -/
def State.stalled (s : State) (h : Holder) (seq : BitVec 8) : Bool :=
  s.walks.any (fun w => w.holder == h && w.seq == seq) || s.holds.any (fun x => x.holder == h && x.seq == seq && x.stuck)

/-- An access that cannot be made now: it waits for its walk, or for its stream to be withheld. -/
def State.park (s : State) (r : Region) (h : Holder) (seq : BitVec 8) (iter : BitVec 24) (va : Nat) (write : Bool)
    (fault : Option XReason) : State :=
  { s with walks := s.walks ++ [⟨h, r.core, seq, iter, r.part, BitVec.ofNat 57 va, write, fault⟩] }

/-- The detector's check of a station's access in pieces, for a launch (R349, R352); none when TRAP stops it. -/
def State.stRace (s : State) (r : Region) (launch : BitVec 32) (write : Bool) : List (Nat × Nat × Nat) → Option State
  | [] => some s
  | (h, va, n) :: rest =>
    match s.raceCheck r.core (.region r.core r.bslot) va h n write none none (some launch) with
    | none => none
    | some s1 => s1.stRace r launch write rest

/-- The detector reports a piece of a station's access. -/
def State.stReports (s : State) (r : Region) (h : Nat × Nat × Nat) : Bool :=
  s.tracked r.part h.1 h.2.2 && (s.raceWith (.region r.core r.bslot) h.1 h.2.2 none none).isSome

/-- The records of an access that is reported and discarded (R353). -/
def State.stLogs (s : State) (r : Region) (write : Bool) (hs : List (Nat × Nat × Nat)) : State :=
  hs.foldl (fun s h => (s.raceSays r.core (.region r.core r.bslot) h.2.1 h.1 h.2.2 write none none).getD s) s

/-- The launch of a sequence number. -/
def Region.liveOf (r : Region) (seq : BitVec 8) : Option Live := r.live.find? (·.seq == seq)

/-- A release by a station for a launch (R274, R335). -/
def State.stRelease (s : State) (r : Region) (seq : BitVec 8) (scope : BitVec 3) : State :=
  s.raceReleaseVia (.region r.core r.bslot) scope none ((r.liveOf seq).map (·.serial))

/-- A phase, when it stages fills (R348). -/
def State.stagesIn (s : State) (p : BitVec 4) (k : PhaseKey) : Option StageId :=
  if (s.phaseAt p k).any (·.staging) then some (p, k) else none

/-- The phase in which the fills of a launch are staged, those behind its end too (R348). -/
def State.stagingOf (s : State) (r : Region) (seq : BitVec 8) : Option StageId :=
  (r.stages.find? (·.1 = seq)).bind fun q => s.stagesIn r.part q.2

/-- An error firing with cause RACE, which cancels its launch (R352). -/
def State.raceFire (s : State) (r : Region) (t : TileId) (st : Nat) (seq : BitVec 8) (iter : BitVec 24) : State :=
  (s.emits t st [(none, tokE seq iter (s.self t eRACE))]).failLive r.core r.bslot seq (s.self t eRACE)

/-- What a station is doing for a launch that is being purged is given up (R353). -/
def State.dropWork (s : State) (t : TileId) (st : Nat) (seq : BitVec 8) : State :=
  { s.onTile t fun (y : Tile) => { y with slots := y.slots.filter fun z => !(z.st == st && z.seq == seq) } with
    streams := s.streams.filter fun q => !(q.tile == t && q.st == st && q.trig.seq == seq) }

/-- A station's access under the detector, when its launch is checked (R349): a report stops it, or is logged and the access is
performed (R352); of a launch that is being purged it is discarded and logged (R353). -/
def State.stChecked (s : State) (r : Region) (t : TileId) (st : Nat) (seq : BitVec 8) (iter : BitVec 24) (write : Bool)
    (hs : List (Nat × Nat × Nat)) (k : State → State) : State :=
  match r.liveOf seq with
  | none => k s
  | some l =>
    if !l.race then k s
    else if l.cancelled.isSome && hs.any (s.stReports r) then (s.stLogs r write hs).dropWork t st seq
    else match s.stRace r l.serial write hs with
      | none => s.raceFire r t st seq iter
      | some s1 => k s1

/-- Pieces of an access of a station, once translated; else the access is parked. -/
def State.mapped (s : State) (x : Sta) (h : Holder) (ws : List Window) (seq : BitVec 8) (iter : BitVec 24) (ps : List (Nat × Nat))
    (write : Bool) (k : List (Nat × Nat × Nat) → State) : State :=
  if s.stalled h seq then s
  else match s.stPieces (s.holderTlb x.r.part h) x.r.part ws write ps with
    | .error (a, f) => s.park x.r h seq iter a write f
    | .ok hs => k hs

/-- An access of a station at a virtual address, which the detector checks once it is translated. -/
def State.access (s : State) (x : Sta) (h : Holder) (ws : List Window) (seq : BitVec 8) (iter : BitVec 24) (va n : Nat)
    (write : Bool) (k : List (Nat × Nat × Nat) → State → State) : State :=
  s.mapped x h ws seq iter (chunks va n) write fun hs => s.stChecked x.r x.t x.st seq iter write hs (k hs)

/-- The bytes of resolved pieces. -/
def State.gather (s : State) (hs : List (Nat × Nat × Nat)) : List Byte := hs.flatMap fun h => memGets s.mem h.1 h.2.2

/-- Filling writes of resolved pieces (R268); where the bytes that are enabled are given, only dwords with one of them count, and a
piece with none is not written (R269). -/
def State.fillPieces (s : State) (base : Nat) (bytes : List Byte) (on : Option (List Nat)) (phase : Option StageId) :
    List (Nat × Nat × Nat) → State
  | [] => s
  | (h, va, n) :: rest =>
    let part := (bytes.drop (va - base)).take n
    let s1 := match on with
      | none => s.fillWrite h part phase
      | some l =>
        let mine := l.filter fun o => decide (va - base ≤ o ∧ o < va - base + n)
        s.fillPart h part (mine.map (· / 8)).eraseDups.length phase
    s1.fillPieces base bytes on phase rest

/-- TLB_WALK_COMPLETE: the walk of a parked access returns a leaf that gives what the access needs, which its TLB holds from then
on, or a fault reason (R263, R264). -/
def execTlbWalkComplete (s : State) : Out :=
  match (s.walks.filter (·.fault.isNone))[s.input.index]? with
  | none => .next s
  | some w =>
    match s.walk w.part w.va.toNat with
    | .error r => .next { s with walks := updFirst (· == w) (fun w => { w with fault := some r }) s.walks }
    | .ok e =>
      let s1 := { s with walks := s.walks.erase w }
      if !e.gives (if w.write then .write else .read) then
        .next { s with walks := updFirst (· == w) (fun w => { w with fault := some .perm }) s.walks }
      else match w.holder with
      | .ag t _ => .next (s1.onTile t fun y => { y with tlb := tlbAdd y.tlb 32 e })
      | .mem t _ => .next (s1.onTile t fun y => { y with tlb := tlbAdd y.tlb 32 e })
      | .quarry _ _ q => .next { s1 with qtlb := assign s1.qtlb q (((w.part, e) :: lookupD s1.qtlb q []).take 1024) }
      | .copy .. => .next s1

/-- FAULT_WITHHOLD: a parked access has met its fault: the stream is withheld and its record waits to be posted
(R286). -/
def execFaultWithhold (s : State) : Out :=
  match (s.walks.filter (·.fault.isSome))[s.input.index]? with
  | none => .next s
  | some w => .next { s with
      walks := s.walks.erase w,
      holds := s.holds ++ [⟨w.holder, w.core, w.seq, w.va, w.write, w.fault.getD .unmapped, w.iter, false, true, 0⟩] }

/-- The number by which a fault record gives its reason (R286). -/
def XReason.code : XReason → Nat
  | .unmapped => 0
  | .perm => 1
  | .malformed => 2
  | .grant => 3
  | .window => 4

/-- The holder word of a withheld stream (R286). -/
def Hold.word (h : Hold) : Word :=
  let at_ (kind : Nat) (t : TileId) (st : Nat) : Word :=
    field 0 2 kind ||| field 2 2 t.die.toNat ||| field 4 5 t.col.toNat ||| field 9 4 t.row.toNat ||| field 13 3 st |||
      field 16 8 h.seq.toNat
  match h.holder with
  | .ag t st => at_ 0 t st
  | .mem t st => at_ 1 t st
  | .quarry t st e => at_ 2 t st ||| field 24 5 e
  | .copy c ser => field 0 2 3 ||| field 2 2 (c.val / 16) ||| field 16 8 h.seq.toNat ||| field 24 5 (c.val % 16) |||
      field 32 16 ser.toNat

/-- A fault record (R286). -/
def Hold.record (h : Hold) : List Word :=
  [field 0 57 h.va.toNat ||| bit 57 h.write ||| field 58 3 h.reason.code, h.word,
   field 0 32 (h.seq.toNat * 2 ^ 24 + h.iter.toNat), 0]

/-- FAULT_RECORD_POST: the oldest waiting record of the acting core is written to its fault queue, when the ring has
room and its entry may be written (R382). -/
def execFaultRecordPost (s : State) : Out :=
  match s.holds.find? (fun h => h.core == s.cur && !h.posted) with
  | none => .next s
  | some h =>
    match s.post (s.core.part.getD 0) s.core.fq h.record with
    | .posted s1 q =>
      .next ({ s1 with holds := updFirst (· == h) (fun h => { h with posted := true }) s1.holds }.setCore { s1.core with fq := q })
    | _ => .next s

/-! ## Rounds (R273 to R275) -/

/-- D of R273. -/
def dOf (f : StF) (sh : Shape) : Nat := if isV f && !isGroup sh.fmt.toNat then 1 else 0

/-- The level of the STOP that ends a round (R273). -/
def endLevel (f : StF) (sh : Shape) : Nat := Nat.max 1 (sh.ndim - dOf f sh)

/-- The extents of a shape. -/
def Shape.exts (sh : Shape) : List Nat := (sh.dims.take sh.ndim).map (·.1.toNat)

/-- The groups of a round (R273). -/
def Shape.groups (sh : Shape) : Nat := sh.exts.foldl (· * ·) 1

/-- The indexes x0, x1, … of a group by its number in the round (R273). -/
def indexes : List Nat → Nat → List Nat
  | [], _ => []
  | e :: es, k => k % Nat.max 1 e :: indexes es (k / Nat.max 1 e)

/-- How many dimensions' passes end with a group (R273). -/
def passesEnded : List Nat → List Nat → Nat
  | e :: es, x :: xs => if x + 1 = e then 1 + passesEnded es xs else 0
  | _, _ => 0

/-- Σ xi × STRi over the first `n` dimensions, modulo 2^57 (R273, R309). -/
def Shape.offset (sh : Shape) (xs : List Nat) (n : Nat) : BitVec 57 :=
  ((sh.dims.zip xs).take n).foldl (fun a d => a + BitVec.ofInt 57 ((d.2 : Int) * d.1.2.toInt)) 0

/-- The list that a traversal of a launch addresses; none when its handle is no good (R294). -/
def State.listFor (s : State) (r : Region) (sh : Shape) (seq : BitVec 8) : Option Nat :=
  let lim := (s.part r.part).nlist.toNat
  if sh.stitch.getLsbD 31 then
    match r.liveOf seq with
    | none => none
    | some l =>
      let w := l.params[(sh.stitch.extractLsb' 0 2).toNat]'(sh.stitch.extractLsb' 0 2).isLt
      if w.toNat < lim then some w.toNat else none
  else
    let n := (sh.stitch.extractLsb' 0 16).toNat
    if n < lim then some n else none

/-- The pin that an MT holds of a traversal's list for a launch: list and version slot (R308). -/
def State.pinFor (s : State) (x : Sta) (sh : Shape) (seq : BitVec 8) : Option (Nat × Nat) :=
  match s.listFor x.r sh seq, x.r.liveOf seq with
  | some n, some l => (l.pins.find? fun q => q.1 == x.t && q.2.1 == n).map fun q => (n, q.2.2.1)
  | _, _ => none

/-- The address in a traversal's row `xt` at an offset (R309): a virtual address, or a fault with the word that its record
holds. -/
def State.rowAddr (s : State) (x : Sta) (sh : Shape) (seq : BitVec 8) (xt : Int) (off : BitVec 57) (write : Bool) :
    Except (XReason × Nat) Nat :=
  let beyond := (BitVec.ofInt 57 xt).toNat
  match (if xt < 0 then none else s.pinFor x sh seq) with
  | none => .error (.window, beyond)
  | some (n, i) =>
    match s.listRow x.r.part n i xt.toNat with
    | none => .error (.window, beyond)
    | some (row, ro) =>
      let va := (row + sh.base + off).toNat
      if ro && write then .error (.perm, va) else .ok va

/-- The address of a group (R273, R309). -/
def State.groupAddr (s : State) (x : Sta) (sh : Shape) (seq : BitVec 8) (k : Nat) (write : Bool) : Except (XReason × Nat) Nat :=
  let xs := indexes sh.exts k
  if sh.stv then s.rowAddr x sh seq (xs.getD (sh.ndim - 1) 0 : Nat) (sh.offset xs (sh.ndim - 1)) write
  else .ok (sh.base + sh.offset xs sh.ndim).toNat

/-- The address of group `k` of the row that an index names, for scat and gath (R276 to R278, R309). -/
def State.indexAddr (s : State) (x : Sta) (sh : Shape) (seq : BitVec 8) (v : Int) (k : Nat) (write : Bool) :
    Except (XReason × Nat) Nat :=
  let inRow := BitVec.ofInt 57 ((k : Int) * (sh.dims.getD 0 (0, 0)).2.toInt)
  if sh.stv then s.rowAddr x sh seq v inRow write
  else .ok (sh.base + BitVec.ofInt 57 (v * (sh.dims.getD 1 (0, 0)).2.toInt) + inRow).toNat

/-- A station's shape record in its tile's block (R70, R154). -/
def Sta.shape (x : Sta) : Option Shape := (x.b.shapes.find? (·.1 = x.st)).map Prod.snd

/-- A pport of the tile feeds an AG slot (R285). -/
def CfgBlock.pported (b : CfgBlock) (st : Nat) : Bool :=
  (List.range 4).any fun i => match b.op i with
    | none => false
    | some w => opOf w == 0x89 && (w.extractLsb' 14 5).toNat == st

/-- The parameter port of the station is fed (R272, R275). -/
def Sta.fed (x : Sta) : Bool := x.f.inp.getLsbD 0 || x.b.pported x.st

/-- The shape with the field that OVER names replaced; none when the payload is out of range (R275). Where OVER is none
the range is that of an extent, and the payload changes nothing. DESIGN CHOICE: log 101. -/
def Shape.over (sh : Shape) (w : Word) : Option Shape :=
  if sh.ovf = 1 then
    (if w.extractLsb' 57 7 = 0 then some { sh with base := w.extractLsb' 0 57 } else none)
  else if w.extractLsb' 32 32 = 0 then
    some { sh with dims := sh.dims.mapIdx fun i d => if i + 2 = sh.ovf.toNat then (w.extractLsb' 0 32, d.2) else d }
  else none

/-- How a round begins (R275). -/
inductive Begin where
  | wait
  | err (e : ErrInfo) (s : State)
  | go (sh : Shape) (s : State)

/-- The beginning of a round of a launch: its parameter token is consumed, and a traversal needs its pin (R275, R308);
ACQ is performed (R274). -/
def State.beginRound (s : State) (x : Sta) (seq : BitVec 8) : Begin :=
  match x.shape with
  | none => .wait
  | some sh0 =>
    let kind := s.self x.t eKIND
    let pinned (sh : Shape) (s : State) : Begin :=
      if sh.stv && (s.pinFor x sh seq).isNone then .err kind s
      else .go sh (match sh.acq with
        | some c => s.raceAcquire (.region x.r.core x.r.bslot) c
        | none => s)
    if !x.fed then pinned sh0 s
    else
      match (s.tileAt x.t).queue.find? fun q => q.st = x.st ∧ q.port = 3 ∧ q.tok.seq = seq with
      | none => .wait
      | some q =>
        let s1 := s.onTile x.t fun y => { y with queue := y.queue.erase q }
        match q.tok.kind with
        | .error => .err (q.tok.err (s.self x.t 0)) s1
        | .data => match sh0.over q.tok.pay.word with
          | none => .err kind s1
          | some sh => pinned sh s1
        | .param => match sh0.over q.tok.pay.word with
          | none => .err kind s1
          | some sh => pinned sh s1
        | _ => .err kind s1

/-- Tokens of a round, tagged by the launch slot's counter under TAGOVF (R212, R273). -/
def State.emitRound (s : State) (x : Sta) (sl : Slot) (toks : List (Kind × Payload)) : State :=
  let go := toks.foldl (fun (acc : Nat × List (Option Nat × Token)) q =>
    if tagOvf acc.1 then (acc.1, acc.2 ++ [(none, tokE sl.seq (BitVec.ofNat 24 acc.1) (s.self x.t eTAGOVF))])
    else (acc.1 + 1, acc.2 ++ [(none, ⟨sl.seq, BitVec.ofNat 24 acc.1, q.1, q.2, (0, 0)⟩)])) (sl.tagc, [])
  (s.setSlot x.t { sl with tagc := go.1 }).emits x.t x.st go.2

/-- The release of a round's end (R274). -/
def State.roundRel (s : State) (x : Sta) (seq : BitVec 8) (sh : Shape) : State :=
  match sh.rel with
  | some c => s.stRelease x.r seq c
  | none => s

/-- An error round of lds, agen or gath (R275). -/
def State.errRound (s : State) (x : Sta) (seq : BitVec 8) (e : ErrInfo) : State :=
  match x.shape with
  | none => s
  | some sh => s.emitRound x (s.slot x.t x.st seq) [(.error, .scalar e.word), (.stop (endLevel x.f sh), .scalar 0)]

/-- A round of lds, agen or gath opens; one with an extent of 0 ends at once (R273). -/
def State.openRound (s : State) (x : Sta) (seq : BitVec 8) (sh : Shape) : State :=
  let sl := s.slot x.t x.st seq
  if sh.groups = 0 then (s.emitRound x sl [(.stop (endLevel x.f sh), .scalar 0)]).roundRel x seq sh
  else s.setSlot x.t { sl with walk := some ⟨sh, 0, sh.groups, 0, [], true⟩ }

/-- Sixteen lanes of each token, +0 beyond the elements (R273). -/
def laneTokens (l : List Word) : List (Kind × Payload) :=
  (List.range ((l.length + 15) / 16)).map fun i =>
    (.data, .vector ((List.range 16).map fun j => (l.getD (16 * i + j) ((wZero false).setWidth 64)).setWidth 48))

/-- The round after the elements of one group have arrived: its tokens and STOPs (R273, R276). -/
def State.pushGroup (s : State) (x : Sta) (sl : Slot) (w : Walk) (vals : List Word) : State :=
  let xs := indexes w.shape.exts w.pos
  let m := passesEnded w.shape.exts xs
  let d := dOf x.f w.shape
  let last := decide (w.pos + 1 = w.total)
  let stop : List (Kind × Payload) :=
    if last then [(.stop (endLevel x.f w.shape), .scalar 0)]
    else if d < m then [(.stop (Nat.max 1 (m - d)), .scalar 0)] else []
  let pend := w.elems.filterMap id ++ vals
  let flush := decide (1 ≤ m)
  let data : List (Kind × Payload) :=
    if isV x.f then laneTokens (if flush then pend else pend.take (pend.length / 16 * 16))
    else vals.map fun v => (.data, .scalar v)
  let rest := if isV x.f && !flush then pend.drop (pend.length / 16 * 16) else []
  let w' : Option Walk := if last then none else some { w with pos := w.pos + 1, elems := rest.map some }
  let s1 := s.emitRound x { sl with walk := w' } (data ++ stop)
  if last then s1.roundRel x sl.seq w.shape else s1

/-- The windows of AG stations (R259). -/
def agWindows : List Window := memWindows

/-- A station's slots, oldest launch first; those of launches that have ended come last. -/
def State.slotsOf (s : State) (x : Sta) : List Slot :=
  let rest := (s.tileAt x.t).slots.filter fun q => q.st == x.st && !(x.r.live.any fun l => l.seq == q.seq)
  x.r.live.map (fun l => s.slot x.t x.st l.seq) ++ rest

/-- The open walk of the oldest launch at a station whose stream is not stalled. -/
def State.openWalk (s : State) (x : Sta) (h : Holder) : Option (Slot × Walk) :=
  ((s.slotsOf x).filterMap fun sl =>
    match sl.walk with
    | some w => if w.open_ && !s.stalled h sl.seq then some (sl, w) else none
    | none => none).head?

/-- One group of an lds or agen round (R276). DEDUCED: log 47. -/
def State.walkGroup (s : State) (x : Sta) (sl : Slot) (w : Walk) (agen : Bool) : State :=
  let it := BitVec.ofNat 24 sl.tagc
  match s.groupAddr x w.shape sl.seq w.pos false with
  | .error (r, a) => s.park x.r (.ag x.t x.st) sl.seq it a false (some r)
  | .ok va =>
    if agen then s.pushGroup x sl w [BitVec.ofNat 64 va]
    else
      let fmt := w.shape.fmt.toNat
      s.access x (.ag x.t x.st) agWindows sl.seq it va (groupShape fmt).1 false fun hs s =>
        s.pushGroup x sl w (decodeGroup fmt (x.f.ty == 2) w.shape.rm (s.gather hs))

/-- A token at port a of lds, agen or gath starts a round, passes on or is forwarded (R274, R275). -/
def State.trigger (s : State) (x : Sta) (begin_ : Token → State → State) : State :=
  match s.hd x 0 with
  | none => s
  | some t =>
    let s1 := s.take x [0]
    match t.kind with
    | .stop _ => s1.emits x.t x.st [(none, t)]
    | .error => s1.errFire x t.seq t.iter (t.err (s.self x.t 0))
    | .data => begin_ t s1
    | _ => s1.errFire x t.seq t.iter (s.self x.t eKIND)

/-- One firing of lds or agen: a group of an open round, or the start of one at the head of port a (R274, R276). -/
def State.fireWalk (s : State) (f : StF) (agen : Bool) : State :=
  s.fireHeads f fun x s =>
    match s.openWalk x (.ag x.t x.st) with
    | some (sl, w) => s.walkGroup x sl w agen
    | none =>
      let busy := match s.hd x 0 with
        | none => true
        | some t => (s.slot x.t x.st t.seq).walk.isSome
      if f.inp.getLsbD 2 && !busy then
        s.trigger x fun t s1 => match s1.beginRound x t.seq with
          | .wait => s
          | .err e s2 => s2.errRound x t.seq e
          | .go sh s2 => s2.openRound x t.seq sh
      else s

/-- lds (R276). -/
def execLds (f : StF) (s : State) : Out := .next (s.fireWalk f false)

/-- agen (R276). -/
def execAgen (f : StF) (s : State) : Out := .next (s.fireWalk f true)

/-- SOURCE_ROUND_START: the acting AG without a token port starts its one round of the oldest launch whose round it has
not run, once the launch's PARAM tokens have been delivered (R128, R274). -/
def execSourceRoundStart (s : State) : Out :=
  match s.regionOf s.tile, s.wordAt s.tile s.st with
  | some r, some w =>
    let f := StF.of w
    if !(opOf w == 0x80 || opOf w == 0x82) || f.inp.getLsbD 2 then .next s
    else match r.live.find? fun l => !l.started.contains (s.tile, s.st) && l.cancelled.isNone with
      | none => .next s
      | some l =>
        if s.flight.any fun q => r.tiles.contains q.dst && q.tok.seq == l.seq && q.tok.kind == .param then .next s
        else .next (s.fireHeads f fun x s =>
          let done (s : State) : State := s.onLive r.core r.bslot l.seq fun l => { l with started := (x.t, x.st) :: l.started }
          match s.beginRound x l.seq with
          | .wait => s
          | .err e s1 => done (s1.errRound x l.seq e)
          | .go sh s1 => done (s1.openRound x l.seq sh))
  | _, _ => .next s

/-! ## sts and scat (R276) -/

/-- The round of a storing station begins with its first token (R275). None while it waits for a parameter. -/
def State.storeBegin (s : State) (x : Sta) (seq : BitVec 8) : Option State :=
  let sl := s.slot x.t x.st seq
  if sl.walk.isSome ∨ sl.err.isSome then some s
  else match s.beginRound x seq with
    | .wait => none
    | .err e s1 => some (s1.setSlot x.t { s1.slot x.t x.st seq with err := some (tokE seq 0 e) })
    | .go sh s1 => some (s1.setSlot x.t { s1.slot x.t x.st seq with walk := some ⟨sh, 0, sh.groups, 0, [], true⟩ })

/-- What a storing station does with a token of its data: elements, positions skipped, or the round's end. The slot keeps the
token's tag, and the row that its index names; `pb` is 1 while that is not known (R276, R286). -/
def State.storeTok (s : State) (x : Sta) (t : Token) (index : Option Word) : State :=
  let sl := s.slot x.t x.st t.seq
  let add (es : List (Option Word)) (s : State) : State :=
    match sl.walk with
    | none => s
    | some w => s.setSlot x.t { sl with
        walk := some { w with elems := if w.total = 0 then [] else w.elems ++ es },
        pa := (index.map (·.toNat)).getD sl.pa, pb := if index.isSome then 0 else 1, tagc := t.iter.toNat }
  match t.kind with
  | .stop n =>
    match x.shape with
    | none => s
    | some sh => if n < endLevel x.f sh then s else s.setSlot x.t { sl with held := some t }
  | .error =>
    (add (List.replicate (if isV x.f then 16 else 1) none) s).emits x.t x.st [(none, t)]
  | _ =>
    add (match t.pay with
      | .vector l => if isV x.f then l.map fun w => some (w.setWidth 64) else [some (wordOfLanes l)]
      | p => [some p.word]) s

/-- The end of a storing round: REL, then DONE with the count, or the ERROR of an error round (R275, R276). -/
def State.storeEnd (s : State) (x : Sta) (sl : Slot) (stop : Token) : State :=
  let s1 := s.setSlot x.t { sl with held := none, walk := none, err := none, cnt := 0 }
  match sl.err, sl.walk with
  | some e, _ => s1.emits x.t x.st [(none, { e with iter := stop.iter })]
  | none, some w => (s1.roundRel x stop.seq w.shape).emits x.t x.st [(none, tokS stop.seq stop.iter .done (BitVec.ofNat 64 sl.cnt))]
  | none, none => s1.emits x.t x.st [(none, tokS stop.seq stop.iter .done 0)]

/-- The address of the next group of a storing station: the walk's for sts, the index's row for scat (R276). -/
def State.storeAddr (s : State) (x : Sta) (sl : Slot) (w : Walk) (scat : Bool) : Except (XReason × Nat) Nat :=
  if scat then
    s.indexAddr x w.shape sl.seq (BitVec.ofNat 64 sl.pa).toInt (w.pos % Nat.max 1 (w.shape.exts.getD 0 1)) true
  else s.groupAddr x w.shape sl.seq w.pos true

/-- The pieces that hold one of some bytes, by offset from an address. -/
def piecesWith (va : Nat) (on : List Nat) (ps : List (Nat × Nat)) : List (Nat × Nat) :=
  ps.filter fun p => on.any fun o => decide (p.1 - va ≤ o ∧ o < p.1 - va + p.2)

/-- The bytes at some pieces of which those in `hs` are translated; the others are left zero. -/
def State.gatherSome (s : State) (hs : List (Nat × Nat × Nat)) (ps : List (Nat × Nat)) : List Byte :=
  ps.flatMap fun p => match hs.find? (·.2.1 = p.1) with
    | some q => s.gather [q]
    | none => List.replicate p.2 0

/-- One BVB segment written by a storing station (R173, R276), a write for each aligned 64-byte chunk; a chunk of which it writes no byte
is no part of it (R269). The codec reads the scale that the first element is held against (R172). -/
def State.storeSegment (s : State) (x : Sta) (seq : BitVec 8) (it : BitVec 24) (sh : Shape) (els : List (Option Word)) (va : Nat)
    (after : State → State) : State :=
  let ps := chunks va 272
  let at_ (on : List Nat) (write : Bool) (k : List (Nat × Nat × Nat) → State) : State :=
    s.mapped x (.ag x.t x.st) agWindows seq it (piecesWith va on ps) write k
  at_ (bvbSure els) true fun h1 =>
    at_ (bvbScaleOf (x.f.ty == 2) els (s.gatherSome h1 ps)) false fun h2 =>
      let bytes := encodeGroup 0x13 (x.f.ty == 2) sh.rm sh.nsat els (s.gatherSome (h1 ++ h2) ps)
      let on := bvbWrote els bytes
      at_ on true fun hs => s.stChecked x.r x.t x.st seq it true hs fun s =>
        let old := s.gatherSome (h1 ++ h2 ++ hs) ps
        let now := encodeGroup 0x13 (x.f.ty == 2) sh.rm sh.nsat els old
        after (s.fillPieces va now (some on) (s.stagingOf x.r seq) hs)

/-- One group written by a storing station (R173, R276). One of BVB or of one element whose positions are all skipped writes nothing
(R269), nor does one in a row that no index names. -/
def State.storeGroup (s : State) (x : Sta) (sl : Slot) (w : Walk) (scat : Bool) : State :=
  let fmt := w.shape.fmt.toNat
  let per := (groupShape fmt).2
  let els := w.elems.take per
  let n := (els.filterMap id).length
  let w' := { w with pos := (w.pos + 1) % Nat.max 1 w.total, elems := w.elems.drop per }
  let after (s : State) : State := s.setSlot x.t { sl with walk := some w', cnt := sl.cnt + n }
  let it := BitVec.ofNat 24 sl.tagc
  if n = 0 ∧ (per = 1 ∨ keepsOld fmt ∨ (scat ∧ sl.pb = 1)) then after s
  else match s.storeAddr x sl w scat with
    | .error (r, a) => s.park x.r (.ag x.t x.st) sl.seq it a true (some r)
    | .ok va =>
      let all := els ++ List.replicate (per - els.length) none
      if keepsOld fmt then s.storeSegment x sl.seq it w.shape all va after
      else s.access x (.ag x.t x.st) agWindows sl.seq it va (groupShape fmt).1 true fun hs s =>
        let bytes := encodeGroup fmt (x.f.ty == 2) w.shape.rm w.shape.nsat all []
        after (s.fillPieces va bytes none (s.stagingOf x.r sl.seq) hs)

/-- A launch's slot at a storing station that has a group to write or a round to end, oldest launch first. -/
def State.storeDue (s : State) (x : Sta) : Option Slot :=
  ((s.slotsOf x).filterMap fun sl =>
    let per := match sl.walk with
      | some w => (groupShape w.shape.fmt.toNat).2
      | none => 1
    let have_ := match sl.walk with
      | some w => w.elems.length
      | none => 0
    if (per ≤ have_ ∨ sl.held.isSome) ∧ !s.stalled (.ag x.t x.st) sl.seq then some sl else none).head?

/-- The work that a storing station has due: a group, or the round's end. DEDUCED: log 60. -/
def State.storeWork (s : State) (x : Sta) (sl : Slot) (scat : Bool) : State :=
  match sl.walk, sl.held with
  | some w, h => if w.elems ≠ [] then s.storeGroup x sl w scat else match h with
    | some t => s.storeEnd x sl t
    | none => s
  | none, some t => s.storeEnd x sl t
  | none, none => s

/-- sts (R276). -/
def execSts (f : StF) (s : State) : Out :=
  .next (s.fireHeads f fun x s =>
    match s.storeDue x with
    | some sl => s.storeWork x sl false
    | none =>
      match s.hd x 0 with
      | none => s
      | some t =>
        if s.stalled (.ag x.t x.st) t.seq then s
        else if t.kind = .data ∨ t.kind = .error ∨ t.kind.level ≠ 0 then
          match s.storeBegin x t.seq with
          | none => s
          | some s1 => (s1.take x [0]).storeTok x t (some 0)
        else (s.take x [0]).errFire x t.seq t.iter (s.self x.t eKIND))

/-- scat (R276): a's elements at the rows that b's indexes name. -/
def execScat (f : StF) (s : State) : Out :=
  .next (s.fireHeads f fun x s =>
    match s.storeDue x with
    | some sl => s.storeWork x sl true
    | none =>
      match s.nextSet x [0, 1] with
      | none => s
      | some (q, s1) =>
        if s.stalled (.ag x.t x.st) (setSeq q) then s
        else match s1.storeBegin x (setSeq q) with
          | none => s
          | some s2 =>
            match q.find? (·.2.kind = .error) with
            | some e =>
              let index := ((tokAt q 1).filter (·.kind = .data)).map (·.pay.word)
              s2.storeTok x (tokE (setSeq q) (setIter q) (e.2.err (s.self x.t 0))) index
            | none => s2.rows x q dataOnly
                (fun n s => s.storeTok x (tokStop (setSeq q) (setIter q) n) none)
                (fun s => match tokAt q 0 with
                  | none => s
                  | some a => s.storeTok x a (some (s.opWord x q 1))))

/-! ## gath and the quarry engines (R277, R278) -/

/-- The engine that serves an MT's gathers, by 8 × die + engine (R277). -/
def engineOf (t : TileId) : Nat := 8 * t.die.toNat + (t.col.toNat / 2 + t.row.toNat) % 8

/-- gath (R277): a DATA token sends its index list to the quarry engine as one stream. -/
def execGath (f : StF) (s : State) : Out :=
  .next (s.fireHeads f fun x s =>
    if s.streams.any fun q => q.tile == x.t && q.st == x.st then s
    else s.trigger x fun t s1 =>
      match s1.beginRound x t.seq with
      | .wait => s
      | .err e s2 => s2.errRound x t.seq e
      | .go sh s2 =>
        if sh.groups = 0 then s2.openRound x t.seq sh
        else { s2.openRound x t.seq sh with streams := s2.streams ++
          [⟨x.t, x.st, engineOf x.t, x.r.part, t, sh, t.pay.word.extractLsb' 0 57, f.aux.extractLsb' 0 2, 0, 0⟩] })

/-- Bytes of an index, and its value (R278). -/
def indexBytes (ixf : BitVec 2) : Nat := if ixf = 1 then 8 else 4
def indexValue (ixf : BitVec 2) (b : List Byte) : Int :=
  if ixf = 0 then intValue 32 true (leNat b) else if ixf = 1 then intValue 64 true (leNat b) else (leNat b : Int)

/-- The stream that an engine serves next: one of its first 16 (R278). -/
def State.served (s : State) (i : Nat) : Option Stream :=
  (s.streams[i]?).filter fun q => decide ((((s.streams.take i).filter (·.engine == q.engine)).length) < 16)

/-- QUARRY_ROW_RETURN: an engine reads the next index and group of a stream that it serves, and the gath converts and
emits what returns, in (j, group) order (R278). -/
def execQuarryRowReturn (s : State) : Out :=
  match s.served s.input.index with
  | none => .next s
  | some q =>
    match s.wordAt q.tile q.st with
    | none => .next s
    | some w =>
      .next (State.fireHeads { s with tile := q.tile, st := q.st } (StF.of w) fun x s =>
        let h : Holder := .quarry q.tile q.st q.engine
        let sl := s.slot q.tile q.st q.trig.seq
        match sl.walk with
        | none => s
        | some wk =>
          let nb := indexBytes q.ixf
          let ia := (q.idx + BitVec.ofNat 57 (q.row * nb)).toNat
          s.access x h [.translated] q.trig.seq q.trig.iter ia nb false fun hs s =>
            let v := indexValue q.ixf (s.gather hs)
            let fmt := q.shape.fmt.toNat
            match s.indexAddr x q.shape q.trig.seq v q.group false with
            | .error (r, a) => s.park x.r h q.trig.seq q.trig.iter a false (some r)
            | .ok va => s.access x h [.translated] q.trig.seq q.trig.iter va (groupShape fmt).1 false fun hs s =>
              let next : Stream := if q.group + 1 < (q.shape.dims.getD 0 (0, 0)).1.toNat then { q with group := q.group + 1 } else { q with row := q.row + 1, group := 0 }
              let s1 := { s with streams := if wk.pos + 1 = wk.total then s.streams.erase q else updFirst (· == q) (fun _ => next) s.streams }
              s1.pushGroup x sl wk (decodeGroup fmt (x.f.ty == 2) q.shape.rm (s.gather hs)))

/-! ## Sequence-named buffers (R280 to R283) -/

/-- A buffer descriptor's fields: the first bin, S and DECL (R280). -/
def descOf (w : Word) : Nat × Nat × Nat :=
  ((w.extractLsb' 8 21).toNat, (w.extractLsb' 29 10).toNat + 1, (w.extractLsb' 39 5).toNat + 1)

/-- The bin of a sequence number (R280). -/
def binFor (w : Word) (q : Nat) : Nat := (descOf w).1 + q % (descOf w).2.1

/-- A station's access of its partition's scratchpad that names a bin or an MT not granted to it (R259): the fault is met, and the
stream is to be withheld. -/
def State.spadDenied (s : State) (r : Region) (t : TileId) (st : Nat) (seq : BitVec 8) (iter : BitVec 24) (homes : List Nat)
    (write : Bool) : Option State :=
  (homes.find? fun a => !s.granted r.part .spad a 8 write).map fun a =>
    if s.stalled (.mem t st) seq then s else s.park r (.mem t st) seq iter a write (some .window)

/-- An access of a bin by stfs or ldcs: made where the bin is granted and the detector lets it (R259, R286, R352). -/
def State.binAccess (s0 s : State) (t : TileId) (st bin : Nat) (seq : BitVec 8) (iter : BitVec 24) (n : Nat) (write : Bool)
    (k : State → State) : State :=
  let home := spadBase + bin * 256
  match s.regionOf t with
  | none => k s
  | some r =>
    match s0.spadDenied r t st seq iter [home] write with
    | some s1 => s1
    | none =>
      let on := (r.liveOf seq).any (·.race) && s.tracked r.part home (8 * n)
      let s1 := if on && !write then s.raceTake (.region r.core r.bslot) 4 home (8 * n) else s
      s1.stChecked r t st seq iter write [(home, home, 8 * n)] k

/-- A granted stfs fill: the dwords are written, the bin is full with its number, a release at .dom, and the number
leaves with the last token's tag (R271, R282). `s0` is the state in which the request still waits. -/
def State.stfsDone (s0 s : State) (t : TileId) (st bin : Nat) (seq : BitVec 8) (words : List Word) (last : Token)
    (stop : Option Token) : State :=
  State.binAccess s0 s t st bin seq last.iter words.length true fun s =>
    let q := (s.slot t st seq).cnt
    let b := s.bin bin
    let b' := { b with full := true, cnt := 0, seq := BitVec.ofNat 16 q, staged := none }
    let s1 := ((s.writeMem none (spadBase + bin * 256) (words.flatMap fun w => leBytes 8 w.toNat)).setBin bin b').fillEvent bin b b'
    let sl := s1.slot t st seq
    (s1.setSlot t { sl with cnt := q + 1, phase := 0 }).emits t st
      ((none, tokS last.seq last.iter .data (BitVec.ofNat 64 q)) :: (match stop with
        | some k => [(none, k)]
        | none => []))

/-- A granted ldcs read: the bin's DECL dwords leave, and the bin is empty, an acquire at .dom (R271, R283). -/
def State.ldcsDone (s0 s : State) (t : TileId) (st bin : Nat) (req : Token) : State :=
  let b := s.bin bin
  State.binAccess s0 s t st bin req.seq req.iter b.decl false fun s =>
    let toks := (List.range b.decl).map fun j =>
      let n := 32 * req.iter.toNat + j
      ((none : Option Nat), if tagOvf n then tokE req.seq req.iter (s.self t eTAGOVF)
        else tokS req.seq (BitVec.ofNat 24 n) .data (memDword s.mem (spadBase + bin * 256 + 8 * j)))
    (s.setBin bin { b with full := false, cnt := 0 }).emits t st toks

/-- The fill that an stfs has gathered is asked for (R282); `phase` 1 marks a request that waits. -/
def State.stfsAsk (s0 s : State) (x : Sta) (seq : BitVec 8) (stop : Option Token) : State :=
  let sl := s.slot x.t x.st seq
  match sl.buf.getLast? with
  | none => s
  | some last =>
    let bin := binFor (s.kWord x) sl.cnt
    let words := sl.buf.map (·.pay.word)
    let s1 := s.setSlot x.t { sl with buf := [], phase := 1 }
    let e : WaitEntry := ⟨binTile bin, bin, BitVec.ofNat 16 sl.cnt, .stfs x.t x.st seq words last stop, true⟩
    match s0.spadDenied x.r x.t x.st seq last.iter [spadBase + bin * 256] true with
    | some s2 => s2
    | none => if s.binNow e then State.stfsDone s0 s1 x.t x.st bin seq words last stop else s1.enqueueWait e

/-- stfs (R282). -/
def execStfs (f : StF) (s : State) : Out :=
  .next (s.fireHeads f fun x s =>
    match s.hd x 0 with
    | none => s
    | some t =>
      let sl := s.slot x.t x.st t.seq
      let s1 := s.take x [0]
      if sl.phase = 1 then s
      else match t.kind with
        | .data =>
          let s2 := s1.setSlot x.t { sl with buf := sl.buf ++ [t] }
          if sl.buf.length + 1 = (descOf (s.kWord x)).2.2 then State.stfsAsk s s2 x t.seq none else s2
        | .stop _ => if sl.buf = [] then s1.emits x.t x.st [(none, t)] else State.stfsAsk s s1 x t.seq (some t)
        | .error => s1.errFire x t.seq t.iter (t.err (s.self x.t 0))
        | _ => s1.errFire x t.seq t.iter (s.self x.t eKIND))

/-- ldcs (R283). -/
def execLdcs (f : StF) (s : State) : Out :=
  .next (s.fireHeads f fun x s =>
    match s.hd x 0 with
    | none => s
    | some t =>
      let s1 := s.take x [0]
      match t.kind with
      | .data =>
        let q := t.pay.word.toNat
        let bin := binFor (s.kWord x) q
        let e : WaitEntry := ⟨binTile bin, bin, BitVec.ofNat 16 q, .ldcs x.t x.st t (f.aux.getLsbD 0), true⟩
        match s.spadDenied x.r x.t x.st t.seq t.iter [spadBase + bin * 256] false with
        | some s2 => s2
        | none => if s.binNow e then State.ldcsDone s s1 x.t x.st bin t else s1.enqueueWait e
      | .stop _ => s1.emits x.t x.st [(none, t)]
      | .error => s1.errFire x t.seq t.iter (t.err (s.self x.t 0))
      | _ => s1.errFire x t.seq t.iter (s.self x.t eKIND))

/-- The requests that may be served: each the oldest that is ready on its bin (R281). DEDUCED: log 27. -/
def State.servable (s : State) : List WaitEntry :=
  s.waits.filter fun e => e.sent && s.binReady e && (s.waits.find? fun o => o.bin == e.bin && o.sent && s.binReady o) == some e

/-- A core's waiting request is served: its instruction reads its registers and completes, or traps where the bin is no longer
granted (R93, R270). -/
def State.grantCore (s : State) (c : Fin 64) (srcs : List Reg) (off : Nat) (k : State → State) : State :=
  let s1 := { s with cur := c }
  s1.withRegs srcs fun ws s2 =>
    if s1.granted s1.pid .spad (spadBase + off) 8 false then k s2 else s1.trap tADDR (ws.getD 0 0)

/-- A tile stands still: its region is frozen by a hang, or its partition is halted (R387, R391). -/
def State.still (s : State) (t : TileId) : Bool := (s.regionOf t).any fun r => r.hung || (s.part r.part).pre == .halted

/-- BIN_WAIT_GRANT: a bin is ready, and its oldest waiting request is served (R281). -/
def execBinWaitGrant (s : State) : Out :=
  match s.servable[s.input.index]? with
  | none => .next s
  | some e =>
    let s1 := { s with waits := s.waits.erase e }
    if (match e.who with
      | .ldcs t .. => s.still t
      | .stfs t .. => s.still t
      | _ => false) then .next s
    else match e.who with
    | .ldcs t st req _ => .next (State.ldcsDone s s1 t st e.bin req)
    | .stfs t st seq words last stop => .next (State.stfsDone s s1 t st e.bin seq words last stop)
    | .ldc c srcs d off peek => .next (s1.grantCore c srcs off fun s => s.ldcTake d off peek)
    | .stf c srcs off v => .next (s1.grantCore c srcs off fun s => s.stfPut off v)

/-! ## rport and pport (R284, R285) -/

/-- The dword that rport stores (R284). -/
def rportOp (f : StF) (m w : Word) : Word :=
  let a : W48 := m.extractLsb' 0 48
  let b : W48 := w.extractLsb' 0 48
  match (f.aux.extractLsb' 0 2).toNat with
  | 0 => (wAdd a b f.rm).setWidth 64
  | 1 => m + w
  | 2 => if f.ty = 2 then (if m.slt w then w else m) else (wMinMax true a b).setWidth 64
  | _ => if f.ty = 2 then (if w.slt m then w else m) else (wMinMax false a b).setWidth 64

/-- rport's writes of one token's elements, in lane order (R284). -/
def State.rportPut (s : State) (x : Sta) (first len : Nat) (phase : Option StageId) : Nat → List Word → State
  | _, [] => s
  | off, w :: ws =>
    let home := spadBase + tileOff x.t + 8 * (first + off)
    (s.fillWrite home (leBytes 8 (rportOp x.f (memDword s.mem home) w).toNat) phase).rportPut x first len phase ((off + 1) % len) ws

/-- rport (R284). -/
def execRport (f : StF) (s : State) : Out :=
  .next (s.fireHeads f fun x s =>
    match s.hd x 0 with
    | none => s
    | some t =>
      let s1 := s.take x [0]
      let sl := s1.slot x.t x.st t.seq
      let k := s.kWord x
      let first := (k.extractLsb' 0 15).toNat
      let len := (k.extractLsb' 16 15).toNat + 1
      match t.kind with
      | .data =>
        let ws : List Word := match t.pay with
          | .vector l => if isV f then l.map (·.setWidth 64) else [wordOfLanes l]
          | p => [p.word]
        let pieces := (List.range ws.length).map fun i =>
          let home := spadBase + tileOff x.t + 8 * (first + (sl.pa + i) % len)
          (home, home, 8)
        match s.spadDenied x.r x.t x.st t.seq t.iter (pieces.map (·.1)) true with
        | some s2 => s2
        | none => s1.stChecked x.r x.t x.st t.seq t.iter true pieces fun s2 =>
            (s2.rportPut x first len (s.stagingOf x.r t.seq) sl.pa ws).setSlot x.t
              { sl with pa := (sl.pa + ws.length) % len, cnt := sl.cnt + ws.length }
      | .stop _ => (s1.setSlot x.t { sl with pa := 0, cnt := 0 }).emits x.t x.st
          [(none, tokS t.seq t.iter .done (BitVec.ofNat 64 sl.cnt))]
      | .error => s1.errFire x t.seq t.iter (t.err (s.self x.t 0))
      | _ => s1.errFire x t.seq t.iter (s.self x.t eKIND))

/-- pport (R285): into the parameter port of AG slot K, when it has room. -/
def execPport (f : StF) (s : State) : Out :=
  .next (s.withSta f fun x s =>
    match s.hd x 0 with
    | none => s
    | some t =>
      let room := decide (((s.tileAt x.t).queue.filter fun q => q.st = immOf f ∧ q.port = 3).length < 8)
      let s1 := s.take x [0]
      match t.kind with
      | .stop _ => s1
      | .data => if room then s1.arrive x.t (immOf f) 3 t else s
      | .error => if room then s1.arrive x.t (immOf f) 3 t else s
      | _ => if room then s1.arrive x.t (immOf f) 3 (tokE t.seq t.iter (s.self x.t eKIND)) else s)

end Sys2Proof.Machine
end

