-- ==== Sys2Proof/Machine/StationTable.lean ====
section
/-! DEFINITION. What the loader knows of each opcode (the tables of R201, R217, R218, R224, R229, R238, R248, R251, R253,
R272, R316, R359) and its check of one operation word against them (R63, R73). -/

namespace Sys2Proof.Machine

/-- What stands at a port: nothing, a token, a token or the K source, the K source, or an optional token. -/
inductive PortUse where
  | none | tok | tokK | onlyK | opt
  deriving DecidableEq, Repr

/-- What K is read as: nothing, the source (R196), the source on every word, an immediate in a range, an immediate when
port b or port c takes no token, or a tile register (R272). -/
inductive KUse where
  | none | source | scale
  | imm (lo hi : Nat)
  | immAt (port hi : Nat)
  | reg
  deriving DecidableEq, Repr

/-- Whether a station rounds: never, always, or only under the operation `sum` of an AUX field (R224). -/
inductive RndUse where
  | no | yes
  | sum (lo : Nat)
  deriving DecidableEq, Repr

/-- Which slots a family may use (R63). -/
inductive SlotUse where
  | ct | ctGen | ag | mem | recall
  deriving DecidableEq, Repr

/-- One row: opcode, slots, types, ports a, b, c, K, outputs, rounding. -/
structure StRow where
  op   : Nat
  slot : SlotUse
  tys  : List Nat
  a    : PortUse
  b    : PortUse
  c    : PortUse
  k    : KUse
  outs : Nat
  rnd  : RndUse
  deriving DecidableEq, Repr

/-- The types of R62: w48 0, v16 1, i64 2, sd 3. -/
def anyTy : List Nat := [0, 1, 2, 3]
def dataTy : List Nat := [0, 1, 2]

/-- Dataflow control (R201). -/
def flowRows : List StRow :=
  [⟨0x00, .ctGen, anyTy, .tok, .tokK, .none, .source, 15, .no⟩,
   ⟨0x01, .ctGen, anyTy, .tok, .tok, .opt, .none, 15, .no⟩,
   ⟨0x02, .ctGen, anyTy, .tok, .tok, .tok, .none, 15, .no⟩,
   ⟨0x03, .ctGen, anyTy, .tok, .tok, .tok, .none, 15, .no⟩,
   ⟨0x04, .ctGen, anyTy, .tok, .tok, .none, .none, 15, .no⟩,
   ⟨0x05, .ctGen, anyTy, .tok, .tok, .none, .none, 15, .no⟩,
   ⟨0x06, .ctGen, anyTy, .tok, .none, .none, .none, 0, .no⟩,
   ⟨0x07, .ctGen, anyTy, .tok, .onlyK, .none, .imm 1 31, 15, .no⟩,
   ⟨0x08, .ctGen, anyTy, .tok, .onlyK, .none, .imm 0 31, 15, .no⟩,
   ⟨0x09, .ctGen, anyTy, .tok, .tokK, .none, .source, 15, .no⟩,
   ⟨0x0A, .ctGen, anyTy, .tok, .onlyK, .none, .imm 0 31, 15, .no⟩,
   ⟨0x0B, .ctGen, anyTy, .tok, .tok, .none, .none, 15, .no⟩,
   ⟨0x0C, .ctGen, anyTy, .tok, .none, .none, .none, 15, .no⟩,
   ⟨0x0D, .ctGen, [2], .tok, .none, .none, .none, 15, .no⟩,
   ⟨0x0E, .ctGen, [2], .tok, .tok, .none, .none, 7, .no⟩,
   ⟨0x0F, .ctGen, anyTy, .tok, .tok, .tok, .none, 15, .no⟩]

/-- Integer (R217). -/
def intRows : List StRow :=
  ([0x10, 0x11, 0x12, 0x13, 0x14, 0x15, 0x19, 0x1A, 0x1B].map fun op =>
    ⟨op, .ctGen, [2], .tok, .tokK, .none, .source, 15, .no⟩) ++
  ([0x16, 0x17, 0x18].map fun op => ⟨op, .ctGen, [2], .tok, .tokK, .none, .immAt 1 31, 15, .no⟩) ++
  [⟨0x1C, .ctGen, [2], .tok, .tokK, .tokK, .source, 15, .no⟩]

/-- W48 (R218). -/
def w48Rows : List StRow :=
  ([0x20, 0x21, 0x22, 0x2D, 0x31].map fun op => ⟨op, .ct, [0, 1], .tok, .tokK, .none, .source, 15, .yes⟩) ++
  ([0x23, 0x24, 0x25].map fun op => ⟨op, .ct, [0, 1], .tok, .tokK, .tokK, .source, 15, .yes⟩) ++
  ([0x26, 0x27].map fun op => ⟨op, .ct, [0, 1], .tok, .none, .none, .none, 15, .no⟩) ++
  ([0x28, 0x29, 0x2A].map fun op => ⟨op, .ct, [0, 1], .tok, .tokK, .none, .source, 15, .no⟩) ++
  [⟨0x2B, .ct, [0, 1], .tok, .tokK, .tokK, .source, 15, .no⟩,
   ⟨0x2C, .ct, [0], .tok, .none, .none, .none, 15, .no⟩] ++
  ([0x2E, 0x2F, 0x30, 0x32].map fun op => ⟨op, .ct, [0, 1], .tok, .none, .none, .none, 15, .yes⟩)

/-- Vector (R224), conversion and digits (R229), quantisers (R248). -/
def vecRows : List StRow :=
  [⟨0x40, .ct, [1], .tok, .none, .none, .none, 15, .sum 0⟩,
   ⟨0x41, .ct, [1], .tok, .none, .none, .none, 15, .no⟩,
   ⟨0x42, .ct, [1], .tok, .tokK, .none, .source, 15, .no⟩,
   ⟨0x43, .ct, [1], .tok, .none, .none, .none, 15, .no⟩,
   ⟨0x44, .ct, [1], .tok, .none, .none, .none, 15, .no⟩,
   ⟨0x45, .ct, [1], .tok, .none, .none, .none, 15, .sum 1⟩,
   ⟨0x46, .ct, [1], .tok, .tok, .none, .none, 15, .yes⟩,
   ⟨0x47, .ct, [1], .tok, .tokK, .none, .immAt 1 15, 15, .no⟩,
   ⟨0x48, .ct, [1], .tok, .tokK, .tokK, .immAt 2 15, 15, .no⟩,
   ⟨0x50, .ct, dataTy, .tok, .none, .none, .none, 15, .yes⟩,
   ⟨0x51, .ct, [3], .tok, .none, .none, .imm 1 8, 15, .yes⟩,
   ⟨0x52, .ct, [0, 1], .tok, .none, .none, .none, 15, .no⟩,
   ⟨0x53, .ct, [3], .tok, .none, .none, .imm 1 8, 15, .no⟩,
   ⟨0x54, .ct, [0, 1], .tok, .none, .none, .none, 3, .yes⟩,
   ⟨0x55, .ct, [0, 1], .tok, .opt, .none, .none, 15, .yes⟩]

/-- Matrix (R238), exponential (R251) and control network (R253). -/
def unitRows : List StRow :=
  [⟨0x60, .ct, [2], .tok, .none, .none, .none, 15, .no⟩,
   ⟨0x61, .ct, [3], .tok, .none, .none, .imm 0 15, 15, .no⟩,
   ⟨0x62, .ct, [0, 1], .tok, .none, .none, .none, 15, .sum 0⟩,
   ⟨0x63, .ct, [1], .tok, .none, .none, .imm 0 3, 15, .yes⟩,
   ⟨0x64, .ct, [2], .tok, .none, .none, .imm 1 15, 15, .no⟩,
   ⟨0x65, .ct, [2], .tok, .none, .none, .none, 15, .no⟩,
   ⟨0x70, .ct, [0, 1], .tok, .none, .none, .none, 15, .yes⟩,
   ⟨0x71, .ct, [0, 1], .tok, .none, .none, .none, 15, .yes⟩,
   ⟨0x72, .ct, [0, 1], .tok, .none, .none, .none, 15, .yes⟩,
   ⟨0x73, .ct, [0, 1], .tok, .none, .none, .none, 7, .yes⟩,
   ⟨0xB0, .ct, [0], .tok, .opt, .opt, .none, 15, .no⟩,
   ⟨0xB1, .ct, [0, 2], .tok, .none, .none, .imm 0 3, 1, .no⟩,
   ⟨0xB2, .ct, [0], .tok, .tok, .opt, .reg, 7, .no⟩,
   ⟨0xB3, .ct, [0], .tok, .tok, .opt, .reg, 7, .no⟩,
   ⟨0xB4, .ct, [0], .tok, .tok, .opt, .reg, 7, .no⟩,
   ⟨0xB5, .ct, anyTy, .tok, .none, .none, .none, 15, .no⟩]

/-- AG and memory (R272), recall (R316), remote (R359). Port c of an AG row is the parameter port's mark (R62). -/
def mtRows : List StRow :=
  [⟨0x80, .ag, dataTy, .opt, .none, .opt, .none, 15, .no⟩,
   ⟨0x81, .ag, dataTy, .tok, .none, .opt, .none, 15, .no⟩,
   ⟨0x82, .ag, [2], .opt, .none, .opt, .none, 15, .no⟩,
   ⟨0x83, .ag, dataTy, .tok, .none, .opt, .none, 15, .no⟩,
   ⟨0x84, .ag, dataTy, .tok, .tok, .opt, .none, 15, .no⟩,
   ⟨0x85, .mem, dataTy, .tok, .none, .none, .reg, 15, .yes⟩,
   ⟨0x86, .mem, [2], .tok, .none, .none, .reg, 15, .no⟩,
   ⟨0x87, .mem, [2], .tok, .none, .none, .reg, 15, .no⟩,
   ⟨0x88, .ag, [2], .none, .none, .none, .none, 0, .no⟩,
   ⟨0x89, .ag, [2], .tok, .none, .none, .imm 0 3, 0, .no⟩,
   ⟨0x90, .recall, [1], .tok, .none, .opt, .none, 15, .yes⟩,
   ⟨0x91, .recall, [1], .tok, .opt, .opt, .scale, 7, .yes⟩,
   ⟨0x92, .recall, [1], .tok, .tok, .opt, .none, 3, .yes⟩,
   ⟨0x93, .recall, [2], .tok, .none, .none, .none, 15, .no⟩,
   ⟨0x94, .recall, [2], .tok, .none, .none, .none, 15, .no⟩,
   ⟨0x95, .recall, [2], .tok, .none, .none, .none, 15, .no⟩,
   ⟨0xA0, .mem, [1, 2], .tok, .none, .none, .none, 15, .no⟩,
   ⟨0xA1, .mem, [1, 2], .tok, .tok, .none, .none, 15, .no⟩,
   ⟨0xA2, .mem, [2], .tok, .tok, .opt, .none, 15, .no⟩,
   ⟨0xA3, .mem, anyTy, .tok, .none, .none, .none, 15, .no⟩]

/-- The row of an opcode; a reserved or diagnostic one has none (R64). -/
def stRow (op : Nat) : Option StRow :=
  (flowRows ++ intRows ++ w48Rows ++ vecRows ++ unitRows ++ mtRows).find? (·.op = op)

/-! ## Fields beyond the rows -/

/-- The AUX values that a station's description allocates (R73); vbcast without `.lane` has no lane index. DESIGN CHOICE: log 102. -/
def auxOk (op aux : Nat) : Bool :=
  match op with
  | 0x01 => decide (aux < 2)
  | 0x05 => decide (aux < 2)
  | 0x06 => decide (1 ≤ aux)
  | 0x0B => decide (1 ≤ aux ∧ aux ≤ 7)
  | 0x0C => decide (aux < 2)
  | 0x0D => decide (1 ≤ aux ∧ aux ≤ 7)
  | 0x0E => decide (aux < 2)
  | 0x0F => decide (1 ≤ aux)
  | 0x19 => aux == 0 || aux == 8
  | 0x1A => aux == 0 || aux == 8
  | 0x1B => decide (aux < 16 ∧ aux % 8 ≤ 5)
  | 0x2A => decide (aux < 16)
  | 0x40 => decide (aux < 3)
  | 0x41 => aux == 0 || decide (16 ≤ aux ∧ aux < 32)
  | 0x45 => decide (aux < 8 ∧ aux / 2 ≠ 3)
  | 0x50 => (decide (aux % 4 < 2) && aux / 4 == 0) || (aux % 4 == 2 && (decide (aux / 4 ≤ 4) || aux / 4 == 9))
  | 0x54 => decide (aux < 8) && (decide (aux < 4) || aux == 4)
  | 0x60 => decide (aux < 64)
  | 0x61 => decide (aux % 8 + aux / 8 % 8 + 1 ≤ 8)
  | 0x62 => decide (aux < 32 ∧ aux % 4 ≠ 3 ∧ aux / 4 ≠ 0)
  | 0x63 => decide (aux < 64 ∧ aux % 8 + aux / 8 + 1 ≤ 8)
  | 0x65 => decide (aux < 32)
  | 0x73 => decide (aux < 8)
  | 0x83 => decide (aux < 3)
  | 0x85 => decide (aux < 4)
  | 0x86 => decide (aux < 2)
  | 0x91 => decide (aux < 64 ∧ aux / 16 ≠ 3)
  | 0x92 => decide (aux < 64 ∧ aux / 16 ≠ 3)
  | 0xA2 => decide (aux % 16 ≤ 9)
  | 0xA3 => decide (aux < 16 ∧ aux % 4 ≠ 0)
  | 0xB0 => true
  | 0xB1 => decide (aux < 2)
  | 0xB5 => decide (aux < 8)
  | _ => aux == 0

/-- The types that a word's AUX leaves of its row's (R230, R253, R284). -/
def tyOk (row : StRow) (ty aux : Nat) : Bool :=
  row.tys.contains ty &&
  match row.op with
  | 0x50 => (aux % 4 == 0 && ty == 0) || (aux % 4 == 1 && ty == 2) || (aux % 4 == 2 && ty != 2) || aux % 4 == 3
  | 0x85 => (aux == 0 && ty != 2) || (aux == 1 && ty == 2) || decide (2 ≤ aux)
  | 0xB1 => if aux % 2 = 1 then ty == 0 else ty == 2
  | _ => true

/-- The initial value of a register that a word's K selects obeys the station's description (R256, R280, R284). -/
def regOk (op : Nat) (bMarked cMarked : Bool) (q : Word) : Bool :=
  match op with
  | 0x85 => q.extractLsb' 31 33 == 0 && !q.getLsbD 15 &&
      decide ((q.extractLsb' 0 15).toNat + (q.extractLsb' 16 15).toNat ≤ 32767)
  | 0x86 => q.extractLsb' 0 8 == 0 && q.extractLsb' 44 20 == 0 && q.getLsbD 22 &&
      decide ((q.extractLsb' 8 10).toNat + (q.extractLsb' 29 10).toNat ≤ 1023)
  | 0x87 => q.extractLsb' 0 8 == 0 && q.extractLsb' 44 20 == 0 && q.getLsbD 22 &&
      decide ((q.extractLsb' 8 10).toNat + (q.extractLsb' 29 10).toNat ≤ 1023)
  | _ =>
    let win := q.extractLsb' 24 8
    let n := (q.extractLsb' 0 24).toNat
    q.extractLsb' 35 13 == 0 && decide (1 ≤ n ∧ n ≤ 0xFFFFFD) && ((op == 0xB3) == (win != 0)) &&
      (List.range ((q.extractLsb' 32 3).toNat + 1)).all fun i =>
        (!q.getLsbD (48 + 2 * i) || bMarked) && (!q.getLsbD (49 + 2 * i) || cMarked)

/-- A recall station's store descriptor in q15 (R314). -/
def storeDescOk (q : Word) : Bool :=
  let cap (f : BitVec 2) : Nat := if f = 0 then 128 else 256
  let kf := q.extractLsb' 0 2
  let vf := q.extractLsb' 2 2
  kf != 3 && vf != 3 && !q.getLsbD 7 && q.extractLsb' 46 18 == 0 &&
    decide ((q.extractLsb' 8 9).toNat + 1 ≤ cap kf) && decide ((q.extractLsb' 17 9).toNat + 1 ≤ cap vf)

/-- The value dimension, which is all that a kmerge reads of its tile's q15 (R314). -/
def mergeDescOk (q : Word) : Bool := decide ((q.extractLsb' 17 9).toNat + 1 ≤ 256)

/-- The slots of a tile that a family may use (R63). -/
def SlotUse.allows (u : SlotUse) (mt : Bool) (slot : Nat) : Bool :=
  match u with
  | .ct => !mt
  | .ctGen => !mt || slot == 7
  | .ag => mt && decide (slot < 4)
  | .mem => mt && (slot == 4 || slot == 5)
  | .recall => mt && slot == 6

/-- A port is marked where it has none, or unmarked where the row needs a token. -/
def PortUse.bad (u : PortUse) (marked : Bool) : Bool :=
  match u with
  | .none => marked
  | .onlyK => marked
  | .tok => !marked
  | _ => false

/-- The word rounds with its AUX (R224, R245). -/
def RndUse.rounds (r : RndUse) (aux : Nat) : Bool :=
  match r with
  | .no => false
  | .yes => true
  | .sum lo => aux / 2 ^ lo % 4 == 0

/-- A pport's target: another AG slot, not a pport, with OVER set and its parameter port unmarked (R285). -/
def CfgBlock.feedable (b : CfgBlock) (st t : Nat) : Bool :=
  t != st &&
  (match b.op t, b.shapes.find? (·.1 = t) with
   | some w, some sh => decide (0x80 ≤ opOf w ∧ opOf w < 0x89) && !w.getLsbD 19 && sh.2.ovf != 0
   | _, _ => false)

/-- K of a used word is not what the station reads (R73, R196, R238, R272, R285, R314). -/
def kBad (row : StRow) (b : CfgBlock) (st : Nat) (w : Word32) : Bool :=
  let k := (w.extractLsb' 14 5).toNat
  let aux := (w.extractLsb' 0 8).toNat
  let unmarked (p : Nat) : Bool := !(w.getLsbD (21 - p))
  let reads := (row.b == .tokK || row.b == .onlyK) && unmarked 1 || (row.c == .tokK && unmarked 2)
  let empty := decide (k < 16 ∧ b.consts.length ≤ k)
  (match row.k with
   | .none => false
   | .source => reads && empty
   | .scale => empty
   | .imm lo hi => (row.op != 0xB1 || aux % 2 == 1) && !decide (lo ≤ k ∧ k ≤ hi)
   | .immAt p hi => if unmarked p then decide (hi < k) else reads && empty
   | .reg => decide (k < 16) || !regOk row.op (!unmarked 1) (!unmarked 2) (b.qinit.getD (k % 16) 0)) ||
  (row.op == 0x61 && w.getLsbD 7 && k % 4 != 0) ||
  (row.op == 0x89 && !b.feedable st k) ||
  ([0x90, 0x91, 0x93, 0x94, 0x95].contains row.op && !storeDescOk (b.qinit.getD 15 0)) ||
  (row.op == 0x92 && !mergeDescOk (b.qinit.getD 15 0))

/-- The outputs that a word may enable (R316 narrows kqry and kmerge). -/
def outsOf (row : StRow) (aux : Nat) : Nat :=
  if (row.op = 0x91 ∧ aux / 16 % 4 ≠ 0) ∨ (row.op = 0x92 ∧ aux / 32 % 2 = 1) then row.outs - 2 else row.outs

/-- The first cause of R73, in the order of its table, for which a used slot's word is refused; 0 when none is. -/
def wordCause (mt : Bool) (b : CfgBlock) (st : Nat) (w : Word32) : Nat :=
  let aux := (w.extractLsb' 0 8).toNat
  match stRow (opOf w) with
  | none => 0x01
  | some row =>
    let c : PortUse := if row.op = 0xA2 then (if aux % 16 = 9 then .tok else .none) else row.c
    if !row.slot.allows mt st then 0x02
    else if !tyOk row (w.extractLsb' 22 2).toNat aux then 0x03
    else if row.a.bad (w.getLsbD 21) || row.b.bad (w.getLsbD 20) || c.bad (w.getLsbD 19) then 0x04
    else if kBad row b st w then 0x05
    else if (List.range 4).any fun o => w.getLsbD (10 + o) && outsOf row aux / 2 ^ o % 2 == 0 then 0x06
    else if w.extractLsb' 8 2 != 0 && !row.rnd.rounds aux then 0x07
    else if !auxOk row.op aux then 0x08
    else 0

/-! ## Networks of ports and outputs (R195, R221, R231, R275, R316) -/

/-- The network that a port has by itself: 0 scalar, 1 vector, 2 control; none when its edge names it. -/
def portNet (w : Word32) (port : Nat) : Option Nat :=
  let op := opOf w
  let ty := (w.extractLsb' 22 2).toNat
  let aux := (w.extractLsb' 0 8).toNat
  let byTy : Option Nat := if ty = 3 then none else some (if ty = 1 then 1 else 0)
  let scalar (ps : List Nat) : Option Nat := if ps.contains port then some 0 else byTy
  if port = 3 then some 0
  else match op with
    | 0x00 => scalar [1]
    | 0x02 => scalar [2]
    | 0x03 => scalar [2]
    | 0x04 => scalar [1]
    | 0x05 => if aux % 2 = 1 ∧ port = 1 then some 2 else scalar [1]
    | 0x09 => scalar [1]
    | 0x0B => scalar [1]
    | 0x0D => none
    | 0x0E => none
    | 0x1C => scalar [0]
    | 0x2B => scalar [0]
    | 0x2D => scalar [1]
    | 0x41 => some (if 16 ≤ aux then 1 else 0)
    | 0x42 => scalar [1]
    | 0x43 => some 0
    | 0x47 => scalar [1]
    | 0x48 => scalar [1, 2]
    | 0x51 => none
    | 0x53 => none
    | 0x52 => some (if ty = 1 then 1 else 0)
    | 0x55 => scalar [1]
    | 0x61 => some 1
    | 0x63 => some 0
    | 0x80 => none
    | 0x82 => none
    | 0x83 => some 0
    | 0x84 => scalar [1]
    | 0x90 => some (if port = 2 then 0 else 1)
    | 0x91 => some (if port = 2 then 0 else 1)
    | 0x92 => some 1
    | 0xA0 => some 0
    | 0xA1 => scalar [0]
    | 0xA3 => none
    | 0xB0 => some 2
    | 0xB1 => some (if aux % 2 = 1 then 2 else 0)
    | 0xB2 => some 2
    | 0xB3 => some 2
    | 0xB4 => some 2
    | _ => byTy

/-- A port whose edge's NET may be any of the three: a trigger, whose payload is not read. Every other port whose edge names its
network has a data network (R195). -/
def anyNet (w : Word32) : Bool := [0x80, 0x82, 0xA3].contains (opOf w)

/-- The network that an output must have, where the manual refuses another (R221, R316). -/
def outNet (w : Word32) (o : Nat) : Option Nat :=
  match opOf w with
  | 0x2A => some 0
  | 0x90 => some 0
  | 0x91 => some (if o = 0 then 1 else 0)
  | 0x92 => some (if o = 0 then 1 else 0)
  | 0x93 => some 0
  | 0x94 => some 0
  | 0x95 => some 0
  | _ => none

end Sys2Proof.Machine
end

