-- ==== Sys2Proof/Machine/Image.lean ====
section
/-! DEFINITION. The configuration image (R151 to R155) as cfgld reads it, and the refusals that concern single encodings
(R66, R72, R73, R443), each as the status word of R118. -/

namespace Sys2Proof.Machine

/-! ## Refusals (R118) -/

/-- The status word of a refusal (R118). -/
def refusal (code cfg slot : Nat) (t : Option TileId) : Word :=
  let x := t.getD ⟨0, 0, 0⟩
  bit 63 true ||| field 30 2 cfg ||| field 26 4 slot ||| field 24 2 x.die.toNat ||| field 19 5 x.col.toNat |||
    field 15 4 x.row.toNat ||| field 0 8 code

/-- A refusal that names no tile. -/
def refuse (code : Nat) : Word := refusal code 0 0 none

/-- Going on only when a condition holds. -/
def demand (c : Bool) (w : Word) : Except Word Unit := if c then .ok () else .error w

/-- A dword at a byte offset. -/
def dwAt (b : List Byte) (off : Nat) : Word := BitVec.ofNat 64 (leNat ((b.drop off).take 8))
/-- A 32-bit word at a byte offset. -/
def wAt (b : List Byte) (off : Nat) : Word32 := BitVec.ofNat 32 (leNat ((b.drop off).take 4))
/-- A field of a dword, as a number. -/
def num (w : Word) (lo n : Nat) : Nat := w.toNat / 2 ^ lo % 2 ^ n
/-- Some byte of a range is not zero. -/
def dirty (b : List Byte) (lo hi : Nat) : Bool := ((b.drop lo).take (hi - lo)).any (· != 0)

/-! ## Header (R151) -/

/-- An image header. -/
structure ImgHdr where
  w     : Nat
  h     : Nat
  nrec  : Nat
  nedge : Nat
  eoff  : Nat
  roff  : Nat
  len   : Nat
  deriving DecidableEq, Repr

/-- The header's 64 bytes; none when a field breaks R151. -/
def ImgHdr.of (b : List Byte) : Option ImgHdr :=
  let d0 := dwAt b 0
  let d1 := dwAt b 8
  let d2 := dwAt b 16
  let d3 := dwAt b 24
  let x : ImgHdr := ⟨num d0 40 8, num d0 48 8, num d1 0 16, num d1 16 16, num d2 0 32, num d2 32 32, num d3 0 40⟩
  if num d0 0 32 = 0x0D7C0F16 ∧ num d0 32 8 = 1 ∧ num d0 56 8 = 0 ∧ x.w % 2 = 0 ∧ 2 ≤ x.w ∧ x.w ≤ 32 ∧ 1 ≤ x.h ∧ x.h ≤ 16 ∧
      1 ≤ x.nrec ∧ x.nrec ≤ x.w * x.h ∧ x.nedge ≤ 16384 ∧ num d1 32 32 = 0 ∧ x.eoff % 8 = 0 ∧ 192 ≤ x.eoff ∧ x.roff % 64 = 0 ∧
      192 ≤ x.roff ∧ num d3 40 24 = 0 ∧ !dirty b 32 64 ∧ x.eoff + 16 * x.nedge ≤ x.len ∧ x.roff < x.len then some x
  else none

/-- A region's rectangle at an origin stays on its die (R118). -/
def ImgHdr.onDie (x : ImgHdr) (o : TileId) : Bool := decide (o.col.toNat + x.w ≤ 32 ∧ o.row.toNat + x.h ≤ 16)

/-- The tile at a place relative to an origin. -/
def tileFrom (o : TileId) (c r : Nat) : TileId := ⟨o.die, o.col + BitVec.ofNat 5 c, o.row + BitVec.ofNat 4 r⟩

/-! ## Edge table (R152, R443) -/

/-- An entry, its ends by logical column and row of die 0. -/
def edgeOf (a b : Word) : Edge :=
  { id := a.extractLsb' 0 12, cls := a.extractLsb' 12 2, ord := a.getLsbD 14, net := a.extractLsb' 15 2,
    blk := num a 17 8 + 1, psrc := a.getLsbD 25, ext := a.getLsbD 26, xin := a.getLsbD 27, side := a.extractLsb' 28 2,
    robsh := num a 32 8, src := ⟨0, b.extractLsb' 0 5, b.extractLsb' 5 4⟩, sst := num b 9 4, sout := num b 13 2,
    dst := ⟨0, b.extractLsb' 16 5, b.extractLsb' 21 4⟩, dstSt := num b 25 4, dport := num b 29 2 }

/-- A tile lies on a side of the region: N, E, S, W (R152). -/
def ImgHdr.onSide (x : ImgHdr) (t : TileId) (side : BitVec 2) : Bool :=
  match side.toNat with
  | 0 => t.row == 0
  | 1 => t.col.toNat + 1 == x.w
  | 2 => t.row.toNat + 1 == x.h
  | _ => t.col == 0

/-- An entry's own fields break R152 (R443). -/
def Edge.malformed (e : Edge) (x : ImgHdr) (a b : Word) : Bool :=
  num a 30 2 != 0 || num a 40 24 != 0 || num b 15 1 != 0 || num b 31 33 != 0 || e.net == 3 ||
  (!e.ext && (e.xin || e.side != 0)) || (e.ext && e.psrc) || (((e.ext && e.xin) || e.psrc) && e.sst != 0) ||
  (e.ext && !e.xin && e.dstSt != 0) || decide (x.w ≤ e.src.col.toNat ∨ x.w ≤ e.dst.col.toNat) ||
  decide (x.h ≤ e.src.row.toNat ∨ x.h ≤ e.dst.row.toNat) ||
  (e.ext && !x.onSide (if e.xin then e.src else e.dst) e.side)

/-- An entry's ROBSH breaks R157. -/
def Edge.robBad (e : Edge) : Bool :=
  let atMT := e.ord && e.dst.isMT && !(e.ext && !e.xin)
  if atMT then !decide (1 ≤ e.robsh ∧ e.robsh ≤ 64) else e.robsh != 0

/-- The station by which a refusal names an entry: its source, or its destination where it has no source station. -/
def Edge.name (e : Edge) : TileId × Nat := if e.psrc || (e.ext && e.xin) then (e.dst, e.dstSt) else (e.src, e.sst)

/-! ## Configuration blocks (R154) -/

/-- A block as its record holds it: the block, its shape records' bytes, whether a byte that R154 makes zero before its operation
words is not, or one behind its switch words, the offset of its switch words, and where it ends. -/
structure RawBlock where
  blk    : CfgBlock
  shapes : List (Nat × List Byte)
  zhead  : Bool
  ztail  : Bool
  swOff  : Nat
  stop   : Nat
  deriving DecidableEq, Repr

/-- A shape record's 64 bytes (R70). -/
def Shape.of (b : List Byte) : Shape :=
  let d0 := dwAt b 0
  let d1 := dwAt b 8
  { base := d0.extractLsb' 0 57, fmt := d1.extractLsb' 0 6, rm := d1.extractLsb' 6 2, ndim := num d1 8 3,
    blk := d1.extractLsb' 11 8, acq := if d1.getLsbD 19 then some (d1.extractLsb' 20 3) else none,
    rel := if d1.getLsbD 23 then some (d1.extractLsb' 24 3) else none, ovf := d1.extractLsb' 27 3, stv := d1.getLsbD 30,
    nsat := d1.getLsbD 31, stitch := d1.extractLsb' 32 32,
    dims := (List.range (num d1 8 3)).map fun i => ((dwAt b (16 + 8 * i)).extractLsb' 0 32, (dwAt b (16 + 8 * i)).extractLsb' 32 32) }

/-- The block at an offset of a record that begins at `pos` in the image; none when it does not fit before the CRC. -/
def RawBlock.of (rb : List Byte) (pos off : Nat) (mt : Bool) : Option RawBlock :=
  let ns := if mt then 8 else 16
  let d0 := dwAt rb off
  let d3 := dwAt rb (off + 24)
  let nbyp := num d3 0 4
  let ncon := num d3 4 5
  let sw := off + 32 + 4 * ns
  let co := sw + 32
  let qo := co + 8 * ncon
  let bo := qo + 128
  let p := bo + (4 * nbyp + 7) / 8 * 8
  let sho := if mt then (pos + p + 63) / 64 * 64 - pos else p
  let ags := if mt then (List.range 4).filter (d0.getLsbD ·) else []
  let stop := sho + 64 * ags.length
  if rb.length < stop + 8 ∨ rb.length < off + 40 then none
  else
    let raw := ags.mapIdx fun j s => (s, (rb.drop (sho + 64 * j)).take 64)
    let byp := (List.range nbyp).map fun i => wAt rb (bo + 4 * i)
    some {
      blk := { used := d0.extractLsb' 0 16, stage := (List.range 16).map fun s => num d0 (16 + 3 * s) 3,
               tagb := ((rb.drop (off + 8)).take 16).map (·.toNat),
               ops := (List.range ns).map fun i => wAt rb (off + 32 + 4 * i),
               sw := (List.range 15).map fun i => (wAt rb (sw + 2 * i)).setWidth 16,
               consts := (List.range ncon).map fun i => dwAt rb (co + 8 * i),
               qinit := (List.range 16).map fun i => dwAt rb (qo + 8 * i),
               byp, shapes := raw.map fun q => (q.1, Shape.of q.2) },
      shapes := raw,
      zhead := decide (16 < ncon) || num d3 9 55 != 0 || (mt && (dirty rb (off + 16) (off + 24) || num d0 8 8 != 0)),
      ztail := dirty rb (sw + 30) co || byp.any (fun e => e.extractLsb' 24 8 != 0) || dirty rb (bo + 4 * nbyp) sho,
      swOff := sw, stop }

/-- The blocks that CFGMASK names, from an offset on; none when one does not fit. -/
def rawBlocks (rb : List Byte) (pos : Nat) (mt : Bool) : List Nat → Nat → Option (List (Nat × RawBlock) × Nat)
  | [], off => some ([], off)
  | c :: cs, off =>
    match RawBlock.of rb pos off mt with
    | none => none
    | some b => (rawBlocks rb pos mt cs b.stop).map fun r => ((c, b) :: r.1, r.2)

/-- The configurations of a CFGMASK. -/
def cfgsOf (mask : Nat) : List Nat := (List.range 4).filter fun c => mask / 2 ^ c % 2 = 1

/-! ## Single encodings (R66, R72, R73) -/

/-- A station of a block that R66 rule 4 may name: its output, or its port. -/
def CfgBlock.names (b : CfgBlock) (lidx : Nat) (out : Bool) : Bool :=
  match b.op (lidx / 4) with
  | none => false
  | some w => if out then outOn w (lidx % 4) else inMarked w (lidx % 4)

/-- The cause of R73 for which a switch word is refused; 0 when none. Of several that one word meets the one of lowest code is
named. DESIGN CHOICE: log 89. Word `i` is that of network i / 5, output i mod 5. -/
def swCause (b : CfgBlock) (i : Nat) : Nat :=
  let w := b.sw.getD i 0
  let src := (w.extractLsb' 13 3).toNat
  let lidx := (w.extractLsb' 7 6).toNat
  let o := i % 5
  if 6 ≤ src ∨ (swV w ∧ src = 0) then 0x10
  else if !swV w then (if w = 0 then 0 else 0x14)
  else if (if src = 5 then !b.names lidx true else if o = 4 then !b.names lidx false else lidx != 0) then 0x11
  else
    let same := ((List.range 5).filter fun j => swV (b.sw.getD (i / 5 * 5 + j) 0) && swKey (b.sw.getD (i / 5 * 5 + j) 0) == swKey w).length
    if w.getLsbD 3 ≠ decide (2 ≤ same) then 0x12
    else if src = 5 ∧ o = 4 then 0x13
    else if w.extractLsb' 0 2 ≠ 0 ∨ (i / 5 = 2 ∧ w.extractLsb' 4 3 ≠ 0) then 0x14
    else 0

/-- The cause of R73 for which a shape record of a station with word `w` is refused; 0 when none (R72, R276, R277, R294, R309). A
traversal's BASE, an offset within a row, must be below the 2^31 that a PITCH can span; DEDUCED: log 97. Of several causes the one
of lowest code is named; DESIGN CHOICE: log 89. -/
def shapeCause (b : List Byte) (w : Word32) (nlist : Nat) : Nat :=
  let ty := (w.extractLsb' 22 2).toNat
  let sh := Shape.of b
  let d1 := dwAt b 8
  let fmt := sh.fmt.toNat
  let n := sh.ndim
  let ext (i : Nat) : Nat := num (dwAt b (16 + 8 * i)) 0 32
  let str (i : Nat) : Int := ((dwAt b (16 + 8 * i)).extractLsb' 32 32).toInt
  let st := sh.stitch.toNat
  let acqs := num d1 20 3
  let rels := num d1 24 3
  if 0x14 ≤ fmt ∨ (sh.nsat ∧ fmt ≠ 3 ∧ fmt ≠ 5) then 0x20
  else if n = 0 ∨ 5 < n ∨ (List.range n).any (fun i => ext i = 0) ∨
      ((List.range 5).any fun i => n ≤ i && dwAt b (16 + 8 * i) != 0) ∨ (ty = 1 ∧ ext 0 ≠ 16) ∨
      ((opOf w = 0x83 ∨ opOf w = 0x84) ∧ n ≠ 2) then 0x21
  else if (List.range n).any (fun i => str i % (groupShape fmt).1 ≠ 0) ∨ (fmt = 0x13 ∧ sh.base.toNat % 16 ≠ 0) then 0x22
  else if 4 < acqs ∨ 4 < rels ∨ (!d1.getLsbD 19 ∧ acqs ≠ 0) ∨ (!d1.getLsbD 23 ∧ rels ≠ 0) then 0x23
  else if sh.ovf = 7 ∨ (2 ≤ sh.ovf.toNat ∧ n + 2 ≤ sh.ovf.toNat) then 0x24
  else if (if sh.stv then
      (if 2 ^ 31 ≤ st then decide (st % 2 ^ 31 / 4 ≠ 0) else decide (st / 2 ^ 16 ≠ 0 ∨ nlist ≤ st)) || str (n - 1) != 0 ||
        (ty == 1 && decide (n < 2)) || decide (2 ^ 31 ≤ sh.base.toNat)
    else st != 0) then 0x25
  else if num (dwAt b 0) 57 7 ≠ 0 ∨ dwAt b 56 ≠ 0 then 0x26
  else 0

/-- A cbuf's shape record and its range of bins on its tile (R279). -/
def cbufOk (sh : Shape) (t : TileId) : Bool :=
  let d (i : Nat) : Nat × Int := ((sh.dims.getD i (0, 0)).1.toNat, (sh.dims.getD i (0, 0)).2.toInt)
  let base := spadBase + tileOff t
  sh.fmt == 0x12 && sh.ndim == 2 && decide ((d 0).1 ≤ 32) && (d 0).2 == 8 && decide ((d 1).1 ≤ 1024) && (d 1).2 == 256 &&
    decide (base ≤ sh.base.toNat ∧ (sh.base.toNat - base) % 256 = 0 ∧ (sh.base.toNat - base) / 256 + (d 1).1 ≤ 1024)

/-- The first refusal among the items of a block, in their order (R73, R443): its leading fields, station words, switch words,
the bytes behind them and shape records, by tile. -/
def blockCause (nlist cfg : Nat) (t : TileId) (b : RawBlock) : Except Word Unit := do
  let mt := t.isMT
  let ns := if mt then 8 else 16
  demand (!b.zhead) (refusal 0x0C cfg 0 (some t))
  for st in List.range ns do
    let w := b.blk.ops.getD st 0
    let c := if b.blk.used.getLsbD st then wordCause mt b.blk st w else if w = 0 then 0 else 0x09
    demand (c == 0) (refusal c cfg st t)
  for i in List.range 15 do
    let c := swCause b.blk i
    demand (c == 0) (refusal c cfg i t)
  demand (!b.ztail) (refusal 0x0C cfg 0 (some t))
  for q in b.shapes do
    let w := b.blk.ops.getD q.1 0
    let c := shapeCause q.2 w nlist
    let c := if c = 0 ∧ opOf w = 0x88 ∧ !cbufOk (Shape.of q.2) t then 0x21 else c
    demand (c == 0) (refusal c cfg q.1 t)

/-! ## Records (R153, R443) -/

/-- The record's own two dwords and its blocks break R153 (R443). -/
def recBad (x : ImgHdr) (rb : List Byte) (blocks : Option (List (Nat × RawBlock) × Nat)) : Bool :=
  let d0 := dwAt rb 0
  let d1 := dwAt rb 8
  num d0 14 2 != 0 || num d0 25 7 != 0 || num d0 56 8 != 0 || num d1 57 7 != 0 || num d0 9 1 != num d0 0 5 % 2 ||
    num d0 10 4 == 0 || decide (x.w ≤ num d0 0 5 ∨ x.h ≤ num d0 5 4) || rb.length % 64 != 0 || blocks.isNone ||
    (num d0 9 1 == 1 && num d0 48 8 != 0) || (num d0 48 8 == 0 && d1 != 0)

/-- The message that a record adds to the digest: PCOL, PROW, switch words and CRC dword as zeros (R155). -/
def recDigest (rb : List Byte) (blocks : List (Nat × RawBlock)) : List Byte :=
  let b0 := leBytes 8 (dwAt rb 0 &&& ~~~(field 16 9 0x1FF)).toNat ++ rb.drop 8
  let b1 := blocks.foldl (fun b q => b.take q.2.swOff ++ List.replicate 30 0 ++ b.drop (q.2.swOff + 30)) b0
  b1.take (rb.length - 8) ++ List.replicate 8 0

end Sys2Proof.Machine
end

