-- ==== Sys2Proof/Machine/Routes.lean ====
section
/-! DEFINITION. The whole-graph checks of the loader (R150, R156 to R162, R186, R195, R245, R256, R279, R350, R442): the
paths that switch words and bypass entries realise, their match with the edge table, cycles, fan-in, matching-store
reservations and declared ranges. -/

namespace Sys2Proof.Machine

/-! ## A staged graph -/

/-- A graph as placed: its rectangle, its records that passed their CRC, and the edge table with the ends by logical
place of die 0. -/
structure Graph where
  origin : TileId
  w      : Nat
  h      : Nat
  recs   : List TileRec
  edges  : List Edge
  deriving DecidableEq, Repr

/-- The record of a logical place. -/
def Graph.recOf (g : Graph) (l : TileId) : Option TileRec := g.recs.find? fun r => r.lcol == l.col.toNat && r.lrow == l.row.toNat

/-- The physical tile of a logical place: its record's, else, for a name only, the tile at that place from the origin.
DESIGN CHOICE: log 107. -/
def Graph.phys (g : Graph) (l : TileId) : TileId :=
  match g.recOf l with
  | some r => r.tile
  | none => tileFrom g.origin l.col.toNat l.row.toNat

/-- An entry by physical tile. -/
def Graph.place (g : Graph) (e : Edge) : Edge := { e with src := g.phys e.src, dst := g.phys e.dst }

/-- The edge table by physical tile. -/
def Graph.placed (g : Graph) : List Edge := g.edges.map g.place

/-- The word of a station of a logical place in a configuration, which its tile's record holds (R442). -/
def Graph.wordL (g : Graph) (c : Nat) (l : TileId) (st : Nat) : Option Word32 :=
  ((g.recOf l).bind fun r => (r.blocks.find? (·.1 = c)).map Prod.snd).bind (·.op st)

/-- The block of a tile in a configuration. -/
def Graph.block (g : Graph) (c : Nat) (t : TileId) : Option CfgBlock :=
  (g.recs.find? (·.tile = t)).bind fun r => (r.blocks.find? (·.1 = c)).map Prod.snd

/-- The word of a station in a configuration. -/
def Graph.word (g : Graph) (c : Nat) (t : TileId) (st : Nat) : Option Word32 := (g.block c t).bind (·.op st)

/-- The configurations that the records hold, ascending. -/
def Graph.cfgs (g : Graph) : List Nat := (List.range 4).filter fun c => g.recs.any fun r => r.blocks.any (·.1 = c)

/-- A refusal that names an entry (R162). -/
def Edge.refuse (e : Edge) (code c : Nat) : Word := refusal code c (e.name.2 % 16) (some e.name.1)

/-- The source end of an entry, by logical tile, exists in a configuration; none where it has no station there (R442). -/
def Graph.srcIn (g : Graph) (c : Nat) (e : Edge) : Option Bool :=
  if e.psrc || (e.ext && e.xin) then none else some (((g.wordL c e.src e.sst).map (outOn · e.sout)).getD false)

/-- The destination end of an entry, by logical tile, exists in a configuration; none where it has no station there (R442). -/
def Graph.dstIn (g : Graph) (c : Nat) (e : Edge) : Option Bool :=
  if e.ext && !e.xin then none else some (((g.wordL c e.dst e.dstSt).map (inMarked · e.dport)).getD false)

/-- The entry belongs to a configuration (R442). -/
def Graph.belongs (g : Graph) (c : Nat) (e : Edge) : Bool := g.srcIn c e != some false && g.dstIn c e != some false

/-- One end is present in a configuration and the other absent (R442). -/
def Graph.halfIn (g : Graph) (c : Nat) (e : Edge) : Bool :=
  match g.srcIn c e, g.dstIn c e with
  | some x, some y => x != y
  | _, _ => false

/-! ## Paths (R148, R150, R156) -/

/-- Where a path begins or ends: an output or port of a station, a side of a tile at the rectangle's boundary, or nowhere, beside a
tile. -/
inductive PathEnd where
  | st (t : TileId) (st k : Nat)
  | side (t : TileId) (side : Nat)
  | lost (t : TileId)
  deriving DecidableEq, Repr

/-- A path: its network, its ends, the switch outputs on it, and, for a bypass entry, the edge it names. -/
structure Path where
  net  : Option Nat
  src  : PathEnd
  dst  : PathEnd
  hops : Nat
  byp  : Option (BitVec 12)
  deriving DecidableEq, Repr

/-- The neighbour of a tile on a side, within the rectangle. -/
def Graph.next (g : Graph) (t : TileId) (side : Nat) : Option TileId :=
  let x := t.col.toNat - g.origin.col.toNat
  let y := t.row.toNat - g.origin.row.toNat
  match side with
  | 0 => if y = 0 then none else some { t with row := t.row - 1 }
  | 1 => if g.w ≤ x + 1 then none else some { t with col := t.col + 1 }
  | 2 => if g.h ≤ y + 1 then none else some { t with row := t.row + 1 }
  | _ => if x = 0 then none else some { t with col := t.col - 1 }

/-- What a source stream reaches through the switch words of a network: its ends with the outputs passed, and the words
it passes (R148). -/
def Graph.follow (g : Graph) (c net : Nat) : Nat → TileId → Nat × Nat → Nat → List (PathEnd × Nat) × List (TileId × Nat)
  | 0, t, _, hop => ([(.lost t, hop)], [])
  | fuel + 1, t, key, hop =>
    match g.block c t with
    | none => ([(.lost t, hop)], [])
    | some b =>
      let outs := (List.range 5).filter fun o => swV (b.sw.getD (net * 5 + o) 0) && swKey (b.sw.getD (net * 5 + o) 0) == key
      if outs.isEmpty then ([(.lost t, hop)], [])
      else outs.foldl (fun acc o =>
        let here := (t, net * 5 + o)
        let lidx := ((b.sw.getD (net * 5 + o) 0).extractLsb' 7 6).toNat
        if o = 4 then (acc.1 ++ [(.st t (lidx / 4) (lidx % 4), hop + 1)], acc.2 ++ [here])
        else match g.next t o with
          | none => (acc.1 ++ [(.side t o, hop + 1)], acc.2 ++ [here])
          | some q =>
            let r := g.follow c net fuel q (facing o, 0) (hop + 1)
            (acc.1 ++ r.1, acc.2 ++ here :: r.2)) ([], [])

/-- The streams that begin at a tile on a network: those of its own outputs, and those that come in from outside the
rectangle. -/
def Graph.roots (g : Graph) (b : CfgBlock) (t : TileId) (net : Nat) : List ((Nat × Nat) × PathEnd) :=
  let keys := (((List.range 5).map fun o => b.sw.getD (net * 5 + o) 0).filter swV).map swKey
  (keys.eraseDups).filterMap fun k =>
    if k.1 = 5 then some (k, .st t (k.2 / 4) (k.2 % 4))
    else match g.next t (k.1 - 1) with
      | none => some (k, .side t (k.1 - 1))
      | some _ => none

/-- The tiles of a configuration with their blocks, by place. -/
def Graph.blocks (g : Graph) (c : Nat) : List (TileId × CfgBlock) :=
  g.recs.filterMap fun r => (r.blocks.find? (·.1 = c)).map fun q => (r.tile, q.2)

/-- Every path of a configuration, and the switch words that lie on one (R148, R156): the paths of the switch words, and those of the
bypass entries. -/
def Graph.paths (g : Graph) (c : Nat) : List Path × List (TileId × Nat) :=
  let routed := (g.blocks c).flatMap fun q => (List.range 3).flatMap fun net => (g.roots q.2 q.1 net).map fun k =>
    let r := g.follow c net (4 * g.recs.length + 1) q.1 k.1 0
    (r.1.map fun d => (⟨some net, k.2, d.1, d.2, none⟩ : Path), r.2)
  let bypassed := (g.blocks c).flatMap fun q => q.2.byp.map fun e =>
    let so := (e.extractLsb' 0 6).toNat
    let dp := (e.extractLsb' 6 6).toNat
    (⟨none, .st q.1 (so / 4) (so % 4), .st q.1 (dp / 4) (dp % 4), 0, some (e.extractLsb' 12 12)⟩ : Path)
  (routed.flatMap Prod.fst ++ bypassed, routed.flatMap Prod.snd)

/-- A switch word in use that lies on no path (R156). -/
def Graph.stray (g : Graph) (c : Nat) (used : List (TileId × Nat)) : Bool :=
  (g.blocks c).any fun q => (List.range 15).any fun i => swV (q.2.sw.getD i 0) && !used.contains (q.1, i)

/-- The ends of an entry's path. -/
def Edge.pathSrc (e : Edge) : PathEnd := if e.ext && e.xin then .side e.src e.side.toNat else .st e.src e.sst e.sout
def Edge.pathDst (e : Edge) : PathEnd := if e.ext && !e.xin then .side e.dst e.side.toNat else .st e.dst e.dstSt e.dport

/-- Both stations of an entry stand on one tile, whose bypass carries it (R148). -/
def Edge.within (e : Edge) : Bool := !e.psrc && !e.ext && e.src == e.dst

/-- A path realises an entry (R156): on its network, or, where both its ends lie on one tile, over the bypass (R148). The manual
refuses no switch word for a CLASS or ORD that differs from the entry's, and the entry's are the stream's. DESIGN CHOICE: log 86. -/
def Edge.realised (e : Edge) (p : Path) : Bool :=
  !e.psrc && p.src == e.pathSrc && p.dst == e.pathDst &&
    (if e.within then p.byp == some e.id else p.net == some e.net.toNat)

/-- The refusal ROUTE of a path that realises no entry, which names its source station, or where it has none, as where a switch
word lies on no path, the first entry of the configuration (R162). DESIGN CHOICE: log 45. -/
def Graph.badRoute (g : Graph) (c : Nat) (es : List Edge) : PathEnd → Word
  | .st t st _ => refusal 0x34 c st (some t)
  | _ => match es with
    | e :: _ => e.refuse 0x34 c
    | [] => refusal 0x34 c 0 (g.recs.head?.map (·.tile))

/-- The entries of a configuration with the switch outputs of their paths, when the paths realise exactly them; a launch
parameter's entry has no path (R156). DESIGN CHOICE: log 45. -/
def Graph.realise (g : Graph) (c : Nat) (es : List Edge) : Except Word (List (Edge × Nat)) := do
  let (ps, used) := g.paths c
  let mut left := es.filter (!·.psrc)
  let mut got : List (Edge × Nat) := (es.filter (·.psrc)).map fun e => (e, 0)
  for p in ps do
    match left.find? (·.realised p) with
    | some e =>
      left := left.erase e
      got := got ++ [(e, p.hops)]
    | none => throw (g.badRoute c es p.src)
  demand (!g.stray c used) (g.badRoute c es (.lost g.origin))
  match left with
  | [] => return es.filterMap fun e => (got.find? (·.1 = e))
  | e :: _ => throw (e.refuse 0x34 c)

/-! ## Graph algorithms -/

/-- A vertex of a configuration's graph (R159). -/
abbrev Vertex := TileId × Nat

/-- The vertices reached from a list along edges, without entering `skip`. -/
def reach (es : List (Vertex × Vertex)) (skip : List Vertex) : Nat → List Vertex → List Vertex
  | 0, seen => seen
  | n + 1, seen =>
    let new := ((es.filter fun e => seen.contains e.1).map Prod.snd).filter fun v => !seen.contains v && !skip.contains v
    if new.isEmpty then seen else reach es skip n (seen ++ new.eraseDups)

/-- A vertex lies on a directed cycle that avoids `skip`. -/
def onCycle (es : List (Vertex × Vertex)) (skip : List Vertex) (v : Vertex) : Bool :=
  (reach es skip (es.length + 1) (((es.filter (·.1 = v)).map Prod.snd).filter (!skip.contains ·))).contains v

/-- The least distances from a vertex, after `n` rounds over the edges. -/
def distances (es : List (Vertex × Vertex × Nat)) (l : Vertex) : Nat → List (Vertex × Nat) → List (Vertex × Nat)
  | 0, d => d
  | n + 1, d => distances es l n (es.foldl (fun d e =>
      match d.find? (·.1 = e.1) with
      | none => d
      | some (_, x) =>
        if e.2.1 = l then d
        else match d.find? (·.1 = e.2.1) with
          | some (_, y) => if x + e.2.2 < y then assign d e.2.1 (x + e.2.2) else d
          | none => assign d e.2.1 (x + e.2.2)) d)

/-- The least B(C) over the directed cycles through a vertex (R158); none when it lies on none. -/
def leastCycle (es : List (Vertex × Vertex × Nat)) (l : Vertex) : Option Nat :=
  let d := distances es l (es.length + 1) [(l, 0)]
  ((es.filter (·.2.1 = l)).filterMap fun e => (d.find? (·.1 = e.1)).map fun q => q.2 + e.2.2).min?

/-! ## The checks of one configuration -/

/-- The limit of a station that counts as a lim station (R14, R159, R256). -/
def limOf (b : CfgBlock) (w : Word32) : Option Nat :=
  let q := b.qinit.getD ((w.extractLsb' 14 5).toNat % 16) 0
  match opOf w with
  | 0x0F => some (w.extractLsb' 0 8).toNat
  | 0xB2 => some 1
  | 0xB3 => some (q.extractLsb' 24 8).toNat
  | 0xB4 => some (q.extractLsb' 0 24).toNat
  | _ => none

/-- An entry has a station at its source, and at its destination. -/
def Edge.hasSrc (e : Edge) : Bool := !e.psrc && !(e.ext && e.xin)
def Edge.hasDst (e : Edge) : Bool := !(e.ext && !e.xin)

/-- The used stations of a configuration with their words, by tile and slot. -/
def Graph.stations (g : Graph) (c : Nat) : List (Vertex × CfgBlock × Word32) :=
  (g.blocks c).flatMap fun q => (List.range 16).filterMap fun st => (q.2.op st).map fun w => ((q.1, st), q.2, w)

/-- The stage of a station (R154). -/
def Graph.stageOf (g : Graph) (c : Nat) (t : TileId) (st : Nat) : Nat := ((g.block c t).map (·.stage.getD st 0)).getD 0

/-- The refusals that concern one entry of a configuration: ORDER (R157, R245), STAGE (R161), BLKSD (R186, R231, R249) and
PORTS (R195, R221, R275, R316). DESIGN CHOICE: log 112. -/
def Graph.entryCheck (g : Graph) (c : Nat) (es : List Edge) (e : Edge) : Except Word Unit := do
  let cross := e.hasSrc && e.hasDst && g.stageOf c e.src e.sst != g.stageOf c e.dst e.dstSt
  if e.ord && e.hasDst && e.dst.isMT then
    let share : List Nat := (es.filter fun x => x.ord && x.hasDst && x.dst == e.dst && x.cls == e.cls).map (·.robsh)
    demand (decide (share.sum ≤ 64)) (e.refuse 0x35 c)
  if e.ord && e.hasDst && !e.dst.isMT then demand (!e.ext && !cross) (e.refuse 0x35 c)
  if cross then demand (e.ord && e.src.isMT) (e.refuse 0x36 c)
  if e.hasSrc then
    match g.word c e.src e.sst with
    | none => pure ()
    | some w =>
      let op := opOf w
      demand (!(e.net == 1 && (w.extractLsb' 22 2).toNat == 3 && e.blk % 16 != 0)) (e.refuse 0x0A c)
      if op = 0x51 ∨ (op = 0x54 ∧ e.sout = 0) then
        let same := es.filter fun x => x.hasSrc && x.src == e.src && x.sst == e.sst && (op != 0x54 || x.sout == 0)
        demand (same.all (·.blk == e.blk)) (e.refuse 0x0A c)
      match outNet w e.sout with
      | none => pure ()
      | some n => demand (e.net.toNat == n) (e.refuse 0x04 c)
      if op = 0x51 then
        demand ((es.filter fun x => x.hasDst && x.dst == e.src && x.dstSt == e.sst && x.dport == 0).all (·.net == e.net))
          (e.refuse 0x04 c)
  if e.hasDst then
    match g.word c e.dst e.dstSt with
    | none => pure ()
    | some w =>
      match portNet w e.dport with
      | none => demand (e.net != 2 || anyNet w) (refusal 0x04 c e.dstSt (some e.dst))
      | some n => demand (e.net.toNat == n) (refusal 0x04 c e.dstSt (some e.dst))
      demand (!(opOf w == 0x62 && e.dport == 0 && !e.ord)) (refusal 0x35 c e.dstSt (some e.dst))
  pure ()

/-- The checks of cycles (R159): without the lim stations no cycle is left, and each lim station has a buffer more than
its limit on every cycle through it; a strmc with N above 255 lies on none (R256). -/
def Graph.cycleCheck (c : Nat) (sts : List (Vertex × CfgBlock × Word32)) (es : List (Edge × Nat)) : Except Word Unit := do
  let inner := es.filter fun e => !e.1.psrc && !e.1.ext
  let arcs : List (Vertex × Vertex) := inner.map fun e => ((e.1.src, e.1.sst), (e.1.dst, e.1.dstSt))
  let lims := sts.filterMap fun q => (limOf q.2.1 q.2.2).map fun k => (q.1, k)
  for q in sts do
    demand (!onCycle arcs (lims.map Prod.fst) q.1) (refusal 0x30 c q.1.2 (some q.1.1))
  let weighted := inner.map fun e => ((e.1.src, e.1.sst), (e.1.dst, e.1.dstSt), e.1.depth + e.2)
  for q in lims do
    match leastCycle weighted q.1 with
    | none => pure ()
    | some b => demand (decide (q.2 + 1 ≤ b ∧ q.2 ≤ 255)) (refusal 0x31 c q.1.2 (some q.1.1))

/-- The stations that feed a token port, none standing for a launch parameter or an ingress. -/
def feeders (es : List Edge) (v : Vertex) (p : Nat) : List (Option Vertex) :=
  (es.filter fun e => e.hasDst && (e.dst, e.dstSt) == v && e.dport == p).map fun e =>
    if e.hasSrc then some (e.src, e.sst) else none

/-- The source at which every path into a port starts, found within `n` stations back; none when some path breaks the
conditions of R160. -/
def sourceFed (sts : List (Vertex × CfgBlock × Word32)) (arcs : List (Vertex × Vertex)) (es : List Edge) :
    Nat → Vertex → Nat → Option Vertex
  | 0, _, _ => none
  | n + 1, v, p =>
    let found := (feeders es v p).map fun f =>
      f.bind fun u => (sts.find? (·.1 = u)).bind fun q =>
        if 0x80 ≤ opOf q.2.2 ∧ opOf q.2.2 ≤ 0x89 ∧ tokenPorts q.2.2 = [] then some u
        else match tokenPorts q.2.2 with
          | [p'] => if onCycle arcs [] u then none else sourceFed sts arcs es n u p'
          | _ => none
    match found with
    | some u :: rest => if rest.all (· == some u) then some u else none
    | _ => none

/-- The fan-in rule (R160) and the matching store (R31) of a configuration. DESIGN CHOICE: log 105. -/
def Graph.fanCheck (g : Graph) (c : Nat) (sts : List (Vertex × CfgBlock × Word32)) (es : List Edge) : Except Word Unit := do
  let arcs : List (Vertex × Vertex) := (es.filter fun e => e.hasSrc && e.hasDst).map fun e => ((e.src, e.sst), (e.dst, e.dstSt))
  let isSource (w : Word32) : Bool := decide (0x80 ≤ opOf w ∧ opOf w ≤ 0x89) && (tokenPorts w).isEmpty
  let roots := ((es.filter fun e => e.hasDst && !e.hasSrc).map fun e => (e.dst, e.dstSt)) ++
    (sts.filter fun q => isSource q.2.2).map Prod.fst
  let lims := sts.filterMap fun q => if opOf q.2.2 = 0x0F then (limOf q.2.1 q.2.2).map fun k => (q.1, k) else none
  for q in sts do
    if pairs q.2.2 then
      let tagb := q.2.1.tagb.getD q.1.2 0
      let dominated := (tokenPorts q.2.2).all fun p =>
        lims.any fun l =>
          let free := reach arcs [l.1] (arcs.length + 1) (roots.filter (· ≠ l.1))
          decide (l.2 ≤ tagb) && (feeders es q.1 p).all fun f =>
            match f with
            | none => false
            | some u => u == l.1 || !free.contains u
      let fed := !onCycle arcs [] q.1 &&
        (tokenPorts q.2.2).all fun p => (sourceFed sts arcs es (sts.length + 1) q.1 p).isSome
      demand (decide (1 ≤ tagb) && (dominated || fed)) (refusal 0x32 c q.1.2 (some q.1.1))
  for b in g.blocks c do
    let here := sts.filter (·.1.1 = b.1)
    let need : List Nat := (here.filter fun q => pairs q.2.2).map fun q => b.2.room q.2.2 q.1.2
    let cap := if b.1.isMT then 256 else 512
    demand (decide (need.sum ≤ cap))
      (refusal 0x33 c (((here.find? fun q => pairs q.2.2).map (·.1.2)).getD 0) (some b.1))

/-- All checks of one configuration's graph. -/
def Graph.check (g : Graph) (c : Nat) : Except Word Unit := do
  let es := (g.edges.filter (g.belongs c)).map g.place
  let got ← g.realise c es
  for e in es do g.entryCheck c es e
  let sts := g.stations c
  Graph.cycleCheck c sts got
  g.fanCheck c sts es

/-- Two entries have one source (R152): a launch parameter, the side of a boundary tile, or a station's output. -/
def Edge.sameSource (x e : Edge) : Bool :=
  x.psrc == e.psrc && (x.ext && x.xin) == (e.ext && e.xin) &&
    (if e.psrc then x.sout == e.sout
     else if e.ext && e.xin then x.src == e.src && x.side == e.side
     else x.src == e.src && x.sst == e.sst && x.sout == e.sout)

/-- The whole-graph checks (R152, R156 to R162, R442), in this order: the edge table, then each configuration. -/
def Graph.checkAll (g : Graph) : Except Word Unit := do
  let es := g.edges
  for e in es do demand (es.all fun x => x.id != e.id || x.sameSource e) ((g.place e).refuse 0x37 0)
  for c in g.cfgs do
    for e in es do demand (!g.halfIn c e) ((g.place e).refuse 0x34 c)
    g.check c
  for e in es do demand (g.cfgs.any fun c => g.belongs c e) ((g.place e).refuse 0x34 0)

/-! ## Declared ranges (R350) -/

/-- The bytes that a station declares, as places and lengths, and whether it writes; none where it has no range. -/
def declared (t : TileId) (st : Nat) (b : CfgBlock) (w : Word32) : Option (List (Nat × Nat) × Bool) :=
  let q := b.qinit.getD ((w.extractLsb' 14 5).toNat % 16) 0
  let bins := (List.range (descOf q).2.1).map fun i => (spadBase + 256 * ((descOf q).1 + i), 256)
  match opOf w with
  | 0x85 => some ([(spadBase + tileOff t + 8 * (q.extractLsb' 0 15).toNat, 8 * ((q.extractLsb' 16 15).toNat + 1))], true)
  | 0x86 => some (bins, false)
  | 0x87 => some (bins, true)
  | op =>
    match b.shapes.find? (·.1 = st) with
    | none => none
    | some (_, sh) =>
      if ¬(op = 0x80 ∨ op = 0x81 ∨ op = 0x82) ∨ sh.ovf ≠ 0 ∨ sh.stv then none
      else
        let n := (groupShape sh.fmt.toNat).1
        some ((List.range sh.groups).map fun k => ((sh.base + sh.offset (indexes sh.exts k) sh.ndim).toNat, n), op = 0x81)

/-- The accesses of a declared range that meet another range. -/
def meeting (x y : List (Nat × Nat)) : List Nat :=
  (x.filter fun a => y.any fun b => decide (a.1 < b.1 + b.2 ∧ b.1 < a.1 + a.2)).map Prod.fst

/-- A pair of stations that fails the check of R350, that of lower slot first: whether the first writes, and its accesses
that meet the other's. -/
structure RangePair where
  a     : Vertex
  b     : Vertex
  write : Bool
  addrs : List Nat
  deriving DecidableEq, Repr

/-- The pairs of a configuration that fail the check of R350. -/
def Graph.overlaps (g : Graph) (c : Nat) : List RangePair :=
  let arcs : List (Vertex × Vertex) := ((g.edges.filter fun e => g.belongs c e && e.hasSrc && e.hasDst).map g.place).map fun e =>
    ((e.src, e.sst), (e.dst, e.dstSt))
  let sts := (g.stations c).filterMap fun q => (declared q.1.1 q.1.2 q.2.1 q.2.2).map fun d => (q.1, d)
  let path (u v : Vertex) : Bool := (reach arcs [] (arcs.length + 1) [u]).contains v
  (List.range sts.length).flatMap fun i => (List.range i).filterMap fun j =>
    match sts[j]?, sts[i]? with
    | some x, some y =>
      let (x, y) := if y.1.2 < x.1.2 then (y, x) else (x, y)
      if (x.2.2 || y.2.2) && !path x.1 y.1 && !path y.1 x.1 then
        let m := meeting x.2.1 y.2.1
        if m.isEmpty then none else some ⟨x.1, y.1, x.2.2, m⟩
      else none
    | _, _ => none

/-- The agent word of a station (R352). -/
def stationWord (module : BitVec 10) (v : Vertex) : Word :=
  field 0 2 1 ||| field 2 2 v.1.die.toNat ||| field 4 5 v.1.col.toNat ||| field 9 4 v.1.row.toNat ||| field 13 3 v.2 |||
    field 16 10 module.toNat

/-- A loader record of a pair (R352). Which of the accesses that meet it names is left open (log 34). -/
def RangePair.record (module : BitVec 10) (draw : Nat) (p : RangePair) : List Word :=
  [field 0 57 (p.addrs.getD (Config.loaderPick draw % p.addrs.length) 0) ||| bit 57 p.write ||| bit 58 true, stationWord module p.a, stationWord module p.b, 0]

end Sys2Proof.Machine
end

