-- ==== Sys2Proof/Machine/Loader.lean ====
section
/-! DEFINITION. Handles and their statuses (R113 to R115), cfgld, cfgchk and cfgcommit (R117 to R121, R398 to R402), the
security processor's verdict (R399) and the application of a commit (R165). -/

namespace Sys2Proof.Machine

/-! ## Handles (R113, R114) -/

def hBADHANDLE : Int := -1
def hSTALE : Int := -2
def hNOTMINE : Int := -3
def hENDED : Int := -4
def hBUSY : Int := -5
def hDESC : Int := -6
def hNOSTAGE : Int := -7

/-- A status as the register holds it (R114). -/
def hStatus (n : Int) : Word := BitVec.ofInt 64 n

/-- The fields that R113 fixes for the handle's level hold what it fixes. -/
def hClean (h : Word) : Bool :=
  h.extractLsb' 40 7 == 0 && !h.getLsbD 63 &&
  match hLevel h with
  | 1 => true
  | 2 => hSeq h == 0
  | 3 => h.extractLsb' 47 9 == 0 && hSeq h == 0
  | 4 => h.extractLsb' 0 56 == 0
  | _ => false

/-- The handle of a launch of a region (R113). -/
def Region.launchHandle (r : Region) (seq : BitVec 8) (serial : BitVec 32) : Word :=
  (0 : BitVec 1) ++ (1 : BitVec 3) ++ r.part ++ BitVec.ofNat 6 r.core.val ++ r.bslot ++ (0 : BitVec 7) ++ seq ++ serial

/-- The handle of a phase (R113). -/
def phaseHandle (p : BitVec 4) (serial : BitVec 32) : Word :=
  (0 : BitVec 1) ++ (3 : BitVec 3) ++ p ++ (0 : BitVec 24) ++ serial

/-- The region that a graph handle names on any core of a partition: its serial is current, or that of a staging. -/
def State.graphFor (s : State) (p : BitVec 4) (h : Word) : Except Int Region :=
  if hLevel h ≠ 2 ∨ !hClean h ∨ hPart h ≠ p then .error hBADHANDLE
  else match s.region (hCore h) (hBslot h) with
    | none => .error hSTALE
    | some r =>
      if r.serial = hSerial h ∨ (r.staging.map (·.serial)) = some (hSerial h) then .ok r else .error hSTALE

/-- The same on the acting core's partition. -/
def State.graphAny (s : State) (h : Word) : Except Int Region := s.graphFor s.pid h

/-- The region that a graph handle names on the issuing core (R114, R137). DEDUCED: log 39. -/
def State.graphMine (s : State) (h : Word) : Except Int Region :=
  if hLevel h ≠ 2 ∨ !hClean h ∨ hPart h ≠ s.pid then .error hBADHANDLE
  else if hCore h ≠ s.cur then .error hNOTMINE
  else s.graphAny h

/-- What stands in the staging that a handle names, when it is not yet committed (R401). -/
def Region.stagingOf (r : Region) (h : Word) : Option Staging :=
  if r.commitWait then none else r.staging.filter (·.serial = hSerial h)

/-! ## Stagings (R401) -/

/-- A staging is given up: its records, tiles and request go, and a fresh region frees its binding slot (R401). -/
def State.dropStaging (s : State) (r : Region) : State :=
  let s1 := s.setPart r.part { s.part r.part with
    chkq := (s.part r.part).chkq.filter fun q => !(q.1 == r.core && q.2 == r.bslot) }
  if r.resident then s1.setRegion { r with staging := none }
  else
    let c := s1.cores[r.core]
    { s1.setCoreAt r.core { c with recs := c.recs.filter (·.bslot ≠ r.bslot) } with
      regions := s1.regions.filter fun x => !(x.core == r.core && x.bslot == r.bslot) }

/-- cancel.graph gives up a staging: its handle is STALE from then on, so the slot's next staging takes a later generation (R401). -/
def State.cancelStaging (s : State) (r : Region) : State :=
  let s1 := s.dropStaging r
  let c := s1.cores[r.core]
  let serial := (r.staging.map (·.serial)).getD r.serial
  s1.setCoreAt r.core { c with gens := c.gens.set r.bslot.toNat (serial + 1) r.bslot.isLt }

/-- A region's staging reserves a tile. -/
def Region.reserves (r : Region) (t : TileId) : Bool := (r.staging.map fun g => g.recs.any (·.tile = t) || g.crcBad.contains t).getD false

/-- A tile is kept from a cfgld of binding slot `mine` of the acting core: by a region's records, or by what a staging
reserves. A swapped-out partition's resident tiles are free to a time-sharing partner; its staged ones are not (R402). -/
def State.keeps (s : State) (mine : Option (BitVec 3)) (t : TileId) : Bool :=
  (s.regions.any fun r => ((r.resident && r.tiles.contains t) || r.reserves t) &&
    !(r.core == s.cur && some r.bslot == mine)) || s.savedRegions.any (·.reserves t)

/-! ## Reading the image (R117, R164) -/

/-- Bytes of the image, through the issuing core's translation. -/
def State.imgBytes (s : State) (va n : Nat) : Except Word (List Byte) :=
  match s.readCore va n with
  | .ok b => .ok b
  | .error _ => .error (refuse 0x2D)

/-- What the loader has gathered of the records: the place of the next, the accepted records, the physical tiles taken,
the first record that failed its CRC, and the digest's message. -/
structure LoadSt where
  pos  : Nat
  recs : List TileRec
  used : List TileId
  bad  : List TileId
  msg  : List Byte
  deriving DecidableEq, Repr

/-- The row groups that a matrix station's AUX names (R235, R238). -/
def rowGroupsOf (w : Word32) : List (Nat × Nat) :=
  let aux := (w.extractLsb' 0 8).toNat
  match opOf w with
  | 0x60 => [(aux % 4, aux / 4 % 8)]
  | 0x65 => [(aux % 4, aux / 4 % 8)]
  | 0x61 => (List.range ((w.extractLsb' 16 2).toNat + 1)).flatMap fun m =>
      (List.range (aux / 8 % 8 + 1)).map fun i => (m, aux % 8 + i)
  | _ => []

/-- A row group is granted to the partition (R235). DEDUCED: log 43. -/
def State.rgGranted (s : State) (t : TileId) (m g : Nat) : Bool := (s.part s.pid).grants.rowGroups.contains (t, m, g)

/-- The row groups that a record loads, and their place in the weight image (R153). -/
def weightBlocks (mask : Nat) (wsrc : Nat) : List (Nat × Nat × Nat) :=
  (List.range 4).flatMap fun m => ((List.range 8).filter fun g => mask / 2 ^ g % 2 = 1).map fun g =>
    (m, g, wsrc + (m * 8 + g) * 16512)

/-- One record: its place, its CRC, and what R443, PLACE (R156) and R73 refuse of it, in that order. -/
def State.loadRecord (s : State) (x : ImgHdr) (o : TileId) (va : Nat) (l : LoadSt) :
    Except Word LoadSt := do
  demand (l.pos % 64 == 0) (refuse 0x27)
  let head ← s.imgBytes (va + l.pos) 16
  let d0 := dwAt head 0
  let len := num d0 32 16
  let tile := tileFrom o (num d0 16 5 % x.w) (num d0 21 4 % x.h)
  demand (decide (24 ≤ len)) (refusal 0x0C 0 0 (some tile))
  let rb ← s.imgBytes (va + l.pos) len
  let mt := num d0 9 1 == 1
  let blocks := rawBlocks rb l.pos mt (cfgsOf (num d0 10 4)) 16
  let msg := l.msg ++ recDigest rb ((blocks.map Prod.fst).getD [])
  if wAt rb (len - 8) ≠ crc32c (rb.take (len - 8)) then
    return { l with pos := l.pos + len, bad := l.bad ++ [tile], msg }
  demand (!recBad x rb blocks) (refusal 0x0C 0 0 (some tile))
  demand (decide (num d0 16 5 < x.w ∧ num d0 21 4 < x.h) && num d0 16 1 == num d0 9 1 && !l.used.contains tile)
    (refusal 0x28 0 0 (some tile))
  let bs := (blocks.map Prod.fst).getD []
  for b in bs do
    blockCause (s.part s.pid).nlist.toNat b.1 tile b.2
  demand (!dirty rb ((blocks.map Prod.snd).getD 0) (len - 8) && num (dwAt rb (len - 8)) 32 32 == 0) (refusal 0x0C 0 0 (some tile))
  let rec_ : TileRec := { tile, lcol := num d0 0 5, lrow := num d0 5 4, rgmask := d0.extractLsb' 48 8,
                          wsrc := (dwAt rb 8).extractLsb' 0 57, blocks := bs.map fun b => (b.1, b.2.blk) }
  return { l with pos := l.pos + len, recs := l.recs ++ [rec_], used := l.used ++ [tile], msg }

/-- What refuses an accepted record's tile (R118, R156, R235): fused off, not granted, in use, or a row group that is not
granted or whose weights lie outside the partition's vault windows. -/
def State.tileCause (s : State) (mine : Option (BitVec 3)) (r : TileRec) : Except Word Unit := do
  demand (!s.fused.contains r.tile) (refusal 0x29 0 0 (some r.tile))
  demand ((s.part s.pid).grants.tiles.contains r.tile) (refusal 0x2A 0 0 (some r.tile))
  demand (!s.keeps mine r.tile) (refusal 0x2B 0 0 (some r.tile))
  demand (r.rgmask == 0 || (match s.resolve s.pid [.vault] r.wsrc.toNat 1 .read with
    | .ok _ => true
    | .error _ => false)) (refusal 0x2A 0 0 (some r.tile))
  demand ((weightBlocks r.rgmask.toNat r.wsrc.toNat).all fun q => s.rgGranted r.tile q.1 q.2.1 &&
      (match s.resolve s.pid [.vault] q.2.2 16512 .read with
       | .ok _ => true
       | .error _ => false)) (refusal 0x2A 0 0 (some r.tile))
  for b in r.blocks do
    for st in List.range 16 do
      demand (((b.2.op st).map fun w => (rowGroupsOf w).all fun q => s.rgGranted r.tile q.1 q.2).getD true)
        (refusal 0x2A b.1 st (some r.tile))

/-- A switch word of an accepted record routes a stream into a fused-off tile (R156). -/
def State.swFused (s : State) (r : TileRec) : Except Word Unit := do
  for b in r.blocks do
    for i in List.range 15 do
      demand (!(swV (b.2.sw.getD i 0) && (swNext r.tile i).any (s.fused.contains ·))) (refusal 0x29 b.1 i (some r.tile))

/-- The records follow one another within the image, ascending in (LCOL, LROW), and none overlaps the edge table (R151). -/
def State.walkRecords (s : State) (x : ImgHdr) (va : Nat) : Nat → Nat → Option Nat → Except Word Unit
  | 0, _, _ => .ok ()
  | n + 1, pos, last => do
    demand (decide (pos + 16 ≤ x.len)) (refuse 0x27)
    let d0 := dwAt (← s.imgBytes (va + pos) 8) 0
    let len := num d0 32 16
    let place := num d0 0 5 * 16 + num d0 5 4
    demand (decide (pos + len ≤ x.len ∧ (x.eoff + 16 * x.nedge ≤ pos ∨ pos + len ≤ x.eoff ∨ x.nedge = 0))) (refuse 0x27)
    demand (last.all fun k => decide (k < place)) (refuse 0x27)
    s.walkRecords x va n (pos + len) (some place)

/-- The header and signature block of the image at an address, and its origin (R117, R118, R151). DEDUCED: log 44. -/
def State.loadHeader (s : State) (a o : Word) : Except Word (ImgHdr × TileId × List Byte × List Byte) := do
  demand (a.extractLsb' 0 6 == 0) (refuse 0x27)
  let h ← s.imgBytes a.toNat 64
  match ImgHdr.of h with
  | none => throw (refuse 0x27)
  | some x =>
    let sg ← s.imgBytes (a.toNat + 64) 128
    demand (!dirty sg 114 128) (refuse 0x27)
    let org : TileId := ⟨o.extractLsb' 9 2, o.extractLsb' 4 5, o.extractLsb' 0 4⟩
    s.walkRecords x a.toNat x.nrec x.roff none
    return (x, org, h, sg.take 114)

/-- The origin register names an even column of the issuing core's die, and the region stays on it (R117, R118). -/
def State.originOk (s : State) (x : ImgHdr) (org : TileId) (o : Word) : Bool :=
  o.extractLsb' 11 53 == 0 && o.extractLsb' 9 2 == dieOf s.cur && !o.getLsbD 4 && x.onDie org

/-- The edge table (R152, R443): its entries, and its bytes. DESIGN CHOICE: log 108. -/
def State.loadEdges (s : State) (x : ImgHdr) (o : TileId) (va : Nat) : Except Word (List Edge × List Byte) := do
  let b ← if x.nedge = 0 then pure [] else s.imgBytes (va + x.eoff) (16 * x.nedge)
  let es := (List.range x.nedge).map fun i => edgeOf (dwAt b (16 * i)) (dwAt b (16 * i + 8))
  for i in List.range x.nedge do
    let d0 := dwAt b (16 * i)
    let d1 := dwAt b (16 * i + 8)
    let e := edgeOf d0 d1
    demand (!e.malformed x d0 d1) (refuse 0x0B)
    demand (!e.robBad) (({ e with src := tileFrom o e.src.col.toNat e.src.row.toNat,
                                  dst := tileFrom o e.dst.col.toNat e.dst.row.toNat } : Edge).refuse 0x35 0)
  return (es, b)

/-- The rest of the image: what is staged, and the pairs of stations whose declared ranges overlap, by configuration. -/
def State.loadBody (s : State) (a : Word) (x : ImgHdr) (o : TileId) (hdr sig : List Byte) (es : List Edge)
    (eb : List Byte) (mine : Option (BitVec 3)) (gmode : BitVec 2) (serial : BitVec 32) :
    Except Word (Staging × List RangePair) := do
  let mut l : LoadSt := ⟨x.roff, [], [], [], hdr ++ eb⟩
  for _ in List.range x.nrec do
    l ← s.loadRecord x o a.toNat l
  for r in l.recs do
    s.tileCause mine r
  for r in l.recs do
    s.swFused r
  let g : Graph := ⟨o, x.w, x.h, l.recs, es⟩
  let mut found : List RangePair := []
  if l.bad.isEmpty then
    g.checkAll
    if gmode = 1 ∨ gmode = 2 then
      for c in g.cfgs do
        let ps := g.overlaps c
        match ps with
        | [] => pure ()
        | p :: _ => demand (gmode != 1) (refusal 0x15 c p.a.2 (some p.a.1))
        found := found ++ ps
  return ({ serial, recs := l.recs, edges := g.placed, digest := shake256 l.msg 64, sig, crcBad := l.bad, asked := false,
            sigOk := none, passed := false }, found)

/-- A region as cfgld binds it (R117). DEDUCED: log 40. -/
def Region.fresh (core : Fin 64) (bslot : BitVec 3) (part : BitVec 4) (origin : TileId) (w h : Nat) (serial : BitVec 32) :
    Region :=
  { core, bslot, part, origin, w, h, serial, resident := false, tiles := [], edges := [], lpos := [], sel := 0, targets := [],
    frozen := false, queue := [], pending := Vector.replicate 4 0, nextSeq := 0, lastSeq := 0xFF, accepted := 0, live := [], history := [],
    gone := [], gcc := Counter.zero, epochOpen := false, closing := false, cancelling := false, phase := none, phaseCount := 0, phaseDone := 0, stages := [],
    slave := false, starve := [0, 0, 0], decision := none, commitWait := false, fenced := false, staging := none,
    ingress := [], ends := [], hung := false, quiet := 0, ckGen := 0, ckpting := false, draining := false, serving := [], move := none,
    occ := [], occTime := 0, moved := [], ordNext := [], chans := [], waiting := [] }

/-- The loader's log records of a staging (R350, R352). -/
def State.logPairs (s : State) (ps : List RangePair) : State :=
  ps.foldl (fun s p => ({ s with fresh := s.fresh + 1 }.raceLog s.cur (p.record s.module s.fresh))) s

/-- A fresh region's staging by cfgld: in binding slot `b`, with commit generation `gen` (R117). DESIGN CHOICE: log 35. -/
def State.stageFresh (s : State) (a : Word) (x : ImgHdr) (org : TileId) (hdr sig : List Byte) (es : List Edge) (eb : List Byte)
    (b : BitVec 3) (gen : BitVec 32) : Word × State :=
  match s.loadBody a x org hdr sig es eb none (s.core.gmodeOf b) gen with
  | .error w => (w, s)
  | .ok (g, ps) =>
    let r := { Region.fresh s.cur b s.pid org x.w x.h gen with staging := some g }
    (r.handle, { s with regions := s.regions ++ [r] }.logPairs ps)

/-- The generation of a reconfiguration: one more than the region's, but none that a staging given up with cancel.graph had (R117,
R401). DEDUCED: log 40. -/
def State.nextSerial (s : State) (r : Region) : BitVec 32 :=
  let g := s.core.gens[r.bslot.toNat]'r.bslot.isLt
  if (r.serial + 1).toNat < g.toNat then g else r.serial + 1

/-- cfgld on the region of the acting core that has its origin and size, if there is one (R117, R401): an earlier staging
is discarded, and a region that holds nothing else is staged afresh in its own slot, with its generation unchanged, since
no commit has taken place. DEDUCED: log 41. -/
def State.stageOn (s : State) (a : Word) (x : ImgHdr) (org : TileId) (hdr sig : List Byte) (es : List Edge) (eb : List Byte)
    (same : Option Region) : Word × State :=
  match same with
  | some r =>
    let s1 := if r.staging.isSome then s.dropStaging r else s
    if r.resident then
      let serial := s1.nextSerial r
      match s1.loadBody a x org hdr sig es eb (some r.bslot) (s1.core.gmodeOf r.bslot) serial with
      | .error w => (w, s1)
      | .ok (g, ps) => ({ r with serial }.handle, (s1.setRegion { r with staging := some g }).logPairs ps)
    else s1.stageFresh a x org hdr sig es eb r.bslot r.serial
  | none =>
    let free := (List.range 8).filter fun b => (s.region s.cur (BitVec.ofNat 3 b)).isNone
    if free.isEmpty then (refuse 0x2C, s)
    else
      let b := BitVec.ofNat 3 (free.getD (Config.slotPick s.fresh % free.length) 0)
      { s with fresh := s.fresh + 1 }.stageFresh a x org hdr sig es eb b (s.core.gens[b.toNat]'b.isLt)

/-- cfgld of an image at an address on an origin (R117): the word for d, and the state after; none while it waits for a
commit of the same region to be applied. An image refused for its header, edge table or origin leaves an earlier staging of the
region as it is; one refused later has discarded it. DESIGN CHOICE: log 84. -/
def State.stage (s : State) (a o : Word) : Option (Word × State) :=
  match s.loadHeader a o with
  | .error w => some (w, s)
  | .ok (x, org, hdr, sig) =>
    match s.loadEdges x org a.toNat with
    | .error w => some (w, s)
    | .ok (es, eb) =>
      if !s.originOk x org o then some (refuse 0x28, s)
      else
        let same := s.regions.find? fun r => r.core == s.cur && r.origin == org && r.w == x.w && r.h == x.h
        if same.any (·.commitWait) then none else some (s.stageOn a x org hdr sig es eb same)

/-- CFGLD (R117 to R119). -/
def execCfgld (d a b : Reg) (s : State) : Out :=
  .next (s.unsafeIssue fun s => s.withRegs [a, b] fun ws s1 =>
    match s1.stage (ws.getD 0 0) (ws.getD 1 0) with
    | none => s
    | some (w, s2) => s.finish s2 d w)

/-! ## cfgchk (R120, R399) -/

/-- CFGCHK: its handle's status; else the verdict, once the security processor has given it. -/
def execCfgchk (d a : Reg) (s : State) : Out :=
  .next (s.unsafeIssue fun s => s.withRegs [a] fun ws s1 =>
    let h := ws.getD 0 0
    match s1.graphMine h with
    | .error e => s.finish s1 d (hStatus e)
    | .ok r =>
      match r.stagingOf h with
      | none => s.finish s1 d (hStatus hNOSTAGE)
      | some g =>
        match g.sigOk with
        | some ok =>
          if !ok then s.finish s1 d (refuse 0x2E)
          else match g.crcBad.head? with
            | some t => s.finish s1 d (refusal 0x2F 0 0 (some t))
            | none => s.finish (s1.setRegion { r with staging := some { g with passed := true } }) d 0
        | none =>
          let x := s.part r.part
          if !g.asked ∧ x.chkq.length < 4 then
            (s.setPart r.part { x with chkq := x.chkq ++ [(r.core, r.bslot)] }).setRegion
              { r with staging := some { g with asked := true } }
          else s)

/-- The partition whose oldest request the security processor takes: the next in turn behind the one it served last (R399). -/
def State.nextVerified (s : State) : BitVec 4 :=
  (((List.range 16).map fun i => s.verified + 1 + BitVec.ofNat 4 i).find? fun p => !(s.part p).chkq.isEmpty).getD s.verified

/-- SECURITY_PROCESSOR_VERIFY: the oldest request of the next partition in turn is verified against the partition's configuration
key (R120, R399); a signature that is all zero fails. -/
def execSecurityProcessorVerify (s0 : State) : Out :=
  let p := s0.nextVerified
  let s := { s0 with verified := p }
  let x := s.part p
  match x.chkq with
  | [] => .next s0
  | (c, b) :: rest =>
    let verdict (r : Region) : Region := { r with staging := r.staging.map fun (g : Staging) =>
      { g with sigOk := some (g.sig.any (· != 0) && ed448 x.cfgKey g.digest g.sig) } }
    match x.saved with
    | some v =>
      .next (s.setPart p { x with
        chkq := rest,
        saved := some { v with regions := v.regions.map fun r => if r.core = c ∧ r.bslot = b then verdict r else r } })
    | none => .next ((s.setPart p { x with chkq := rest }).onRegion c b verdict)

/-! ## cfgcommit (R121, R153, R161, R165, R279) -/

/-- A new epoch of a graph's counter (R131). DEDUCED: log 42. -/
def Region.openEpoch (r : Region) : Region :=
  { r with gcc := { r.gcc with state := .open_, cause := 0, origin := 0x3FF, cncl := 0 }, epochOpen := true, closing := false,
           cancelling := false }

/-- LCC target of a configuration (R40). -/
def targetOf (recs : List TileRec) (c : Nat) : Nat :=
  (recs.map fun r => match r.blocks.find? (·.1 = c) with
    | none => 0
    | some (_, b) => ((List.range 16).map fun st => match b.op st with
        | some w => if opOf w = 0x06 then (w.extractLsb' 0 8).toNat else 0
        | none => 0).sum).sum

/-- The stage that a tile serves under a configuration: the lowest among its stations (R161). -/
def CfgBlock.lowStage (b : CfgBlock) : Nat :=
  (((List.range 16).filter fun st => (b.op st).isSome).map fun st => b.stage.getD st 0).foldl Nat.min 7

/-- The stages that the tiles serve when a configuration is selected. -/
def State.servingOf (s : State) (r : Region) : List (TileId × Nat) :=
  r.tiles.filterMap fun t => ((s.tileAt t).cfg r.sel).map fun b => (t, b.lowStage)

/-- SEQN is fixed as the SHARD of the first configuration of the tile that has a recall station, and a later q15 leaves it
(R314, R315, R329). -/
def Tile.fixSeqn (x : Tile) (n : BitVec 2) : Tile :=
  match (x.cfg n).bind (·.op 6) with
  | none => x
  | some w =>
    if x.id.isMT && decide (0x90 ≤ opOf w ∧ opOf w ≤ 0x95) && x.rcl.seqn.isNone then
      { x with rcl := { x.rcl with seqn := some ((x.q[15].extractLsb' 26 10).setWidth 32) } }
    else x

/-- What a tile holds right after it selects a configuration: nothing on its way, and the configuration's register values
(R48, R153). -/
def Tile.select (x : Tile) (n : BitVec 2) : Tile :=
  let q := ((x.cfg n).map (·.qinit)).getD []
  let y := { x with q := Vector.ofFn fun i => q.getD i.val 0, queue := [], store := [], ready := [], outq := [], slots := [],
                    purged := [], barBad := [], remote := [] }
  y.fixSeqn n

/-- A row group's cells and headers from its block (R153, R235). DEDUCED: log 36. -/
def RowGroup.load (g : RowGroup) (b : List Byte) : RowGroup :=
  { g with cells := ((b.take 16384).mapIdx fun i v => (i, v)).filter (·.2 ≠ 0),
           hdrs := (((b.drop 16384).take 128).mapIdx fun i v => (i, BitVec.ofInt 8 (max (-32) (min 31 v.toInt)))).filter (·.2 ≠ 0) }

/-- The row groups of a record loaded from its weight image (R153, R165). -/
def State.loadWeights (s : State) (r : TileRec) : State :=
  s.onTile r.tile fun x =>
    (weightBlocks r.rgmask.toNat r.wsrc.toNat).foldl (fun x q =>
      let g := lookupD x.mx.rgs (q.1, q.2.1) ⟨[], false, []⟩
      { x with mx := { x.mx with rgs := assign x.mx.rgs (q.1, q.2.1) (g.load (memGets s.mem q.2.2 16512)) } }) x

/-- The bins of a cbuf that the partition holds are made ready (R9, R279). -/
def State.initCbuf (s : State) (p : BitVec 4) (sh : Shape) : State :=
  let k := (sh.base.toNat - spadBase) / 256
  let d := ((sh.dims.getD 0 (0, 0)).1.toNat)
  (List.range ((sh.dims.getD 1 (0, 0)).1.toNat)).foldl (fun s i =>
    if s.hasBin p (spadTile (256 * (k + i))) ((k + i) % 1024) then
      s.setBin (k + i) { s.bin (k + i) with full := false, cnt := 0, seq := 0, decl := d, staged := none }
    else s) s

/-- Every cbuf of a record's configurations is made ready (R279). -/
def State.initCbufs (s : State) (p : BitVec 4) (r : TileRec) : State :=
  r.blocks.foldl (fun s b => b.2.shapes.foldl (fun s q =>
    if (b.2.op q.1).map opOf = some 0x88 then s.initCbuf p q.2 else s) s) s

/-- The staged records become the region's resident words (R121, R153). -/
def State.install (s : State) (r : Region) (g : Staging) : State :=
  let tiles := g.recs.map (·.tile)
  let s1 := (r.tiles.filter (!tiles.contains ·)).foldl (fun s t => s.onTile t fun x => { x with cfgs := [] }.select 0) s
  let s2 := g.recs.foldl (fun s q =>
    ((s.onTile q.tile fun x => { x with cfgs := q.blocks, broken := false }.select r.sel).loadWeights q).initCbufs r.part q) s1
  let r1 := { r with resident := true, tiles, edges := g.edges, lpos := g.recs.map (fun (q : TileRec) => (q.tile, q.lcol, q.lrow)), serial := g.serial,
                     ckGen := 0, staging := none, commitWait := false,
                     targets := (List.range 4).map (targetOf g.recs) }.openEpoch
  s2.setRegion { r1 with serving := s2.servingOf r1 }

/-- CFGCOMMIT (R115, R121). -/
def execCfgcommit (a : Reg) (s : State) : Out :=
  .next (s.unsafeIssue fun s => s.withRegs [a] fun ws s1 =>
    let h := ws.getD 0 0
    match s1.graphMine h with
    | .error _ => s.trap tHANDLE h
    | .ok r =>
      match r.stagingOf h with
      | none => s.trap tCFGSTATE h
      | some g =>
        if !g.passed then s.trap tCFGSTATE h
        else if r.resident then (s1.setRegion { r with commitWait := true, serial := g.serial }).retire
        else (s1.install r g).retire)

/-- COMMIT_APPLY: once a reconfigured region's live launches have ended and no decision is pending, its ingress is fenced, and
once it reports empty the staged records are copied in (R121, R165, R166). -/
def execCommitApply (s : State) : Out :=
  match s.region s.cur s.input.bslot with
  | none => .next s
  | some r =>
    match r.staging with
    | none => .next s
    | some g =>
      if r.commitWait ∧ r.live = [] ∧ r.decision = none then
        .next (if s.regionEmpty r then s.install { r with fenced := true } g else s.setRegion { r with fenced := true })
      else .next s

/-! ## Releasing what ingress has held (R49, R165, R166) -/

/-- The token of an ingress edge is delivered when the selected configuration declares the edge; else it is discarded, and
its launch, where it lives, is cancelled with RECFG (R49). -/
def State.releaseOne (s : State) (c : Fin 64) (b : BitVec 3) (q : Held) : State :=
  match s.region c b with
  | none => s
  | some r =>
    let r1 := { r with ingress := r.ingress.erase q }
    let es := s.entries r q.edge
    if es.isEmpty then ((s.setRegion r1).dropHeld r1 q).failLive c b q.tok.seq (s.self r.origin eRECFG)
    else if q.goal.isNone || es.any (fun e => q.goal == some e.end_) then s
    else if r1.ingress.any (·.no = q.no) then
      s.setRegion { r1 with ingress := updFirst (·.no = q.no) (fun x => { x with copy := x.copy <|> q.copy }) r1.ingress }
    else s.setRegion { r with ingress := updFirst (· == q) (fun x => { x with goal := none }) r.ingress }

/-- All tokens that a region's ingress holds are released, oldest first, and go in as there is room. -/
def State.releaseIngress (s : State) (c : Fin 64) (b : BitVec 3) : State :=
  match s.region c b with
  | none => s
  | some r =>
    let ends := ((r.edges.filter fun e => e.ext && e.xin && s.edgeIn r.sel e).map (·.end_)).eraseDups
    ends.foldl (fun s e => s.letIn e.1 e.2.1 e.2.2) (r.ingress.foldl (fun s q => s.releaseOne c b q) s)

/-- RECONFIG_FENCE_LIFT: the commit is done, and held tokens are delivered or discarded (R165). -/
def execReconfigFenceLift (s : State) : Out :=
  match s.region s.cur s.input.bslot with
  | none => .next s
  | some r =>
    if r.fenced ∧ !r.commitWait then .next ((s.setRegion { r with fenced := false }).releaseIngress s.cur s.input.bslot) else .next s

end Sys2Proof.Machine
end

