-- ==== Sys2Proof/Machine/Launch.lean ====
section
/-! DEFINITION. Launches, graphs, phases and jobs (R122 to R138), configuration switches (R47 to R49, R130), and the
stage balancer (R143, R144). -/

namespace Sys2Proof

namespace Machine

/-! ## Handles of launches, phases and jobs -/

/-- How a launch stands. -/
inductive LaunchAt where
  | queued (q : LaunchRec)
  | live (l : Live)
  | ended (k : Counter)
  deriving DecidableEq, Repr

/-- The launch of a SERIAL on a region; none when its entry has been reused (R137). -/
def Region.launchOf (r : Region) (serial : BitVec 32) : Option LaunchAt :=
  match r.queue.find? (·.serial = serial) with
  | some q => some (.queued q)
  | none =>
    match r.live.find? (·.serial = serial) with
    | some l => some (.live l)
    | none =>
      match r.history.find? (·.2.1 = serial) with
      | some h => some (.ended h.2.2)
      | none => (r.gone.find? (·.1 = serial)).map fun g => .ended g.2

/-- The launch that a handle names on the issuing core (R114, R137). -/
def State.launchMine (s : State) (h : Word) : Except Int (Region × LaunchAt) :=
  if hLevel h ≠ 1 ∨ !hClean h ∨ hPart h ≠ s.pid then .error hBADHANDLE
  else if hCore h ≠ s.cur then .error hNOTMINE
  else match s.region (hCore h) (hBslot h) with
    | none => .error hSTALE
    | some r =>
      match r.launchOf (hSerial h) with
      | none => .error hSTALE
      | some x => .ok (r, x)

/-- The phase that a handle names (R137). -/
def State.phaseOf (s : State) (h : Word) : Except Int Phase :=
  if hLevel h ≠ 3 ∨ !hClean h ∨ hPart h ≠ s.pid then .error hBADHANDLE
  else match (s.part s.pid).phases.find? (·.serial = hSerial h) with
    | none => .error hSTALE
    | some p => .ok p

/-- A job handle of the partition. -/
def State.jobOk (s : State) (h : Word) : Bool := hLevel h == 4 && hClean h && hPart h == s.pid

/-- Tokens of copies charged to a launch that left the queue without starting are drained (R141, R288); then the epoch may end. -/
def State.settleWaiting (s : State) (c : Fin 64) (b : BitVec 3) : State :=
  match s.region c b with
  | none => s
  | some r =>
    let gone (q : Held) : Bool := match q.copy.bind fun k => s.cores[k.1].copies.find? (·.serial = k.2) with
      | none => false
      | some op => match op.charge with
        | none => false
        | some (_, _, ser) => !(r.queue.any (·.serial == ser)) && !(r.live.any (·.serial == ser))
    let s1 := s.setRegion { r with waiting := r.waiting.filter fun q => !gone q }
    ((r.waiting.filter gone).foldl (fun s q => s.drained q.copy) s1).epochCheck c b

/-! ## Prerequisites (R122) -/

/-- A prerequisite handle is one that R122 takes. -/
def State.preTaken (s : State) (h : Word) : Bool :=
  h == 0 || (hClean h && hPart h == s.pid &&
    (hLevel h == 1 || (hLevel h == 2 && (s.region (hCore h) (hBslot h)).isSome) ||
      (hLevel h == 3 && (s.part s.pid).phases.any (·.serial = hSerial h))))

/-- COUNT has reached a value (R122). -/
def reached (count v : BitVec 32) : Bool := decide ((count - v).toNat < 2 ^ 31)

/-- A prerequisite is met (R122). -/
def State.preMet (s : State) (p : BitVec 4) (h : Word) (v : BitVec 32) : Bool :=
  if h = 0 then true
  else match hLevel h with
    | 1 =>
      match s.region (hCore h) (hBslot h) with
      | none => true
      | some r =>
        match r.launchOf (hSerial h) with
        | some (.queued _) => false
        | some (.live _) => false
        | _ => true
    | 2 =>
      match s.region (hCore h) (hBslot h) with
      | none => true
      | some r => reached r.gcc.count v
    | 3 =>
      match (s.part p).phases.find? (·.serial = hSerial h) with
      | none => true
      | some x => reached x.pcc.count v
    | _ => true

/-! ## launch and param (R123 to R125) -/

/-- LPRE0 and LPRE1 are cleared (R125). DEDUCED: log 50. -/
def Core.clearPre (c : Core) : Core := { c with lpre0h := 0, lpre0v := 0, lpre1h := 0, lpre1v := 0 }

/-- An outcome of an instruction that may wait or trap on its destination. -/
def State.reserving (s0 s : State) (d : Reg) (k : State → State) : State :=
  match s.reserve d with
  | .ok _ s' => k s'
  | .wait => s0
  | .trap code addr => s0.trap code addr

/-- A graph whose epoch phend has closed, or whose open entry in a phase that has not started it has closed (R131). -/
def State.closed (s : State) (r : Region) : Bool :=
  r.closing || (r.phaseCount == 0 && (r.phase.bind (s.phaseAt r.part)).any (·.phended))

/-- LAUNCH (R125). -/
def execLaunch (d a : Reg) (p : BitVec 2) (s : State) : Out :=
  .next (s.unsafeIssue fun s => s.withRegs [a] fun ws s1 =>
    if 16 ≤ s.core.recs.length then s
    else
      let c := s.core
      let s2 := s1.setCore s1.core.clearPre
      match s1.graphMine (ws.getD 0 0) with
      | .error e => s.finish s2 d (hStatus e)
      | .ok r =>
        let s3 := s2.setRegion { r with pending := Vector.replicate 4 0 }
        if s1.closed r then s.finish s3 d (hStatus hENDED)
        else if r.slave then s.finish s3 d (hStatus hBUSY)
        else if !(s.preTaken c.lpre0h && s.preTaken c.lpre1h) then s.finish s3 d (hStatus hBADHANDLE)
        else
          let rec_ : LaunchRec := { params := r.pending, pre0h := c.lpre0h, pre1h := c.lpre1h, pre0v := c.lpre0v,
                                    pre1v := c.lpre1v, prio := p, serial := 0, charged := 0, landed := 0 }
          s.reserving (s3.onRegion r.core r.bslot fun x => if x.epochOpen || x.phase.isSome then x else x.openEpoch) d fun s4 =>
            let mbx := d != 0 && s4.core.isMb d
            let c4 := if mbx then s4.core else s4.core.supersede d
            (s4.setCore { c4 with recs := c4.recs ++ [⟨r.bslot, d, mbx, rec_⟩] }).retire)

/-- PARAM (R115, R123). -/
def execParam (a b : Reg) (n : BitVec 2) (s : State) : Out :=
  .next (s.unsafeIssue fun s => s.withRegs [a, b] fun ws s1 =>
    match s1.graphMine (ws.getD 0 0) with
    | .error _ => s.trap tHANDLE (ws.getD 0 0)
    | .ok r =>
      if s1.closed r then s.trap tHANDLE (ws.getD 0 0)
      else (s1.setRegion { r with pending := r.pending.set n.toNat (ws.getD 1 0) n.isLt }).retire)

/-- The oldest record on its way to a region enters the queue and its handle goes back (R113, R125). -/
def State.enqueueRec (s : State) (r : Region) : State :=
  match s.recsOf r with
  | [] => s
  | o :: _ =>
    let c := s.cores[r.core]
    let s1 := (s.setCoreAt r.core { c with recs := c.recs.erase o }).setRegion
      { r with queue := r.queue ++ [{ o.record with serial := r.accepted }], accepted := r.accepted + 1 }
    let s2 := State.deliver { s1 with cur := r.core } o.dest o.mbx none (r.launchHandle 0 r.accepted)
    { s2 with cur := s.cur }

/-- LAUNCH_RECORD_ENQUEUE (R125). A full queue leaves the record outside. -/
def execLaunchRecordEnqueue (s : State) : Out :=
  match s.region s.cur s.input.bslot with
  | none => .next s
  | some r => if r.queue.length < 16 then .next (s.enqueueRec r) else .next s

/-! ## Starting a launch (R126 to R128) -/

/-- The phase of a graph has started (R126). -/
def State.phaseStarted (s : State) (r : Region) : Bool :=
  r.phase.isNone || (r.phase.bind (s.phaseAt r.part)).any (·.started)

/-- A launch may start in a region with a number (R28, R48, R126): it is no live launch's, and no decision, commit or checkpoint is
pending (R385). -/
def Region.canBegin (r : Region) (seq : BitVec 8) : Bool :=
  r.resident && r.decision.isNone && !r.commitWait && !r.fenced && !r.ckpting && decide (r.live.length < 16) &&
    r.live.all (·.seq ≠ seq)

/-- What R126 asks beside the prerequisites, in every piece of the graph. A pre-emption also stops starts (R391). -/
def State.mayStart (s : State) (r : Region) : Bool :=
  !r.frozen && s.phaseStarted r && (s.pieces r).all (·.canBegin r.nextSeq) && (s.part r.part).pre == .running

/-- The head of a priority. -/
def Region.headOf (r : Region) (p : Nat) : Option LaunchRec := r.queue.find? (·.prio.toNat = p)

/-- The head of a priority may start (R126). -/
def State.eligible (s : State) (r : Region) (p : Nat) : Bool :=
  match r.headOf p with
  | none => false
  | some q => s.mayStart r && s.preMet r.part q.pre0h q.pre0v && s.preMet r.part q.pre1h q.pre1v

/-- The priority that starts (R127). -/
def pickPrio (starve : List Nat) (el : Nat → Bool) : Option Nat :=
  match (List.range 3).find? fun p => el p && decide (64 ≤ starve.getD p 0) with
  | some p => some p
  | none => [3, 2, 1, 0].find? el

/-- The starvation counts after a start slot in which `q` started (R127). -/
def nextStarve (starve : List Nat) (el : Nat → Bool) (q : Option Nat) : List Nat :=
  (List.range 3).map fun p =>
    if !el p ∨ q = some p then 0
    else match q with
      | none => starve.getD p 0
      | some k => if p < k then starve.getD p 0 + 1 else starve.getD p 0

/-- The pins of the traversed lists of a launch (R308): one for each MT and list, each an acquire of the version's release
(R304). -/
def State.takePins (s : State) (r : Region) (seq : BitVec 8) : State :=
  let asks := (r.tiles.flatMap fun t => (List.range 4).filterMap fun st =>
    match (s.tileAt t).cfg r.sel with
    | none => none
    | some b =>
      match b.op st, b.shapes.find? (·.1 = st) with
      | some _, some (_, sh) => if sh.stv then (s.listFor r sh seq).map fun n => (t, n) else none
      | _, _ => none).eraseDups
  asks.foldl (fun s q =>
    match s.pinList r.part q.2 65535 with
    | none => s
    | some (i, v, s1) => (s1.readHdrWord (.region r.core r.bslot) r.part q.2).onLive r.core r.bslot seq fun l => { l with pins := l.pins ++ [(q.1, q.2, i, v)] }) s

/-- A PARAM token as its edge's network carries it (R122, R441). R441 puts the edge to a control port on the control network,
which carries no PARAM (R45): the parameter leaves there as a pulse of its bit 0 (Token.onNet). DESIGN CHOICE: log 82. -/
def paramToken (seq : BitVec 8) (net : BitVec 2) (w : Word) : Token :=
  ⟨seq, 0, .param, if net = 1 then .vector (lanesOfWord w) else .scalar w, (0, 0)⟩

/-- A launch start ages the entries of the region's recall units whose age setting counts launches (R325). -/
def Tile.ageLaunch (x : Tile) : Tile := if x.rcl.aunit = 2 then { x with rcl := x.rcl.older } else x

/-- The launch that a copy's token waits for: the one charged, else the region's next (R288). -/
def State.waitsFor (s : State) (q : Held) (serial : BitVec 32) : Bool :=
  match q.copy.bind fun k => s.cores[k.1].copies.find? (·.serial = k.2) with
  | none => true
  | some op => match op.charge with
    | none => true
    | some (_, _, ser) => ser == serial

/-- The tag of a copy's token in its launch: how many earlier copies are charged to the launch on the channel (R288). -/
def State.copyTag (s : State) (r : Region) (q : Held) (serial : BitVec 32) : BitVec 24 :=
  BitVec.ofNat 24 (match q.copy.bind fun k => (s.cores[k.1].copies.find? (·.serial = k.2)).filter (·.charge.isSome) with
    | some op => op.nth
    | none => lookupD r.chans (serial, q.edge) 0)

/-- A launch begins in one region: its PARAM tokens leave, and tokens that waited at ingress for it follow, tagged with it
(R128, R288). -/
def State.beginPiece (s : State) (r : Region) (l : Live) : State :=
  let s0 := s.onRegion r.core r.bslot fun x => { x with
    live := x.live ++ [l], waiting := r.waiting.filter fun q => !s.waitsFor q l.serial, ordNext := x.ordNext.filter (·.1.2 ≠ l.seq) }
  let s1 := { s0 with tiles := s0.tiles.map fun (x : Tile) => if r.tiles.contains x.id then x.forget l.seq else x }
  let s2 := s1.takePins r l.seq
  let s3 := (s2.psrcEdges r).foldl (fun s e =>
    s.sendEdge r e none s.sentNo (paramToken l.seq e.net (l.params.toList.getD e.sout 0))) s2
  (r.waiting.filter (s.waitsFor · l.serial)).foldl (fun s q =>
    match s.region r.core r.bslot, r.edges.find? fun e => e.id == q.edge && e.ext && e.xin with
    | some x, some e => s.injectC x e.id { q.tok with seq := l.seq, iter := s.copyTag x q l.serial } q.copy
    | _, _ => s.drained q.copy) s3

/-- What every start does in a region, whatever the launch's target: the number is the region's latest, from which its next launch goes
on (R28), its phase is kept (R348), and recall units age (R325). -/
def State.startIn (s : State) (r : Region) (seq : BitVec 8) : State :=
  r.tiles.foldl (fun s t => s.onTile t (·.ageLaunch)) (s.onRegion r.core r.bslot fun x => { x with
    lastSeq := seq, nextSeq := seq + 1,
    stages := match x.phase with
      | none => x.stages.filter (·.1 ≠ seq)
      | some k => assign x.stages seq k })

/-- Declared sinks of the pieces that other modules hold of a region's cut graph (R134). -/
def State.farSinks (s : State) (r : Region) : Nat :=
  match s.group r with
  | none => 0
  | some (_, es) => ((es.filter fun q => !s.isHere q.1).map (·.1.sinks)).sum

/-- A record leaves the queue and starts (R28, R40, R128). A target of 0 with no copy charged ends it at once.
DEDUCED: log 49. -/
def State.startRec (s : State) (r : Region) (q : LaunchRec) : State :=
  let ps := s.pieces r
  let target := (ps.map fun x => x.targets.getD x.sel.toNat 0).sum + s.farSinks r + q.charged
  let live : Live := { seq := r.nextSeq, serial := q.serial, params := q.params,
                       lcc := { Counter.zero with count := BitVec.ofNat 32 q.landed }, target, copies := q.charged - q.landed,
                       cancelled := none, started := [], pins := [], phase := r.phase,
                       race := s.cores[r.core].gmodeOf r.bslot == 3 }
  let r1 : Region := { r with queue := r.queue.erase q, nextSeq := r.nextSeq + 1,
                              history := r.history.filter (·.1 ≠ r.nextSeq) }
  let r2 := if r1.epochOpen then r1 else r1.openEpoch
  let s0 := (s.setRegion r2).tellPieces r fun i => .start i live.seq q.params.toList
  let s1 := ps.foldl (fun s x => s.startIn x live.seq) s0
  if target = 0 then
    let s2 := ps.foldl (fun s x => s.onRegion x.core x.bslot fun y => { y with live := y.live ++ [live] }) s1
    s2.launchCheck r.core r.bslot live.seq
  else
    (ps.foldl (fun s x =>
      match s.region x.core x.bslot with
      | none => s
      | some y => s.beginPiece y live) s1).launchCheck r.core r.bslot live.seq

/-- LAUNCH_START: a start slot of a region (R126, R127). -/
def execLaunchStart (s : State) : Out :=
  match s.region s.cur s.input.bslot with
  | none => .next s
  | some r =>
    let el := s.eligible r
    let q := pickPrio r.starve el
    let r1 := { r with starve := nextStarve r.starve el q }
    match q.bind r.headOf with
    | none => .next (s.setRegion r1)
    | some x => .next ((s.setRegion r1).startRec r1 x)

/-! ## Configuration switches (R48, R49, R130) -/

/-- SELCFG (R115, R130). -/
def execSelcfg (a : Reg) (n : BitVec 2) (s : State) : Out :=
  .next (s.unsafeIssue fun s => s.withRegs [a] fun ws s1 =>
    match s1.graphMine (ws.getD 0 0) with
    | .error _ => s.trap tHANDLE (ws.getD 0 0)
    | .ok r =>
      if !r.resident || r.tiles.all fun t => ((s.tileAt t).cfg n).isNone then s.trap tCFGSTATE (ws.getD 0 0)
      else if r.decision.isSome then s
      else (s1.setRegion { r with decision := some n }).retire)

/-- The selected configuration becomes `n` (R48): registers, credits and slots are those of `n`. A launch that is already
live starts no source of `n`. -/
def State.selectCfg (s : State) (r : Region) (n : BitVec 2) : State :=
  let s1 := r.tiles.foldl (fun s t => s.onTile t fun x => x.select n) s
  let r1 := { r with sel := n, decision := none, ordNext := [], move := none, occ := [], occTime := 0 }
  let r2 := { r1 with live := r1.live.map fun (l : Live) => { l with started := s1.sources r1 ++ l.started } }
  s1.setRegion { r2 with serving := s1.servingOf r2 }

/-- DECISION_SWITCH (R48, R49). -/
def execDecisionSwitch (s : State) : Out :=
  match s.region s.cur s.input.bslot with
  | none => .next s
  | some r =>
    match r.decision with
    | none => .next s
    | some n =>
      if s.regionEmpty r then .next ((s.selectCfg r n).releaseIngress s.cur s.input.bslot) else .next s

/-! ## Phases (R132 to R134) -/

/-- Fields of a phase descriptor's entry (R132). -/
def phaseEntry (b : List Byte) (i : Nat) : PhaseEntry :=
  let d := dwAt b (16 * i + 8)
  ⟨dwAt b (16 * i), d.extractLsb' 0 32, d.extractLsb' 32 10, d.extractLsb' 42 6, 0, false⟩

/-- The entries of the descriptor at an address; none when it is malformed, misaligned or unreadable (R132, R133). -/
def State.phaseDesc (s : State) (a : Word) : Option (List PhaseEntry) :=
  if a.extractLsb' 0 6 ≠ 0 then none
  else match s.readCore a.toNat 64 with
    | .error _ => none
    | .ok h =>
      let ng := (dwAt h 0).toNat
      if ng = 0 ∨ 64 < ng ∨ dirty h 8 64 then none
      else match s.readCore (a.toNat + 64) (16 * ng) with
        | .error _ => none
        | .ok b =>
          if (List.range ng).any fun i => (dwAt b (16 * i + 8)).extractLsb' 48 16 != 0 then none
          else some ((List.range ng).map (phaseEntry b))

/-- The phase of a region is live. -/
def State.inLivePhase (s : State) (r : Region) : Bool := (r.phase.bind (s.phaseAt r.part)).any (·.pcc.state == .open_)

/-- The regions that a phase's entries name on this module. -/
def State.phaseRegions (s : State) (es : List PhaseEntry) : List (PhaseEntry × Region) :=
  es.filterMap fun e => (s.entryOf e).map fun r => (e, r)

/-- The first status among the entries of this module in a phase of partition `p`, in order (R133). -/
def State.refusesPhase (s : State) (p : BitVec 4) (es : List PhaseEntry) : Option Int :=
  (es.filter s.isHere).findSome? fun e =>
    match s.graphFor p e.graph with
    | .error x => some x
    | .ok r => if s.inLivePhase r || r.slave then some hBUSY else none

/-- The same of the acting core's partition. -/
def State.phaseRefusal (s : State) (es : List PhaseEntry) : Option Int := s.refusesPhase s.pid es

/-- A later entry of a group, a slave piece (R134). -/
def isSlave (es : List PhaseEntry) (e : PhaseEntry) : Bool :=
  e.group != 0 && (es.find? (·.group = e.group)) != some e

/-- The graphs of a phase's entries on this module join it (R132). -/
def State.joinAll (s : State) (k : PhaseKey) (es : List PhaseEntry) : State :=
  (s.phaseRegions es).foldl (fun s q => s.onRegion q.2.core q.2.bslot fun r =>
    { r with phase := some k, phaseCount := q.1.count.toNat, phaseDone := 0, slave := isSlave es q.1 }) s

/-- The other modules that a phase's entries name. -/
def State.awayModules (s : State) (es : List PhaseEntry) : List (BitVec 10) :=
  ((es.filter (!s.isHere ·)).map (·.module)).eraseDups

/-- A phase of this module tells every other module that it names (R133, R134). -/
def State.tellAway (s : State) (p : BitVec 4) (ser : BitVec 32) (es : List PhaseEntry) (m : HubMsg) : State :=
  { s with sent := s.sent ++ (s.awayModules es).map fun x => .hub p s.module ser x m }

/-- The entries of a phase as another module reads them: 0x3FF is the module that issued it (R132). -/
def namedFrom (m : BitVec 10) (es : List PhaseEntry) : List PhaseEntry :=
  es.map fun e => if e.module = 0x3FF then { e with module := m } else e

/-- PHASE (R132, R133). DEDUCED: log 51. -/
def execPhase (d a : Reg) (s : State) : Out :=
  .next (s.unsafeIssue fun s => s.withRegs [a] fun ws s1 =>
    match s1.phaseDesc (ws.getD 0 0) with
    | none => s.finish s1 d (hStatus hDESC)
    | some es =>
      match s1.phaseRefusal es with
      | some e => s.finish s1 d (hStatus e)
      | none =>
        let x := s1.part s1.pid
        if 16 ≤ (x.phases.filter (·.pcc.state = .open_)).length then s.finish s1 d (hStatus hBUSY)
        else
          let ser := x.nextPhase
          let acks := ((s1.phaseRegions es).map fun q => Acker.die (dieOf q.2.core)).eraseDups ++ (s1.awayModules es).map Acker.module
          let ph : Phase := ⟨s1.module, ser, es, Counter.zero, acks, false, false, false, false, s1.cur⟩
          let s2 := s1.setPart s1.pid { x with phases := x.phases ++ [ph], nextPhase := ser + 1 }
          let s3 := s2.joinAll (s1.module, ser) es
          s.finish (s3.tellAway s1.pid ser es (.join (namedFrom s1.module es))) d (phaseHandle s1.pid ser))

/-- A phase with one field changed. -/
def State.onPhase (s : State) (p : BitVec 4) (ser : BitVec 32) (f : Phase → Phase) : State :=
  s.setPart p { s.part p with phases := updFirst (·.serial == ser) f (s.part p).phases }

/-- A phase of another module with one field changed. -/
def State.onGuest (s : State) (p : BitVec 4) (k : PhaseKey) (f : Phase → Phase) : State :=
  s.setPart p { s.part p with guests := updFirst (fun x => x.owner == k.1 && x.serial == k.2) f (s.part p).guests }

/-- The regions of a phase that never starts leave it (R43, R133). -/
def State.leavePhase (s : State) (p : BitVec 4) (k : PhaseKey) : State :=
  { s with regions := s.regions.map fun (r : Region) =>
      if r.part = p ∧ r.phase = some k then { r with phase := none, phaseCount := 0, slave := false } else r }

/-- A phase that has not started, and so has staged nothing, ends cancelled at once, and its graphs leave it, on every module (R43,
R133). -/
def State.failPhase (s : State) (p : BitVec 4) (ph : Phase) (e : ErrInfo) : State :=
  ((s.onPhase p ph.serial fun x => { x with cancelled := true, pcc := (x.pcc.blame e).finish true }).leavePhase p
    (s.module, ph.serial)).tellAway p ph.serial ph.entries .leave

/-- The entries of a phase with the declared sinks that a module tells of its pieces, in their order (R134). -/
def tellSinks (m : BitVec 10) : List PhaseEntry → List Nat → List PhaseEntry
  | [], _ => []
  | e :: es, ns => if e.module = m then { e with sinks := ns.headD 0 } :: tellSinks m es ns.tail else e :: tellSinks m es ns

/-- The region of this module that an entry of a phase names. -/
def State.entryRegion (s : State) (ph : Phase) (i : Nat) : Option Region := ph.entries[i]?.bind s.entryOf

/-- The cut edges of a piece are bound to the other pieces, by edge identifier (R134, R150). DEDUCED: log 52. -/
def State.bindCut (s : State) (r : Region) : State :=
  let others := (s.pieces r).filter fun q => !(q.core == r.core && q.bslot == r.bslot)
  s.onRegion r.core r.bslot fun x => { x with ends := (x.edges.filter fun e => e.ext && !e.xin).foldl (fun l e =>
    match others.find? fun q => q.edges.any fun y => y.ext && y.xin && y.id == e.id with
    | none => l
    | some q => assign l e.id (.piece q.core q.bslot)) x.ends }

/-- The graphs here of a phase that starts: their epochs open, and their cut edges are bound (R131, R134). -/
def State.beginPhase (s : State) (ph : Phase) : State :=
  let s1 := (s.phaseRegions ph.entries).foldl (fun s q =>
    (s.onRegion q.2.core q.2.bslot fun r => { r.openEpoch with closing := ph.phended && q.1.count == 0 }).bindCut
      ((s.region q.2.core q.2.bslot).getD q.2)) s
  (s.phaseRegions ph.entries).foldl (fun s q => s.epochCheck q.2.core q.2.bslot) s1

/-- A graph's epoch is closed, and ends once its launches have (R131). -/
def State.closeEpoch (s : State) (r : Region) : State :=
  if r.epochOpen then (s.setRegion { r with closing := true }).epochCheck r.core r.bslot else s

/-- phend closes the open entries here of a phase that has started (R131). -/
def State.closePhase (s : State) (ph : Phase) : State :=
  (s.phaseRegions (ph.entries.filter (·.count = 0))).foldl (fun s q =>
    match s.region q.2.core q.2.bslot with
    | some r => if r.phase = some (ph.owner, ph.serial) then s.closeEpoch r else s
    | none => s) s

/-- What another module's hub tells of a phase (R133, R134): of one of this module, that a graph of it has ended there; sink events of
a piece there count at the lead here; the lead there starts, ends or cancels a launch, which this module's pieces do with it, once they
can; and of a phase of another module that holds graphs here, that it starts, closes its open entries, or never starts. -/
def State.hubTold (s : State) (p : BitVec 4) (ph : Phase) (m : BitVec 10) : HubMsg → State
  | .ended i bad =>
    match ph.entries[i]? with
    | none => s
    | some e =>
      if ph.owner ≠ s.module ∨ e.module ≠ m ∨ e.ended then s
      else s.phaseCount p ph.serial (fun x => x == e) (bad.map fun b => ⟨b.2, ⟨0, 0, 0⟩, b.1⟩)
  | .sinks i seq n bad =>
    match ph.entries[i]?.bind fun e => (ph.entries.find? (·.group = e.group)).bind fun l =>
        if e.module = m ∧ e.group ≠ 0 then s.entryOf l else none with
    | none => s
    | some r => s.lccCount r seq n (bad.map errOfWord)
  | .start i seq params =>
    match s.entryRegion ph i with
    | none => s
    | some r =>
      if (s.leadAway r).map (·.1) ≠ some m ∨ !s.phaseStarted r ∨ !r.canBegin seq then s
      else
        let l : Live := { seq, serial := 0, params := Vector.ofFn fun k => params.getD k.val 0, lcc := Counter.zero, target := 0,
                          copies := 0, cancelled := none, started := [], pins := [], phase := r.phase,
                          race := s.cores[r.core].gmodeOf r.bslot == 3 }
        (s.startIn r seq).beginPiece r l
  | .finish i seq n bad =>
    match s.entryRegion ph i with
    | none => s
    | some r =>
      match r.live.find? (·.seq == seq) with
      | none => s
      | some l =>
        if (s.leadAway r).map (·.1) ≠ some m then s
        else
          let k : Counter := match bad with
            | none => ⟨.complete, 0, 0x3FF, 0, n⟩
            | some b => ⟨.cancelled, b.1, b.2, 0, n⟩
          s.endPiece r l k k.blamed
  | .cancel i seq err =>
    match s.entryRegion ph i with
    | none => s
    | some r => s.cancelLive r.core r.bslot seq (errOfWord err)
  | .begin_ staging =>
    if ph.owner ≠ m ∨ m = s.module ∨ ph.started ∨ ph.cancelled then s
    else (s.onGuest p (m, ph.serial) fun x => { x with started := true, staging }).beginPhase ph
  | .close =>
    if ph.owner ≠ m ∨ m = s.module then s
    else
      let s1 := s.onGuest p (m, ph.serial) fun x => { x with phended := true }
      if ph.started then s1.closePhase ph else s1
  | .leave =>
    if ph.owner ≠ m ∨ m = s.module then s
    else (s.onGuest p (m, ph.serial) fun x => { x with cancelled := true, pcc := x.pcc.finish true }).leavePhase p (m, ph.serial)
  | _ => s

/-- Every entry of this module is committed, with no commit or decision pending, on a die or, with none, on the module (R133). -/
def State.entriesReady (s : State) (es : List PhaseEntry) (die : Option (BitVec 2)) : Bool :=
  (s.phaseRegions es).all fun q =>
    die.any (· != dieOf q.2.core) ||
      (q.2.resident && !(q.2.staging.any fun g => g.serial == hSerial q.1.graph) && !q.2.commitWait && !q.2.fenced && q.2.decision.isNone)

/-- Another module asks for the acknowledgement of a phase (R133): refused where an entry here is, else, once every entry here is
committed, given, with the declared sinks of the pieces here (R134). -/
def State.joinPhase (s : State) (p : BitVec 4) (k : PhaseKey) (es : List PhaseEntry) : State :=
  let tell (s : State) (m : HubMsg) : State := { s with sent := s.sent ++ [.hub p k.1 k.2 k.1 m] }
  if k.1 = s.module ∨ (s.phaseAt p k).isSome then s
  else if (s.refusesPhase p es).isSome then tell s (.joined false [])
  else if !s.entriesReady es none then s
  else
    let ph : Phase := ⟨k.1, k.2, es, Counter.zero, [], false, false, false, false, 0⟩
    tell ((s.setPart p { s.part p with guests := (s.part p).guests ++ [ph] }).joinAll k es)
      (.joined true ((s.phaseRegions es).map fun q => q.2.targets.getD q.2.sel.toNat 0))

/-- A phase of another module that this one has not met, so that what comes later of it finds how it ended. -/
def State.meetGuest (s : State) (p : BitVec 4) (k : PhaseKey) : State :=
  if (s.phaseAt p k).isSome then s
  else s.setPart p { s.part p with guests := (s.part p).guests ++ [⟨k.1, k.2, [], Counter.zero, [], false, false, false, false, 0⟩] }

/-- A phase of another module has committed or ended cancelled: its bins here leave staging, and later fills find it ended (R348,
R353). -/
def State.guestPublished (s : State) (p : BitVec 4) (k : PhaseKey) (ok : Bool) : State :=
  if k.1 = s.module then s
  else ((s.meetGuest p k).onGuest p k fun x => { x with staging := true, pcc := { x.pcc with state := if ok then .complete else .cancelled } }).endStaging
    (p, k) ok

/-- PHASE_ACK: a die, once its entries are committed with no commit or decision pending, or a remote module acknowledges a
phase; a remote refusal ends the phase with PEER (R133). Over the same class the hubs tell each other of phases (R133, R134), of those
of the module `module`, and where a phase has staged bins that it has ended (R348). DEDUCED: log 77. DESIGN CHOICE: log 87. -/
def execPhaseAck (s : State) : Out :=
  let p := s.input.p
  match s.input.who, s.input.hub with
  | .module m, some msg =>
    .next (match msg with
    | .publish ok => s.guestPublished p (m, s.input.serial) ok
    | .join es => s.joinPhase p (m, s.input.serial) es
    | msg => match s.phaseAt p (s.input.module, s.input.serial) with
      | none => s
      | some ph => if ph.started ∨ ph.cancelled ∨ ph.owner ≠ s.module then s.hubTold p ph m msg else s)
  | _, _ =>
    match (s.part p).phases.find? (·.serial = s.input.serial) with
    | none => .next s
    | some ph =>
      if !ph.acks.contains s.input.who ∨ ph.pcc.state ≠ .open_ then .next s
      else
        let acked := s.onPhase p ph.serial fun x => { x with acks := x.acks.erase s.input.who }
        match s.input.who with
        | .die n => .next (if s.entriesReady ph.entries (some n) then acked else s)
        | .module m =>
          let e : ErrInfo := ⟨m, ⟨0, 0, 0⟩, ePEER⟩
          .next (if s.input.ok then acked.onPhase p ph.serial fun x => { x with entries := tellSinks m x.entries s.input.far }
            else (s.failPhase p ph e).jobCount p (some e))

/-- PHASE_START: after the last acknowledgement (R131, R133, R134). -/
def execPhaseStart (s : State) : Out :=
  match (s.part s.input.p).phases.find? (·.serial = s.input.serial) with
  | none => .next s
  | some ph =>
    if ph.started ∨ ph.cancelled ∨ ph.acks ≠ [] ∨ ph.pcc.state ≠ .open_ then .next s
    else
      let staging := s.cores[ph.core].stageEn
      let s1 := s.onPhase s.input.p ph.serial fun x => { x with started := true, staging }
      .next ((s1.tellAway s.input.p ph.serial ph.entries (.begin_ staging)).beginPhase ph)

/-- PHEND (R115, R131). -/
def execPhend (a : Reg) (s : State) : Out :=
  .next (s.unsafeIssue fun s => s.withRegs [a] fun ws s1 =>
    let h := ws.getD 0 0
    if hLevel h = 3 then
      match s1.phaseOf h with
      | .error _ => s.trap tHANDLE h
      | .ok ph =>
        let s2 := s1.onPhase s1.pid ph.serial fun x => { x with phended := true }
        ((if ph.started then s2.closePhase ph else s2).tellAway s1.pid ph.serial ph.entries .close).retire
    else
      match s1.graphMine h with
      | .error _ => s.trap tHANDLE h
      | .ok r => if s1.inLivePhase r then s.trap tHANDLE h else (s1.closeEpoch r).retire)

/-! ## Cancelling (R43, R44, R136, R145) -/

/-- The cause of a cancel instruction on a region (R41). -/
def Region.cancelInfo (r : Region) (origin : BitVec 10) : ErrInfo := ⟨origin, r.origin, eCANCEL⟩

/-- The counter of a launch removed before it had a number (R136). -/
def goneCounter (e : ErrInfo) : Counter := (Counter.zero.blame e).finish true

/-- CANCEL_LAUNCH (R136). -/
def execCancelLaunch (d a : Reg) (s : State) : Out :=
  .next (s.unsafeIssue fun s => s.withRegs [a] fun ws s1 =>
    match s1.launchMine (ws.getD 0 0) with
    | .error e => s.finish s1 d (hStatus e)
    | .ok (r, x) =>
      let e := r.cancelInfo s.module
      match x with
      | .ended _ => s.finish s1 d 1
      | .queued q =>
        let s2 := s1.setRegion { r with
          queue := r.queue.filter (·.serial ≠ q.serial), gone := (q.serial, goneCounter e) :: r.gone, gcc := r.gcc.add 1 (some e),
          phaseDone := if r.phase.isSome then r.phaseDone + 1 else r.phaseDone, hung := false }
        s.finish (s2.settleWaiting r.core r.bslot) d 0
      | .live l => s.finish ((s1.setRegion { r with hung := false }).cancelLive r.core r.bslot l.seq e) d 0)

/-- Every record on its way to a region enters the queue at once. DEDUCED: log 53. -/
def State.flushRecs (c : Fin 64) (b : BitVec 3) : Nat → State → State
  | 0, s => s
  | n + 1, s =>
    match s.region c b with
    | none => s
    | some r => State.flushRecs c b n (s.enqueueRec r)

/-- cancel.graph on a committed graph (R43): the queue is frozen and emptied, live launches are cancelled, and the epoch
ends cancelled. -/
def State.cancelGraph (s : State) (c : Fin 64) (b : BitVec 3) (origin : BitVec 10) : State :=
  let s1 := State.flushRecs c b s.cores[c].recs.length s
  match s1.region c b with
  | none => s1
  | some r =>
    let e := r.cancelInfo origin
    let r1 : Region := { r with
      frozen := true, hung := false, queue := [], cancelling := r.epochOpen, gcc := if r.epochOpen then r.gcc.blame e else r.gcc,
      gone := (r.queue.map fun q => (q.serial, goneCounter e)) ++ r.gone }
    ((s1.setRegion r1).cancelAll c b e).settleWaiting c b

/-- CANCEL_GRAPH (R43, R44, R136, R401). -/
def execCancelGraph (d a : Reg) (s : State) : Out :=
  .next (s.unsafeIssue fun s => s.withRegs [a] fun ws s1 =>
    match s1.graphMine (ws.getD 0 0) with
    | .error e => s.finish s1 d (hStatus e)
    | .ok r =>
      match r.stagingOf (ws.getD 0 0) with
      | some _ => s.finish (s1.cancelStaging r) d 0
      | none =>
        if !r.epochOpen ∧ r.live = [] ∧ r.queue = [] ∧ s.recsOf r = [] then s.finish s1 d 1
        else s.finish (s1.cancelGraph r.core r.bslot s.module) d 0)

/-- A cancel.phase goes to every other module that the phase names (R43). -/
def State.tellCancel (s : State) (p : BitVec 4) (ph : Phase) : State :=
  { s with sent := s.sent ++ (s.awayModules ph.entries).map fun m => Sent.phaseCancel p ph.serial m }

/-- cancel.graph applied to a graph of a cancelled phase that has not ended there (R43). Where the phase has not started and the
graph has no open epoch, one opens and ends cancelled (R145). A graph that is gone counts as ended. -/
def State.cancelEntry (s : State) (p : BitVec 4) (k : PhaseKey) (origin : BitVec 10) (e : PhaseEntry) : State :=
  match s.entryOf e with
  | none => s.entryEnded p k (· == e) (some ⟨origin, ⟨0, 0, 0⟩, eCANCEL⟩)
  | some r => (s.onRegion r.core r.bslot fun x => if x.epochOpen then x else x.openEpoch).cancelGraph r.core r.bslot origin

/-- cancel.graph applied to every graph here of a phase. -/
def State.cancelEntries (s : State) (p : BitVec 4) (ph : Phase) (origin : BitVec 10) : State :=
  (ph.entries.filter fun e => s.isHere e && !e.ended).foldl (fun s e => s.cancelEntry p (ph.owner, ph.serial) origin e) s

/-- A phase is cancelled (R43, R145): every graph of it here, and on every other module that it names. PCC keeps the first
cancellation's cause and origin, and ends cancelled once every graph has ended. -/
def State.cancelPhase (s : State) (p : BitVec 4) (ph : Phase) (origin : BitVec 10) : State :=
  ((s.tellCancel p ph).onPhase p ph.serial fun x =>
    { x with cancelled := true, pcc := x.pcc.blame ⟨origin, ⟨0, 0, 0⟩, eCANCEL⟩ }).cancelEntries p ph origin

/-- A phase of another module is cancelled: every graph of it here, and what it stages here stays empty (R43, R348). -/
def State.cancelGuest (s : State) (p : BitVec 4) (k : PhaseKey) (origin : BitVec 10) : State :=
  let s1 := s.meetGuest p k
  match s1.phaseAt p k with
  | none => s
  | some ph =>
    if ph.cancelled then s
    else (s1.onGuest p k fun x => { x with cancelled := true }).cancelEntries p ph origin

/-- A phase that has not started is discarded by cancel.job (R43): it ends cancelled, its graphs leave it with their queues as
they are, and the job does not count it. DEDUCED: log 88. -/
def State.discardPhase (s : State) (p : BitVec 4) (ph : Phase) : State :=
  s.failPhase p ph ⟨s.module, ⟨0, 0, 0⟩, eCANCEL⟩

/-- CANCEL_PHASE (R43, R136). -/
def execCancelPhase (d a : Reg) (s : State) : Out :=
  .next (s.unsafeIssue fun s => s.withRegs [a] fun ws s1 =>
    match s1.phaseOf (ws.getD 0 0) with
    | .error e => s.finish s1 d (hStatus e)
    | .ok ph =>
      if ph.pcc.state ≠ .open_ then s.finish s1 d 1
      else if ph.cancelled then s.finish s1 d 0
      else s.finish (s1.cancelPhase s1.pid ph s.module) d 0)

/-- CANCEL_JOB (R43, R136): the live phases are cancelled, those not yet started discarded, and JCC ends cancelled once no live
phase is left. DEDUCED: log 88. -/
def execCancelJob (d a : Reg) (s : State) : Out :=
  .next (s.unsafeIssue fun s => s.withRegs [a] fun ws s1 =>
    if !s1.jobOk (ws.getD 0 0) then s.finish s1 d (hStatus hBADHANDLE)
    else if (s1.part s1.pid).jcc.state ≠ .open_ then s.finish s1 d 1
    else
      let x := s1.part s1.pid
      let s2 := s1.setPart s1.pid { x with jobCancel := true, jcc := x.jcc.blame ⟨s1.module, ⟨0, 0, 0⟩, eCANCEL⟩ }
      let s3 := (x.phases.filter (·.pcc.state = .open_)).foldl (fun s ph =>
        if !ph.started then s.discardPhase s1.pid ph else if ph.cancelled then s else s.cancelPhase s1.pid ph s1.module) s2
      s.finish (s3.jobEnd s1.pid) d 0)

/-- REMOTE_PHASE_CANCEL: a cancel.phase of the module `module` reaches this module's graphs of the phase (R41, R43): one of another
module `who`, else one of this module. DEDUCED: log 77. -/
def execRemotePhaseCancel (s : State) : Out :=
  let mine := match (s.part s.input.p).phases.find? (·.serial = s.input.serial) with
    | none => s
    | some ph => if ph.pcc.state ≠ .open_ ∨ ph.cancelled then s else s.cancelPhase s.input.p ph s.input.module
  .next (if (s.part s.input.p).saved.isSome then s else match s.input.who with
    | .module m => if m = s.module then mine else s.cancelGuest s.input.p (m, s.input.serial) s.input.module
    | .die _ => mine)

/-! ## Waiting and reading (R137, R138) -/

/-- The counter that a handle names, whatever its level (R137, R138). -/
def State.counterOf (s : State) (h : Word) : Except Int Counter :=
  match hLevel h with
  | 1 => (s.launchMine h).map fun q => match q.2 with
    | .queued _ => Counter.zero
    | .live l => { l.lcc with state := .open_ }
    | .ended k => k
  | 2 => (s.graphMine h).map (·.gcc)
  | 3 => (s.phaseOf h).map (·.pcc)
  | _ => if s.jobOk h then .ok (s.part s.pid).jcc else .error hBADHANDLE

/-- The scope of a cwait's acquire (R335): .rgn for a launch or a graph, .mod for a phase or job whose entries all lie on the module,
else .dom. -/
def State.cwaitScope (s : State) (h : Word) : BitVec 3 :=
  let phases := (s.part s.pid).phases.filter fun ph => hLevel h != 3 || ph.serial == hSerial h
  if hLevel h ≤ 2 then 1 else if phases.all fun ph => ph.entries.all s.isHere then 3 else 4

/-- The regions whose launches a counter counts. -/
def State.cwaitRegions (s : State) (h : Word) : List (Fin 64 × BitVec 3) :=
  if hLevel h ≤ 2 then [(s.cur, hBslot h)]
  else if hLevel h = 3 then
    match (s.part s.pid).phases.find? (·.serial = hSerial h) with
    | none => []
    | some ph => (s.phaseRegions ph.entries).map fun q => (q.2.core, q.2.bslot)
  else (s.regions.filter (·.part = s.pid)).map fun r => (r.core, r.bslot)

/-- A release was made for a launch that a counter counts: that of a launch handle, else one that has ended (R335). -/
def State.cwaitCounts (s : State) (h : Word) (q : Fin 64 × BitVec 3) (r : Rel) : Bool :=
  match r.launch with
  | none => false
  | some l => if hLevel h = 1 then l == hSerial h else !((s.region q.1 q.2).any fun x => x.live.any (·.serial == l))

/-- The acquire of a cwait that saw a counter's end (R335): of the releases made for the launches that it counts, by each region and
by the copies charged to them. DEDUCED: log 25. -/
def State.cwaitAcquire (s : State) (h : Word) : State :=
  let me := Agent.core s.cur
  let scope := s.cwaitScope h
  (s.cwaitRegions h).foldl (fun s q =>
    (s.raceJoin me (.region q.1 q.2) scope fun r => r.via.isNone && s.cwaitCounts h q r).raceJoin me (.copies q.1) scope fun r =>
      r.via == some q.2 && s.cwaitCounts h q r) (s.acquire scope)

/-- CWAIT (R137). -/
def execCwait (d a : Reg) (s : State) : Out :=
  .next (s.unsafeIssue fun s => s.withRegs [a] fun ws s1 =>
    match s1.counterOf (ws.getD 0 0) with
    | .error e => s.finish s1 d (hStatus e)
    | .ok k =>
      match k.state with
      | .open_ => s
      | .complete => s.finish (s1.cwaitAcquire (ws.getD 0 0)) d 0
      | .cancelled => s.finish (s1.cwaitAcquire (ws.getD 0 0)) d (k.cause.setWidth 64))

/-- CREAD (R138). -/
def execCread (d a : Reg) (s : State) : Out :=
  .next (s.unsafeIssue fun s => s.withRegs [a] fun ws s1 =>
    match s1.counterOf (ws.getD 0 0) with
    | .error e => s.finish s1 d (hStatus e)
    | .ok k => s.finish s1 d k.word)

/-! ## Registers of this chapter (R129, R135) -/

/-- A write to JCC_TARGET opens a new job (R135). -/
def State.writeJccTarget (s : State) (v : Word) : State :=
  let x := s.part s.pid
  let t := v.extractLsb' 0 32
  s.setPart s.pid { x with jccTarget := t, jobCancel := false, jcc := if t = 0 then { Counter.zero with state := .complete } else Counter.zero }

/-- JCC_TARGET_WRITE (R135). -/
def execJccTargetWrite (s : State) : Out := .next (s.writeJccTarget s.input.val)

/-- Writing 1 to FROZEN of a slot releases its queue (R129). -/
def State.writeLqState (s : State) (v : Word) : State :=
  { s with regions := s.regions.map fun (r : Region) =>
      if r.core = s.cur ∧ v.getLsbD (8 * r.bslot.toNat + 7) then { r with frozen := false } else r }

/-- LQ_STATE_WRITE (R129). -/
def execLqStateWrite (s : State) : Out := .next (s.writeLqState s.input.val)

/-- LQ_STATE as it reads (R129). -/
def State.lqState (s : State) : Word :=
  (s.regions.filter (·.core = s.cur)).foldl (fun w r =>
    w ||| bit (8 * r.bslot.toNat + 7) r.frozen ||| bit (8 * r.bslot.toNat + 6) true |||
      bit (8 * r.bslot.toNat + 5) (r.decision.isSome || r.commitWait || r.fenced) ||| field (8 * r.bslot.toNat) 5 r.queue.length) 0

/-! ## Failures (R42) -/

/-! ## The stage balancer (R143, R144) -/

/-- The stages of the stations that a tile holds in the selected configuration. -/
def State.stagesOn (s : State) (r : Region) (t : TileId) : List Nat :=
  match (s.tileAt t).cfg r.sel with
  | none => []
  | some b => (List.range 8).filter fun u => (List.range 16).any fun st => (b.op st).isSome && b.stage.getD st 0 == u

/-- A tile's place in the order of tile numbers (R147). -/
def tileNo (t : TileId) : Nat := t.die.toNat * 512 + t.col.toNat * 16 + t.row.toNat

/-- The ports that take in a stage's input queue: those of the stage-crossing edges that end in it (R143, R161). -/
def State.stageInputs (s : State) (r : Region) (u : Nat) : List (TileId × Nat × Nat) :=
  ((r.edges.filter fun e => s.edgeIn r.sel e && s.crosses r e &&
      ((s.tileAt e.dst).cfg r.sel).map (·.stage.getD e.dstSt 0) == some u).map fun e => (e.dst, e.dstSt, e.dport)).eraseDups

/-- The tokens in a stage's input queue: on their way to its ports, and in their queues (R144). -/
def State.occupancy (s : State) (r : Region) (u : Nat) : Nat :=
  ((s.stageInputs r u).map fun q =>
    (s.flight.filter fun f => f.dst == q.1 && f.st == q.2.1 && f.port == q.2.2).length +
      ((s.tileAt q.1).queue.filter fun f => f.st == q.2.1 && f.port == q.2.2).length).sum

/-- A stream of a region is withheld, and its partition is not out: the hold limit governs it (R286, R387). -/
def State.withholds (s : State) (r : Region) : Bool :=
  s.holds.any fun h => h.stuck && match h.holder with
    | .ag t _ | .mem t _ | .quarry t _ _ => r.tiles.contains t
    | .copy .. => false

/-- A region after `n` more cycles: the balancer's window (R144), and the hang monitor's timer, which pauses while a stream is
withheld and while the partition is out (R387). -/
def State.watched (s : State) (n : Nat) (r : Region) : Region :=
  let r1 : Region := if s.withholds r || (s.part r.part).pre == .halted then r else { r with quiet := r.quiet + n }
  if s.cores[r.core].balEn && r.resident then
    { r1 with occ := (List.range 8).map fun u => r.occ.getD u 0 + n * s.occupancy r u, occTime := r.occTime + n }
  else r1

/-- A withheld stream after `n` more cycles: its timer runs, but for a partition that is out (R287, R393). -/
def State.held (s : State) (n : Nat) (h : Hold) : Hold :=
  if ((s.cores[h.core].part).map fun p => (s.part p).pre == .halted).getD false then h else { h with time := h.time + n }

/-- A tile was last moved at least 4,096 cycles of its core ago, or never (R144). -/
def State.movedLongAgo (s : State) (r : Region) (t : TileId) : Bool :=
  match r.moved.find? (·.1 = t) with
  | none => true
  | some (_, c) => decide (4096 ≤ (s.cores[r.core].cycle - c).toNat)

/-- The move that the balancer chooses for a region from the mean occupancies of its window (R144): largest difference, then
lowest tile, then lowest stage. -/
def State.chooseMove (s : State) (r : Region) (th : Nat) : Option (TileId × Nat) :=
  let o (u : Nat) : Nat := r.occ.getD u 0
  let all := (r.serving.filter fun q => s.movedLongAgo r q.1).flatMap fun q =>
    ((s.stagesOn r q.1).filter fun u => u != q.2 && decide (th * o q.2 ≤ 4 * o u ∧ 2 * r.occTime ≤ o u)).map fun u =>
      ((o u : Int) - (o q.2 : Int), q.1, u)
  (all.foldl (fun best x =>
    match best with
    | none => some x
    | some y =>
      if y.1 < x.1 ∨ (y.1 = x.1 ∧ (tileNo x.2.1 < tileNo y.2.1 ∨ (x.2.1 = y.2.1 ∧ x.2.2 < y.2.2))) then some x else best)
    none).map Prod.snd

/-- BALANCER_SAMPLE: once a region's window of 256 cycles is over, at most one move for each region bound to the acting core
(R144). DEDUCED: log 37. -/
def execBalancerSample (s : State) : Out :=
  let c := s.core
  if !c.balEn then .next s
  else .next { s with regions := s.regions.map fun (r : Region) =>
    if r.core ≠ s.cur ∨ !r.resident ∨ r.occTime < 256 then r
    else { r with
      occ := [], occTime := 0, move := if c.balTh.toNat < 5 ∨ r.move.isSome then r.move else s.chooseMove r c.balTh.toNat } }

/-- A tile's stations of a stage report empty, and its bank queues are empty (R143, R258). -/
def State.stageEmpty (s : State) (r : Region) (t : TileId) (u : Nat) : Bool :=
  let x := s.tileAt t
  match x.cfg r.sel with
  | none => true
  | some b =>
    let mine (st : Nat) : Bool := b.stage.getD st 0 == u
    x.mx.banks.toList.all (·.q.isEmpty) && !x.queue.any (fun q => mine q.st) && !x.store.any (fun q => mine q.st) && !x.ready.any (fun q => mine q.st) &&
      !x.outq.any (fun q => mine q.st) && !x.slots.any (fun q => mine q.st && s.slotHeld t q) &&
      !s.flight.any fun q => q.dst == t && mine q.st && !q.leaves && !s.heldOut q

/-- BALANCER_MOVE: the chosen tile serves its new stage once its stations of the old one report empty; its ingress hold then ends
(R143). -/
def execBalancerMove (s : State) : Out :=
  match s.region s.cur s.input.bslot with
  | none => .next s
  | some r =>
    match r.move with
    | none => .next s
    | some (t, u) =>
      if s.stageEmpty r t (lookupD r.serving t 0) then
        .next (s.setRegion { r with
          serving := assign r.serving t u, move := none, moved := assign r.moved t s.cores[r.core].cycle })
      else .next s

end Machine
end Sys2Proof
end

