-- ==== Sys2Proof/Machine/Copies.lean ====
section
/-! DEFINITION. Copies (R139 to R142, R288): the copy block, acceptance, landing, delivery and failure. -/

namespace Sys2Proof.Machine

/-- A copy block that R139 and R140 accept, as the copy it describes. -/
def copyOf (b : List Byte) (serial : BitVec 16) (charge : Option (BitVec 3 × BitVec 8 × BitVec 32)) : Option CopyOp :=
  let d0 := dwAt b 0
  let d1 := dwAt b 8
  let d2 := dwAt b 16
  let d3 := dwAt b 24
  let acqs := d3.extractLsb' 1 3
  let rels := d3.extractLsb' 5 3
  if num d0 57 7 ≠ 0 ∨ num d1 57 7 ≠ 0 ∨ num d2 40 24 ≠ 0 ∨ num d3 9 7 ≠ 0 ∨ num d3 28 36 ≠ 0 ∨ dirty b 32 64 ∨
      num d0 0 3 ≠ 0 ∨ num d1 0 3 ≠ 0 ∨ num d2 0 3 ≠ 0 ∨ 4 < acqs.toNat ∨ 4 < rels.toNat ∨
      (!d3.getLsbD 0 ∧ acqs ≠ 0) ∨ (!d3.getLsbD 4 ∧ rels ≠ 0) then none
  else some { serial, src := d0.extractLsb' 0 57, dst := d1.extractLsb' 0 57, len := num d2 0 40,
              acq := if d3.getLsbD 0 then some acqs else none, rel := if d3.getLsbD 4 then some rels else none,
              chan := if d3.getLsbD 8 then some (d3.extractLsb' 16 12) else none, charge, nth := 0, check := false, after := 0, since := 0, known := [], ended := none }

/-- A copy is charged to a launch: it adds 1 to the target when it starts (R40), and counts on its channel (R288). -/
def Region.charge (r : Region) (serial : BitVec 32) (chan : Option (BitVec 12)) : Region :=
  { r with chans := match chan with
             | none => r.chans
             | some k => assign r.chans (serial, k) (lookupD r.chans (serial, k) 0 + 1),
           live := r.live.map fun (l : Live) => if l.serial = serial then { l with target := l.target + 1, copies := l.copies + 1 } else l,
           queue := r.queue.map fun (q : LaunchRec) => if q.serial = serial then { q with charged := q.charged + 1 } else q }

/-- The launch that register b of cpy charges: none for 0, else a status or the launch (R140). -/
def State.chargeOf (s : State) (h : Word) : Except Int (Option (BitVec 3 × BitVec 8 × BitVec 32)) :=
  if h = 0 then .ok none
  else match s.launchMine h with
    | .error e => .error e
    | .ok (r, x) =>
      match x with
      | .ended _ => .error hENDED
      | .live l => .ok (some (r.bslot, l.seq, l.serial))
      | .queued q => .ok (some (r.bslot, 0, q.serial))

/-- CPY (R140). -/
def execCpy (d a b : Reg) (s : State) : Out :=
  .next (s.unsafeIssue fun s => s.withRegs [a, b] fun ws s1 =>
    let va := ws.getD 0 0
    if 64 ≤ s.core.copies.length then s
    else match (if va.extractLsb' 0 6 = 0 then s.readCore va.toNat 64 else .error (0, .window)) with
      | .error _ => s.finish s1 d (hStatus hDESC)
      | .ok blk =>
        match copyOf blk s.core.copySerial none with
        | none => s.finish s1 d (hStatus hDESC)
        | some op =>
          match s1.chargeOf (ws.getD 1 0) with
          | .error e => s.finish s1 d (hStatus e)
          | .ok ch =>
            let nth := match ch, op.chan with
              | some (bs, _, ser), some k => ((s.region s.cur bs).map fun r => lookupD r.chans (ser, k) 0).getD 0
              | _, _ => 0
            let op1 : CopyOp := { op with charge := ch, nth, check := s.core.cmode, after := s.core.stores.length,
                                          since := (s.clock (.copies s.cur)).c, known := (s.clock (.core s.cur)).h }
            let s2 := s1.setCore { s1.core with copies := s1.core.copies ++ [op1], copySerial := s1.core.copySerial + 1 }
            let s3 := match ch with
              | none => s2
              | some (bs, _, ser) => s2.onRegion s.cur bs (·.charge ser op.chan)
            s.finish s3 d 0)

/-! ## Landing -/

/-- The windows that a copy reaches in this module (R259). -/
def copyWindows : List Window := [.translated, .vault, .spad, .larder]

/-- An end of a copy lies in the peer window, and its module may be reached (R260). -/
def State.peerEnd (s : State) (va : BitVec 57) : Bool := windowOf va.toNat == some .peer && s.granted s.pid .peer va.toNat 8 false

/-- The launch that a copy is charged to. -/
def State.chargedTo (s : State) (c : Fin 64) (op : CopyOp) : Option (Region × LaunchAt) :=
  match op.charge with
  | none => none
  | some (b, _, ser) => (s.region c b).bind fun r => (r.launchOf ser).map fun x => (r, x)

/-- The copy's launch has been cancelled or removed: its words are discarded (R41, R145). -/
def State.copyVoid (s : State) (c : Fin 64) (op : CopyOp) : Bool :=
  op.charge.isSome &&
  match s.chargedTo c op with
  | some (_, .live l) => l.cancelled.isSome
  | some (_, .queued _) => false
  | _ => true

/-- A copy that has landed stands before another by release and acquire, each at a scope that takes in both (R142): it released
before the other was issued, on one core, or its core had then acquired that release. -/
def laidBefore (c : Fin 64) (op : CopyOp) (x : Laid) : Bool :=
  match x.rel, op.acq with
  | some k, some q =>
    let via := op.charge.map (·.1)
    scopeJoins k (.copies c) via (.copies x.core) x.via && scopeJoins q (.copies c) via (.copies x.core) x.via &&
      (if x.core = c then decide (x.ival < op.since) else decide (x.ival ≤ lookupD op.known (.copies x.core) 0))
  | _, _ => false

/-- Copies that have landed at the destination of one that now lands, with no order between them. -/
def State.rivals (s : State) (c : Fin 64) (op : CopyOp) : List Laid :=
  s.laid.filter fun x => x.part == (s.cores[c].part).getD 0 && meets x.dst x.len op.dst.toNat op.len && !laidBefore c op x

/-- The aligned 64-byte chunks of the destination, by address / 64, that keep another copy's value: for each chunk and copy a free
choice (R142). DESIGN CHOICE: log 11. -/
def State.keptChunks (s : State) (op : CopyOp) (rivals : List Laid) : List Nat :=
  let chunks := linesOf op.dst.toNat op.len
  (rivals.flatMap fun x => chunks.filterMap fun k => if meets (64 * k) 64 x.dst x.len then some k else none).zipIdx.filterMap
    fun q => if Config.chunkWins (s.fresh + q.2) then some q.1 else none

/-- The phase that stages the fills of a copy's launch (R348). -/
def State.copyPhase (s : State) (c : Fin 64) (op : CopyOp) : Option StageId :=
  match s.chargedTo c op with
  | some (r, .live l) => s.stagingOf r l.seq
  | some (r, .queued _) => r.phase.bind (s.stagesIn r.part)
  | _ => none

/-- The bytes of a copy written at the pieces of its destination, each piece whole or, where its chunk keeps another copy's value, with
nothing of it left but the count of a filling write (R141, R142, R268). -/
def State.copyWrite (s : State) (op : CopyOp) (bytes : List Byte) (kept : List Nat) (ph : Option StageId) :
    List (Nat × Nat × Nat) → State
  | [] => s
  | (h, va, n) :: rest =>
    (if kept.contains (va / 64) then s.fillCount h n ph else s.fillWrite h ((bytes.drop (va - op.dst.toNat)).take n) ph).copyWrite op bytes kept ph rest

/-- The detector's check of a copy's pieces (R349, R351, R352); none when TRAP stops it. -/
def State.copyRace (s : State) (c : Fin 64) (op : CopyOp) (write : Bool) : List (Nat × Nat × Nat) → Option State
  | [] => some s
  | (h, va, n) :: rest =>
    if !op.check then some s
    else match s.raceCheck c (.copies c) va h n write none (some op) none with
      | none => none
      | some s1 => s1.copyRace c op write rest

/-- The records of a copy whose words are discarded (R353). -/
def State.copyLogs (s : State) (c : Fin 64) (op : CopyOp) (write : Bool) (hs : List (Nat × Nat × Nat)) : State :=
  if !op.check then s
  else hs.foldl (fun s h => (s.raceSays c (.copies c) h.2.1 h.1 h.2.2 write none (some op)).getD s) s

/-! ## Ending (R141, R288) -/

/-- The region and ingress edge that a copy's token enters (R288). -/
def State.copyEdge (s : State) (c : Fin 64) (op : CopyOp) : Option (Region × Edge) :=
  match op.chan with
  | none => none
  | some ch =>
    let r := match op.charge with
      | some (b, _, _) => s.region c b
      | none => if windowOf op.dst.toNat = some Window.spad then s.regionOf (spadTile (op.dst.toNat - spadBase)) else none
    r.bind fun (r : Region) => (r.edges.find? fun (e : Edge) => e.id == ch && e.ext && e.xin).map fun e => (r, e)

/-- A copy's launch is removed from its queue by the copy's failure (R41, R136). -/
def State.failQueued (s : State) (r : Region) (q : LaunchRec) (e : ErrInfo) : State :=
  (s.onRegion r.core r.bslot fun x => { x with
    queue := x.queue.filter (·.serial ≠ q.serial), gone := (q.serial, goneCounter e) :: x.gone,
    gcc := x.gcc.add 1 (some e), phaseDone := if x.phase.isSome then x.phaseDone + 1 else x.phaseDone }).settleWaiting r.core r.bslot

/-- A copy ends with DONE or ERROR (R141): its token enters the region of its channel, at once where its launch is live, and
else when the launch it belongs to starts (R288); without a channel, or for a launch that is gone, it is drained at
once. A failure cancels the charged launch, or is noted. -/
def State.endCopy (s : State) (c : Fin 64) (op : CopyOp) (bad : Option (BitVec 6)) : State :=
  let info (k : BitVec 6) : ErrInfo := s.self ⟨dieOf c, 0, 0⟩ k
  let core := s.cores[c]
  let s1 := s.setCoreAt c { core with
    copies := core.copies.map fun (o : CopyOp) => if o.serial = op.serial then { o with ended := some bad } else o }
  let me := some (c, op.serial)
  let tok (seq : BitVec 8) : Token := match bad with
    | none => tokS seq (BitVec.ofNat 24 op.nth) .done (BitVec.ofNat 64 (op.len / 8))
    | some k => tokE seq (BitVec.ofNat 24 op.nth) (info k)
  let await (r : Region) (e : Edge) (s : State) : State :=
    s.onRegion r.core r.bslot fun x => { x with waiting := x.waiting ++ [⟨e.id, tok 0, me, 0, none⟩] }
  match s.chargedTo c op, s.copyEdge c op, bad with
  | some (r, .live l), some (_, e), _ =>
    let s2 := match s1.region r.core r.bslot with
      | none => s1.drained me
      | some x => s1.injectC x e.id (tok l.seq) me
    match bad with
    | none => s2
    | some k => s2.cancelLive r.core r.bslot l.seq (info k)
  | some (r, .live l), none, some k => (s1.cancelLive r.core r.bslot l.seq (info k)).drained me
  | some (r, .queued q), _, some k => (s1.drained me).failQueued r q (info k)
  | some (_, .queued _), some (r, e), none => await r e s1
  | none, some (r, e), _ =>
    if op.charge.isSome then s1.drained me
    else await r e (match bad with
      | some k => s1.noteCopyAt c k op.dst.toNat
      | none => s1)
  | none, none, some k => (if op.charge.isNone then s1.noteCopyAt c k op.dst.toNat else s1).drained me
  | _, _, _ => s1.drained me

/-- An access of a copy that meets a fault: its stream will be withheld (R286). -/
def State.parkCopy (s : State) (c : Fin 64) (op : CopyOp) (va : Nat) (write : Bool) (r : XReason) : State :=
  let seq := match s.chargedTo c op with
    | some (_, .live l) => l.seq
    | _ => (op.charge.map (·.2.1)).getD 0
  { s with walks := s.walks ++ [⟨.copy c op.serial, c, seq, 0, (s.cores[c].part).getD 0, BitVec.ofNat 57 va, write, some r⟩] }

/-- A copy waits at a fault. -/
def State.copyStalled (s : State) (c : Fin 64) (op : CopyOp) : Bool :=
  s.walks.any (·.holder == .copy c op.serial) || s.holds.any fun h => h.holder == .copy c op.serial && h.stuck

/-- The pieces of one end of a copy; those in the peer window lie at another module. -/
def State.copyPieces (s : State) (va : BitVec 57) (len : Nat) (need : Need) : Except (Nat × XReason) (List (Nat × Nat × Nat)) :=
  if s.peerEnd va then .ok [] else s.check s.pid copyWindows need (chunks va.toNat len)

/-- An end of a copy lies behind a port that has failed (R364). -/
def State.endLost (s : State) (va : BitVec 57) : Bool := s.peerEnd va && s.viaLost (s.routeTo (peerModule (va.setWidth 64)))

/-- The acquire of a copy, and its release, in the scopes of the launch that it is charged to (R141, R331). It acquires what its core
had acquired when it issued the copy: the releases of copies that it precedes by synchronisation (R142). -/
def State.copyAcq (s : State) (c : Fin 64) (op : CopyOp) : State :=
  match op.acq with
  | none => s
  | some k =>
    let q := s.clock (.copies c)
    (s.setClock { q with h := joinClocks q.h op.known }).raceAcquireVia (.copies c) k (op.charge.map (·.1))
def State.copyRel (s : State) (c : Fin 64) (op : CopyOp) : State :=
  match op.rel with
  | none => s
  | some k => s.raceReleaseVia (.copies c) k (op.charge.map (·.1)) (op.charge.map (·.2.2))

/-- A copy has been written: it stands among those that have landed, and releases. -/
def State.copyLaid (s : State) (c : Fin 64) (op : CopyOp) : State :=
  let x : Laid := ⟨(s.cores[c].part).getD 0, c, op.serial, op.dst.toNat, op.len, op.rel, op.charge.map (·.1), (s.clock (.copies c)).c⟩
  State.copyRel { s with laid := x :: s.laid } c op

/-- A copy of a launch that has been cancelled: its words are discarded, and what the detector says of them is logged (R41, R145,
R353). -/
def State.voidCopy (s : State) (c : Fin 64) (op : CopyOp) : State :=
  let logs (write : Bool) (q : Except (Nat × XReason) (List (Nat × Nat × Nat))) (s : State) : State := match q with
    | .error _ => s
    | .ok hs => s.copyLogs c op write hs
  State.endCopy (logs true (s.copyPieces op.dst op.len .write) (logs false (s.copyPieces op.src op.len .read) s)) c op none

/-- A copy lands (R141): acquire, read, write, release, DONE; of no length, acquire, release and DONE (R269). It waits for the
earlier stores of its core. What a peer's memory answers comes from outside. DEDUCED: log 54. -/
def State.landCopy (s : State) (op : CopyOp) (far : List Byte) : State :=
  let c := s.cur
  if op.after ≠ 0 then s
  else if s.copyVoid c op then s.voidCopy c op
  else if op.len = 0 then State.endCopy ((s.copyAcq c op).copyRel c op) c op none
  else if s.endLost op.src ∨ s.endLost op.dst then State.endCopy s c op (some eLINK)
  else if s.peerEnd op.src ∧ far.length ≠ op.len then s
  else match s.copyPieces op.src op.len .read with
    | .error (a, r) => s.parkCopy c op a false r
    | .ok rd =>
      match s.copyPieces op.dst op.len .write with
      | .error (a, r) => s.parkCopy c op a true r
      | .ok wr =>
        let s1 := s.copyAcq c op
        match s1.copyRace c op false rd with
        | none => State.endCopy s1 c op (some eRACE)
        | some s2 =>
          match s2.copyRace c op true wr with
          | none => State.endCopy s2 c op (some eRACE)
          | some s3 =>
            let bytes := if s.peerEnd op.src then far else s3.gather rd
            let ph := s.copyPhase c op
            if s.peerEnd op.dst then
              let req : RemoteReq := .write (s.part s.pid).dpn (op.dst.extractLsb' 0 45) bytes (ph.map (·.2))
              State.endCopy ((s3.request (op.dst.extractLsb' 45 10) none req).copyRel c op) c op none
            else
              let rivals := s3.rivals c op
              let kept := s3.keptChunks op rivals
              let s4 := { s3.copyWrite op bytes kept ph wr with fresh := s3.fresh + rivals.length * (linesOf op.dst.toNat op.len).length }
              State.endCopy (s4.copyLaid c op) c op none

/-- COPY_COMPLETE: one of the acting core's copies that have not ended ends (R141). -/
def execCopyComplete (s : State) : Out :=
  match (s.core.copies.filter (·.ended.isNone))[s.input.index]? with
  | none => .next s
  | some op =>
    if s.copyStalled s.cur op then .next s
    else match s.input.copy with
      | .landed => .next (s.landCopy op s.input.bytes)
      | .failed k => .next (State.endCopy s s.cur op (some k))

end Sys2Proof.Machine
end

