-- ==== Sys2Proof/Machine/Logit.lean ====
section
/-! DEFINITION. The logit machine of a sampler (R404 to R422): the start of a run, the larder as a run sees it, and the
logit instructions. -/

namespace Sys2Proof.Machine

/-! ## The acting context -/

/-- The acting run context. -/
def State.ctxNow (s : State) : Option Ctx := s.smps[s.smp].ctx[s.ctx]

/-- The state with the acting context replaced. -/
def State.setCtx (s : State) (c : Option Ctx) : State :=
  s.onSmp s.smp fun x => { x with ctx := x.ctx.set s.ctx.val c s.ctx.isLt }

/-- A dword of the run's larder slot (R408). -/
def State.lard (s : State) (c : Ctx) (off : Nat) : Word := memDword s.mem (larderAt c.slot + off)

/-- STEP, LAST, LV and CFULL as the run sees them (R409, R415). -/
def State.stepOf (s : State) (c : Ctx) : BitVec 32 := c.held.step.getD ((s.lard c 8).extractLsb' 0 32)

/-- COUNTS entry `i` as the run sees it (R410, R415). -/
def State.countsAt (s : State) (c : Ctx) (i : Nat) : Word := lookupD c.held.counts i (s.lard c (0x4000 + 8 * i))

/-- PARAM `n` as the run sees it (R410, R415). -/
def State.paramAt (s : State) (c : Ctx) (n : Nat) : Word := lookupD c.held.params n (s.lard c (0x200 + 8 * n))

/-- The empty mark of COUNTS and BIAS (R410). -/
def noId : Nat := 0xFFFFFFFF

/-- ID and COUNT of an entry (R410). -/
def entryId (e : Word) : Nat := (e.extractLsb' 0 32).toNat
def entryHigh (e : Word) : Nat := (e.extractLsb' 32 32).toNat

/-- The home of an id (R410). -/
def countsHome (x : Nat) : Nat := x * 2654435761 % 2 ^ 32 / 2 ^ 20

/-- The first of `n` entries from entry `i` on, round the table, that holds the id or is empty. -/
def State.probeFrom (s : State) (c : Ctx) (x : Nat) : Nat → Nat → Option Nat
  | 0, _ => none
  | n + 1, i =>
    if entryId (s.countsAt c i) = x ∨ entryId (s.countsAt c i) = noId then some i
    else s.probeFrom c x n ((i + 1) % 4096)

/-- Where a lookup of an id stops: the entry that holds it, or an empty one; none after 4,096 probes (R410). -/
def State.probe (s : State) (c : Ctx) (x : Nat) : Option Nat := s.probeFrom c x 4096 (countsHome x)

/-- COUNT of an id when it is recorded (R410). -/
def State.countOf (s : State) (c : Ctx) (x : Nat) : Option Nat :=
  match s.probe c x with
  | none => none
  | some i => if entryId (s.countsAt c i) = x then some (entryHigh (s.countsAt c i)) else none

/-- The ids recorded with COUNT at least 1 (R418). -/
def State.recorded (s : State) (c : Ctx) : List Nat :=
  (List.range 4096).filterMap fun i =>
    let e := s.countsAt c i
    if entryId e ≠ noId ∧ 1 ≤ entryHigh e then some (entryId e) else none

/-! ## Values -/

/-- An integer as a W48 (R417). -/
def wOfInt (n : Int) : W48 := roundW48 (fvInt n 0 false) rNE

/-- A W48 as an id 0 to V − 1 (R417). -/
def idOf (w : W48) (v : Nat) : Option Nat :=
  match fvOf w with
  | .num s m e =>
    let k := roundInt s m e rZ
    if fvEq (fvInt k 0 false) (.num s m e) ∧ 0 ≤ k ∧ k < v then some k.toNat else none
  | _ => none

/-- A value above zero (R418 to R420). -/
def isPos (w : W48) : Bool := !wIsNaN w && fvLt (.num false 0 0) (fvOf w)

/-- Candidate `a` is ranked before candidate `b` by value: the greater first, a NaN below −∞ (R419). -/
def ranksOver (a b : W48) : Bool :=
  if wIsNaN a then false else if wIsNaN b then true else fvLt (fvOf b) (fvOf a)

/-- An id put in its place in a ranking; ids come in rising order, so a tie stands behind (R419). -/
def rankInsert (l : List W48) (i : Nat) : List Nat → List Nat
  | [] => [i]
  | j :: js => if ranksOver (l.getD i 0) (l.getD j 0) then i :: j :: js else j :: rankInsert l i js

/-- The ids in candidate order (R419). -/
def ranking (l : List W48) : List Nat := (List.range l.length).foldl (fun r i => rankInsert l i r) []

/-- The value ranked first (R419). -/
def rankedFirst (l : List W48) : W48 := l.getD ((ranking l).headD 0) wNaN

/-- A value as a weight in units of 2^-1058: what is not above 0, and a NaN, counts as 0 (R419, R420). -/
def weight (w : W48) : Nat :=
  match fvOf w with
  | .num false m e => m * 2 ^ (e + 1058).toNat
  | _ => 0

/-- The least k of 1 or more for which the first k weights together satisfy `p`; at most all of them. -/
def leastPrefix (p : Nat → Bool) : List Nat → Nat → Nat
  | [], _ => 0
  | w :: ws, acc => if p (acc + w) || ws.isEmpty then 1 else 1 + leastPrefix p ws (acc + w)

/-- The entries kept, the others set to a value. -/
def keepIds (l : List W48) (keep : List Nat) (other : W48) : List W48 := l.mapIdx fun i x => if keep.contains i then x else other

/-- smax (R419). -/
def softmax (l : List W48) : List W48 :=
  let m := rankedFirst l
  match fvOf m with
  | .nan _ => l.map fun _ => wZero false
  | .inf true => l.map fun _ => wZero false
  | .inf false =>
    let i0 := l.findIdx (· == wInf false)
    l.mapIdx fun i _ => if i = i0 then wOfInt 1 else wZero false
  | .num .. =>
    let u := l.map fun x => expW (wSub x m rNE) rNE
    let z := pairSum u rNE
    u.map fun x => wDiv x z rNE

/-- topp (R419): c_k ≥ sb × T, compared exactly. With an infinite sum the first id is enough. -/
def topP (l : List W48) (sb : W48) : List W48 :=
  if wIsNaN sb || !fvLt (fvOf sb) (.num false 1 0) then l
  else
    let r := ranking l
    let ws := r.map fun i => weight (l.getD i 0)
    let t := ws.foldl (· + ·) 0
    let k := match fvOf sb with
      | .num false m e =>
        if l.contains (wInf false) then 1
        else leastPrefix (fun c => decide (m * t * 2 ^ (e + 1058).toNat ≤ c * 2 ^ 1058)) ws 0
      | _ => 1
    keepIds l (r.take k) (wZero false)

/-- The id that draw selects (R420). -/
def drawId (l : List W48) (u : Nat) : Nat :=
  if l.contains (wInf false) then l.findIdx (· == wInf false)
  else
    let ws := l.map weight
    let order := ranking (ws.map fun w => roundNum false w (-1058) rNE)
    let t := ws.foldl (· + ·) 0
    order.getD (leastPrefix (fun c => decide (u * t ≤ c * 2 ^ 64)) (order.map fun i => ws.getD i 0) 0 - 1) 0

/-! ## Ends of runs (R407, R421) -/

/-- The held writes of a run performed as one release (R415, R421). -/
def State.halted (s : State) (c : Ctx) : State :=
  let at_ (off : Nat) (w : Word) (s : State) : State := s.writeMem none (larderAt c.slot + off) (leBytes 8 w.toNat)
  let s1 := c.held.params.foldl (fun s q => at_ (0x200 + 8 * q.1) q.2 s) s
  let s2 := c.held.counts.foldl (fun s q => at_ (0x4000 + 8 * q.1) q.2 s) s1
  let s3 := match c.held.step with
    | none => s2
    | some n => s2.writeMem none (larderAt c.slot + 8) (leBytes 4 n.toNat)
  let d2 := s.lard c 16
  let s4 := match c.held.last with
    | none => s3
    | some x => at_ 16 ((d2.extractLsb' 20 44 ++ (d2.extractLsb' 19 1 ||| BitVec.ofBool c.held.cfull) ++ (1 : BitVec 1) ++ x)) s3
  s4.raceReleaseVia (.region c.core c.bslot) 1 none
    (((s.region c.core c.bslot).bind fun r => r.live.find? (·.seq == c.seq)).map (·.serial))

/-- The end of a run: its writes, then its one token on the region's output edge (R407). -/
def State.endRun (s : State) (c : Ctx) : State :=
  let t := match c.out with
    | some x => tokS c.seq c.iter .data (BitVec.ofNat 64 x)
    | none => tokS c.seq c.iter .done 0
  let s1 := (s.halted c).setCtx none
  let s2 := s1.onSmp s.smp fun x => { x with items := updFirst (·.ctx == some s.ctx) (fun q => { q with ctx := none, out := some t }) x.items }
  State.smpFlush s.smp s2.smps[s.smp].items.length s2

/-- A run in the acting context is abandoned, with no larder write, and an ERROR takes the place of its token (R406). -/
def State.abandonRun (s : State) (c : Ctx) : State :=
  let e := tokE c.seq c.iter (s.smpErr s.smp eECC)
  let s1 := (s.setCtx none).onSmp s.smp fun x =>
    { x with items := updFirst (·.ctx == some s.ctx) (fun q => { q with ctx := none, out := some e }) x.items }
  State.smpFlush s.smp s1.smps[s.smp].items.length s1

/-- What stands before every logit instruction: a run is in the context, its partition is not pre-empted (R422), and the
4,096th word acts as halt (R415). -/
def State.logit (s : State) (k : Ctx → State → State) : State :=
  match s.ctxNow with
  | none => s
  | some c =>
    if ((s.lbind c.slot).map fun b => (s.part b.part).pre == .halted).getD false then s
    else if 4095 ≤ c.count then s.endRun c
    else k c s

/-- The context at a word's end: the next word, one more counted. -/
def Ctx.next (c : Ctx) : Ctx := { c with pc := c.pc + 1, count := c.count + 1 }

/-- The context after a branch (R417). -/
def Ctx.jump (c : Ctx) (i : BitVec 14) : Ctx := { c with pc := ((c.pc : Int) + i.toInt).toNat, count := c.count + 1 }

/-- Registers. -/
def Ctx.vr (c : Ctx) (r : BitVec 3) : List W48 := c.v[r.toNat]'r.isLt
def Ctx.sr (c : Ctx) (r : BitVec 3) : W48 := c.s[r.toNat]'r.isLt
def Ctx.setV (c : Ctx) (r : BitVec 3) (l : List W48) : Ctx := { c with v := c.v.set r.toNat l r.isLt }
def Ctx.setS (c : Ctx) (r : BitVec 3) (w : W48) : Ctx := { c with s := c.s.set r.toNat w r.isLt }

/-- An instruction that writes a vector register. -/
def State.logitV (s : State) (d : BitVec 3) (f : State → Ctx → List W48) : State :=
  s.logit fun c s => s.setCtx (some (c.setV d (f s c)).next)

/-- An instruction that writes a scalar register. -/
def State.logitS (s : State) (d : BitVec 3) (f : State → Ctx → W48) : State :=
  s.logit fun c s => s.setCtx (some (c.setS d (f s c)).next)

/-! ## Starting a run -/

/-- The first entry that is a run not yet taken. -/
def nextRun (l : List SmpItem) : Option SmpItem := l.find? fun q => q.out.isNone && q.ctx.isNone

/-- The logits that a run's tokens carry (R406). -/
def SmpItem.logits (q : SmpItem) (v : Nat) : List W48 :=
  ((q.toks.drop 1).flatMap fun t => match t.pay with
    | .vector l => l
    | p => [p.word.setWidth 48]).take v

/-- The sampler is time-shared, and a run of the partition is in one of its contexts: the other serves another partition (R422).
DESIGN CHOICE: log 118. -/
def State.smpBusy (s : State) (n : Fin 8) (p : BitVec 4) : Bool :=
  ((List.finRange 16).any fun i => s.parts[i].grants.samplers.contains n.val && BitVec.ofNat 4 i.val != p) &&
    (List.finRange 2).any fun j => s.smps[n].ctx[j].any fun (c : Ctx) => s.cores[c.core].part == some p

/-- SAMPLER_RUN_START: the sampler passes what may leave, then takes the next run in header order into a free context
when it is complete and no other run of its slot is in progress (R406, R415, R423). -/
def execSamplerRunStart (s : State) : Out :=
  let s1 := State.smpFlush s.smp s.smps[s.smp].items.length s
  let x := s1.smps[s.smp]
  match nextRun x.items, (List.finRange 2).find? (fun i => x.ctx[i].isNone && x.parked[i].isNone) with
  | some q, some i =>
    let busy := (List.finRange 2).any fun j => (x.ctx[j].map fun (c : Ctx) => c.slot == q.slot).getD false
    match s1.lbind q.slot with
    | none => .next s1
    | some b =>
      if q.toks.length < q.need ∨ busy ∨ s1.smpBusy s.smp b.part ∨ (s1.part b.part).pre ≠ .running then .next s1
      else
        let v := s1.vocab q.slot
        let c : Ctx := ⟨q.core, q.bslot, q.seq, q.iter, q.slot, b.pslot, q.logits v,
          Vector.replicate 8 (List.replicate v (wZero false)), Vector.replicate 8 (wZero false), 0, ⟨[], [], none, none, false⟩, none, 0⟩
        .next (s1.onSmp s.smp fun x =>
          { x with ctx := x.ctx.set i.val (some c) i.isLt,
                   items := updFirst (· == q) (fun q => { q with ctx := some i }) x.items })
  | _, _ => .next s1

/-- ECC_UNCORRECTABLE: an uncorrectable error in a region strikes a live launch (R39, R42), or, where `k` is not 0, one in the larder or
the working area strikes the run in context `index` of the sampler (R406). The failing tile that a launch's ERROR names (R29) is
the region's origin tile, wherever the error was. DESIGN CHOICE: log 85. -/
def execEccUncorrectable (s : State) : Out :=
  if s.input.k = 0 then
    match s.region s.cur s.input.bslot with
    | none => .next s
    | some r => .next (s.failLive s.cur s.input.bslot s.input.seq (s.self r.origin eECC))
  else
    let s1 := { s with ctx := if s.input.index % 2 = 0 then 0 else 1 }
    match s1.ctxNow with
    | none => .next s
    | some c => .next { s1.abandonRun c with ctx := s.ctx }

/-! ## Instructions (R417 to R420) -/

/-- lgin (R418). -/
def execLgin (d : BitVec 3) (s : State) : Out := .next (s.logitV d fun _ c => c.logits)

/-- The sum of the sparse entries of an id, in entry order; none where it has no entry, and adds 0 (R418). -/
def State.biasOf (s : State) (c : Ctx) (i : Nat) : Option W48 :=
  (List.range 1024).foldl (fun acc j =>
    let e := s.lard c (0x2000 + 8 * j)
    if entryId e = i then
      let f := (decodeElem 0x00 false rNE (entryHigh e)).setWidth 48
      some (match acc with
        | none => f
        | some a => wAdd a f rNE)
    else acc) none

/-- bias (R418): the dense table at DADDR, or the sparse entries. A dense entry that cannot be read ends the run as an
uncorrectable error does (R406; log 31). -/
def execBias (d a : BitVec 3) (s : State) : Out :=
  .next (s.logit fun c s =>
    let dense := (s.lard c 24).getLsbD 19
    let daddr := ((s.lard c 32).extractLsb' 0 57).toNat
    let p := (s.cores[c.core].part).getD 0
    if dense then
      match s.readV p [.vault] daddr (2 * (c.vr a).length) with
      | .error _ => s.abandonRun c
      | .ok bytes =>
        let l := (c.vr a).mapIdx fun i x =>
          wAdd x ((decodeElem 0x02 false rNE (leNat ((bytes.drop (2 * i)).take 2))).setWidth 48) rNE
        s.setCtx (some (c.setV d l).next)
    else
      let l := (c.vr a).mapIdx fun i x => wAdd x ((s.biasOf c i).getD (wZero false)) rNE
      s.setCtx (some (c.setV d l).next))

/-- pen (R418). -/
def execPen (d a b : BitVec 3) (s : State) : Out :=
  .next (s.logitV d fun s c =>
    let ids := s.recorded c
    (c.vr a).mapIdx fun i x =>
      if ids.contains i then (if isPos x then wDiv x (c.sr b) rNE else wMul x (c.sr b) rNE) else x)

/-- scl (R418). -/
def execScl (d a b : BitVec 3) (s : State) : Out :=
  .next (s.logitV d fun _ c => (c.vr a).map fun x => wMul x (c.sr b) rNE)

/-- msk (R418). -/
def execMsk (d a : BitVec 3) (s : State) : Out :=
  .next (s.logitV d fun s c => (c.vr a).mapIdx fun i x =>
    if (memGet s.mem (larderAt c.slot + 0xC000 + i / 8)).getLsbD (i % 8) then x else wInf true)

/-- clamp (R418). -/
def execClamp (d a b : BitVec 3) (s : State) : Out :=
  .next (s.logitV d fun _ c => (c.vr a).map fun x => wMinMax false (wMinMax true x (wNeg (c.sr b))) (c.sr b))

/-- topk (R419). -/
def execTopk (d a b : BitVec 3) (s : State) : Out :=
  .next (s.logitV d fun _ c =>
    let l := c.vr a
    match fvOf (c.sr b) with
    | .num n m e =>
      let k := roundInt n m e rZ
      if k ≤ 0 ∨ (l.length : Int) ≤ k then l else keepIds l ((ranking l).take k.toNat) (wInf true)
    | _ => l)

/-- topp (R419). -/
def execTopp (d a b : BitVec 3) (s : State) : Out := .next (s.logitV d fun _ c => topP (c.vr a) (c.sr b))

/-- minp (R419). -/
def execMinp (d a b : BitVec 3) (s : State) : Out :=
  .next (s.logitV d fun _ c =>
    let l := c.vr a
    let sb := c.sr b
    if wIsNaN sb || !fvLt (.num false 0 0) (fvOf sb) then l
    else
      let t := wMul sb (rankedFirst l) rNE
      l.map fun x => if wCmp 5 x t then x else wZero false)

/-- smax (R419). -/
def execSmax (d a : BitVec 3) (s : State) : Out := .next (s.logitV d fun _ c => softmax (c.vr a))

/-- vmax (R417). -/
def execVmax (d a : BitVec 3) (s : State) : Out :=
  .next (s.logitS d fun _ c => pairTree (wMinMax true) (c.vr a).length (c.vr a))

/-- vsum (R417). -/
def execVsum (d a : BitVec 3) (s : State) : Out := .next (s.logitS d fun _ c => pairSum (c.vr a) rNE)

/-- The held writes of a draw of id `x` (R410, R420). -/
def State.record (s : State) (c : Ctx) (x : Nat) : HeldWrites :=
  let h := { c.held with step := some (s.stepOf c + 1), last := some (BitVec.ofNat 18 x) }
  match s.probe c x with
  | none => { h with cfull := true }
  | some i =>
    let e := s.countsAt c i
    let n := if entryId e = x then Nat.min 0xFFFFFFFF (entryHigh e + 1) else 1
    { h with counts := assign h.counts i (field 0 32 x ||| field 32 32 n) }

/-- draw (R420). -/
def execDraw (d a : BitVec 3) (s : State) : Out :=
  .next (s.logit fun c s =>
    let seed := memGets s.mem (larderAt c.slot + 0x100) 16
    let h := shake256 (seed ++ leBytes 8 (s.lard c 0).toNat ++ leBytes 8 (s.stepOf c).toNat) 8
    let x := drawId (c.vr a) (leNat h)
    s.setCtx (some ({ c.setS d (wOfInt x) with held := s.record c x }).next))

/-- cnt (R417). -/
def execCnt (d a : BitVec 3) (s : State) : Out :=
  .next (s.logitS d fun s c =>
    match (idOf (c.sr a) c.logits.length).bind (s.countOf c) with
    | some n => wOfInt n
    | none => wZero false)

/-- emit (R417). -/
def execEmit (a : BitVec 3) (s : State) : Out :=
  .next (s.logit fun c s => s.setCtx (some { c.next with out := c.out <|> idOf (c.sr a) c.logits.length }))

/-- set (R417). -/
def execSet (d : BitVec 3) (i : BitVec 14) (s : State) : Out := .next (s.logitS d fun _ _ => wOfInt i.toInt)

/-- slds (R417). -/
def execSlds (d : BitVec 3) (i : BitVec 14) (s : State) : Out :=
  .next (s.logitS d fun s c => (s.paramAt c i.toNat).extractLsb' 0 48)

/-- ssts (R417): held. -/
def execSsts (a : BitVec 3) (i : BitVec 14) (s : State) : Out :=
  .next (s.logit fun c s =>
    s.setCtx (some { c.next with held := { c.held with params := assign c.held.params i.toNat ((c.sr a).setWidth 64) } }))

/-- A W48 is +0 or −0 (R417). -/
def isZeroW (w : W48) : Bool := !wIsNaN w && fvEq (fvOf w) (.num false 0 0)

/-- br (R417). -/
def execBr (i : BitVec 14) (s : State) : Out := .next (s.logit fun c s => s.setCtx (some (c.jump i)))

/-- brz (R417). -/
def execBrz (a : BitVec 3) (i : BitVec 14) (s : State) : Out :=
  .next (s.logit fun c s => s.setCtx (some (if isZeroW (c.sr a) then c.jump i else c.next)))

/-- brnz (R417). -/
def execBrnz (a : BitVec 3) (i : BitVec 14) (s : State) : Out :=
  .next (s.logit fun c s => s.setCtx (some (if isZeroW (c.sr a) then c.next else c.jump i)))

/-- halt (R417, R421). -/
def execHalt (s : State) : Out := .next (s.logit fun c s => s.endRun c)

end Sys2Proof.Machine
end

