-- ==== Sys2Proof/Machine/Sequences.lean ====
section
/-! DEFINITION. Binding sequences to samplers: seqbind, sequnbind and seqstep (R411 to R414, R425) and the edges of
SMP_BIND (R405). -/

namespace Sys2Proof

/-- COUNT of an entry that a CLR has emptied, by draw and entry (R410 gives an empty entry's ID alone): log 32. -/
opaque Config.emptyCount : Nat → Nat → BitVec 32

namespace Machine

/-- A seqbind status (R413). -/
def seqStatus (cause word : Nat) : Word := 0xC000000000000000 ||| field 8 8 word ||| field 0 8 cause

/-! ## Examining a logit program (R69) -/

/-- The fields that R68 names for an opcode, as a mask of the word; none for a reserved opcode. -/
def logitFields (op : Nat) : Option Word32 :=
  let d : Word32 := 0x03800000
  let a : Word32 := 0x00700000
  let b : Word32 := 0x000E0000
  let i : Word32 := 0x00003FFF
  match op with
  | 0x01 => some d
  | 0x02 => some (d ||| a)
  | 0x03 => some (d ||| a ||| b)
  | 0x04 => some (d ||| a ||| b)
  | 0x05 => some (d ||| a)
  | 0x06 => some (d ||| a ||| b)
  | 0x07 => some (d ||| a ||| b)
  | 0x08 => some (d ||| a ||| b)
  | 0x09 => some (d ||| a ||| b)
  | 0x0A => some (d ||| a)
  | 0x0B => some (d ||| a)
  | 0x0C => some (d ||| a)
  | 0x0D => some (d ||| a)
  | 0x0E => some (d ||| a)
  | 0x0F => some a
  | 0x10 => some (d ||| i)
  | 0x11 => some (d ||| i)
  | 0x12 => some (a ||| i)
  | 0x13 => some i
  | 0x14 => some (a ||| i)
  | 0x15 => some (a ||| i)
  | 0x16 => some 0
  | _ => none

/-- What is wrong with word `k` of a program of `n` words (R69, R413); 0 when nothing is. -/
def logitFault (n k : Nat) (w : Word32) : Nat :=
  let op := (fld w 26 6).toNat
  match logitFields op with
  | none => 1
  | some m =>
    let t : Int := (k : Int) + (fld w 0 14).toInt
    if w &&& ~~~m &&& 0x03FE3FFF ≠ 0 then 2
    else if w &&& 0x0001C000 ≠ 0 then 3
    else if (op = 0x11 ∨ op = 0x12) ∧ 63 < (fld w 0 14).toNat then 4
    else if (op = 0x13 ∨ op = 0x14 ∨ op = 0x15) ∧ (t < 0 ∨ (n : Int) ≤ t) then 5
    else 0

/-- The first offending word, with its cause; a program without halt (R69). DESIGN CHOICE: log 61. -/
def logitExamine (ws : List Word32) : Option (Nat × Nat) :=
  match (ws.mapIdx fun k w => (logitFault ws.length k w, k)).find? (·.1 ≠ 0) with
  | some q => some q
  | none => if ws.any (fun w => fld w 26 6 == 0x16) then none else some (6, 0)

/-! ## seqbind, sequnbind, seqstep -/

/-- A sequence register names a larder slot granted to the partition (R411). -/
def State.larderSlot (s : State) (a : Word) : Option (BitVec 12) :=
  if a.extractLsb' 12 52 = 0 ∧ (s.part s.pid).grants.larder.contains (a.extractLsb' 0 12).toNat then some (a.extractLsb' 0 12)
  else none

/-- A larder header that seqbind accepts (R409, R412). -/
def headerOk (h : List Byte) : Bool :=
  let v := ((dwordAt h 3).extractLsb' 0 19).toNat
  decide (1 ≤ v ∧ v ≤ 262144) && (dwordAt h 1).extractLsb' 32 32 == 0 && (dwordAt h 2).extractLsb' 20 44 == 0 &&
    (dwordAt h 3).extractLsb' 20 44 == 0 && (dwordAt h 4).extractLsb' 57 7 == 0 &&
    dwordAt h 5 == 0 && dwordAt h 6 == 0 && dwordAt h 7 == 0

/-- The clearing writes of CLR (R412), behind what the core has itself still to perform there (R425). DESIGN CHOICE: log 32. -/
def State.clearLarder (s : State) (slot : BitVec 12) : State :=
  let (k, s0) := (s.performOwn (larderAt slot) (2 ^ 17)).draw
  let s1 := (List.range 4096).foldl (fun s i =>
    s.writeMem (some s.cur) (larderAt slot + 0x4000 + 8 * i) (leBytes 8 (noId + (Config.emptyCount k i).toNat * 2 ^ 32))) s0
  let d2 := memDword s1.mem (larderAt slot + 16)
  (s1.writeMem (some s.cur) (larderAt slot + 8) (leBytes 4 0)).writeMem (some s.cur) (larderAt slot + 16)
    (leBytes 8 (d2 &&& ~~~0xFFFFF).toNat)

/-- The checks and effects of seqbind (R412): the status, and the state after. -/
def State.seqbind (s : State) (a b : Word) : Word × State :=
  match s.larderSlot a with
  | none => (seqStatus 0x12 0, s)
  | some slot =>
    if (s.lbind slot).isSome then (seqStatus 0x11 0, s)
    else match (if b.extractLsb' 57 7 = 0 then s.readCore b.toNat 32 else .error (b.toNat, .window)) with
      | .error _ => (seqStatus 0x15 0, s)
      | .ok blk =>
        let d0 := dwordAt blk 0
        let d1 := dwordAt blk 1
        let nw := (d1.extractLsb' 0 9).toNat
        let smp : Fin 8 := ⟨(d1.extractLsb' 9 3).toNat, (d1.extractLsb' 9 3).isLt⟩
        let ps := (d1.extractLsb' 12 6).toNat
        let g := (s.part s.pid).grants
        if b.toNat % 32 ≠ 0 ∨ d0.extractLsb' 57 7 ≠ 0 ∨ d1.extractLsb' 19 45 ≠ 0 ∨ dwordAt blk 2 ≠ 0 ∨ dwordAt blk 3 ≠ 0 ∨
            nw = 0 ∨ 256 < nw ∨ d0.toNat % 4 ≠ 0 then (seqStatus 0x10 0, s)
        else if !(g.samplers.contains smp.val && g.pslots.contains (smp.val, ps)) then (seqStatus 0x12 0, s)
        else if !headerOk (s.viewBytes (larderAt slot) 64) then (seqStatus 0x13 0, s)
        else match s.readCore d0.toNat (4 * nw) with
          | .error _ => (seqStatus 0x15 0, s)
          | .ok bytes =>
            let ws : List Word32 := (List.range nw).map fun i => BitVec.ofNat 32 (leNat ((bytes.drop (4 * i)).take 4))
            match logitExamine ws with
            | some q => (seqStatus q.1 q.2, s)
            | none =>
              let used := s.larder.any fun x => x.smp == smp.val && x.pslot == ps
              if used && lookupD s.smps[smp].progs ps [] != ws then (seqStatus 0x14 0, s)
              else
                let s1 := (s.onSmp smp fun x => { x with progs := assign x.progs ps ws })
                let s2 := { s1 with larder := s1.larder ++ [⟨slot, s.pid, smp.val, ps⟩] }
                (0, if d1.getLsbD 18 then s2.clearLarder slot else s2)

/-- seqbind (R411, R412). -/
def execSeqbind (d a b : Reg) (s : State) : Out :=
  .next (s.unsafeIssue fun s => s.withRegs [a, b] fun ws s' =>
    let r := s'.seqbind (ws.getD 0 0) (ws.getD 1 0)
    s.finish r.2 d r.1)

/-- A run of a slot at a sampler: queued or in progress (R414). -/
def Sampler.uses (x : Sampler) (slot : BitVec 12) (queued : Bool) : Bool :=
  x.items.any fun q => q.slot == slot && q.out.isNone && (queued || q.ctx.isSome)

/-- sequnbind (R414). -/
def execSequnbind (a : Reg) (s : State) : Out :=
  .next (s.unsafeIssue fun s => s.withRegs [a] fun ws s' =>
    match s.larderSlot (ws.getD 0 0) with
    | none => s.trap tHANDLE (ws.getD 0 0)
    | some slot =>
      if s.smps.any (·.uses slot true) then s
      else { s' with larder := s'.larder.filter (·.slot ≠ slot) }.retire)

/-- The state word of seqstep (R414). -/
def State.seqWord (s : State) (slot : BitVec 12) : Word :=
  let h := s.viewBytes (larderAt slot) 24
  let st := (dwordAt h 1).extractLsb' 0 32
  let lo : BitVec 20 := (dwordAt h 2).extractLsb' 0 20
  match s.lbind slot with
  | none => field 0 32 st.toNat ||| field 32 20 lo.toNat
  | some b => field 0 32 st.toNat ||| field 32 20 lo.toNat ||| bit 52 true ||| field 53 3 b.smp ||| field 56 6 b.pslot

/-- seqstep (R414, R421): an acquire once it has waited. -/
def execSeqstep (d a : Reg) (s : State) : Out :=
  .next (s.unsafeIssue fun s => s.withRegs [a] fun ws s' =>
    match s.larderSlot (ws.getD 0 0) with
    | none => s.finish s' d (-1)
    | some slot =>
      if s.smps.any (·.uses slot false) then s
      else s.finish (s'.acquire 3) d (s'.seqWord slot))

/-! ## EXT edges (R362, R405) -/

/-- An EXT edge of a direction, of the region in a binding slot. -/
def State.extEdge (s : State) (b : BitVec 3) (id : BitVec 12) (ingress : Bool) : Option (Region × Edge) :=
  (s.region s.cur b).bind fun r => (r.edges.find? fun e => e.id == id && e.ext && e.xin == ingress).map fun e => (r, e)

/-- Launches that own tokens of an edge that is unbound: cancelled with cause LINK (R42, R362, R405). -/
def State.cutLaunches (s : State) (r : Region) (seqs : List (BitVec 8)) : State :=
  seqs.foldl (fun s q => s.failLive r.core r.bslot q (s.self r.origin eLINK)) s

/-- Tokens of an ingress edge that have not reached their port go (R405). -/
def State.dropIngress (s : State) (r : Region) (id : BitVec 12) : List (BitVec 8) × State :=
  let fly := s.flight.filter fun q => q.edge == id && r.tiles.contains q.dst
  let held := r.ingress.filter (·.edge = id)
  let s1 := { s with flight := s.flight.filter fun q => !(q.edge == id && r.tiles.contains q.dst) }.onRegion r.core r.bslot
    fun r => { r with ingress := r.ingress.filter (·.edge ≠ id) }
  ((fly.map (·.tok.seq)) ++ (held.map (·.tok.seq)),
   ((fly.map (·.copy)) ++ (held.map (·.copy))).foldl (fun s q => s.drained q) s1)

/-- The write of SMP_BIND (R405): the status for SMP_BSTAT and the state after; the checks in the order of their codes. -/
def State.smpBind (s : State) (v : Word) : Nat × State :=
  let b := v.extractLsb' 0 3
  let id := v.extractLsb' 3 12
  let n : Fin 8 := ⟨(v.extractLsb' 15 3).toNat, (v.extractLsb' 15 3).isLt⟩
  let out := v.getLsbD 18
  if !(s.part s.pid).grants.samplers.contains n.val then (1, s)
  else match s.extEdge b id out with
    | none => (2, s)
    | some (r, e) =>
      let x := s.smps[n]
      let key := (s.cur, b, id)
      if e.net ≠ (if out then 0 else 1) then (2, s)
      else if v.getLsbD 19 then
        let there := if out then x.outputs.contains key else x.inputs.contains key
        if !there then (0, s)
        else
          let mine (q : SmpItem) : Bool :=
            q.core == s.cur && q.bslot == b && (if out then q.out.isSome else q.edge == id && q.out.isNone)
          let seqs := (x.items.filter mine).map (·.seq)
          let s1 := s.onSmp n fun x =>
            { x with items := x.items.filter (fun q => !mine q), inputs := x.inputs.filter (fun k => out || k != key),
                     skips := x.skips.filter (fun q => out || !(q.core == s.cur && q.bslot == b && q.edge == id)),
                     outputs := x.outputs.filter (fun k => !out || k != key),
                     ctx := mapEach x.ctx fun i o => o.filter fun _ => out || !x.items.any fun q => mine q && q.ctx == some i }
          let s2 := s1.onRegion s.cur b fun r => { r with ends := r.ends.filter (·.1 ≠ id) }
          let (more, s3) := if out then s2.dropIngress r id else ([], s2)
          (0, s3.cutLaunches r (seqs ++ more))
      else if out then
        if x.outputs.any (fun k => k.1 == s.cur && k.2.1 == b) then (3, s)
        else if r.ends.any (·.1 = id) then (4, s)
        else (0, (s.onSmp n fun x => { x with outputs := x.outputs ++ [key] }).onRegion s.cur b fun r =>
          { r with ends := (id, .smpOut n.val) :: r.ends })
      else
        if 16 ≤ x.inputs.length then (3, s)
        else if r.ends.any (·.1 = id) then (4, s)
        else (0, (s.onSmp n fun x => { x with inputs := x.inputs ++ [key] }).onRegion s.cur b fun r =>
          { r with ends := (id, .smpIn n.val) :: r.ends })

/-- SMP_BIND written, SMP_BSTAT set (R405). -/
def State.writeSmpBind (s : State) (v : Word) : State :=
  let r := s.smpBind v
  r.2.setCore { r.2.core with smpStat := BitVec.ofNat 3 r.1 }

/-- SMP_BIND with UNB = 0 (R405). -/
def execSmpBind (s : State) : Out := .next (s.writeSmpBind (s.input.val &&& ~~~(bit 19 true)))

/-- SMP_BIND with UNB = 1 (R405). -/
def execSmpUnbind (s : State) : Out := .next (s.writeSmpBind (s.input.val ||| bit 19 true))

end Machine
end Sys2Proof
end

