-- ==== Sys2Proof/Machine/Remote.lean ====
section
/-! DEFINITION. Beyond the module (R354 to R367): the remote stations, the requests that this module's hub serves, Tarior
flits and ports, and the stream channels of EXT edges. -/

namespace Sys2Proof.Machine

/-! ## Remote stations (R359 to R361) -/

/-- The address check of a remote station (R260, R360). -/
def State.remoteOk (s : State) (p : BitVec 4) (a : Word) (n : Nat) : Bool :=
  windowOf a.toNat == some Window.peer && s.granted p .peer a.toNat n true && decide (a.toNat % n = 0)

/-- The bytes of one operation: a dword, or 16 of them. -/
def remoteSize (f : StF) : Nat := if isV f then 128 else 8

/-- Operations of a station that await replies, those of purged launches among them. -/
def State.awaiting (s : State) (x : Sta) : List ROp := (s.tileAt x.t).remote.filter (·.st = x.st)

/-- Operations of a launch on the tile that await replies, of any memory station. DEDUCED: log 63. -/
def State.awaitingOf (s : State) (x : Sta) (seq : BitVec 8) : List ROp :=
  (s.tileAt x.t).remote.filter fun q => q.tok.seq = seq ∧ !q.dead

/-- A remote operation is sent and awaits its reply. The token keeps its tag and address. -/
def State.sendRemote (s : State) (x : Sta) (q : List (Nat × Token)) (a : Word) (req : RemoteReq) : State :=
  (s.onTile x.t fun (y : Tile) => { y with remote := y.remote ++
    [⟨x.st, tokS (setSeq q) (setIter q) .data a, req, s.routeTo (peerModule a), false⟩] }).request (peerModule a) (some x.t) req

/-- The scope that two bits of a remote station's AUX name (R359), by its code of R59. -/
def auxScope (b : BitVec 2) : BitVec 3 := b.setWidth 3 + 1

/-- A firing of rld, rst or ramo: at most 32 operations await replies, and a STOP follows every reply to its launch's
earlier requests (R360). -/
def State.fireRemote (s : State) (f : StF) (go : Sta → List (Nat × Token) → Word → State → State) : State :=
  s.fireHeads f fun x s =>
    match s.nextSet x (portsOf f) with
    | none => s
    | some (q, s1) =>
      s1.rows x q dataOnly
        (fun n s2 => if (s.awaiting x).any (fun o => o.tok.seq = setSeq q ∧ !o.dead) then s else passStop x q n s2)
        fun s2 =>
          let a := s.opWord x q 0
          if 32 ≤ (s.awaiting x).length then s
          else if s.remoteOk x.r.part a (remoteSize f) then go x q a s2
          else s2.errFire x (setSeq q) (setIter q) (s.self x.t eKIND)

/-- rld (R360). -/
def execRld (f : StF) (s : State) : Out :=
  .next (s.fireRemote f fun x q a s => s.sendRemote x q a (.read (s.part x.r.part).dpn (peerOff a) (remoteSize f)))

/-- rst (R360): a remote store, staged at its target in a staging phase (R348). -/
def execRst (f : StF) (s : State) : Out :=
  .next (s.fireRemote f fun x q a s =>
    let bytes := if isV f then (s.opLanes x q 1).flatMap fun w => leBytes 8 w.toNat else leBytes 8 (s.opWord x q 1).toNat
    s.sendRemote x q a (.write (s.part x.r.part).dpn (peerOff a) bytes ((s.stagingOf x.r (setSeq q)).map (·.2))))

/-- ramo (R360): one that releases follows every remote access of its launch on the tile, and one that acquires comes before
every later access of its station (R333, R361). -/
def execRamo (f : StF) (s : State) : Out :=
  .next (s.fireRemote { f with ty := 2 } fun x q a s2 =>
    let rel := f.aux.getLsbD 5
    if (rel && !(s2.awaitingOf x (setSeq q)).isEmpty) || (f.aux.getLsbD 4 && !(s2.awaiting x).isEmpty) then s
    else
      let s3 := if rel then s2.stRelease x.r (setSeq q) (auxScope (f.aux.extractLsb' 6 2)) else s2
      s3.sendRemote x q a (.atomic (s.part x.r.part).dpn (peerOff a) (f.aux.extractLsb' 0 4) (s.opWord x q 1) (s.opWord x q 2)))

/-- rfence (R361): rel waits for every remote access of its launch on the tile, acq for its reads. -/
def execRfence (f : StF) (s : State) : Out :=
  .next (s.fireHeads f fun x s =>
    match s.hd x 0 with
    | none => s
    | some t =>
      let s1 := s.take x [0]
      let out := s.awaitingOf x t.seq
      let reads := out.filter fun q => match q.op with
        | .read .. => true
        | _ => false
      match t.kind with
      | .data =>
        let acq := f.aux.getLsbD 0
        let rel := f.aux.getLsbD 1
        if (rel && !out.isEmpty) || (acq && !reads.isEmpty) then s
        else
          let k := auxScope (f.aux.extractLsb' 2 2)
          let s2 := if rel then s1.stRelease x.r t.seq k else s1
          (if acq then s2.raceAcquire (.region x.r.core x.r.bslot) k else s2).emits x.t x.st [(none, t)]
      | .stop _ => s1.emits x.t x.st [(none, t)]
      | .error => s1.errFire x t.seq t.iter (t.err (s.self x.t 0))
      | _ => s1.errFire x t.seq t.iter (s.self x.t eKIND))

/-- What a reply makes of a remote operation: its result, or an error firing (R360, R392). None when the reply does not
answer it. -/
def ROp.result (q : ROp) (self : ErrInfo) (r : RemoteRes) : Option Token :=
  let bad (e : ErrInfo) : Token := tokE q.tok.seq q.tok.iter e
  match r, q.op with
  | .value ws, .read _ _ n =>
    some (if n = 8 then tokS q.tok.seq q.tok.iter .data (ws.getD 0 0)
      else tokV q.tok.seq q.tok.iter .data ((List.range 16).map fun j => (ws.getD j 0).setWidth 48))
  | .value ws, .atomic .. => some (tokS q.tok.seq q.tok.iter .data (ws.getD 0 0))
  | .done, .write _ _ bytes _ => some (tokS q.tok.seq q.tok.iter .done (BitVec.ofNat 64 (bytes.length / 8)))
  | .xlate, _ => some (bad { self with origin := peerModule q.tok.pay.word, cause := eXLATE })
  | .link, _ => some (bad { self with cause := eLINK })
  | .preempt, _ => some (bad { self with cause := ePREEMPT })
  | _, _ => none

/-- The acquire that a ramo with acquiring order performs when its value returns (R361). -/
def State.replyAcquire (s : State) (t : TileId) (q : ROp) : State :=
  match q.op, s.regionOf t, s.wordAt t q.st with
  | .atomic .., some r, some w => if w.getLsbD 4 then s.raceAcquire (.region r.core r.bslot) (auxScope (w.extractLsb' 6 2)) else s
  | _, _, _ => s

/-- A reply reaches a station of a tile for one of its operations; that of a purged launch is discarded, and its slot is free
(R367). -/
def State.remoteReply (s : State) (t : TileId) (i : Nat) (r : RemoteRes) : State :=
  match (s.tileAt t).remote[i]? with
  | none => s
  | some q =>
    match q.result (s.self t 0) r with
    | none => s
    | some out =>
      let free (s : State) : State := s.onTile t fun (y : Tile) => { y with remote := y.remote.erase q }
      if q.dead then free s else (free (s.replyAcquire t q)).emits t q.st [(none, out)]

/-- REMOTE_REPLY: the input names the operation of the acting tile and how it is answered; replies come in any order
(R360). A request that left by a failed port is answered with LINK (R364). -/
def execRemoteReply (s : State) : Out :=
  let lost := ((s.tileAt s.tile).remote[s.input.index]?).any fun q => s.viaLost q.via
  .next (s.remoteReply s.tile s.input.index (if lost then .link else s.input.reply))

/-! ## Requests from other modules (R357) -/

/-- The partition of this module with a DPN (R357). DEDUCED: log 64. -/
def State.byDpn (s : State) (d : BitVec 12) : Option (BitVec 4) :=
  ((List.finRange 16).find? fun p => s.parts[p].booted && s.parts[p].dpn == d).map fun p => BitVec.ofNat 4 p.val

/-- What tlbinv removes from a TLB: with ALL every entry, else those whose leaf covers the page. -/
def tlbDrop (w : Word) (l : List TlbEntry) : List TlbEntry :=
  let va := (w.extractLsb' 16 41).toNat * 2 ^ 16
  if w.getLsbD 63 then [] else l.filter fun e => !decide (e.va ≤ va ∧ va < e.va + e.size)

/-- The same of a TLB that several partitions share. -/
def tlbDropOf (p : BitVec 4) (w : Word) (l : List (BitVec 4 × TlbEntry)) : List (BitVec 4 × TlbEntry) :=
  l.filter fun q => q.1 != p || !(tlbDrop w [q.2]).isEmpty

/-- The TLBs of a partition that the predicates name, and the hub's where `hub` says so, without the entries that `w` names (R380). -/
def State.dropTlbs (s : State) (p : BitVec 4) (w : Word) (core : Fin 64 → Bool) (tile : TileId → Bool) (engine : Nat → Bool)
    (hub : Bool) : State :=
  { s with
    cores := mapEach s.cores fun i (c : Core) => if core i then { c with tlb := tlbDrop w c.tlb } else c,
    tiles := s.tiles.map fun (x : Tile) => if tile x.id then { x with tlb := tlbDrop w x.tlb } else x,
    qtlb := s.qtlb.map fun q => if engine q.1 then (q.1, tlbDropOf p w q.2) else q,
    hubTlb := if hub then tlbDropOf p w s.hubTlb else s.hubTlb }

/-- A tlbinv.dom of another module comes to this one: every TLB here of the partition with its DPN drops the entries (R380). -/
def State.tlbinvFrom (s : State) (dpn : BitVec 12) (all : Bool) (page : BitVec 41) : State :=
  match s.byDpn dpn with
  | none => s
  | some p =>
    let w := bit 63 all ||| field 16 41 page.toNat
    (s.dropTlbs p w (fun i => s.cores[i].part == some p) (s.hasTile p) (fun _ => true) true).setPart p { s.part p with
      saved := (s.part p).saved.map fun v => { v with cores := v.cores.map fun q => (q.1, { q.2 with tlb := tlbDrop w q.2.tlb }) } }

/-- The hub's translation of an offset in a partition's translated window, for an access that may not be held (R357). -/
def State.hubTranslate (s : State) (d : BitVec 12) (off : BitVec 45) (need : Need) : Option (Nat × State) :=
  match s.byDpn d with
  | none => none
  | some p =>
    let tlb := (s.hubTlb.filter (·.1 = p)).map Prod.snd
    match s.translate p tlb off.toNat need with
    | .error _ => none
    | .ok (home, none) => some (home, s)
    | .ok (home, some e) => some (home, { s with hubTlb := ((p, e) :: s.hubTlb).take 1024 })

/-- The dwords of a read's answer. -/
def readWords (b : List Byte) : List Word := (List.range ((b.length + 7) / 8)).map fun i => BitVec.ofNat 64 (leNat ((b.drop (8 * i)).take 8))

/-- A remote access performed at this module, with its answer; a fault performs nothing (R357, R360). -/
def State.serveRemote (s : State) : RemoteReq → RemoteRes × State
  | .read d off n =>
    match s.hubTranslate d off .read with
    | none => (.xlate, s)
    | some (h, s1) => (.value (readWords (memGets s1.mem h n)), s1)
  | .write d off bytes staged =>
    if bytes.isEmpty then (.done, s)
    else match s.hubTranslate d off .write with
      | none => (.xlate, s)
      | some (h, s1) => (.done, s1.fillWrite h bytes (staged.bind fun q => (s.byDpn d).map fun p => (p, q)))
  | .atomic d off op b e =>
    match s.hubTranslate d off .both with
    | none => (.xlate, s)
    | some (h, s1) =>
      let t := memDword s1.mem h
      (.value [t], match atomicNew op t b e with
        | none => s1
        | some w => s1.writeAs none h (leBytes 8 w.toNat))

/-- REMOTE_REQUEST_SERVE: a request of another module, which the input names, is performed or answered with a failure (R357).
DEDUCED: log 19. -/
def execRemoteRequestServe (s : State) : Out :=
  let r := s.serveRemote s.input.req
  .next { r.2 with sent := r.2.sent ++ [.remoteAns s.input.module r.1] }

/-! ## Packets of the class channels (R149, R354, R363) -/

/-- A packet's bytes as the payloads of its flits (R355). -/
def payloads (b : List Byte) : List (List Byte) := (List.range (Nat.max 1 ((b.length + 63) / 64))).map fun i => (b.drop (64 * i)).take 64

/-- A packet joins those that wait at a port; one for which no port stands is lost, and a failure answers its request (R364). -/
def State.queuePacket (s : State) (p : Option (Fin 18)) (vc : Nat) (owner : Option TileId) (b : List Byte) : State :=
  match p with
  | none => s
  | some p =>
    if s.ports[p].state = .failed then s
    else s.setPort p { s.ports[p] with outq := s.ports[p].outq ++ [⟨vc, owner, 0, payloads b⟩] }

/-- The other modules that this one reaches: at the far ends of its ports, and those that the supervisor's routing names. -/
def State.domain (s : State) : List (BitVec 10) :=
  (((s.ports.toList.filter (·.state == .up)).map (·.peer) ++ s.routes.map (·.1)).eraseDups).filter (· != s.module)

/-- The hub forms the packets of what was sent (R149): requests on VC 32, responses on 34, everything else on 35; tlbinv.dom goes to
every module. Their bytes are left open. DESIGN CHOICE: log 91. -/
def State.pack (s : State) (x : Sent) : State :=
  let b := Config.packet x
  let send (s : State) (m : BitVec 10) (vc : Nat) : State := s.queuePacket (s.routeTo m) vc none b
  match x with
  | .remoteReq p _ t _ => s.queuePacket p 32 t b
  | .remoteAns m _ => send s m 34
  | .flit m .. => send s m 35
  | .credit m .. => send s m 35
  | .phaseCancel _ _ m => send s m 35
  | .hub _ _ _ m _ => send s m 35
  | .unbound m _ => send s m 35
  | .tlbinv .. => s.domain.foldl (fun s m => send s m 35) s
  | .wire .. => s
  | .replayAsk .. => s

/-- The flits of a class channel leave a port in order while there are credits (R354). -/
def State.pump (p : Fin 18) (vc : Nat) : Nat → State → State
  | 0, s => s
  | n + 1, s =>
    let x := s.ports[p]
    match x.outq.find? (·.vc = vc) with
    | none => s
    | some k =>
      match k.rest with
      | [] => State.pump p vc n (s.setPort p { x with outq := dropFirst (·.vc = vc) x.outq })
      | f :: rest =>
        if lookupD x.creds vc 0 = 0 then s
        else
          let left := if rest.isEmpty then dropFirst (·.vc = vc) x.outq
            else updFirst (·.vc = vc) (fun k => { k with gone := k.gone + 1, rest }) x.outq
          State.pump p vc n ((s.setPort p { x with creds := assign x.creds vc (lookupD x.creds vc 0 - 1), outq := left }).transmit p vc 0 0 f)

/-- What the hub does before a turn: it forms packets of what was sent, and their flits leave as credits allow, each class by itself, so
that none waits for another (R354, R363). -/
def State.hubWork (s : State) : State :=
  if s.packed = s.sent.length ∧ s.ports.toList.all (·.outq.isEmpty) then s
  else
    let s1 := (s.sent.drop s.packed).foldl State.pack s
    let s2 := (List.finRange 18).foldl (fun s p =>
      if s.ports[p].state ≠ .up ∨ s.ports[p].outq.isEmpty then s
      else [32, 33, 34, 35].foldl (fun s vc => State.pump p vc (s.ports[p].outq.map fun k => k.rest.length + 1).sum s) s) s1
    { s2 with packed := s2.sent.length }

/-- The packets of a tile that was reset (R365): one that has left in part ends with an abort flit, and its credits are held until the
hub reclaims them; the others never leave. DESIGN CHOICE: log 120. -/
def State.abortPackets (s : State) (t : TileId) : State :=
  (List.finRange 18).foldl (fun s p =>
    let mine := s.ports[p].outq.filter (·.owner = some t)
    let s1 := s.setPort p { s.ports[p] with outq := s.ports[p].outq.filter (·.owner ≠ some t) }
    (mine.filter (0 < ·.gone)).foldl (fun s k =>
      let s2 := s.transmit p 63 k.vc 0 []
      { s2 with owed := s2.owed ++ [(t, p, k.vc, k.gone)] }) s1) s

/-! ## Stream channels (R362) -/

/-- The EXT edges of a region that are bound to a channel. -/
def Region.onChannel (r : Region) (p vc : Nat) : List (BitVec 12) :=
  r.ends.filterMap fun q => match q.2 with
    | .tarior p' vc' _ => if p' = p ∧ vc' = vc then some q.1 else none
    | _ => none

/-- The EXT edges of this module that are bound to a channel. -/
def State.onChannel (s : State) (p vc : Nat) : List (Region × BitVec 12) :=
  s.regions.flatMap fun r => (r.onChannel p vc).map fun id => (r, id)

/-- Those of the regions that are swapped out. -/
def State.savedOn (s : State) (p vc : Nat) : List (Region × BitVec 12) :=
  s.savedRegions.flatMap fun r => (r.onChannel p vc).map fun id => (r, id)

/-- An ingress entry of an edge. -/
def Region.ingressEdge (r : Region) (id : BitVec 12) : Option Edge := r.edges.find? fun e => e.id == id && e.ext && e.xin

/-- Launches whose tokens stand in a channel on the way out: those sent and not yet credited. -/
def State.inChannel (s : State) (p : Fin 18) (vc : Nat) : List (BitVec 8) :=
  (s.ports[p].far.filter (·.1 = vc)).map (·.2.1)

/-- A port's channel emptied: no partial token, nothing in it on either side. -/
def Port.clearVc (x : Port) (vc : Nat) : Port :=
  { x with partPay := x.partPay.filter (·.1 ≠ vc), far := x.far.filter (·.1 ≠ vc), rx := x.rx.filter (·.1 ≠ vc) }

/-- A port's channel without a binding has no credit (R150). -/
def Port.closeVc (x : Port) (vc : Nat) : Port := { x.clearVc vc with creds := assign x.creds vc 0 }

/-- The receiving end of a channel gives the sender the flits of its buffer, once the port is up: 16 of a stream channel (R362), and of
a class channel a packet's 5 and what else its buffer holds (R354). DESIGN CHOICE: log 99. -/
def State.offerChannel (s : State) (p : Fin 18) (vc : Nat) : State :=
  if s.ports[p].state = .up then s.transmit p 62 vc (if vc < 32 then 16 else Nat.min 255 (5 + Config.classBuffer vc)) [] else s

/-- Every channel of a port that an ingress edge is bound to, and every class channel, offers its buffer. -/
def State.offerChannels (s : State) (p : Fin 18) : State :=
  (List.range 36).foldl (fun s vc =>
    if 32 ≤ vc ∨ (s.onChannel p.val vc ++ s.savedOn p.val vc).any (fun q => (q.1.ingressEdge q.2).isSome) then s.offerChannel p vc else s) s

/-- The launches that own tokens of a channel of a region: those that stand in it on the way out, or wait at the ingress. The owner of
half a vector token that has come in is not known, and it may be any that lives (R355). DESIGN CHOICE: log 98. -/
def State.channelOwners (s : State) (r : Region) (id : BitVec 12) (p : Fin 18) (vc : Nat) : List (BitVec 8) :=
  s.inChannel p vc ++ (r.ingress.filter (·.edge = id)).map (·.tok.seq) ++
    (if s.ports[p].partPay.any (·.1 = vc) then r.live.map (·.seq) else [])

/-- A channel's tokens are discarded, and the launches that own them end with LINK (R362). -/
def State.dropChannel (s : State) (r : Region) (id : BitVec 12) (p : Fin 18) (vc : Nat) : State :=
  let own := s.channelOwners r id p vc
  let d := (s.setPort p (s.ports[p].closeVc vc)).dropIngress r id
  d.2.cutLaunches r (own ++ d.1).eraseDups

/-- An edge is unbound from its channel, which the hub at the far end is told of (R362). -/
def State.unbindChannel (s : State) (r : Region) (id : BitVec 12) (p : Fin 18) (vc : Nat) : State :=
  let far := r.ends.filterMap fun q => match q.2 with
    | .tarior _ _ m => if q.1 = id then some (Sent.unbound m vc) else none
    | _ => none
  let s1 := s.onRegion r.core r.bslot fun r => { r with ends := r.ends.filter (·.1 ≠ id) }
  { s1 with sent := s1.sent ++ far }.dropChannel r id p vc

/-- The region of a swapped-out partition changed where its context is, with launches of it that end with LINK once it is back
(R362, R397). -/
def State.onSaved (s : State) (r : Region) (f : Region → Region) (cut : List (BitVec 8)) : State :=
  s.setPart r.part { s.part r.part with saved := (s.part r.part).saved.map fun v => { v with
    regions := updFirst (fun x => x.core == r.core && x.bslot == r.bslot) f v.regions,
    cut := if cut.isEmpty then v.cut else v.cut ++ [(r.core, r.bslot, cut)] } }

/-- A channel of a region that is swapped out loses its tokens, and the edge its binding where `unbind` says so. -/
def State.dropSaved (s : State) (r : Region) (id : BitVec 12) (p : Fin 18) (vc : Nat) (unbind : Bool) : State :=
  let own := s.channelOwners r id p vc
  (s.setPort p (s.ports[p].closeVc vc)).onSaved r (fun x => { x with
    ingress := x.ingress.filter (·.edge ≠ id), ends := if unbind then x.ends.filter (·.1 ≠ id) else x.ends }) own

/-- The far end of a channel has been unbound (R362): what stands in it here is discarded, and a receiving end offers its buffer
again. -/
def State.farUnbound (s : State) (p : Fin 18) (vc : Nat) : State :=
  let on := s.onChannel p.val vc
  let out := s.savedOn p.val vc
  let s1 := on.foldl (fun s q => s.dropChannel q.1 q.2 p vc) s
  let s2 := out.foldl (fun s q => s.dropSaved q.1 q.2 p vc false) s1
  if (on ++ out).any fun q => (q.1.ingressEdge q.2).isSome then s2.offerChannel p vc else s2

/-- The write of TAR_BIND (R362): the status for TAR_BSTAT and the state after; the checks in the order of their codes. UNB unbinds
the edge that it names, from whichever channel that is bound to. -/
def State.tarBind (s : State) (v : Word) : Nat × State :=
  let b := v.extractLsb' 0 3
  let id := v.extractLsb' 3 12
  let p := num v 15 5
  let vc := num v 20 5
  let far := v.extractLsb' 25 10
  let g := (s.part s.pid).grants
  if h : p < 18 then
    if !(g.ports.contains p && g.channels.contains (p, vc)) then (1, s)
    else match (s.region s.cur b).bind fun r => (r.edges.find? fun e => e.id == id && e.ext).map fun e => (r, e) with
      | none => (2, s)
      | some (r, e) =>
        if v.getLsbD 35 then
          match r.ends.find? (·.1 = id) with
          | some (_, .tarior p' vc' _) => if h' : p' < 18 then (0, s.unbindChannel r id ⟨p', h'⟩ vc') else (0, s)
          | _ => (0, s)
        else if s.onChannel p vc ≠ [] ∨ s.savedOn p vc ≠ [] then (3, s)
        else if r.ends.any (·.1 = id) then (4, s)
        else
          let s1 := { s with ports := s.ports.set p (s.ports[p].clearVc vc) h }.onRegion s.cur b fun r =>
            { r with ends := (id, .tarior p vc far) :: r.ends }
          (0, if e.xin then s1.offerChannel ⟨p, h⟩ vc else s1)
  else (1, s)

/-- TAR_BIND written, TAR_BSTAT set (R362). -/
def State.writeTarBind (s : State) (v : Word) : State :=
  let r := s.tarBind v
  r.2.setCore { r.2.core with tarStat := BitVec.ofNat 3 r.1 }

/-- TAR_BIND with UNB = 0 (R362). -/
def execTarBind (s : State) : Out := .next (s.writeTarBind (s.input.val &&& ~~~(bit 35 true)))

/-- TAR_BIND with UNB = 1 (R362). -/
def execTarUnbind (s : State) : Out := .next (s.writeTarBind (s.input.val ||| bit 35 true))

/-! ## Ports and flits (R355, R356, R364, R366) -/

/-- The remote operations of a tile's stations that left by a port are answered with LINK. -/
def State.cutTile (s : State) (p : Fin 18) (t : TileId) : State :=
  ((s.tileAt t).remote.filter (·.via = some p)).foldl (fun s q =>
    s.remoteReply t ((s.tileAt t).remote.findIdx (· == q)) .link) s

/-- The remote loads and stores of a core that left by a port fail, and so do its copies whose route leads there. -/
def State.cutCore (s : State) (p : Fin 18) (c : Fin 64) : State :=
  let k := s.cores[c]
  let lost (va : BitVec 57) : Bool := s.routeTo (peerModule (va.setWidth 64)) == some p
  let at0 := { s with cur := c }
  let s1 := (k.loads.filter fun l => l.isRemote && l.via == some p).foldl (fun s l => s.failLoad (s.core.loads.findIdx (· == l)) 4) at0
  let s2 := (k.stores.filter fun x => x.isRemote && x.via == some p).foldl (fun s x => s.failStore (s.core.stores.findIdx (· == x))) s1
  let gone (o : CopyOp) : Bool := o.ended.isNone && ((at0.peerEnd o.src && lost o.src) || (at0.peerEnd o.dst && lost o.dst))
  { (k.copies.filter gone).foldl (fun s o => State.endCopy s c o (some eLINK)) s2 with cur := s.cur }

/-- Every request in flight through a port is answered with a failure, with cause LINK (R364). -/
def State.cutRequests (s : State) (p : Fin 18) : State :=
  let s1 := (s.tiles.map (·.id)).foldl (fun s t => s.cutTile p t) s
  (List.finRange 64).foldl (fun s c => s.cutCore p c) s1

/-- A port enters FAILED (R364): the requests in flight through it fail, its stream channels are dissolved, and the partitions
that hold it are told (R379). -/
def State.failPort (s0 : State) (p : Fin 18) : State :=
  let s := s0.cutRequests p
  let s1 := (List.range 32).foldl (fun s vc =>
    (s.savedOn p.val vc).foldl (fun s q => s.dropSaved q.1 q.2 p vc true)
      ((s.onChannel p.val vc).foldl (fun s q => s.unbindChannel q.1 q.2 p vc) s)) s
  let s2 := s1.setPort p { s1.ports[p] with
    state := .failed, partPay := [], rerouted := false, buffer := [], far := [], rx := [], outq := [] }
  (List.finRange 16).foldl (fun s k =>
    if s.parts[k].grants.ports.contains p.val then s.notice (BitVec.ofNat 4 k.val) (BitVec.ofNat 64 (2 + 256 * p.val)) else s) s2

/-- A flit that passed its check breaks the layout of R355 (R356). `k` is how many scalar tokens it holds. -/
def flitBad (b : List Byte) (fseq : BitVec 12) (k : Nat) : Bool :=
  let d := dwAt b 0
  let vc := num d 0 6
  decide (36 ≤ vc ∧ vc ≤ 61) || num d 46 18 != 0 || dirty b 76 80 ||
    (decide (35 < num d 32 6) && num d 38 8 != 0) || d.extractLsb' 8 12 != fseq ||
    (List.range k).any fun i => decide (16 ≤ (b.getD (20 + 16 * i) 0).toNat) || dirty b (21 + 16 * i) (24 + 16 * i)

/-- A flit that is refused: a replay is asked for from the flit expected. `own` says whether it was that flit; when its eighth
replay has failed too, the port enters FAILED (R356). -/
def State.refuseFlit (s : State) (p : Fin 18) (x : Port) (own : Bool) : State :=
  if own ∧ 8 ≤ x.tries then (s.setPort p x).failPort p
  else
    let s1 := s.setPort p { x with tries := if own then x.tries + 1 else x.tries, replay := incSat16 x.replay }
    { s1 with sent := s1.sent ++ [.replayAsk p.val x.fseq] }

/-- What a flit acknowledges leaves the replay buffer (R355, R356). -/
def Port.ack (x : Port) (fack : BitVec 12) : Port :=
  match x.buffer.findIdx? (·.1 == fack) with
  | none => x
  | some i => { x with acked := fack, buffer := x.buffer.drop (i + 1) }

/-- The tokens sent on a channel whose flits are credited leave it, oldest first. -/
def dropFar (vc : Nat) : Nat → List (Nat × BitVec 8 × Nat) → List (Nat × BitVec 8 × Nat)
  | _, [] => []
  | 0, l => l
  | n, q :: l =>
    if q.1 ≠ vc then q :: dropFar vc n l
    else if q.2.2 ≤ n then dropFar vc (n - q.2.2) l
    else (q.1, q.2.1, q.2.2 - n) :: l

/-- Credits of a channel return (R355), 16 at most of a stream channel (R362). -/
def Port.credited (x : Port) (vc n : Nat) : Port :=
  let now := lookupD x.creds vc 0 + n
  if n = 0 then x
  else { x with creds := assign x.creds vc (if vc < 32 then Nat.min 16 now else now), far := dropFar vc n x.far }

/-- The far end asks for a replay from an FSEQ (R356): the flits kept from there on are sent again, each eight times at most. -/
def State.replayFrom (s : State) (p : Fin 18) (fseq : BitVec 12) : State :=
  let x := s.ports[p]
  match x.buffer.findIdx? (·.1 == fseq) with
  | none => s
  | some i =>
    let again := x.buffer.drop i
    if again.any fun q => decide (8 ≤ q.2.2) then s.failPort p
    else
      let s1 := s.setPort p { x with replay := incSat16 x.replay,
                                     buffer := x.buffer.take i ++ again.map fun q => (q.1, q.2.1, q.2.2 + 1) }
      { s1 with sent := s1.sent ++ again.map fun q => .wire p q.2.1 }

/-- A kind by its code (R27). -/
def kindOf (n : Nat) : Kind :=
  if n = 0 then .data else if n < 8 then .stop n else if n = 8 then .error else if n = 9 then .done
  else if n = 10 then .param else if n = 11 then .key else .query

/-- A scalar token of 16 bytes, and a vector token of two flits' payloads (R355). DESIGN CHOICE: log 111. -/
def flitScalar (b : List Byte) : Token :=
  let tag := wAt b 8
  ⟨tag.extractLsb' 24 8, tag.extractLsb' 0 24, kindOf ((b.getD 12 0).toNat % 16), .scalar (dwAt b 0), (0, 0)⟩
def flitVector (b : List Byte) : Token :=
  let tag := wAt b 96
  ⟨tag.extractLsb' 24 8, tag.extractLsb' 0 24, kindOf ((b.getD 100 0).toNat % 16),
   .vector ((List.range 16).map fun j => BitVec.ofNat 48 (leNat ((b.drop (6 * j)).take 6))), (0, 0)⟩

/-- A token of a stream channel comes to the region whose ingress edge is bound to it (R362), and waits at the boundary while that is
swapped out. -/
def State.fromChannel (s : State) (p vc : Nat) (t : Token) : State :=
  match (s.onChannel p vc).head?, (s.savedOn p vc).head? with
  | some (r, id), _ => s.inject r id t
  | none, some (r, id) =>
    match (r.ingressEdge id).bind fun e => t.onNet e.net (s.self e.dst 0) with
    | none => s
    | some t =>
      let q : Held := ⟨id, t, none, s.sentNo, none⟩
      { s with sentNo := s.sentNo + 1 }.onSaved r (fun x => { x with ingress := x.ingress ++ [q] }) []
  | none, none => s

/-- The network of the ingress edge that a channel feeds. -/
def State.channelNet (s : State) (p vc : Nat) : BitVec 2 :=
  (((s.onChannel p vc ++ s.savedOn p vc).head?.bind fun q => q.1.ingressEdge q.2).map (·.net)).getD 0

/-- Whole tokens have come into a channel's receive buffer, in a number of flits, and enter the region or wait there (R362). -/
def State.receive (s : State) (p : Fin 18) (vc flits : Nat) (l : List Token) : State :=
  if (s.onChannel p.val vc ++ s.savedOn p.val vc).isEmpty then s
  else if l.isEmpty then s.transmit p 62 vc flits []
  else
    let x := s.ports[p]
    l.foldl (fun s t => s.fromChannel p.val vc t) (s.setPort p { x with rx := x.rx ++ [(vc, l.length, flits)] })

/-- A whole packet of a class channel (R354, R363): its flits' buffers are free again; one for another module, which the input names, is
forwarded, a request on the forward class; of one of the control class the input says what it tells this hub, and what any other asks
for is a step of its own. DEDUCED: log 62. -/
def State.packetIn (s : State) (p : Fin 18) (vc : Nat) (b : List Byte) : State :=
  let s1 := s.transmit p 62 vc (b.length / 64) []
  if s.input.module ≠ s.module then s1.queuePacket (s.routeTo s.input.module) (if vc = 32 then 33 else vc) none b
  else match s.input.hub with
    | some (.unbound ch) => if vc = 35 then s1.farUnbound p ch else s1
    | some (.tlbinv dpn all page) => if vc = 35 then s1.tlbinvFrom dpn all page else s1
    | _ => s1

/-- The payload of a flit that is delivered on its channel. The input says how many scalar tokens a flit of a stream
channel holds, and whether a packet of a class channel ends with it. -/
def State.deliverFlit (s : State) (p : Fin 18) (vc : Nat) (pay : List Byte) : State :=
  let x := s.ports[p]
  let had := lookupD x.partPay vc []
  let none_ := x.partPay.filter (·.1 ≠ vc)
  if 32 ≤ vc then
    if s.input.ok then (s.setPort p { x with partPay := none_ }).packetIn p vc (had ++ pay)
    else s.setPort p { x with partPay := (vc, had ++ pay) :: none_ }
  else if s.channelNet p.val vc = 1 then
    if had.isEmpty then s.setPort p { x with partPay := (vc, pay) :: none_ }
    else (s.setPort p { x with partPay := none_ }).receive p vc 2 [flitVector (had ++ pay)]
  else s.receive p vc 1 ((List.range (Nat.min 4 s.input.index)).map fun i => flitScalar (pay.drop (16 * i)))

/-- An abort flit ends the packet being received on a channel (R356, R365). The launches of the region that a stream channel is
bound to end with LINK, since the packet's own launch is not known before its second flit (R39). DESIGN CHOICE: log 98. -/
def State.abortChannel (s : State) (p : Fin 18) (vc : Nat) : State :=
  let x := s.ports[p]
  if (x.partPay.find? (·.1 = vc)).isNone then s
  else
    let s1 := (s.onChannel p.val vc).foldl (fun s q => s.cutLaunches q.1 (q.1.live.map (·.seq)))
      (s.setPort p { x with partPay := x.partPay.filter (·.1 ≠ vc) })
    (s.savedOn p.val vc).foldl (fun s q => s.onSaved q.1 id (q.1.live.map (·.seq))) s1

/-- How many scalar tokens a flit holds: those that the input names, on a stream channel of the scalar network. -/
def State.scalarsIn (s : State) (p vc : Nat) : Nat := if vc < 32 ∧ s.channelNet p vc ≠ 1 then Nat.min 4 s.input.index else 0

/-- TARIOR_FLIT_RECEIVE: a flit of 80 bytes at a port that is up, or, with none, the far end's request for a replay from the FSEQ
that the input names (R355, R356). DEDUCED: log 62. -/
def execTariorFlitReceive (s : State) : Out :=
  let p := s.input.port
  let x := s.ports[p]
  let b := s.input.bytes
  if x.state = .up ∧ b = [] then .next (s.replayFrom p (BitVec.ofNat 12 s.input.index))
  else if x.state ≠ .up ∨ b.length ≠ 80 then .next s
  else if crc32c (b.take 72) ≠ wAt b 72 then .next (s.refuseFlit p { x with crcerr := incSat16 x.crcerr } true)
  else if flitBad b x.fseq (s.scalarsIn p.val (num (dwAt b 0) 0 6)) then
    .next (s.refuseFlit p { x with proterr := incSat16 x.proterr } ((dwAt b 0).extractLsb' 8 12 == x.fseq))
  else
    let d := dwAt b 0
    let vc := num d 0 6
    let cvc := num d 32 6
    let x1 := Port.ack { x with fseq := x.fseq + 1, tries := 0 } (d.extractLsb' 20 12)
    if vc = 63 then .next ((s.setPort p x1).abortChannel p cvc)
    else
      let s1 := s.setPort p (x1.credited cvc (num d 38 8))
      .next (if vc = 62 then s1 else s1.deliverFlit p vc ((b.drop 8).take 64))

/-- TARIOR_REROUTE: the supervisor's tables lead the packet traffic to a module through a port that is up, around one that has
failed (R354, R364). -/
def execTariorReroute (s : State) : Out :=
  let x := s.ports[s.input.port]
  let s1 := if h : s.input.index < 18 then
      if s.ports[s.input.index].state = .up then
        { s with routes := (s.input.module, ⟨s.input.index, h⟩) :: s.routes.filter (·.1 ≠ s.input.module) }
      else s
    else s
  .next (if x.state = .failed then s1.setPort s.input.port { x with rerouted := true } else s1)

/-- TARIOR_PORT_RETRAIN: a port that is down or failed starts training; one that trains comes up with the module at its
far end (R364, R366). -/
def execTariorPortRetrain (s : State) : Out :=
  let x := s.ports[s.input.port]
  match x.state with
  | .up => .next s
  | .training =>
    .next (if s.input.ok then (s.setPort s.input.port { x with state := .up, peer := s.input.module, rerouted := false }).offerChannels s.input.port
      else s.setPort s.input.port { x with state := .failed })
  | _ => .next (s.setPort s.input.port
      { x with state := .training, peer := 0x3FF, fseq := 0, tries := 0, partPay := [], creds := [], tseq := 0, acked := 0xFFF,
               buffer := [], far := [], rx := [], outq := [] })

/-- STATE of a port by its code, and the word of TAR_PORTn (R366). -/
def PortState.code : PortState → Nat
  | .down => 0
  | .training => 1
  | .up => 2
  | .failed => 3
def State.tarPort (s : State) (p : Fin 18) : Word :=
  let x := s.ports[p]
  field 0 2 x.state.code ||| field 2 10 x.peer.toNat ||| field 12 16 x.crcerr.toNat ||| field 28 16 x.replay.toNat |||
    bit 44 ((s.part s.pid).grants.ports.contains p.val) ||| field 45 16 x.proterr.toNat

end Sys2Proof.Machine
end

