-- ==== Sys2Proof/Machine/Traps.lean ====
section
/-! DEFINITION. Fetching, interrupts, the instructions that trap, return and wait (R100, R371 to R378), and the debugger
(R434). -/

namespace Sys2Proof.Machine

/-! ## Interrupt conditions (R374) -/

/-- INT_PEND of a core: the conditions that hold (R374). -/
def State.pendOf (s : State) (i : Fin 64) : BitVec 7 :=
  let c := s.cores[i]
  let notice := match c.part with
    | some p => !(s.part p).notices.isEmpty
    | none => false
  (bit 0 c.fq.holds ||| bit 1 (c.hung != 0) ||| bit 2 c.cpyV ||| bit 3 c.rlog.holds |||
    bit 4 c.rclq.holds ||| bit 5 notice ||| bit 6 (c.timecmp.ule c.cycle)).setWidth 7

/-- An enabled condition holds. -/
def State.pending (s : State) : BitVec 7 := s.pendOf s.cur &&& s.core.intEn

/-- The number of the lowest one bit. -/
def lowBit (p : BitVec 7) : Nat := ((List.range 7).find? (p.getLsbD ·)).getD 0

/-- An interrupt is taken at this boundary (R375). A waiting idle completes first (R378). -/
def State.interrupted (s : State) : Bool :=
  s.core.ie && !s.core.inh && s.core.tx.isNone && !s.core.idling && s.pending != 0

/-- INTERRUPT_TAKEN: the lowest pending enabled interrupt enters the handler (R372, R375). -/
def execInterruptTaken (s : State) : Out :=
  .next (if s.core.run = .run ∧ s.interrupted then
    s.enterTrap s.core.pc true (BitVec.ofNat 6 (0x20 + lowBit s.pending)) 0 else s)

/-- TIMER: CYCLE reaches TIMECMP, and the condition holds from then on (R374). -/
def execTimer (s : State) : Out :=
  .next (s.setCore { s.core with cycle := if s.core.timecmp.ule s.core.cycle then s.core.cycle else s.core.timecmp })

/-! ## Fetching (R51, R100) -/

/-- The word at the program counter, with the state in which its translation is installed; none when the fetch faults.
Only the translated window is executable, and no scratchpad byte is (R100, R368). A store that has been performed is
seen without a fence (R96). DESIGN CHOICE: log 104. -/
def State.fetch (s : State) : Option (List Byte × State) :=
  let pc := s.core.pc
  if pc.extractLsb' 57 7 ≠ 0 ∨ windowOf pc.toNat ≠ some .translated then none
  else
    match s.translate s.pid s.core.tlb pc.toNat .exec with
    | .error _ => none
    | .ok (home, e) =>
      if spadBase ≤ home then none
      else
        let s1 := match e with
          | none => s
          | some e => s.setCore { s.core with tlb := tlbAdd s.core.tlb 64 e }
        some (memGets s1.mem home 4, s1)

/-- FETCHFAULT: the fetch at the program counter faults (R82, R100). -/
def execFetchfault (s : State) : Out := .next (s.issue fun s => s.trap tFETCHFAULT s.core.pc)

/-- An hvc whose code is 7 to 31 (R376, R379). -/
def spareHvc (w : Word32) : Bool := w &&& 0xFFFFFFE0 == 0xF000F020 && decide (7 ≤ (w.extractLsb' 0 5).toNat)

/-- ILLEGAL_INSTRUCTION: the word at the program counter is illegal and has no effect (R53, R82). The hvc words that the
table has no row for are not illegal: g3 ← −1 (R379). -/
def execIllegalInstruction (s : State) : Out :=
  .next (match s.fetch with
    | some (b, _) =>
      if spareHvc (BitVec.ofNat 32 (leNat b)) then s.unsafeIssue fun s => (s.setCore (s.core.setReg 3 (-1))).retire
      else s.issue fun s => s.trap tILLEGAL s.core.pc
    | none => s.issue fun s => s.trap tILLEGAL s.core.pc)

/-! ## System calls, breakpoints, return, idle (R378) -/

/-- syscall (R378). -/
def execSyscall (s : State) : Out := .next (s.unsafeIssue fun s => s.trap tSYSCALL 0)

/-- The acting core's partition is in a debug state (R434). -/
def State.debugging (s : State) : Bool := s.vendor || (s.part s.pid).debug

/-- brk (R373, R378, R434): traps, or in a debug state halts the core for the debugger. -/
def execBrk (code : BitVec 5) (s : State) : Out :=
  .next (s.unsafeIssue fun s =>
    if s.debugging then s.setCore { s.core with run := .brk } else s.trap tBRK (code.setWidth 64))

/-- DEBUGGER_COMMAND (R434): the debugger lets a core that brk halted go on behind the brk, when the input says so. What
else the debugger does over the management interface is outside the model (log 15). -/
def execDebuggerCommand (s : State) : Out :=
  let c := s.cores[s.input.core]
  .next (if c.run = .brk ∧ s.input.ok then
    s.setCoreAt s.input.core { c with run := .run, pc := c.pc + 4, instret := c.instret + 1 } else s)

/-- eret (R378). -/
def execEret (s : State) : Out := .next (s.unsafeIssue State.leaveTrap)

/-- idle (R378): waits until an enabled interrupt is pending, whatever IE holds, or a pre-emption arrives. -/
def execIdle (s : State) : Out :=
  .next (s.unsafeIssue fun s =>
    if s.pending ≠ 0 ∨ (s.part s.pid).pre ≠ .running then (s.setCore { s.core with idling := false }).retire
    else s.setCore { s.core with idling := true })

end Sys2Proof.Machine
end

