-- ==== Sys2Proof/Machine/Csr.lean ====
section
/-! DEFINITION. The control and status registers by number: which exist and who reaches them (R78), how they read and
what a write does (R79 and the register tables of the other chapters), and the CSR instructions (R377). -/

namespace Sys2Proof.Machine

/-! ## Values -/

/-- CORE_ID (R79). -/
def State.coreId (s : State) : Word :=
  field 54 10 s.module.toNat ||| field 52 2 (s.cur.val / 16) ||| field 48 4 (s.cur.val % 16)

/-- FUSE_MAPn (R147): bit i of the map of die n / 8 is the tile of index 64 × (n mod 8) + i. -/
def State.fuseMap (s : State) (n : Nat) : Word :=
  (List.range 64).foldl (fun w i =>
    let k := n % 8 * 64 + i
    w ||| bit i (s.fused.contains ⟨BitVec.ofNat 2 (n / 8), BitVec.ofNat 5 (k / 16), BitVec.ofNat 4 (k % 16)⟩)) 0

/-- RACE_CTL (R349). -/
def Core.raceCtl (c : Core) : Word := field 0 16 c.gmode.toNat ||| bit 16 c.cmode ||| bit 17 c.rtrap

/-- HANG_CTL (R387). -/
def Core.hangCtl (c : Core) : Word :=
  field 0 8 c.hangEn.toNat ||| field 8 8 c.hung.toNat ||| field 16 24 c.hangIval.toNat

/-- DRAIN_STAT (R384). -/
def Core.drainStat (c : Core) : Word :=
  field 0 3 c.drSlot.toNat ||| field 3 2 c.drRes.toNat ||| field 8 32 c.drGen.toNat

/-- PWR_GRANT on the acting core's die (R438). -/
def State.pwrWord (s : State) : Word :=
  field 0 12 (s.pwrGrant[(dieOf s.cur).toNat]'((dieOf s.cur).isLt)).toNat ||| field 12 12 s.pwrCap.toNat |||
    field 24 32 s.pwrWin.toNat

/-- The debug state that a partition is in, as SEC_STATE and its reports give it (R434, R438). -/
def State.dbgOf (s : State) (p : BitVec 4) : Nat := if s.vendor then 2 else if (s.part p).debug then 1 else 0

/-- The security state by its code (R438). -/
def Sec.code : Sec → Nat
  | .booting => 0
  | .secure => 1
  | .failed => 2

/-- A power state by its code (R438). -/
def powerCode : Power → Nat
  | .p0 => 0
  | .p1 => 1
  | .p2 => 2
  | _ => 3

/-- SEC_STATE (R438). -/
def State.secState (s : State) : Word :=
  field 0 2 s.sec.code ||| field 2 2 (s.dbgOf s.pid) ||| field 4 3 (powerCode s.power)

/-- TRAP_STAT (R371). -/
def Core.trapStat (c : Core) : Word := bit 0 c.ie ||| bit 1 c.pie ||| bit 2 c.inh

/-- CPY_STAT (R141). -/
def Core.cpyWord (c : Core) : Word := bit 63 c.cpyV ||| field 57 6 c.cpyCause.toNat ||| field 0 57 c.cpyAddr.toNat

/-! ## Which registers exist, and who reaches them (R78) -/

/-- The numbers that name a CSR. -/
def csrExists (n : Nat) : Bool :=
  decide (n ≤ 0x004) || decide (0x010 ≤ n ∧ n ≤ 0x014) || n == 0x016 || n == 0x017 ||
  decide (0x020 ≤ n ∧ n ≤ 0x024) || decide (0x030 ≤ n ∧ n ≤ 0x037) || decide (0x040 ≤ n ∧ n ≤ 0x043) ||
  decide (0x050 ≤ n ∧ n ≤ 0x072) || decide (0x074 ≤ n ∧ n ≤ 0x077) || decide (0x080 ≤ n ∧ n ≤ 0x094) ||
  n == 0x098 || n == 0x099 || n == 0x0A0 || n == 0x0A1 || decide (0x400 ≤ n ∧ n ≤ 0x408) || n == 0x410 || n == 0x411

/-- The cause with which a CSR number traps on the acting core (R78, R434). DEDUCED: a core of the supervisor reaches
every number, and no number above 0x7FF names a CSR (log 38). -/
def State.csrTrap (s : State) (n : Nat) : Option (BitVec 6) :=
  if csrExists n then none
  else if s.core.part.isNone ∨ n < 0x800 then some tCSRNONE
  else if 0xC00 ≤ n ∧ s.debugging then some tCSRNONE
  else some tCSRPRIV

/-! ## Reading -/

/-- A CSR as it reads; a write-only one reads 0 (R377). -/
def State.csrRead (s : State) (n : Nat) : Word :=
  let c := s.core
  let x := s.part s.pid
  if 0x021 ≤ n ∧ n ≤ 0x024 then
    let m := c.mb[(⟨(n - 0x021) % 4, Nat.mod_lt _ (by decide)⟩ : Fin 4)]
    if m.state = .unbound then 0 else m.desc
  else if 0x050 ≤ n ∧ n < 0x070 then s.fuseMap (n - 0x050)
  else if 0x080 ≤ n ∧ n < 0x092 then s.tarPort ⟨(n - 0x080) % 18, Nat.mod_lt _ (by decide)⟩
  else match n with
  | 0x000 => s.coreId
  | 0x001 => field 0 4 s.pid.toNat
  | 0x002 => c.cycle
  | 0x003 => c.instret
  | 0x004 => c.arithStat
  | 0x010 => c.outst
  | 0x011 => c.cpyWord
  | 0x012 => c.txStat
  | 0x013 => field 2 62 c.txFall.toNat
  | 0x014 => c.raceCtl
  | 0x016 => field 0 57 c.rlog.base.toNat
  | 0x017 => c.rlog.word ||| field 36 12 c.rlogDrop.toNat
  | 0x020 => c.mbState
  | 0x030 => s.lqState
  | 0x031 => bit 0 c.balEn ||| field 4 4 c.balTh.toNat
  | 0x032 => field 0 32 x.jccTarget.toNat
  | 0x033 => bit 0 c.stageEn
  | 0x034 => c.hangCtl
  | 0x035 => field 15 42 c.hangMap.toNat
  | 0x036 => field 28 29 c.ckptBase.toNat
  | 0x037 => c.drainStat
  | 0x040 => c.lpre0h
  | 0x041 => field 0 32 c.lpre0v.toNat
  | 0x042 => c.lpre1h
  | 0x043 => field 0 32 c.lpre1v.toNat
  | 0x070 => field 12 40 x.ptRoot.toNat
  | 0x071 => field 0 27 x.ptLen.toNat
  | 0x072 => field 0 14 c.holdLim.toNat
  | 0x074 => field 16 41 x.staBase.toNat
  | 0x075 => field 0 16 x.nlist.toNat ||| field 16 24 x.nblk.toNat
  | 0x076 => field 0 57 c.rclq.base.toNat
  | 0x077 => c.rclq.word
  | 0x092 => field 0 12 x.dpn.toNat
  | 0x094 => field 0 3 c.tarStat.toNat
  | 0x099 => field 0 3 c.smpStat.toNat
  | 0x0A0 => s.pwrWord
  | 0x0A1 => s.secState
  | 0x400 => field 2 62 c.trapVec.toNat
  | 0x401 => c.trapPc
  | 0x402 => field 0 6 c.fcode.toNat ||| bit 8 c.intr
  | 0x403 => c.faddr
  | 0x404 => c.trapStat
  | 0x405 => c.scr
  | 0x406 => field 0 7 (s.pendOf s.cur).toNat
  | 0x407 => field 0 7 c.intEn.toNat
  | 0x408 => c.timecmp
  | 0x410 => field 0 57 c.fq.base.toNat
  | 0x411 => c.fq.word
  | _ => 0

/-! ## Writing -/

/-- The RW and W1C fields of a CSR, as masks. What a mask leaves out is RO, WO or reserved. -/
def csrMask : Nat → Word × Word
  | 0x004 => (0, 0x3)
  | 0x011 => (0, 0x8000000000000000)
  | 0x013 => (0xFFFFFFFFFFFFFFFC, 0)
  | 0x014 => (0x3FFFF, 0)
  | 0x016 => (0x01FFFFFFFFFFFFE0, 0)
  | 0x017 => (0xFFFFFF, 0)
  | 0x030 => (0, 0x8080808080808080)
  | 0x031 => (0xF1, 0)
  | 0x032 => (0xFFFFFFFF, 0)
  | 0x033 => (0x1, 0)
  | 0x034 => (0xFFFFFF00FF, 0xFF00)
  | 0x035 => (0x01FFFFFFFFFF8000, 0)
  | 0x036 => (0x01FFFFFFF0000000, 0)
  | 0x040 => (0xFFFFFFFFFFFFFFFF, 0)
  | 0x041 => (0xFFFFFFFF, 0)
  | 0x042 => (0xFFFFFFFFFFFFFFFF, 0)
  | 0x043 => (0xFFFFFFFF, 0)
  | 0x070 => (0x000FFFFFFFFFF000, 0)
  | 0x071 => (0x7FFFFFF, 0)
  | 0x072 => (0x3FFF, 0)
  | 0x074 => (0x01FFFFFFFFFF0000, 0)
  | 0x075 => (0xFFFFFFFFFF, 0)
  | 0x076 => (0x01FFFFFFFFFFFFE0, 0)
  | 0x077 => (0xFFFFFF, 0)
  | 0x400 => (0xFFFFFFFFFFFFFFFC, 0)
  | 0x401 => (0xFFFFFFFFFFFFFFFF, 0)
  | 0x402 => (0x13F, 0)
  | 0x403 => (0xFFFFFFFFFFFFFFFF, 0)
  | 0x404 => (0x7, 0)
  | 0x405 => (0xFFFFFFFFFFFFFFFF, 0)
  | 0x407 => (0x7F, 0)
  | 0x408 => (0xFFFFFFFFFFFFFFFF, 0)
  | 0x410 => (0x01FFFFFFFFFFFFE0, 0)
  | 0x411 => (0xFFFFFF, 0)
  | _ => (0, 0)

/-- Bits [56:5] of a word, as a ring's base. -/
def ringBase (v : Word) : BitVec 57 := v.extractLsb' 5 52 ++ (0 : BitVec 5)

/-- HANG_CTL written: EN and IVAL take the value, HUNG bits written as 1 clear (R387). -/
def Core.writeHang (c : Core) (v : Word) : Core :=
  { c with hangEn := v.extractLsb' 0 8, hung := c.hung &&& ~~~(v.extractLsb' 8 8), hangIval := v.extractLsb' 16 24 }

/-- RLOG_CTL written: a changed SIZE also clears DROP (R352). -/
def Core.writeRlog (c : Core) (v : Word) : Core :=
  { c with rlog := c.rlog.write v, rlogDrop := if v.extractLsb' 0 12 ≠ c.rlog.size then 0 else c.rlogDrop }

/-- HOLD_LIM as it is written (R287). -/
def holdLimit (v : Word) : BitVec 14 :=
  if (v.extractLsb' 0 14).toNat < 1 then 1 else if 10000 < (v.extractLsb' 0 14).toNat then 10000 else v.extractLsb' 0 14

/-- CSRs of the core alone, written; a field outside the masks keeps its value. DEDUCED: log 20. -/
def Core.csrWrite (c : Core) (n : Nat) (v : Word) : Core :=
  match n with
  | 0x004 => { c with dz := c.dz && !v.getLsbD 0, ovf := c.ovf && !v.getLsbD 1 }
  | 0x011 => { c with cpyV := c.cpyV && !v.getLsbD 63 }
  | 0x013 => { c with txFall := v.extractLsb' 2 62 }
  | 0x014 => { c with gmode := v.extractLsb' 0 16, cmode := v.getLsbD 16, rtrap := v.getLsbD 17 }
  | 0x016 => { c with rlog := { c.rlog with base := ringBase v } }
  | 0x017 => c.writeRlog v
  | 0x031 => { c with balEn := v.getLsbD 0, balTh := v.extractLsb' 4 4 }
  | 0x033 => { c with stageEn := v.getLsbD 0 }
  | 0x034 => c.writeHang v
  | 0x035 => { c with hangMap := v.extractLsb' 15 42 }
  | 0x036 => { c with ckptBase := v.extractLsb' 28 29 }
  | 0x040 => { c with lpre0h := v }
  | 0x041 => { c with lpre0v := v.extractLsb' 0 32 }
  | 0x042 => { c with lpre1h := v }
  | 0x043 => { c with lpre1v := v.extractLsb' 0 32 }
  | 0x072 => { c with holdLim := holdLimit v }
  | 0x076 => { c with rclq := { c.rclq with base := ringBase v } }
  | 0x077 => { c with rclq := c.rclq.write v }
  | 0x400 => { c with trapVec := v.extractLsb' 2 62 }
  | 0x401 => { c with trapPc := v }
  | 0x402 => { c with fcode := v.extractLsb' 0 6, intr := v.getLsbD 8 }
  | 0x403 => { c with faddr := v }
  | 0x404 => { c with ie := v.getLsbD 0, pie := v.getLsbD 1, inh := v.getLsbD 2 }
  | 0x405 => { c with scr := v }
  | 0x407 => { c with intEn := v.extractLsb' 0 7 }
  | 0x408 => { c with timecmp := v }
  | 0x410 => { c with fq := { c.fq with base := ringBase v } }
  | 0x411 => { c with fq := c.fq.write v }
  | _ => c

/-- A CSR written (R377): those that the partition shares, those whose write starts something, and the core's own. -/
def State.csrWrite (s : State) (n : Nat) (v : Word) : State :=
  match n with
  | 0x030 => s.writeLqState v
  | 0x032 => s.writeJccTarget v
  | 0x070 => s.setPart s.pid { s.part s.pid with ptRoot := v.extractLsb' 12 40 }
  | 0x071 => s.setPart s.pid { s.part s.pid with ptLen := v.extractLsb' 0 27 }
  | 0x074 => s.setPart s.pid { s.part s.pid with staBase := v.extractLsb' 16 41 }
  | 0x075 => s.writeStaGeom s.pid v
  | 0x093 => s.writeTarBind v
  | 0x098 => s.writeSmpBind v
  | _ => s.setCore (s.core.csrWrite n v)

/-! ## Instructions (R377) -/

/-- The acquire that a read of a record ring's control register performs (R307). -/
def State.csrAcquire (s : State) (n : Nat) : State :=
  if n = 0x077 ∨ n = 0x017 ∨ n = 0x411 then s.acquire 3 else s

/-- csrrd (R377): no write, and allowed inside a commit region (R344). -/
def execCsrrd (d : Reg) (c : BitVec 12) (s : State) : Out :=
  .next (s.issue fun s =>
    match s.csrTrap c.toNat with
    | some code => s.trap code 0
    | none => s.finish (s.csrAcquire c.toNat) d (s.csrRead c.toNat))

/-- An instruction that writes a CSR: the old value goes to d, and `f` of the old value and a is written (R377).
DEDUCED: log 22. DEDUCED: log 66. -/
def State.csrStep (s : State) (d a : Reg) (n : Nat) (f : Word → Word → State → State) : State :=
  s.unsafeIssue fun s =>
    match s.csrTrap n with
    | some code => s.trap code 0
    | none => s.withRegs [a] fun ws s' =>
      let old := s'.csrRead n
      s.finish (f old (ws.getD 0 0) s') d old

/-- csrwr (R377). -/
def execCsrwr (d a : Reg) (c : BitVec 12) (s : State) : Out :=
  .next (s.csrStep d a c.toNat fun _ v s => s.csrWrite c.toNat v)

/-- csrset (R377). A CSR without an RW or W1C field is left as it is. -/
def execCsrset (d a : Reg) (c : BitVec 12) (s : State) : Out :=
  .next (s.csrStep d a c.toNat fun old v s =>
    let m := csrMask c.toNat
    if m.1 ||| m.2 = 0 then s else s.csrWrite c.toNat (((old ||| v) &&& m.1) ||| (v &&& m.2)))

/-- csrclr (R377): W1C fields are unchanged. -/
def execCsrclr (d a : Reg) (c : BitVec 12) (s : State) : Out :=
  .next (s.csrStep d a c.toNat fun old v s =>
    let m := csrMask c.toNat
    if m.1 = 0 then s else s.csrWrite c.toNat ((old &&& ~~~v) &&& m.1))

/-! ## The table's rows of CSR writes -/

/-- RCLQ_CTL_WRITE (R307). -/
def execRclqCtlWrite (s : State) : Out := .next (s.csrWrite 0x077 s.input.val)
/-- RLOG_CTL_WRITE (R352). -/
def execRlogCtlWrite (s : State) : Out := .next (s.csrWrite 0x017 s.input.val)
/-- FQ_CTL_WRITE (R382). -/
def execFqCtlWrite (s : State) : Out := .next (s.csrWrite 0x411 s.input.val)
/-- HANG_CTL_WRITE (R387). -/
def execHangCtlWrite (s : State) : Out := .next (s.csrWrite 0x034 s.input.val)

end Sys2Proof.Machine
end

