-- ==== Sys2Proof/Machine/Checkpoint.lean ====
section
/-! DEFINITION. Region checkpoints and drains (R384 to R386), resume and the hold limit (R287, R383), and the hang
monitor (R387, R388). -/

namespace Sys2Proof.Machine

/-- Writing `w` to d would not wait for a mailbox credit. -/
def State.mayPut (s : State) (d : Reg) : Bool :=
  match s.putReg d 0 with
  | .wait => false
  | _ => true

/-! ## The area (R384) -/

/-- Where a region's checkpoint area begins. -/
def State.ckptAddr (s : State) (r : Region) : Nat := s.cores[r.core].ckptBase.toNat * 2 ^ 28 + r.bslot.toNat * 2 ^ 28

/-- Bytes of a tile's block. -/
def ckptBlockLen (t : TileId) : Nat := if t.isMT then 0x80000 else 0x8000

/-- The area of a region in 64 KiB units: the header and one block per tile, rounded up (log 12). -/
def Region.ckptUnits (r : Region) : Nat := (64 + (r.tiles.map ckptBlockLen).sum + 0xFFFF) / 0x10000

/-- Windows that an area and a map may lie in. DEDUCED: log 68. -/
def areaWindows : List Window := [.translated, .vault]

/-- The header with a generation. -/
def ckptHeader (gen serial crc : BitVec 32) (units : Nat) : List Byte :=
  leBytes 8 0x010D7C0C4B ++ leBytes 4 gen.toNat ++ leBytes 4 serial.toNat ++ leBytes 4 crc.toNat ++ leBytes 4 units ++ leBytes 40 0

/-- The bins of a run that are not at reset, by number within the run. -/
def State.binRun (s : State) (first n : Nat) : List (Nat × Bin) :=
  (s.bins.filter fun (b : Nat × Bin) => decide (first ≤ b.1 ∧ b.1 < first + n)).map fun (b : Nat × Bin) => (b.1 - first, b.2)

/-- The bins of a run replaced. -/
def State.setBinRun (s : State) (first n : Nat) (l : List (Nat × Bin)) : State :=
  { s with bins := (l.map fun (b : Nat × Bin) => (b.1 + first, b.2)) ++
      s.bins.filter fun (b : Nat × Bin) => !decide (first ≤ b.1 ∧ b.1 < first + n) }

/-- What a tile keeps between launches (R384). -/
def State.ckptBlock (s : State) (t : TileId) : CkBlock :=
  let x := s.tileAt t
  let base := tileOff t
  if t.isMT then
    { banks := Vector.replicate 4 Bank.zero, rcl := { x.rcl with gather := [] },
      bins := s.binRun (base / 256) 1024, bytes := memGets s.mem (spadBase + base) 0x40000 }
  else { banks := mapAll x.mx.banks (fun (b : Bank) => { b with q := [] }), rcl := Recall.zero, bins := [], bytes := [] }

/-- A tile given back what its block holds (R386). -/
def State.restoreBlock (s : State) (t : TileId) (b : CkBlock) : State :=
  let base := tileOff t
  if t.isMT then
    ((s.onTile t fun x => { x with rcl := b.rcl }).setBinRun (base / 256) 1024 b.bins).writeMem none (spadBase + base) b.bytes
  else s.onTile t fun x => { x with mx := { x.mx with banks := b.banks } }

/-- Bytes written upward until one 64-byte piece faults or is refused; whether all were written (R385). -/
def State.writeUntil (s : State) (p : BitVec 4) : List (Nat × Nat) → Nat → List Byte → State × Bool
  | [], _, _ => (s, true)
  | (va, n) :: rest, base, bytes =>
    match s.writeV p areaWindows va ((bytes.drop (va - base)).take n) with
    | .error _ => (s, false)
    | .ok s1 => s1.writeUntil p rest base bytes

/-- A range written upward (R385). -/
def State.writeArea (s : State) (p : BitVec 4) (va : Nat) (bytes : List Byte) : State × Bool :=
  s.writeUntil p (chunks va bytes.length) va bytes

/-- Ranges written in order, up to one that fails; whether all were written (R385). -/
def State.writeAreas (s : State) (p : BitVec 4) : List (Nat × List Byte) → State × Bool
  | [] => (s, true)
  | (va, bytes) :: rest =>
    let w := s.writeArea p va bytes
    if w.2 then w.1.writeAreas p rest else w

/-! ## ckpt (R385) -/

/-- What the area of a region holds after its header (log 12). -/
def State.ckptArea (s : State) (r : Region) : List Byte := (List.range (0x10000 * r.ckptUnits - 64)).map (Config.ckptLayout s.fresh)

/-- The writes of a checkpoint, in order: the header with GEN 0, the blocks, the CRC, then GEN. -/
def State.ckptWrites (s : State) (r : Region) : List (Nat × List Byte) :=
  let head (gen crc : BitVec 32) := (s.ckptAddr r, ckptHeader gen r.serial crc r.ckptUnits)
  [head 0 0, (s.ckptAddr r + 64, s.ckptArea r), head 0 (crc32c (s.ckptArea r)), head (r.ckGen + 1) (crc32c (s.ckptArea r))]

/-- The checkpoint of a quiet region: the generation written, or none when a write failed. -/
def State.checkpoint (s : State) (r : Region) : Option (BitVec 32) × State :=
  let w := { s with fresh := s.fresh + 1 }.writeAreas r.part (s.ckptWrites r)
  if w.2 then
    let s1 := { w.1 with ckpts := ⟨r.serial, r.ckGen + 1, s.ckptArea r, r.tiles.map s.ckptBlock⟩ :: w.1.ckpts }
    (some (r.ckGen + 1), (s1.onRegion r.core r.bslot fun x => { x with ckGen := r.ckGen + 1 }).raceRelease (.region r.core r.bslot) 3)
  else (none, w.1)

/-- CKPT (R385): waits with launch starts stopped until no launch is live and no drain is on its way (R397). -/
def execCkpt (d a : Reg) (s : State) : Out :=
  .next (s.unsafeIssue fun s => s.withRegs [a] fun ws s1 =>
    match s1.graphMine (ws.getD 0 0) with
    | .error e => s.finish s1 d (hStatus e)
    | .ok r =>
      if !s1.mayPut d then s
      else if r.live ≠ [] ∨ r.draining then s.onRegion r.core r.bslot fun x => { x with ckpting := true }
      else
        match s1.checkpoint r with
        | (some gen, s2) => s.finish (s2.onRegion r.core r.bslot fun x => { x with ckpting := false }) d (gen.setWidth 64)
        | (none, s2) => s.finish (s2.onRegion r.core r.bslot fun x => { x with ckpting := false }) d (hStatus (-8)))

/-! ## drain (R386) -/

/-- A drain begins: the queue is frozen, a hang is thawed, and every live launch is cancelled. -/
def State.drainStart (s : State) (r : Region) (cause : BitVec 6) : State :=
  (s.onRegion r.core r.bslot fun x => { x with frozen := true, hung := false, draining := true }).cancelAll r.core r.bslot
    ⟨s.module, r.origin, cause⟩

/-- What step 3 of a drain finds in the area: RES, and the checkpoint that it restores. -/
def State.drainFind (s : State) (r : Region) : BitVec 2 × Option Snapshot :=
  match s.readV r.part areaWindows (s.ckptAddr r) (0x10000 * r.ckptUnits) with
  | .error _ => (2, none)
  | .ok b =>
    let d1 := dwAt b 8
    if dwAt b 0 ≠ 0x010D7C0C4B ∨ d1.extractLsb' 32 32 ≠ r.serial ∨ d1.extractLsb' 0 32 = 0 then (1, none)
    else if wAt b 16 ≠ crc32c (b.drop 64) then (2, none)
    else
      match s.ckpts.find? fun k => k.serial == r.serial && k.gen == d1.extractLsb' 0 32 && k.area == b.drop 64 with
      | none => (2, none)
      | some k => (0, some k)

/-- A drain ends, once every launch it cancelled has ended (R386). -/
def State.drainEnd (s : State) (r : Region) : State :=
  let found := s.drainFind r
  let s1 := match found.2 with
    | none => s
    | some k => (r.tiles.zip k.blocks).foldl (fun (s : State) (q : TileId × CkBlock) => s.restoreBlock q.1 q.2) s
  let s2 := s1.onRegion r.core r.bslot fun x => { x with draining := false }
  s2.setCoreAt r.core { s2.cores[r.core] with
    drSlot := r.bslot, drRes := found.1, drGen := (found.2.map Snapshot.gen).getD 0 }

/-- DRAIN (R386). -/
def execDrain (a : Reg) (s : State) : Out :=
  .next (s.unsafeIssue fun s => s.withRegs [a] fun ws s1 =>
    match s1.graphMine (ws.getD 0 0) with
    | .error _ => s.trap tHANDLE (ws.getD 0 0)
    | .ok r =>
      let go (s : State) : State := s.drainStart r eCANCEL
      match (go s1).region r.core r.bslot with
      | some x => if x.live ≠ [] then go s else ((go s1).drainEnd x).retire
      | none => s)

/-! ## resume and the hold limit (R383, R287) -/

/-- The streams of `p` go on or are given up; of these, the ones whose records are posted are forgotten. -/
def releaseHolds (p : Hold → Bool) (l : List Hold) : List Hold :=
  (l.map fun (h : Hold) => if p h then { h with stuck := false } else h).filter fun (h : Hold) => h.stuck || !h.posted

/-- The issuing core that a copy's holder word names (R286). -/
def holderCore (w : Word) : Fin 64 := ⟨(w.extractLsb' 2 2 ++ w.extractLsb' 24 4).toNat, (w.extractLsb' 2 2 ++ w.extractLsb' 24 4).isLt⟩

/-- Reserved fields of a holder word are zero, and its holder lies in the acting core's partition (R286, R383). -/
def State.holderOk (s : State) (w : Word) : Bool :=
  w.extractLsb' 29 3 == 0 && w.extractLsb' 48 16 == 0 &&
    if w.extractLsb' 0 2 = 3 then s.cores[holderCore w].part == some s.pid
    else s.hasTile s.pid ⟨w.extractLsb' 2 2, w.extractLsb' 4 5, w.extractLsb' 9 4⟩

/-- The tile of a holder, unless it is a copy. -/
def Holder.tile : Holder → Option TileId
  | .ag t _ => some t
  | .mem t _ => some t
  | .quarry t _ _ => some t
  | .copy .. => none

/-- The region of a withheld stream is being drained: its withheld accesses are no longer resumed (R287). -/
def State.holdDrains (s : State) (h : Hold) : Bool := ((h.holder.tile.bind s.regionOf).map (·.draining)).getD false

/-- The core has refused a fault when it resumes the stream with the access still faulting; a WINDOW fault cannot be mapped
(R286). DEDUCED: log 96. -/
def State.refuses (s : State) (h : Hold) : Bool :=
  h.reason == .window ||
    match s.translate ((s.cores[h.core].part).getD 0) [] h.va.toNat (if h.write then .write else .read) with
    | .ok _ => false
    | .error _ => true

/-- A withheld access translates again: its holder's TLB keeps no entry for it (R383). -/
def State.walkAgain (s : State) (h : Hold) : State :=
  let w := field 16 41 (h.va.toNat / 2 ^ 16)
  let p := (s.cores[h.core].part).getD 0
  match h.holder with
  | .ag t _ | .mem t _ => s.onTile t fun x => { x with tlb := tlbDrop w x.tlb }
  | .quarry _ _ e => { s with qtlb := s.qtlb.map fun q => if q.1 = e then (q.1, tlbDropOf p w q.2) else q }
  | .copy .. => s

/-- A withheld stream is resumed: it goes on from its withheld access, and translates again; a refusal cancels the launch, or
fails the copy, with XLATE (R286, R383). -/
def State.resumeHold (s : State) (h : Hold) : State :=
  let s1 := { s.walkAgain h with holds := releaseHolds (· == h) s.holds }
  if !s.refuses h then s1
  else match h.holder with
    | .copy c ser =>
      match s.cores[c].copies.find? (·.serial = ser) with
      | none => s1
      | some op => State.endCopy s1 c op (some eXLATE)
    | .ag t _ | .mem t _ | .quarry t _ _ =>
      match s.regionOf t with
      | none => s1
      | some r => s1.failLive r.core r.bslot h.seq (s.self t eXLATE)

/-- RESUME (R383). A holder word that names no withheld stream, or one of a region being drained, has no effect (R287). -/
def execResume (a : Reg) (s : State) : Out :=
  .next (s.unsafeIssue fun s => s.withRegs [a] fun ws s1 =>
    let w := ws.getD 0 0
    if !s.holderOk w then s.trap tHANDLE w
    else ((s1.holds.filter fun h => h.word == w && h.stuck && !s1.holdDrains h).foldl (fun s h => s.resumeHold h) s1).retire)

/-- The hold limit strikes a withheld stream (R287): a copy fails with HOLD; a region's launches are cancelled with HOLD,
and it drains. -/
def State.holdExpires (s : State) (h : Hold) : State :=
  match h.holder with
  | .copy c ser =>
    let s1 := { s with holds := releaseHolds (· == h) s.holds }
    match s.cores[c].copies.find? (·.serial = ser) with
    | none => s1
    | some op => State.endCopy s1 c op (some eHOLD)
  | .ag t _ | .mem t _ | .quarry t _ _ =>
    match s.regionOf t with
    | none => s
    | some r => s.drainStart r eHOLD

/-- The timer of a withheld stream has reached the limit of LIM µs, at 1,750 cycles each (R287). -/
def State.holdDue (s : State) (h : Hold) : Bool := decide (1750 * s.cores[h.core].holdLim.toNat ≤ h.time)

/-- HOLD_LIMIT_EXPIRY (R287, R386): a drain that this has begun ends when its launches have; else the timer of a
withheld stream, which pauses while its partition is out (R393), runs out. -/
def execHoldLimitExpiry (s : State) : Out :=
  match s.regions.find? fun r => r.draining && r.live.isEmpty with
  | some r => .next (s.drainEnd r)
  | none =>
    match (s.holds.filter (·.stuck))[s.input.index]? with
    | none => .next s
    | some h => .next (if ((s.cores[h.core].part).map fun p => (s.part p).pre == .halted).getD false || !s.holdDue h then s
        else s.holdExpires h)

/-! ## The hang monitor (R387, R388) -/

/-- The switch output buffers of a tile that hold a token, as bits network × 5 + output (R388). -/
def State.hangBuffers (s : State) (t : TileId) : Nat :=
  ((List.range 15).map fun k => if s.bufTaken (t, k) then 2 ^ k else 0).sum

/-- A tile's entry of a hang map (R388). -/
def State.hangEntry (s : State) (q : TileId × Nat × Nat) : List Byte :=
  let x := s.tileAt q.1
  let occ (st p : Nat) : Nat := (x.queue.filter fun e => e.st = st ∧ e.port = p).length
  let d0 := field 0 5 q.2.1 ||| field 5 4 q.2.2 ||| bit 9 q.1.isMT ||| field 10 10 x.store.length |||
    field 20 15 (s.hangBuffers q.1)
  let n := ((List.range (if q.1.isMT then 8 else 16)).map fun st =>
    ((List.range 3).map fun p => occ st p % 16 * 2 ^ (12 * st + 4 * p)).sum).sum
  leBytes 8 d0.toNat ++ leBytes 24 n

/-- The map of a region (R388). -/
def State.hangMapOf (s : State) (r : Region) : List Byte :=
  leBytes 8 (field 0 3 r.bslot.toNat ||| field 16 16 r.tiles.length).toNat ++ leBytes 8 s.cores[r.core].cycle.toNat ++
    leBytes 48 0 ++ r.lpos.flatMap s.hangEntry

/-- A watched region may be declared hung now (R387): it is not empty, no station of it has fired for the interval, and no stream
of it is withheld. -/
def State.hangable (s : State) (r : Region) : Bool :=
  s.core.hangEn.getLsbD r.bslot.toNat && s.core.hangIval != 0 && decide (256 * s.core.hangIval.toNat ≤ r.quiet) &&
    r.resident && !r.hung && !s.regionEmpty r && (s.part r.part).pre == .running && !s.withholds r

/-- HANG_DECLARED (R387): no station of the region has fired for the interval. It is frozen, its map is written where
that may be written, and HUNG is set. -/
def execHangDeclared (s : State) : Out :=
  match s.region s.cur s.input.bslot with
  | none => .next s
  | some r =>
    if !s.hangable r then .next s
    else
      let va := s.core.hangMap.toNat * 2 ^ 15 + r.bslot.toNat * 2 ^ 15
      let s1 := match s.writeV r.part memWindows va (s.hangMapOf r) with
        | .ok s' => s'.raceRelease (.region r.core r.bslot) 3
        | .error _ => s
      let s2 := s1.onRegion r.core r.bslot fun x => { x with frozen := true, hung := true }
      .next (s2.setCore { s2.core with hung := s2.core.hung ||| BitVec.ofNat 8 (2 ^ r.bslot.toNat) })

end Sys2Proof.Machine
end

