-- ==== Sys2Proof/Machine/ControlNet.lean ====
section
/-! DEFINITION. The control-network stations (R45, R46, R253 to R257). -/

namespace Sys2Proof.Machine

/-- A pulse on the control network (R45). -/
def pulse (seq : BitVec 8) (iter : BitVec 24) : Token := ⟨seq, iter, .data, .ctl true, (0, 0)⟩

/-- bar (R254): poisoned for a launch once it has forwarded an ERROR of it. -/
def execBar (f : StF) (s : State) : Out :=
  .next (s.withSta f fun x s =>
    if !s.outCredit x.r x.t x.st none then s
    else match s.nextSet x (portsOf f) with
      | none => s
      | some (q, s1) =>
        let seq := setSeq q
        let it := ((tokAt q 0).map (·.iter)).getD (setIter q)
        match q.find? (·.2.kind = .error) with
        | some e =>
          (s1.onTile x.t fun y => { y with barBad := (x.st, seq) :: y.barBad }).errFire x seq it (e.2.err (s.self x.t 0))
        | none =>
          if (s.tileAt x.t).barBad.contains (x.st, seq) then s1.errFire x seq it (s.self x.t ePOISON)
          else s1.emits x.t x.st [(none, pulse seq it)])

/-- decide (R47, R49, R255): fires once no decision is pending. -/
def execDecide (f : StF) (s : State) : Out :=
  .next (s.fireSet f (portsOf f) dataOnly (fun _ _ _ s => s) fun x q s1 =>
    if x.r.decision.isSome then s
    else
      let n : BitVec 2 := if f.aux.getLsbD 0 then (f.k.extractLsb' 0 2) else (s.opWord x q 0).extractLsb' 0 2
      (s1.onRegion x.r.core x.r.bslot fun r => { r with decision := some n }).emits x.t x.st
        [(some 0, pulse (setSeq q) (setIter q))])

/-! ## Controllers (R256) -/

/-- A controller's settings: LUT, table length, window, iterations. -/
structure CtlSet where
  lut  : List (Bool × Bool)
  win  : Nat
  nit  : Nat
  deriving DecidableEq, Repr

/-- The settings in a tile register (R256). -/
def ctlSet (w : Word) : CtlSet :=
  ⟨(List.range ((w.extractLsb' 32 3).toNat + 1)).map fun i => (w.getLsbD (48 + 2 * i), w.getLsbD (49 + 2 * i)),
   (w.extractLsb' 24 8).toNat, (w.extractLsb' 0 24).toNat⟩

/-- Child c is enabled in iteration j (R256). -/
def CtlSet.on (k : CtlSet) (c j : Nat) : Bool :=
  let m := k.lut.getD (j % k.lut.length) (false, false)
  if c = 0 then m.1 else m.2

/-- The enables of child c among iterations below j. -/
def CtlSet.upTo (k : CtlSet) (c j : Nat) : Nat :=
  let n := k.lut.length
  let cnt (l : List Nat) : Nat := (l.filter (k.on c)).length
  j / n * cnt (List.range n) + cnt (List.range (j % n))

/-- The kind of a controller. -/
inductive Ctl where
  | seqc | pipec | strmc
  deriving DecidableEq, Repr

/-- Child c may be enabled for iteration j (R256). The slot counts in pa and pb the iterations that children 0 and 1 have
passed, in cnt and tagc their done tokens. -/
def Ctl.may (c : Ctl) (k : CtlSet) (sl : Slot) (child j : Nat) : Bool :=
  let d0 := sl.cnt
  let d1 := sl.tagc
  match c with
  | .strmc => true
  | .seqc =>
    decide (k.upTo 1 j ≤ d1) && decide (k.upTo 0 (if child = 0 then j else j + 1) ≤ d0)
  | .pipec =>
    if child = 0 then decide (k.upTo 0 j < d0 + k.win)
    else (!k.on 0 j || decide (k.upTo 0 (j + 1) ≤ d0)) && decide (k.upTo 1 j < d1 + k.win)

/-- The next iteration of a child at or past j that enables it, looking over one table length. -/
def CtlSet.next (k : CtlSet) (c j : Nat) : Nat :=
  (((List.range k.lut.length).map (· + j)).find? (k.on c)).getD k.nit

/-- What a controller does next for one launch: an enable, or its done (R256). -/
def State.ctlAct (s : State) (x : Sta) (c : Ctl) (k : CtlSet) (sl : Slot) : Option State :=
  let j0 := k.next 0 sl.pa
  let j1 := k.next 1 sl.pb
  if j0 < k.nit ∧ c.may k sl 0 j0 then
    some ((s.setSlot x.t { sl with pa := j0 + 1 }).emits x.t x.st [(some 0, pulse sl.seq (BitVec.ofNat 24 j0))])
  else if j1 < k.nit ∧ c.may k sl 1 j1 then
    some ((s.setSlot x.t { sl with pb := j1 + 1 }).emits x.t x.st [(some 1, pulse sl.seq (BitVec.ofNat 24 j1))])
  else if k.nit ≤ j0 ∧ k.nit ≤ j1 ∧ k.upTo 0 k.nit ≤ sl.cnt ∧ k.upTo 1 k.nit ≤ sl.tagc then
    let it := (sl.held.map (·.iter)).getD 0
    some ((s.setSlot x.t (Slot.zero x.st sl.seq)).emits x.t x.st [(some 2, pulse sl.seq it)])
  else none

/-- A done token that a controller counts, or an input's ERROR, which goes to the children and the done output and ends
the launch's enables (R46). -/
def State.ctlIn (s : State) (x : Sta) (p : Nat) : Option State :=
  match s.hd x p with
  | none => none
  | some t =>
    let sl := s.slot x.t x.st t.seq
    if t.kind = .error then
      some (((s.take x [p]).setSlot x.t { sl with phase := 2 }).errFire x t.seq t.iter (t.err (s.self x.t 0)))
    else if sl.phase = 2 then some (s.take x [p])
    else match p with
      | 0 => if sl.phase = 0 then some ((s.take x [0]).setSlot x.t { sl with phase := 1, held := some t }) else none
      | 1 => some ((s.take x [1]).setSlot x.t { sl with cnt := sl.cnt + 1 })
      | _ => some ((s.take x [2]).setSlot x.t { sl with tagc := sl.tagc + 1 })

/-- One firing of a controller: it counts a done token, else enables or finishes for the oldest launch that can, else
takes an enable token. -/
def State.ctlFire (s : State) (f : StF) (c : Ctl) : State :=
  s.fireHeads f fun x s =>
    match s.ctlIn x 1 <|> s.ctlIn x 2 with
    | some s' => s'
    | none =>
      let k := ctlSet (s.kWord x)
      let sls := ((s.tileAt x.t).slots.filter fun sl => sl.st = x.st ∧ sl.phase = 1)
      match (x.r.live.findSome? fun l => (sls.find? (·.seq = l.seq)).bind (s.ctlAct x c k)) with
      | some s' => s'
      | none => (s.ctlIn x 0).getD s

/-- seqc (R256). -/
def execSeqc (f : StF) (s : State) : Out := .next (s.ctlFire f .seqc)
/-- pipec (R256). -/
def execPipec (f : StF) (s : State) : Out := .next (s.ctlFire f .pipec)
/-- strmc (R256). -/
def execStrmc (f : StF) (s : State) : Out := .next (s.ctlFire f .strmc)

/-- done (R257). -/
def execDone (f : StF) (s : State) : Out :=
  .next (s.fireHeads f fun x s =>
    match s.hd x 0 with
    | none => s
    | some t =>
      let s1 := s.take x [0]
      let l := (f.aux.extractLsb' 0 3).toNat
      match t.kind with
      | .error => s1.errFire x t.seq t.iter (t.err (s.self x.t 0))
      | .stop n => if 1 ≤ l ∧ l ≤ n then s1.emits x.t x.st [(none, pulse t.seq t.iter)] else s1
      | _ => if l = 0 then s1.emits x.t x.st [(none, pulse t.seq t.iter)] else s1)

end Sys2Proof.Machine
end

