-- ==== Sys2Proof/Machine/Convert.lean ====
section
/-! DEFINITION. Conversion, digit streams and quantisers (R229 to R233, R248 to R250). -/

namespace Sys2Proof.Machine

/-- A W48 through a storage format and back (R230); an E4M3 NaN comes back as the distinguished quiet NaN. -/
def throughFmt (fmt : Nat) (rm : RMode) (w : W48) : W48 :=
  if fmt = 3 ∧ wIsNaN w then wNaN
  else (decodeElem fmt false rm (encodeElem fmt false rm false (w.setWidth 64))).setWidth 48

/-- fcvt (R230). -/
def execFcvt (f : StF) (s : State) : Out :=
  .next (s.fireFn f fun s x q =>
    match (f.aux.extractLsb' 0 2).toNat with
    | 0 => payW (roundW48 (fvInt (s.opWord x q 0).toInt 0 false) f.rm)
    | 1 => .scalar (BitVec.ofInt 64 (satInt (fvOf (s.opW x q 0)) f.rm i64Lo i64Hi))
    | _ => s.lanewise x q fun _ a _ _ => throughFmt (f.aux.extractLsb' 2 6).toNat f.rm a)

/-! ## Blocks -/

/-- The elements of a token: 16 lanes or one word. -/
def tokElems (t : Token) : List W48 :=
  match t.pay with
  | .vector l => l
  | p => [p.word.setWidth 48]

/-- A token with its elements replaced, of DATA kind with a burst header. -/
def tokWith (t : Token) (l : List W48) (hdr : BitVec 8 × BitVec 3) : Token :=
  { t with kind := .data, hdr, pay := match t.pay with
      | .vector _ => .vector l
      | _ => payW (l.getD 0 0) }

/-- The block length in elements: the BLK of the output's edges (R186, R231). -/
def State.blkOf (s : State) (x : Sta) (o : Nat) : Nat := ((s.outEdges x.r x.t x.st o).head?.map (·.blk)).getD 1

/-- The block length over the first bound output. -/
def State.blkAny (s : State) (x : Sta) : Nat :=
  (((List.range 4).flatMap fun o => s.outEdges x.r x.t x.st o).head?.map (·.blk)).getD 1

/-- Dealing results back to the tokens they came from; an ERROR keeps its place (R231). -/
def dealBack (mk : Token → List W48 → Token) : List Token → List W48 → List Token
  | [], _ => []
  | t :: ts, l =>
    if t.kind = .error then t :: dealBack mk ts l
    else mk t (l.take (tokElems t).length) :: dealBack mk ts (l.drop (tokElems t).length)

/-- Gathering a block in the launch slot: `done` emits a complete block, or one that a STOP ends early (R231). -/
def State.blockFire (s : State) (f : StF) (blk : State → Sta → Nat) (out : Sta → List Token → List (Option Nat × Token)) :
    State :=
  s.fireHeads f fun x s =>
    match s.hd x 0 with
    | none => s
    | some t =>
      let s1 := s.take x [0]
      let sl := s1.slot x.t x.st t.seq
      match t.kind with
      | .stop n =>
        (s1.setSlot x.t { sl with buf := [] }).emits x.t x.st
          (out x sl.buf ++ [(none, tokStop t.seq t.iter n)])
      | _ =>
        if t.kind ≠ .data ∧ t.kind ≠ .error then s1.errFire x t.seq t.iter (s.self x.t eKIND)
        else
          let l := sl.buf ++ [t]
          let per := match t.pay with
            | .vector _ => 16
            | _ => 1
          if blk s x ≤ l.length * per then (s1.setSlot x.t { sl with buf := [] }).emits x.t x.st (out x l)
          else s1.setSlot x.t { sl with buf := l }

/-- A block of tokens encoded as signed digits (R185, R231). -/
def dsencOut (x : Sta) (l : List Token) : List (Option Nat × Token) :=
  let vs := (l.filter (·.kind ≠ .error)).flatMap fun t => (tokElems t).map fvOf
  let r := sdEncode vs (immOf x.f) x.f.rm
  let hdr : BitVec 8 × BitVec 3 := (BitVec.ofInt 8 r.1, BitVec.ofNat 3 (immOf x.f - 1))
  (dealBack (fun t d => tokWith t d hdr) l (r.2.map (BitVec.ofNat 48))).map fun t => (none, t)

/-- dsenc (R231). -/
def execDsenc (f : StF) (s : State) : Out := .next (s.blockFire f (fun s x => s.blkAny x) dsencOut)

/-- dsdec (R232). -/
def execDsdec (f : StF) (s : State) : Out :=
  .next (s.fireSet f (portsOf f) dataOnly passStop fun x q s =>
    let t := tokA q
    let n := t.hdr.2.toNat + 1
    match allSome (tokElems t) fun w => sdDecode n t.hdr.1.toInt (w.toNat % 2 ^ 24) with
    | none => s.errFire x t.seq t.iter (s.self x.t eSDDIGIT)
    | some l => s.emits x.t x.st [(none, tokWith t (l.map Prod.snd) (0, 0))])
where
  /-- the token of port a -/
  tokA (q : List (Nat × Token)) : Token := (tokAt q 0).getD (tokS 0 0 .data 0)

/-- The leading m digits of an element's payload (R233). -/
def cutDigits (m : Nat) (w : W48) : W48 := BitVec.ofNat 48 (w.toNat % 2 ^ 24 / 2 ^ (24 - 3 * m) * 2 ^ (24 - 3 * m))

/-- dscut (R233). -/
def execDscut (f : StF) (s : State) : Out :=
  .next (s.fireSet f (portsOf f) dataOnly passStop fun x q s =>
    let t := (tokAt q 0).getD (tokS 0 0 .data 0)
    let n := t.hdr.2.toNat + 1
    let m := immOf f
    let e' := t.hdr.1.toInt + 2 * ((n : Int) - m)
    let r := if n ≤ m ∨ 127 < e' then t
      else tokWith t ((tokElems t).map (cutDigits m)) (BitVec.ofInt 8 e', BitVec.ofNat 3 (m - 1))
    s.emits x.t x.st [(none, r)])

/-! ## Quantisers -/

/-- The MX format of qblk's AUX (R248). -/
def qblkFmt (aux : BitVec 8) : Nat := 0x05 + (aux.extractLsb' 0 2).toNat

/-- The exact value of an element code under a scale exponent (R249). -/
def mxValue (fmt : Nat) (x : Int) (code : Nat) : W48 :=
  let v := if fmt = 0x05 then fvOf (fE4M3.toW48 code) else if fmt = 0x06 then fvOf (fE5M2.toW48 code)
    else if fmt = 0x07 then fvOf (fE2M1.toW48 code) else fvInt (intValue 8 true code) (-6) false
  roundW48 (fvShift v x) rNE

/-- A block of tokens quantised: the values on o0, the scale byte on o1 (R249). -/
def qblkOut (x : Sta) (l : List Token) : List (Option Nat × Token) :=
  let fmt := qblkFmt x.f.aux
  let vs := (l.filter (·.kind ≠ .error)).flatMap fun t => (tokElems t).map fvOf
  let sc := mxScale fmt vs
  let vals := vs.map fun v =>
    if sc.1 = 0xFF then wNaN
    else match sc.2 with
      | none => wZero false
      | some e => mxValue fmt e (mxCode fmt x.f.rm (x.f.aux.getLsbD 2) e v)
  match l with
  | [] => []
  | t0 :: _ =>
    (dealBack (fun t d => tokWith t d (0, 0)) l vals).map (fun t => (some 0, t)) ++
      [(some 1, tokS t0.seq t0.iter .data (BitVec.ofNat 64 sc.1))]

/-- qblk (R249). -/
def execQblk (f : StF) (s : State) : Out := .next (s.blockFire f (fun s x => s.blkOf x 0) qblkOut)

/-- The elements of qbmap for a run of values, from position j, scale and openness (R250). DEDUCED: log 59. -/
def qbmapRun (rm : RMode) : List W48 → Nat → Int → Bool → List Word × Nat × Int × Bool
  | [], j, sc, o => ([], j, sc, o)
  | w :: ws, j, sc, o =>
    let v := fvOf w
    let join := o && decide (0 < j) && bvbJoins v sc rm
    let sc' := if join then sc else bvbOpen v
    let k := max (-127) (min 127 (bvbRound v sc' rm))
    let e := field 0 8 (intBits 8 k) ||| bit 8 (!join) ||| field 9 7 j ||| field 16 8 (intBits 8 sc')
    let r := qbmapRun rm ws ((j + 1) % 128) sc' true
    (e :: r.1, r.2)

/-- qbmap (R250). The slot keeps j, s + 128 and OPEN, and whether b has been taken. -/
def execQbmap (f : StF) (s : State) : Out :=
  .next (s.fireHeads f fun x s =>
    match s.hd x 0 with
    | none => s
    | some t =>
      let sl := s.slot x.t x.st t.seq
      if f.inp.getLsbD 1 ∧ sl.phase = 0 then
        match ((s.tileAt x.t).queue.find? fun q => q.st = x.st ∧ q.port = 1 ∧ q.tok.seq = t.seq) with
        | none => s
        | some q =>
          let b := q.tok
          let w := b.pay.word
          let s1 := s.onTile x.t fun y => { y with queue := y.queue.erase q }
          let s2 := s1.setSlot x.t { sl with phase := 1 }
          if b.kind = .error then s2.errFire x b.seq b.iter (b.err (s.self x.t 0))
          else if b.kind ≠ .data ∨ w.extractLsb' 0 9 ≠ 0 ∨ w.extractLsb' 25 39 ≠ 0 then
            s2.errFire x b.seq b.iter (s.self x.t eKIND)
          else s1.setSlot x.t { sl with
            phase := 1, pa := (w.extractLsb' 9 7).toNat, pb := ((w.extractLsb' 16 8).toInt + 128).toNat,
            cnt := if w.getLsbD 24 then 1 else 0 }
      else
        let s1 := s.take x [0]
        match t.kind with
        | .stop _ => s1.emits x.t x.st [(none, t)]
        | .error => s1.errFire x t.seq t.iter (t.err (s.self x.t 0))
        | .data =>
          let r := qbmapRun f.rm (tokElems t) sl.pa ((sl.pb : Int) - 128) (sl.cnt = 1)
          let i0 := match t.pay with
            | .vector _ => 16 * t.iter.toNat
            | _ => t.iter.toNat
          (s1.setSlot x.t { sl with pa := r.2.1, pb := (r.2.2.1 + 128).toNat, cnt := 1 }).emits x.t x.st
            (r.1.mapIdx fun i w => (none, s.retag x (tokS t.seq t.iter .data w) (i0 + i)))
        | _ => s1.errFire x t.seq t.iter (s.self x.t eKIND))

end Sys2Proof.Machine
end

