-- ==== Sys2Proof/Machine/Dataflow.lean ====
section
/-! DEFINITION. The dataflow-control stations (R201 to R216). -/

namespace Sys2Proof.Machine

/-! ## Routing -/

/-- The token of port a with the set's tag and its own kind. -/
def tokA (q : List (Nat × Token)) : Token := (tokAt q 0).getD (tokS 0 0 .data 0)

/-- steer (R202): the predicate chooses o1 and o3, or o0 and o2. -/
def execSteer (f : StF) (s : State) : Out :=
  .next (s.fireSet f (portsOf f) routeA passStop fun x q s =>
    let os := if s.pred x q 1 then [1, 3] else [0, 2]
    s.emits x.t x.st (os.map fun o => (some o, tokA q)))

/-- gate (R203). -/
def execGate (f : StF) (s : State) : Out :=
  .next (s.fireSet f (portsOf f) routeA passStop fun x q s =>
    if s.pred x q 1 then s.emits x.t x.st [(none, tokA q)] else s)

/-- merge (R204): one head, oldest first; with .join a STOP waits for every port's STOP. -/
def execMerge (f : StF) (s : State) : Out :=
  .next (s.fireHeads f fun x s =>
    let join := f.aux.getLsbD 0
    let hs := (portsOf f).filterMap fun p => (s.hd x p).map fun t => (p, t)
    let stops := hs.filter fun h => h.2.kind.level ≠ 0
    let free := if join then hs.filter fun h => h.2.kind.level = 0 else hs
    match free.foldl (fun (acc : Option (Nat × Token)) h => match acc with
        | none => some h
        | some o => if x.r.age h.2 < x.r.age o.2 then some h else some o) none with
    | some (p, t) => (s.take x [p]).emits x.t x.st [(none, t)]
    | none =>
      if join ∧ stops ≠ [] ∧ stops.length = (portsOf f).length then
        let n := (stops.headD (0, tokS 0 0 .data 0)).2.kind.level
        let old := stops.foldl (fun o h => if x.r.age h.2 < x.r.age o then h.2 else o) (stops.headD (0, tokS 0 0 .data 0)).2
        let s1 := s.take x (stops.map Prod.fst)
        if stops.all (fun h => h.2.kind.level = n) then s1.emits x.t x.st [(none, tokStop old.seq old.iter n)]
        else s1.errFire x old.seq old.iter (s.self x.t eSTOPMIS)
      else s)

/-- cmerge (R205): the predicate at c selects b or a, whose head leaves with its own tag and kind. -/
def execCmerge (f : StF) (s : State) : Out :=
  .next (s.fireHeads f fun x s =>
    match s.hd x 2 with
    | none => s
    | some c =>
      match c.kind with
      | .error => (s.take x [2]).errFire x c.seq c.iter (c.err (s.self x.t 0))
      | .stop n =>
        match s.hd x 0, s.hd x 1 with
        | some a, some b =>
          if a.kind = .error then (s.take x [0, 1, 2]).errFire x c.seq c.iter (a.err (s.self x.t 0))
          else if b.kind = .error then (s.take x [0, 1, 2]).errFire x c.seq c.iter (b.err (s.self x.t 0))
          else if a.kind = .stop n ∧ b.kind = .stop n then (s.take x [0, 1, 2]).emits x.t x.st [(none, tokStop c.seq c.iter n)]
          else (s.take x [0, 1, 2]).errFire x c.seq c.iter (s.self x.t eSTOPMIS)
        | _, _ => s
      | .data =>
        let p := if c.pay.word ≠ 0 then 1 else 0
        match s.hd x p with
        | none => s
        | some t => (s.take x [2, p]).emits x.t x.st [(none, t)]
      | _ => (s.take x [2]).errFire x c.seq c.iter (s.self x.t eKIND))

/-- A head taken at a port that accepts DATA only: its value, its STOP, or the error firing that consumes it. -/
def State.headCase (s : State) (x : Sta) (p : Nat) (t : Token) (val : State → State) (stop : Nat → State → State) : State :=
  match t.kind with
  | .data => val (s.take x [p])
  | .stop n => stop n (s.take x [p])
  | .error => (s.take x [p]).errFire x t.seq t.iter (t.err (s.self x.t 0))
  | _ => (s.take x [p]).errFire x t.seq t.iter (s.self x.t eKIND)

/-- carry in INIT takes the head of a (R206). -/
def State.carryInit (s : State) (x : Sta) : State :=
  match s.hd x 0 with
  | none => s
  | some a =>
    let sl := s.slot x.t x.st a.seq
    if sl.phase ≠ 0 then s
    else s.headCase x 0 a
      (fun s => (s.setSlot x.t { sl with phase := 1 }).emits x.t x.st [(none, a)])
      (fun n s => s.emits x.t x.st [(none, tokStop a.seq a.iter n)])

/-- The head of a opens a launch that is older than the head of port p (R32). -/
def State.initFirst (s : State) (x : Sta) (p : Nat) : Bool :=
  match s.hd x 0, s.hd x p with
  | some a, some c => (s.slot x.t x.st a.seq).phase == 0 && decide (x.r.age a < x.r.age c)
  | _, _ => false

/-- carry (R206): in LOOP the head of c decides whether the head of b goes round. -/
def execCarry (f : StF) (s : State) : Out :=
  .next (s.fireHeads f fun x s =>
    match s.hd x 2 with
    | none => s.carryInit x
    | some c =>
      let sl := s.slot x.t x.st c.seq
      if sl.phase = 0 ∨ s.initFirst x 2 then s.carryInit x
      else if c.kind = .data ∧ c.pay.word ≠ 0 then
        match s.hd x 1 with
        | none => s.carryInit x
        | some b =>
          match b.kind with
          | .data => (s.take x [2, 1]).emits x.t x.st [(none, b)]
          | .error => (s.take x [2, 1]).errFire x b.seq b.iter (b.err (s.self x.t 0))
          | .stop _ => (s.take x [1]).errFire x b.seq b.iter (s.self x.t eSTOPMIS)
          | _ => (s.take x [1]).errFire x b.seq b.iter (s.self x.t eKIND)
      else s.headCase x 2 c (fun s => s.setSlot x.t { sl with phase := 0 })
        (fun _ s => s.errFire x c.seq c.iter (s.self x.t eSTOPMIS)))

/-- invar in INIT takes the head of a and holds its value (R207). -/
def State.invarInit (s : State) (x : Sta) : State :=
  match s.hd x 0 with
  | none => s
  | some a =>
    let sl := s.slot x.t x.st a.seq
    if sl.phase ≠ 0 then s
    else s.headCase x 0 a
      (fun s => (s.setSlot x.t { sl with phase := 1, held := some a }).emits x.t x.st [(none, a)])
      (fun n s => s.emits x.t x.st [(none, tokStop a.seq a.iter n)])

/-- invar (R207): in HOLD the head of b repeats or discards the held value. -/
def execInvar (f : StF) (s : State) : Out :=
  .next (s.fireHeads f fun x s =>
    match s.hd x 1 with
    | none => s.invarInit x
    | some b =>
      let sl := s.slot x.t x.st b.seq
      if sl.phase = 0 ∨ s.initFirst x 1 then s.invarInit x
      else s.headCase x 1 b
        (fun s =>
          if b.pay.word ≠ 0 then
            s.emits x.t x.st [(none, { b with pay := (sl.held.map (·.pay)).getD (.scalar 0), hdr := (sl.held.map (·.hdr)).getD (0, 0) })]
          else s.setSlot x.t { sl with phase := 0, held := none })
        (fun _ s => s.errFire x b.seq b.iter (s.self x.t eSTOPMIS)))

/-! ## lim (R208) -/

/-- The occupancy of a lim station. -/
def State.limOcc (s : State) (x : Sta) : Nat :=
  (((s.tileAt x.t).slots.filter (·.st = x.st)).map (·.cnt)).sum

/-- The occupancy of one launch changed. -/
def State.limAdd (s : State) (x : Sta) (seq : BitVec 8) (g : Nat → Nat) : State :=
  let sl := s.slot x.t x.st seq
  s.setSlot x.t { sl with cnt := g sl.cnt }

/-- lim's exit notice at c. -/
def State.limExit (s : State) (x : Sta) : State :=
  match s.hd x 2 with
  | none => s
  | some c =>
    let s1 := s.take x [2]
    if c.kind.level = 0 then s1.limAdd x c.seq (· - 1) else s1

/-- lim (R208). -/
def execLim (f : StF) (s : State) : Out :=
  .next (s.fireHeads f fun x s =>
    let s1 := s.limExit x
    match s1.hd x 1 with
    | some h =>
      let s2 := s1.take x [1]
      if h.kind.level ≠ 0 then s2.limAdd x h.seq (· - 1) else s2.emits x.t x.st [(none, h)]
    | none =>
      match s1.hd x 0 with
      | none => s1
      | some h =>
        if s1.limOcc x < f.aux.toNat ∧ (h.kind.level = 0 ∨ (s1.slot x.t x.st h.seq).cnt = 0) then
          ((s1.take x [0]).limAdd x h.seq (· + 1)).emits x.t x.st [(none, h)]
        else s1)

/-! ## sink, dup -/

/-- sink (R210): each DATA, DONE or per-tag ERROR is one event of a live launch, up to the declared count, which its slot
keeps (R200); an ERROR also cancels the launch (R42), if none has before (R44). -/
def execSink (f : StF) (s : State) : Out :=
  .next (s.withSta f fun x s =>
    match s.hd x 0 with
    | none => s
    | some t =>
      let s1 := s.take x [0]
      if t.kind.level ≠ 0 ∨ f.aux.toNat ≤ (s.slot x.t x.st t.seq).cnt ∨ !(x.r.live.any (·.seq == t.seq)) then s1
      else match t.kind with
        | .error =>
          let e := t.err (s.self x.t 0)
          (s1.failLive x.r.core x.r.bslot t.seq e).sinkCount x.r x.t x.st t.seq 1 (some e)
        | _ => s1.sinkCount x.r x.t x.st t.seq 1 none)

/-- dup gives one copy, and its slot keeps the token while `left` more are to follow. -/
def State.dupCopy (s : State) (x : Sta) (t : Token) (left : Nat) : State :=
  let sl := s.slot x.t x.st t.seq
  (s.setSlot x.t { sl with held := if left = 0 then none else some t, cnt := left }).emits x.t x.st [(none, t)]

/-- dup (R211): K copies, each in a firing of its own; a STOP once. -/
def execDup (f : StF) (s : State) : Out :=
  .next (s.fireOwing f (fun x z t s => s.dupCopy x t (z.cnt - 1)) fun x s =>
    s.fireNext x (portsOf f) routeA (passStop x) fun q s => s.dupCopy x (tokA q) (immOf f - 1))

/-! ## Tags (R212) -/

/-- A token tagged from the launch's counter, which advances unless it is spent (R212). -/
def State.tagNext (s : State) (x : Sta) (t : Token) : State :=
  let sl := s.slot x.t x.st t.seq
  let n := immOf x.f + sl.tagc
  let s1 := if tagOvf n then s else s.setSlot x.t { sl with tagc := sl.tagc + 1 }
  s1.emits x.t x.st [(none, s.retag x t n)]

/-- tagnew (R212): the launch's counter, from K. -/
def execTagnew (f : StF) (s : State) : Out :=
  .next (s.fireSet f (portsOf f) routeA (fun x q n s => s.tagNext x (tokStop (setSeq q) (setIter q) n))
    fun x q s => s.tagNext x (tokA q))

/-- tagset (R212): the tag of what is emitted is b's payload, that of a STOP set too. -/
def execTagset (f : StF) (s : State) : Out :=
  .next (s.fireSet f (portsOf f) routeA
    (fun x q n s => s.emits x.t x.st [(none, s.retag x (tokStop (setSeq q) (setIter q) n) (s.opWord x q 1).toNat)])
    fun x q s => s.emits x.t x.st [(none, s.retag x (tokA q) (s.opWord x q 1).toNat)])

/-- tagrst (R212): K, for every token, a per-tag ERROR too. -/
def execTagrst (f : StF) (s : State) : Out :=
  .next (s.fireHeads f fun x s =>
    match s.hd x 0 with
    | none => s
    | some t => (s.take x [0]).emits x.t x.st [(none, { t with iter := BitVec.ofNat 24 (immOf f) })])

/-! ## STOPs and counting -/

/-- stopgen (R213): a's token, then STOP n with the next tag where the predicate holds. -/
def execStopgen (f : StF) (s : State) : Out :=
  .next (s.fireSet f (portsOf f) dataOnly passStop fun x q s =>
    let t := tokA q
    let n := (f.aux.extractLsb' 0 3).toNat
    let more := if s.pred x q 1 then [(none, s.retag x (tokStop t.seq t.iter n) (t.iter.toNat + 1))] else []
    s.emits x.t x.st ((none, t) :: more))

/-- stopadv (R214). -/
def execStopadv (f : StF) (s : State) : Out :=
  .next (s.fireSet f (portsOf f) dataOnly
    (fun x q n s =>
      if f.aux.getLsbD 0 then (if n = 1 then s else passStop x q (n - 1) s)
      else if n = 7 then s.errFire x (setSeq q) (setIter q) (s.self x.t eSTOPMIS) else passStop x q (n + 1) s)
    (fun x q s => s.emits x.t x.st [(none, tokA q)]))

/-- count (R215). A counter at the tag limit stays, and each later DATA or STOP of the launch raises TAGOVF (R234).
DEDUCED: log 90. -/
def execCount (f : StF) (s : State) : Out :=
  .next (s.fireSet f (portsOf f) routeA
    (fun x q n s =>
      let sl := s.slot x.t x.st (setSeq q)
      if tagOvf sl.cnt then s.errFire x (setSeq q) (setIter q) (s.self x.t eTAGOVF)
      else if n < (f.aux.extractLsb' 0 3).toNat then passStop x q n s
      else
        (s.setSlot x.t { sl with cnt := 0 }).emits x.t x.st
          [(none, tokS (setSeq q) (setIter q) .data (BitVec.ofNat 64 sl.cnt)), (none, tokStop (setSeq q) (setIter q) n)])
    (fun x q s =>
      if (tokA q).kind = .data then
        let sl := s.slot x.t x.st (setSeq q)
        if tagOvf sl.cnt then s.errFire x (setSeq q) (setIter q) (s.self x.t eTAGOVF)
        else s.setSlot x.t { sl with cnt := sl.cnt + 1 }
      else s.emits x.t x.st [(none, tokA q)]))

/-! ## Coordinate streams (R216) -/

/-- Out(v, i, j) with the next tag: the three tokens, or one error firing when the tags are spent. -/
def State.walkOut (s : State) (x : Sta) (seq : BitVec 8) (v i j : Word) : State :=
  let sl := s.slot x.t x.st seq
  if tagOvf sl.tagc then s.errFire x seq (BitVec.ofNat 24 sl.tagc) (s.self x.t eTAGOVF)
  else
    let it := BitVec.ofNat 24 sl.tagc
    (s.setSlot x.t { sl with tagc := sl.tagc + 1 }).emits x.t x.st
      [(some 0, tokS seq it .data v), (some 1, tokS seq it .data i), (some 2, tokS seq it .data j)]

/-- Advancing the positions of a launch. -/
def State.walkPos (s : State) (x : Sta) (seq : BitVec 8) (da db : Nat) : State :=
  let sl := s.slot x.t x.st seq
  s.setSlot x.t { sl with pa := sl.pa + da, pb := sl.pb + db }

/-- One firing over the heads of a and b (R216). -/
def State.walkFire (s : State) (f : StF) (union : Bool) : State :=
  s.fireHeads f fun x s =>
    match s.hd x 0, s.hd x 1 with
    | some a, some b =>
      let sl := s.slot x.t x.st a.seq
      let pa := BitVec.ofNat 64 sl.pa
      let pb := BitVec.ofNat 64 sl.pb
      let none_ : Word := -1
      if a.kind = .error then (s.take x [0]).errFire x a.seq a.iter (a.err (s.self x.t 0))
      else if b.kind = .error then (s.take x [1]).errFire x b.seq b.iter (b.err (s.self x.t 0))
      else if a.kind.level = 0 ∧ a.kind ≠ .data then (s.take x [0]).errFire x a.seq a.iter (s.self x.t eKIND)
      else if b.kind.level = 0 ∧ b.kind ≠ .data then (s.take x [1]).errFire x b.seq b.iter (s.self x.t eKIND)
      else if a.seq ≠ b.seq then s
      else if a.kind = .data ∧ (b.kind ≠ .data ∨ a.pay.word.slt b.pay.word) then
        let s1 := s.take x [0]
        (if union then s1.walkOut x a.seq a.pay.word pa none_ else s1).walkPos x a.seq 1 0
      else if b.kind = .data ∧ (a.kind ≠ .data ∨ b.pay.word.slt a.pay.word) then
        let s1 := s.take x [1]
        (if union then s1.walkOut x a.seq b.pay.word none_ pb else s1).walkPos x a.seq 0 1
      else if a.kind = .data then
        ((s.take x [0, 1]).walkOut x a.seq a.pay.word pa pb).walkPos x a.seq 1 1
      else if a.kind = b.kind then
        let s1 := (s.take x [0, 1]).setSlot x.t { sl with pa := 0, pb := 0, tagc := sl.tagc + (if tagOvf sl.tagc then 0 else 1) }
        let t := s.retag x (tokStop a.seq a.iter a.kind.level) sl.tagc
        s1.emits x.t x.st [(some 0, t), (some 1, t), (some 2, t)]
      else (s.take x [0, 1]).errFire x a.seq a.iter (s.self x.t eSTOPMIS)
    | _, _ => s

/-- intersect (R216). -/
def execIntersect (f : StF) (s : State) : Out := .next (s.walkFire f false)
/-- union (R216). -/
def execUnion (f : StF) (s : State) : Out := .next (s.walkFire f true)

end Sys2Proof.Machine
end

