-- ==== Sys2Proof/Machine/Integer.lean ====
section
/-! DEFINITION. The integer, immediate, shift, bit-field and division instructions (R83 to R90). -/

namespace Sys2Proof.Machine

/-- A register-register instruction (R83). -/
def State.rr (s : State) (d a b : Reg) (f : Word → Word → Word) : State :=
  s.compute [a, b] d fun ws => f (ws.getD 0 0) (ws.getD 1 0)

/-- A one-operand instruction (R83). -/
def State.r1 (s : State) (d a : Reg) (f : Word → Word) : State := s.compute [a] d fun ws => f (ws.getD 0 0)

/-- 1 for true, 0 for false (R83). -/
def b2w (b : Bool) : Word := if b then 1 else 0

/-- The shift amount of R83: b[7:0], which shifts every bit out from 64 on. -/
def amount (b : Word) : Nat := (b.extractLsb' 0 8).toNat

/-- The high half of a 128-bit product (R83). -/
def mulHighS (a b : Word) : Word := BitVec.ofInt 64 ((a.toInt * b.toInt) / 2 ^ 64)
def mulHighU (a b : Word) : Word := BitVec.ofNat 64 (a.toNat * b.toNat / 2 ^ 64)

/-- The position of the highest one bit among the low `n`, counted from 1; 0 when there is none. -/
def highOne (a : Word) : Nat → Nat
  | 0 => 0
  | n + 1 => if a.getLsbD n then n + 1 else highOne a n

/-- The number of zero bits below the lowest one bit, looking at `n` bits from bit `k` (R83). -/
def lowZeros (a : Word) (k : Nat) : Nat → Nat
  | 0 => 0
  | n + 1 => if a.getLsbD k then 0 else 1 + lowZeros a (k + 1) n

/-- The number of one bits among the low `n` (R83). -/
def onesCount (a : Word) : Nat → Nat
  | 0 => 0
  | n + 1 => (if a.getLsbD n then 1 else 0) + onesCount a n

/-- The bytes in reverse order (R83). -/
def swapBytes (a : Word) : Word := BitVec.ofNat 64 (leNat (leBytes 8 a.toNat).reverse)

/-- a + b modulo 2^64 (R83). -/
def execAdd (d a b : Reg) (s : State) : Out := .next (s.rr d a b fun a b => a + b)

/-- a − b modulo 2^64 (R83). -/
def execSub (d a b : Reg) (s : State) : Out := .next (s.rr d a b fun a b => a - b)

/-- a AND b (R83). -/
def execAnd (d a b : Reg) (s : State) : Out := .next (s.rr d a b fun a b => a &&& b)

/-- a OR b (R83). -/
def execOr (d a b : Reg) (s : State) : Out := .next (s.rr d a b fun a b => a ||| b)

/-- a XOR b (R83). -/
def execXor (d a b : Reg) (s : State) : Out := .next (s.rr d a b fun a b => a ^^^ b)

/-- a AND NOT b (R83). -/
def execAndn (d a b : Reg) (s : State) : Out := .next (s.rr d a b fun a b => a &&& ~~~b)

/-- a shifted left (R83). -/
def execShl (d a b : Reg) (s : State) : Out := .next (s.rr d a b fun a b => a <<< amount b)

/-- a shifted right logically (R83). -/
def execShr (d a b : Reg) (s : State) : Out := .next (s.rr d a b fun a b => a >>> amount b)

/-- a shifted right arithmetically (R83). -/
def execSar (d a b : Reg) (s : State) : Out := .next (s.rr d a b fun a b => a.sshiftRight (amount b))

/-- the low half of the product (R83). -/
def execMul (d a b : Reg) (s : State) : Out := .next (s.rr d a b fun a b => a * b)

/-- the high half of the signed product (R83). -/
def execMulh (d a b : Reg) (s : State) : Out := .next (s.rr d a b fun a b => mulHighS a b)

/-- the high half of the unsigned product (R83). -/
def execMulhu (d a b : Reg) (s : State) : Out := .next (s.rr d a b fun a b => mulHighU a b)

/-- the signed lesser (R83). -/
def execMin (d a b : Reg) (s : State) : Out := .next (s.rr d a b fun a b => if a.sle b then a else b)

/-- the signed greater (R83). -/
def execMax (d a b : Reg) (s : State) : Out := .next (s.rr d a b fun a b => if a.sle b then b else a)

/-- the unsigned lesser (R83). -/
def execMinu (d a b : Reg) (s : State) : Out := .next (s.rr d a b fun a b => if a.ule b then a else b)

/-- the unsigned greater (R83). -/
def execMaxu (d a b : Reg) (s : State) : Out := .next (s.rr d a b fun a b => if a.ule b then b else a)

/-- signed less (R83). -/
def execSlt (d a b : Reg) (s : State) : Out := .next (s.rr d a b fun a b => b2w (a.slt b))

/-- unsigned less (R83). -/
def execSltu (d a b : Reg) (s : State) : Out := .next (s.rr d a b fun a b => b2w (a.ult b))

/-- equal (R83). -/
def execSeq (d a b : Reg) (s : State) : Out := .next (s.rr d a b fun a b => b2w (a == b))

/-- leading zeros (R83). -/
def execClz (d a : Reg) (s : State) : Out := .next (s.r1 d a fun a => BitVec.ofNat 64 (64 - highOne a 64))

/-- trailing zeros (R83). -/
def execCtz (d a : Reg) (s : State) : Out := .next (s.r1 d a fun a => BitVec.ofNat 64 (lowZeros a 0 64))

/-- one bits (R83). -/
def execPopc (d a : Reg) (s : State) : Out := .next (s.r1 d a fun a => BitVec.ofNat 64 (onesCount a 64))

/-- bytes reversed (R83). -/
def execBswap (d a : Reg) (s : State) : Out := .next (s.r1 d a fun a => swapBytes a)

/-- Signed quotient (R84). -/
def execDiv (d a b : Reg) (s : State) : Out := .next (s.divide a b d divS)

/-- Unsigned quotient (R84). -/
def execDivu (d a b : Reg) (s : State) : Out := .next (s.divide a b d divU)

/-- Signed remainder (R84). -/
def execRem (d a b : Reg) (s : State) : Out := .next (s.divide a b d remS)

/-- Unsigned remainder (R84). -/
def execRemu (d a b : Reg) (s : State) : Out := .next (s.divide a b d remU)

/-- bext (R86). -/
def execBext (d a b : Reg) (s : State) : Out := .next (s.rr d a b bextOf)

/-- bins, whose d is read after a and b, then written (R76, R86). -/
def execBins (d a b : Reg) (s : State) : Out :=
  .next (s.compute [a, b, d] d fun ws => binsOf (ws.getD 0 0) (ws.getD 1 0) (ws.getD 2 0))

/-- lea (R87). -/
def execLea (d a b : Reg) (k : BitVec 2) (s : State) : Out := .next (s.rr d a b fun a b => indexed a b k)

/-- addi (R88). -/
def execAddi (d a : Reg) (i : BitVec 16) (s : State) : Out := .next (s.r1 d a fun a => a + immW i)

/-- andi (R88). -/
def execAndi (d a : Reg) (i : BitVec 16) (s : State) : Out := .next (s.r1 d a fun a => a &&& immW i)

/-- ori (R88). -/
def execOri (d a : Reg) (i : BitVec 16) (s : State) : Out := .next (s.r1 d a fun a => a ||| immW i)

/-- xori (R88). -/
def execXori (d a : Reg) (i : BitVec 16) (s : State) : Out := .next (s.r1 d a fun a => a ^^^ immW i)

/-- slti (R88). -/
def execSlti (d a : Reg) (i : BitVec 16) (s : State) : Out := .next (s.r1 d a fun a => b2w (a.slt (immW i)))

/-- sltiu (R88). -/
def execSltiu (d a : Reg) (i : BitVec 16) (s : State) : Out := .next (s.r1 d a fun a => b2w (a.ult (immW i)))

/-- shli (R89). -/
def execShli (d a : Reg) (n : BitVec 6) (s : State) : Out := .next (s.r1 d a fun a => a <<< n.toNat)

/-- shri (R89). -/
def execShri (d a : Reg) (n : BitVec 6) (s : State) : Out := .next (s.r1 d a fun a => a >>> n.toNat)

/-- sari (R89). -/
def execSari (d a : Reg) (n : BitVec 6) (s : State) : Out := .next (s.r1 d a fun a => a.sshiftRight n.toNat)

/-- lui (R90). -/
def execLui (d : Reg) (i : BitVec 21) (s : State) : Out := .next (s.compute [] d fun _ => immU i)

/-- auipc (R90). -/
def execAuipc (d : Reg) (i : BitVec 21) (s : State) : Out := .next (s.compute [] d fun _ => s.core.pc + immU i)

end Sys2Proof.Machine
end

