-- ==== Sys2Proof/Machine/StationMath.lean ====
section
/-! DEFINITION. The integer, W48, exponential and vector stations (R217 to R228, R251, R252). -/

namespace Sys2Proof.Machine

/-! ## Integer (R217) -/

/-- An integer station: a and b. -/
def State.intFire (s : State) (f : StF) (g : Word → Word → Word) : State :=
  s.fireFn f fun s x q => .scalar (g (s.opWord x q 0) (s.opWord x q 1))

/-- The shift amount of b: a token's b[5:0], else the immediate (R217). -/
def State.shiftFire (s : State) (f : StF) (g : Word → Nat → Word) : State :=
  s.fireFn f fun s x q =>
    let n := match tokAt q 1 with
      | some t => (t.pay.word.extractLsb' 0 6).toNat
      | none => immOf f
    .scalar (g (s.opWord x q 0) n)

/-- Less than, by the .u bit (R217). -/
def ltOf (u : Bool) (a b : Word) : Bool := if u then a.ult b else a.slt b

/-- The condition of icmp (R217). -/
def icmpOf (cond : BitVec 3) (u : Bool) (a b : Word) : Bool :=
  match cond.toNat with
  | 0 => a == b
  | 1 => a != b
  | 2 => ltOf u a b
  | 3 => !ltOf u b a
  | 4 => ltOf u b a
  | _ => !ltOf u a b

def execIadd (f : StF) (s : State) : Out := .next (s.intFire f (· + ·))
def execIsub (f : StF) (s : State) : Out := .next (s.intFire f (· - ·))
def execImul (f : StF) (s : State) : Out := .next (s.intFire f (· * ·))
def execIand (f : StF) (s : State) : Out := .next (s.intFire f (· &&& ·))
def execIor (f : StF) (s : State) : Out := .next (s.intFire f (· ||| ·))
def execIxor (f : StF) (s : State) : Out := .next (s.intFire f (· ^^^ ·))
def execIshl (f : StF) (s : State) : Out := .next (s.shiftFire f fun a n => a <<< n)
def execIshr (f : StF) (s : State) : Out := .next (s.shiftFire f fun a n => a >>> n)
def execIsar (f : StF) (s : State) : Out := .next (s.shiftFire f fun a n => a.sshiftRight n)
def execImin (f : StF) (s : State) : Out :=
  .next (s.intFire f fun a b => if ltOf (f.aux.getLsbD 3) b a then b else a)
def execImax (f : StF) (s : State) : Out :=
  .next (s.intFire f fun a b => if ltOf (f.aux.getLsbD 3) a b then b else a)
def execIcmp (f : StF) (s : State) : Out :=
  .next (s.intFire f fun a b => b2w (icmpOf (f.aux.extractLsb' 0 3) (f.aux.getLsbD 3) a b))
def execIsel (f : StF) (s : State) : Out :=
  .next (s.fireFn f fun s x q => .scalar (if s.pred x q 0 then s.opWord x q 1 else s.opWord x q 2))

/-! ## W48 (R218 to R223) -/

/-- A lanewise W48 station. -/
def State.wFire (s : State) (f : StF) (g : W48 → W48 → W48 → W48) : State :=
  s.fireFn f fun s x q => s.lanewise x q fun _ a b c => g a b c

def execFadd (f : StF) (s : State) : Out := .next (s.wFire f fun a b _ => wAdd a b f.rm)
def execFsub (f : StF) (s : State) : Out := .next (s.wFire f fun a b _ => wSub a b f.rm)
def execFmul (f : StF) (s : State) : Out := .next (s.wFire f fun a b _ => wMul a b f.rm)
def execFma (f : StF) (s : State) : Out := .next (s.wFire f fun a b c => wFma false false a b c f.rm)
def execFms (f : StF) (s : State) : Out := .next (s.wFire f fun a b c => wFma false true a b c f.rm)
def execFnma (f : StF) (s : State) : Out := .next (s.wFire f fun a b c => wFma true false a b c f.rm)
def execFneg (f : StF) (s : State) : Out := .next (s.wFire f fun a _ _ => wNeg a)
def execFabs (f : StF) (s : State) : Out := .next (s.wFire f fun a _ _ => wAbs a)
def execFmin (f : StF) (s : State) : Out := .next (s.wFire f fun a b _ => wMinMax false a b)
def execFmax (f : StF) (s : State) : Out := .next (s.wFire f fun a b _ => wMinMax true a b)
def execFrnd (f : StF) (s : State) : Out := .next (s.wFire f fun a _ _ => wRnd a f.rm)
def execFrcp (f : StF) (s : State) : Out := .next (s.wFire f fun a _ _ => wRcp a f.rm)
def execFrsq (f : StF) (s : State) : Out := .next (s.wFire f fun a _ _ => wRsq a f.rm)
def execFdiv (f : StF) (s : State) : Out := .next (s.wFire f fun a b _ => wDiv a b f.rm)
def execFsqrt (f : StF) (s : State) : Out := .next (s.wFire f fun a _ _ => wSqrt a f.rm)

/-- One fcmp (R221). -/
def fcmpOf (aux : BitVec 8) (a b : W48) : Bool :=
  let g (w : W48) : W48 := if aux.getLsbD 3 then w &&& BitVec.ofNat 48 (2 ^ 47 - 1) else w
  wCmp (aux.extractLsb' 0 3) (g a) (g b)

/-- fcmp (R221): an i64; with v16 bit j is lane j's result. -/
def execFcmp (f : StF) (s : State) : Out :=
  .next (s.fireFn f fun s x q =>
    if isV f then
      let a := s.opLanes x q 0
      let b := s.opLanes x q 1
      .scalar ((List.range 16).foldl (fun w j => w ||| bit j (fcmpOf f.aux (a.getD j 0) (b.getD j 0))) 0)
    else .scalar (b2w (fcmpOf f.aux (s.opW x q 0) (s.opW x q 1))))

/-- fsel (R219): word for word; with v16 bit j of the predicate selects lane j. -/
def execFsel (f : StF) (s : State) : Out :=
  .next (s.fireFn f fun s x q =>
    let p := s.opWord x q 0
    s.lanewise x q fun j _ b c => if (if isV f then p.getLsbD j else p != 0) then b else c)

/-- fclass (R222). -/
def execFclass (f : StF) (s : State) : Out :=
  .next (s.fireFn f fun s x q => .scalar (BitVec.ofNat 64 (2 ^ wClass (s.opW x q 0))))

/-- fscale (R223): b is an I64. -/
def execFscale (f : StF) (s : State) : Out :=
  .next (s.fireFn f fun s x q =>
    let b := s.opWord x q 1
    s.lanewise x q fun _ a _ _ => wScale a b f.rm)

/-! ## Exponential (R251, R252) -/

def execFexp (f : StF) (s : State) : Out := .next (s.wFire f fun a _ _ => expW a f.rm)
def execFexp2 (f : StF) (s : State) : Out := .next (s.wFire f fun a _ _ => exp2W a f.rm)
def execFlog2 (f : StF) (s : State) : Out := .next (s.wFire f fun a _ _ => log2W a f.rm)

/-- Equal words that are not NaNs, for fmaxrun's x = m'. -/
def wSame (a b : W48) : Bool := !wIsNaN a && !wIsNaN b && fvEq (fvOf a) (fvOf b)

/-- fmaxrun over one lane: o0, o1, and the new maximum (R252). -/
def maxRun (rm : RMode) (x m : W48) : W48 × W48 × W48 :=
  let m' := wMinMax true m x
  (if wSame x m' then wZero false else wSub x m' rm, if wSame m m' then wZero false else wSub m m' rm, m')

/-- fmaxrun (R252). -/
def execFmaxrun (f : StF) (s : State) : Out :=
  .next (s.fireSet f (portsOf f) dataOnly
    (fun x q n s =>
      let l := (f.aux.extractLsb' 0 3).toNat
      let sl := s.slot x.t x.st (setSeq q)
      passStop x q n (if 1 ≤ l ∧ l ≤ n then s.setSlot x.t { sl with lanes := [] } else s))
    (fun x q s =>
      let sl := s.slot x.t x.st (setSeq q)
      let n := if isV f then 16 else 1
      let xs := s.opLanes x q 0
      let rs := (List.range n).map fun j => maxRun f.rm (xs.getD j 0) (sl.lanes.getD j (wInf true))
      let pay (l : List W48) : Payload := if isV f then .vector l else payW (l.getD 0 0)
      let tok (l : List W48) : Token := ⟨setSeq q, setIter q, .data, pay l, (0, 0)⟩
      (s.setSlot x.t { sl with lanes := rs.map (·.2.2) }).emits x.t x.st
        [(some 0, tok (rs.map (·.1))), (some 1, tok (rs.map (·.2.1))), (some 2, tok (rs.map (·.2.2)))]))

/-! ## Vector (R224 to R228) -/

/-- fmax or fmin by code 1 or 2, else the rounded sum (R225, R226). -/
def redOp (code : Nat) (rm : RMode) (a b : W48) : W48 :=
  if code = 1 then wMinMax true a b else if code = 2 then wMinMax false a b else wAdd a b rm

/-- The identity of a reduction (R226). -/
def redId (code : Nat) : W48 := if code = 1 then wInf true else if code = 2 then wInf false else wZero false

/-- vred (R225). -/
def execVred (f : StF) (s : State) : Out :=
  .next (s.fireFn f fun s x q =>
    payW (pairTree (redOp (f.aux.extractLsb' 0 2).toNat f.rm) 16 (s.opLanes x q 0)))

/-- vdot (R225). -/
def execVdot (f : StF) (s : State) : Out :=
  .next (s.fireFn f fun s x q =>
    payW (pairSum (List.zipWith (fun a b => wMul a b f.rm) (s.opLanes x q 0) (s.opLanes x q 1)) f.rm))

/-- The lanes of an inclusive or exclusive scan (R226). -/
def scanLanes (op : W48 → W48 → W48) (excl : Bool) : Option W48 → List W48 → List W48
  | _, [] => []
  | acc, x :: xs =>
    let next := match acc with
      | none => x
      | some a => op a x
    (if excl then acc.getD x else next) :: scanLanes op excl (some next) xs

/-- vscan (R226). -/
def execVscan (f : StF) (s : State) : Out :=
  .next (s.fireFn f fun s x q =>
    let code := (f.aux.extractLsb' 1 2).toNat
    let excl := f.aux.getLsbD 0
    .vector (scanLanes (redOp code f.rm) excl (if excl then some (redId code) else none) (s.opLanes x q 0)))

/-- vbcast (R227). -/
def execVbcast (f : StF) (s : State) : Out :=
  .next (s.fireFn f fun s x q =>
    let l := s.opLanes x q 0
    .vector (List.replicate 16 (if f.aux.getLsbD 4 then l.getD (f.aux.extractLsb' 0 4).toNat 0 else l.getD 0 0)))

/-- vshuf (R227). -/
def execVshuf (f : StF) (s : State) : Out :=
  .next (s.fireFn f fun s x q =>
    let p := s.opWord x q 1
    let l := s.opLanes x q 0
    .vector ((List.range 16).map fun j => l.getD (p.extractLsb' (4 * j) 4).toNat 0))

/-- The lane index of a port: a token's bits [3:0], else the immediate (R224). -/
def laneAt (q : List (Nat × Token)) (f : StF) (p : Nat) : Nat :=
  match tokAt q p with
  | some t => (t.pay.word.extractLsb' 0 4).toNat
  | none => immOf f % 16

/-- vext (R227). -/
def execVext (f : StF) (s : State) : Out :=
  .next (s.fireFn f fun s x q => payW ((s.opLanes x q 0).getD (laneAt q f 1) 0))

/-- vins (R227). With c no token the opcode's K is the immediate, and b without a token reads it too (R196, R224). -/
def execVins (f : StF) (s : State) : Out :=
  .next (s.fireFn f fun s x q =>
    let v := if (tokAt q 1).isNone ∧ (tokAt q 2).isNone then BitVec.ofNat 48 (immOf f) else s.opW x q 1
    .vector ((s.opLanes x q 0).set (laneAt q f 2) v))

/-- The vector that vpack has gathered, or an ERROR when a lane failed (R228). -/
def packTok (x : Sta) (l : List Token) (s : State) : Token :=
  let t0 := l.headD (tokS 0 0 .data 0)
  let it := BitVec.ofNat 24 (t0.iter.toNat / 16)
  match l.find? (·.kind = .error) with
  | some e => tokE t0.seq it (e.err (s.self x.t 0))
  | none => tokV t0.seq it .data ((List.range 16).map fun j => ((l[j]?).map fun t => t.pay.word.setWidth 48).getD (wZero false))

/-- vpack (R228). -/
def execVpack (f : StF) (s : State) : Out :=
  .next (s.fireHeads f fun x s =>
    match s.hd x 0 with
    | none => s
    | some t =>
      let s1 := s.take x [0]
      let sl := s1.slot x.t x.st t.seq
      match t.kind with
      | .stop n =>
        let part := if sl.buf = [] then [] else [(none, packTok x sl.buf s1)]
        (s1.setSlot x.t { sl with buf := [] }).emits x.t x.st
          (part ++ [(none, tokStop t.seq (BitVec.ofNat 24 ((t.iter.toNat + 15) / 16)) n)])
      | _ =>
        if t.kind ≠ .data ∧ t.kind ≠ .error then s1.errFire x t.seq t.iter (s.self x.t eKIND)
        else
          let l := sl.buf ++ [t]
          if l.length = 16 then (s1.setSlot x.t { sl with buf := [] }).emits x.t x.st [(none, packTok x l s1)]
          else s1.setSlot x.t { sl with buf := l })

/-- vunpk gives lane `j` of a vector with tag 16i + j, and its slot keeps the vector while lanes are left. -/
def State.unpackLane (s : State) (x : Sta) (t : Token) (j : Nat) : State :=
  let sl := s.slot x.t x.st t.seq
  let lane : W48 := match t.pay with
    | .vector l => l.getD j 0
    | p => p.word.setWidth 48
  (s.setSlot x.t { sl with held := if j = 15 then none else some t, cnt := if j = 15 then 0 else j + 1 }).emits x.t x.st
    [(none, s.retag x (tokS t.seq t.iter .data (lane.setWidth 64)) (16 * t.iter.toNat + j))]

/-- vunpk (R228): each lane is a firing of its own. -/
def execVunpk (f : StF) (s : State) : Out :=
  .next (s.fireOwing f (fun x z t s => s.unpackLane x t z.cnt) fun x s =>
    match s.hd x 0 with
    | none => s
    | some t =>
      let s1 := s.take x [0]
      let i := 16 * t.iter.toNat
      match t.kind with
      | .data => s1.unpackLane x t 0
      | .stop n => s1.emits x.t x.st [(none, s.retag x (tokStop t.seq t.iter n) i)]
      | .error => s1.emits x.t x.st [(none, s.retag x t i)]
      | _ => s1.errFire x t.seq t.iter (s.self x.t eKIND))

end Sys2Proof.Machine
end

