-- ==== Sys2Proof/Machine/MatrixEngine.lean ====
section
/-! DEFINITION. The matrix engine (R235 to R247): its stations, the fill of the A row buffer, and the sequencer. -/

namespace Sys2Proof.Machine

/-! ## Row groups and banks -/

/-- A row group that nothing has written. -/
def RowGroup.zero : RowGroup := ⟨[], false, []⟩

/-- The engine with a row group replaced. -/
def Matrix.setRg (m : Matrix) (k : Nat × Nat) (g : RowGroup) : Matrix := { m with rgs := assign m.rgs k g }

/-- Bytes written into a sparse list of bytes. -/
def putBytes (l : List (Nat × Byte)) (a : Nat) : List Byte → List (Nat × Byte)
  | [] => l
  | b :: bs => putBytes (if b = 0 then l.filter (·.1 ≠ a) else assign l a b) (a + 1) bs

/-- A bank of the engine. -/
def Matrix.bank (m : Matrix) (k : Nat) : Bank := m.banks[k % 4]'(Nat.mod_lt _ (by decide))

/-- The engine with a bank replaced. -/
def Matrix.setBank (m : Matrix) (k : Nat) (b : Bank) : Matrix :=
  { m with banks := m.banks.set (k % 4) b (Nat.mod_lt _ (by decide)) }

/-- The slot of the operation that a dot request belongs to. -/
def BankReq.op? : BankReq → Option Nat
  | .dot a _ _ _ _ _ _ => some a.slot
  | _ => none

/-- The number of a clear. -/
def BankReq.clear? : BankReq → Option Nat
  | .clear id _ _ => some id
  | _ => none

/-- The slots of the issued operations that still wait or run. -/
def Matrix.issued (m : Matrix) : List Nat := (List.range 4).flatMap fun k => (m.bank k).q.filterMap BankReq.op?

/-- The operation slot that is neither filling, full nor running, if one is (R236). -/
def Matrix.freeSlot (m : Matrix) : Option Nat :=
  [0, 1].find? fun n => !(m.abuf.any fun a => a.slot == n) && !m.issued.contains n

/-- A number that no queued clear has. -/
def Matrix.freeClear (m : Matrix) : Nat :=
  let used := (List.range 4).flatMap fun k => (m.bank k).q.filterMap BankReq.clear?
  ((List.range (used.length + 1)).find? fun n => !used.contains n).getD 0

/-- The sequencer of a tile runs: its partition is not being pre-empted (R247), nor its region frozen by a hang (R387). -/
def State.sequences (s : State) (t : TileId) : Bool :=
  match s.regionOf t with
  | none => true
  | some r => (s.part r.part).pre == .running && !r.hung

/-- The banks of a mask. -/
def maskBanks (mask : Nat) : List Nat := (List.range 4).filter fun k => mask / 2 ^ k % 2 = 1

/-- The engine's saturation of a column (R237). -/
def satS (v : Int) : Int := max (-(2 ^ 383 - 1)) (min (2 ^ 383 - 1) v)

/-! ## mxload and mxscale (R239) -/

/-- Gathering a fixed number of DATA tokens that each write the engine. A write goes behind every operation already
issued: it waits until none is left. DEDUCED: log 58. -/
def State.loadFire (s : State) (f : StF) (total : Nat) (write : Nat → Word → RowGroup → RowGroup) : State :=
  s.fireHeads f fun x s =>
    match s.hd x 0 with
    | none => s
    | some t =>
      let s1 := s.take x [0]
      let sl := s1.slot x.t x.st t.seq
      match t.kind with
      | .stop _ =>
        if sl.cnt = 0 then s1.emits x.t x.st [(none, t)]
        else (s1.setSlot x.t { sl with cnt := 0 }).errFire x t.seq t.iter (s.self x.t eSTOPMIS)
      | .error => s1.errFire x t.seq t.iter (t.err (s.self x.t 0))
      | .data =>
        if (s.tileAt x.t).mx.issued ≠ [] then s
        else
          let k := ((f.aux.extractLsb' 0 2).toNat, (f.aux.extractLsb' 2 3).toNat)
          let s2 := s1.onTile x.t fun y =>
            { y with mx := y.mx.setRg k (write sl.cnt t.pay.word (lookupD y.mx.rgs k RowGroup.zero)) }
          if sl.cnt + 1 = total then (s2.setSlot x.t { sl with cnt := 0 }).emits x.t x.st
            [(none, tokS t.seq t.iter .done (BitVec.ofNat 64 total))]
          else s2.setSlot x.t { sl with cnt := sl.cnt + 1 }
      | _ => s1.errFire x t.seq t.iter (s.self x.t eKIND)

/-- mxload (R239). -/
def execMxload (f : StF) (s : State) : Out :=
  .next (s.loadFire f 2048 fun n w g =>
    { g with cells := putBytes g.cells (128 * (n / 16) + 8 * (n % 16)) (leBytes 8 w.toNat),
             fmtb := if n = 0 then f.aux.getLsbD 5 else g.fmtb })

/-- A header byte held clamped to −32..31 (R235). -/
def clampHdr (b : Byte) : Byte := BitVec.ofInt 8 (max (-32) (min 31 b.toInt))

/-- mxscale (R239). -/
def execMxscale (f : StF) (s : State) : Out :=
  .next (s.loadFire f 16 fun n w g =>
    { g with hdrs := putBytes g.hdrs (8 * n) ((leBytes 8 w.toNat).map clampHdr) })

/-! ## mxdot (R240 to R242) -/

/-- The shape of an mxdot operation: first row group, row groups, macros, tokens, .ovw, .bcast, bank mask. -/
structure DotShape where
  g0    : Nat
  ng    : Nat
  nm    : Nat
  toks  : Nat
  ovw   : Bool
  bcast : Bool
  mask  : Nat
  deriving DecidableEq, Repr

/-- The shape that a word gives (R238, R240). -/
def dotShape (f : StF) : DotShape :=
  let ng := (f.aux.extractLsb' 3 3).toNat + 1
  let nm := (f.k.extractLsb' 2 2).toNat + 1
  let bc := f.aux.getLsbD 7
  ⟨(f.aux.extractLsb' 0 3).toNat, ng, nm, 8 * ng * (if bc then 1 else nm), f.aux.getLsbD 6, bc,
   if bc then 2 ^ nm - 1 else 2 ^ (f.k.extractLsb' 0 2).toNat⟩

/-- The elements of an sd token; none when a digit code is invalid (R184). -/
def aElems (t : Token) : Option (List AElem) :=
  let n := t.hdr.2.toNat + 1
  let l := match t.pay with
    | .vector l => l
    | p => [p.word.setWidth 48]
  (allSome l fun w => sdDigits n (w.toNat % 2 ^ 24)).map fun ds => ds.map fun d => ⟨d.2, n, t.hdr.1.toInt⟩

/-- A slot that begins with a token. -/
def ASlot.start (slot st : Nat) (t : Token) (d : DotShape) : ASlot :=
  ⟨slot, st, t.seq, BitVec.ofNat 24 (t.iter.toNat / d.toks), 0, [], none, false⟩

/-- A slot with one more token (R240, R242). -/
def ASlot.feed (a : ASlot) (t : Token) (d : DotShape) (self : ErrInfo) : ASlot :=
  let err : Option ErrInfo := if t.kind = .error then some (t.err self)
    else if (aElems t).isNone then some { self with cause := eSDDIGIT } else none
  { a with got := a.got + 1, err := a.err <|> err, full := decide (a.got + 1 = d.toks),
           elems := if t.kind = .error then a.elems else a.elems ++ (aElems t).getD [] }

/-- The filling slot of a station changed. -/
def Matrix.onFill (m : Matrix) (st : Nat) (g : ASlot → ASlot) : Matrix :=
  { m with abuf := updFirst (fun b => b.st == st && !b.full) g m.abuf }

/-- MXDOT_FILL: one token from the head of a goes into the acting station's slot (R240). A STOP or a token of another
launch mid-operation ends it as an error operation; the head stays (R242). -/
def execMxdotFill (s : State) : Out :=
  let t := s.tile
  match s.wordAt t s.st with
  | none => .next s
  | some w =>
    if opOf w ≠ 0x61 ∨ !s.sequences t then .next s
    else
      let d := dotShape (StF.of w)
      let y := s.tileAt t
      match (y.head s.st 0).map (Token.plain 0x61) with
      | none => .next s
      | some tok =>
        match y.mx.abuf.find? (fun a => a.st = s.st ∧ !a.full) with
        | some a =>
          if tok.isWide then .next s
          else if tok.seq ≠ a.seq ∨ tok.kind.level ≠ 0 then
            .next (s.onTile t fun y => { y with mx := y.mx.onFill s.st fun b =>
              { b with full := true, err := b.err <|> some (s.self t eSTOPMIS) } })
          else if tok.kind = .data ∨ tok.kind = .error then
            .next (s.onTile t fun y => { (y.pop s.st 0) with mx := y.mx.onFill s.st fun b => b.feed tok d (s.self t 0) })
          else .next s
        | none =>
          match y.mx.freeSlot with
          | none => .next s
          | some n =>
            if tok.isWide ∨ (tok.kind ≠ .data ∧ tok.kind ≠ .error) then .next s
            else .next (s.onTile t fun y => { (y.pop s.st 0) with mx := { y.mx with
              abuf := y.mx.abuf ++ [(ASlot.start n s.st tok d).feed tok d (s.self t 0)] } })

/-- The operation of a full slot that fails: ERROR in place of its issue token, its banks poisoned (R242). -/
def State.dotFail (s : State) (x : Sta) (a : ASlot) (d : DotShape) (e : ErrInfo) : State :=
  (s.onTile x.t fun y => { y with mx := ({ y.mx with abuf := dropFirst (fun b => b.st = x.st ∧ b.full) y.mx.abuf }).poison d.mask }).errFire
    x a.seq a.iter e

/-- mxdot (R241, R242): a full slot is issued once every bank queue it writes has room; a STOP between operations
passes; a kind that the station does not take makes an error firing, between operations and while one fills (R238). -/
def execMxdot (f : StF) (s : State) : Out :=
  .next (s.fireHeads f fun x s =>
    let d := dotShape f
    let mx := (s.tileAt x.t).mx
    match mx.abuf.find? (fun a => a.st = x.st ∧ a.full) with
    | some a =>
      match a.err with
      | some e => s.dotFail x a d e
      | none =>
        if (maskBanks d.mask).any fun k => (mx.bank k).poison then s.dotFail x a d (s.self x.t ePOISON)
        else if (maskBanks d.mask).any fun k => decide (8 ≤ (mx.bank k).q.length) then s
        else
          let s1 := s.onTile x.t fun y =>
            let m1 := { y.mx with abuf := dropFirst (fun b => b.st = x.st ∧ b.full) y.mx.abuf }
            { y with mx := (maskBanks d.mask).foldl (fun m k =>
                m.setBank k { m.bank k with q := (m.bank k).q ++ [.dot a d.g0 d.ng d.nm 0 d.ovw d.bcast] }) m1 }
          s1.emits x.t x.st [(none, tokS a.seq a.iter .data (BitVec.ofNat 64 d.mask))]
    | none =>
      match s.hd x 0 with
      | none => s
      | some t =>
        match mx.abuf.find? (·.st = x.st) with
        | some a =>
          if t.seq ≠ a.seq ∨ t.kind.level ≠ 0 ∨ t.kind = .data ∨ t.kind = .error then s
          else (s.take x [0]).errFire x t.seq t.iter (s.self x.t eKIND)
        | none =>
          if t.kind.level ≠ 0 then (s.take x [0]).emits x.t x.st [(none, t)]
          else if t.kind = .data ∨ t.kind = .error then s
          else (s.take x [0]).errFire x t.seq t.iter (s.self x.t eKIND))

/-! ## The sequencer (R241, R247) -/

/-- The weight of a cell: its value in units of 2^u, or NaR. -/
def cellValue (fmtb : Bool) (b : Byte) : Option Int :=
  if !fmtb then some b.toInt
  else
    let c := b.toNat % 32
    let neg := b.getLsbD 5
    if c = 0 then (if neg then none else some 0) else some (if neg then -(linL6 c : Int) else linL6 c)

/-- One macro's row group added into a bank: rows take elements from position `k0` (R241). -/
def Bank.addGroup (b : Bank) (g : RowGroup) (elems : List AElem) (k0 : Nat) : Bank :=
  g.cells.foldl (fun b c =>
    let j := c.1 % 128
    match elems[k0 + c.1 / 128]? with
    | none => b
    | some a =>
      let v := sdValue a.digits
      if v = 0 then b
      else match cellValue g.fmtb c.2 with
        | none => { b with nanf := if b.nanf.contains j then b.nanf else j :: b.nanf }
        | some w =>
          let sc := (lookupD g.hdrs j 0).toInt
          let p := (a.e + sc + 176 - (if g.fmtb then 16 else 0)).toNat
          { b with s := assign b.s j (satS (lookupD b.s j 0 + v * w * 2 ^ p)) }) b

/-- One row group of a dot request applied to its bank (R241). -/
def Matrix.runGroup (m : Matrix) (k : Nat) (a : ASlot) (g0 ng nm done : Nat) (bcast : Bool) (b : Bank) : Bank :=
  let macros := if bcast then [k] else List.range nm
  macros.foldl (fun b mac =>
    b.addGroup (lookupD m.rgs (mac, g0 + done) RowGroup.zero) a.elems ((if bcast then 0 else 128 * ng * mac) + 128 * done)) b

/-- MX_SEQUENCER_APPLY: the next row group of the request at the head of bank `k`'s queue (R241); .ovw clears once. A partition
that is pre-empted stops it at the boundary (R247). -/
def execMxSequencerApply (s : State) : Out :=
  let k := s.input.k.toNat
  let mx := (s.tileAt s.tile).mx
  let b := mx.bank k
  if !s.sequences s.tile then .next s
  else match b.q with
  | .dot a g0 ng nm done ovw bcast :: rest =>
    let b0 := if ovw then { b with s := [], nanf := [] } else b
    let b1 := mx.runGroup k a g0 ng nm done bcast b0
    let b2 := { b1 with q := if done + 1 < ng then .dot a g0 ng nm (done + 1) false bcast :: rest else rest }
    .next (s.onTile s.tile fun y => { y with mx := y.mx.setBank k b2 })
  | _ => .next s

/-! ## Reading and clearing banks (R244) -/

/-- mxrd's trigger and mxclr's trigger accept DATA and DONE (R238). -/
def trigOk (k : Kind) : Bool := k == .data || k == .done

/-- mxrd (R244). -/
def execMxrd (f : StF) (s : State) : Out :=
  .next (s.fireHeads f fun x s =>
    match s.hd x 0 with
    | none => s
    | some t =>
      let n := (f.aux.extractLsb' 3 3).toNat + 1
      let k := immOf f % 4
      if t.kind.level ≠ 0 then (s.take x [0]).emits x.t x.st [(none, s.retag x t (n * t.iter.toNat))]
      else if t.kind = .error then (s.take x [0]).errFire x t.seq t.iter (t.err (s.self x.t 0))
      else if !trigOk t.kind then (s.take x [0]).errFire x t.seq t.iter (s.self x.t eKIND)
      else if 8 ≤ ((s.tileAt x.t).mx.bank k).q.length then s
      else (s.take x [0]).onTile x.t fun y => { y with mx := y.mx.setBank k { y.mx.bank k with
        q := (y.mx.bank k).q ++ [.read x.st t (f.aux.extractLsb' 0 3).toNat n f.rm] } })

/-- A column as a lane (R244). -/
def Bank.lane (b : Bank) (rm : RMode) (col : Nat) : W48 :=
  if b.nanf.contains col then wNaN else roundW48 (fvInt (lookupD b.s col 0) (-176) false) rm

/-- MXRD_READ_APPLY: the read at the head of bank `k`'s queue gives its tokens (R244). -/
def execMxrdReadApply (s : State) : Out :=
  let k := s.input.k.toNat
  let b := (s.tileAt s.tile).mx.bank k
  if !s.sequences s.tile then .next s
  else match b.q with
  | .read st trig g n rm :: rest =>
    let s1 := s.onTile s.tile fun y => { y with mx := y.mx.setBank k { b with q := rest } }
    .next (s1.emits s.tile st ((List.range n).map fun j =>
      let i := n * trig.iter.toNat + j
      (none, if tagOvf i then tokE trig.seq trig.iter (s.self s.tile eTAGOVF)
        else if b.poison then tokE trig.seq (BitVec.ofNat 24 i) (s.self s.tile ePOISON)
        else tokV trig.seq (BitVec.ofNat 24 i) .data ((List.range 16).map fun l => b.lane rm (16 * (g + j) + l)))))
  | _ => .next s

/-- mxclr (R244). -/
def execMxclr (f : StF) (s : State) : Out :=
  .next (s.fireHeads f fun x s =>
    match s.hd x 0 with
    | none => s
    | some t =>
      if t.kind.level ≠ 0 then (s.take x [0]).emits x.t x.st [(none, t)]
      else if t.kind = .error then (s.take x [0]).errFire x t.seq t.iter (t.err (s.self x.t 0))
      else if !trigOk t.kind then (s.take x [0]).errFire x t.seq t.iter (s.self x.t eKIND)
      else
        let ks := maskBanks (immOf f)
        if ks.any fun k => decide (8 ≤ ((s.tileAt x.t).mx.bank k).q.length) then s
        else (s.take x [0]).onTile x.t fun y => { y with mx := ks.foldl (fun m k => m.setBank k { m.bank k with
          q := (m.bank k).q ++ [.clear y.mx.freeClear x.st t] }) y.mx })

/-- MXCLR_APPLY: the clear at the head of bank `k`'s queue; the trigger leaves with the last of its banks (R244). -/
def execMxclrApply (s : State) : Out :=
  let k := s.input.k.toNat
  let mx := (s.tileAt s.tile).mx
  if !s.sequences s.tile then .next s
  else match (mx.bank k).q with
  | .clear id st trig :: rest =>
    let m1 := mx.setBank k ⟨[], [], false, rest⟩
    let s1 := s.onTile s.tile fun y => { y with mx := m1 }
    let more := (List.range 4).any fun j => (m1.bank j).q.any (·.clear? == some id)
    .next (if more then s1 else s1.emits s.tile st [(none, trig)])
  | _ => .next s

/-! ## mxacc (R245) -/

/-- mxacc: an accumulator node over an ordered stream. -/
def execMxacc (f : StF) (s : State) : Out :=
  .next (s.fireHeads f fun x s =>
    match s.hd x 0 with
    | none => s
    | some t =>
      let s1 := s.take x [0]
      let sl := s1.slot x.t x.st t.seq
      let code := (f.aux.extractLsb' 0 2).toNat
      let n := if isV f then 16 else 1
      let acc := (List.range n).map fun j => sl.lanes.getD j (redId code)
      match t.kind with
      | .data =>
        let xs := match t.pay with
          | .vector l => l
          | p => [p.word.setWidth 48]
        s1.setSlot x.t { sl with lanes := List.zipWith (redOp code f.rm) acc xs }
      | .stop k =>
        if k < (f.aux.extractLsb' 2 3).toNat then s1.emits x.t x.st [(none, t)]
        else
          let r := match sl.err with
            | some e => { e with seq := t.seq, iter := t.iter }
            | none => ⟨t.seq, t.iter, .data, if isV f then .vector acc else payW (acc.getD 0 0), (0, 0)⟩
          (s1.setSlot x.t { sl with lanes := [], err := none }).emits x.t x.st [(none, r), (none, t)]
      | .error => s1.setSlot x.t { sl with err := sl.err <|> some t }
      | _ => s1.errFire x t.seq t.iter (s.self x.t eKIND))

end Sys2Proof.Machine
end

