-- ==== Sys2Proof/Machine/Partitions.lean ====
section
/-! DEFINITION. Partitions: their reset and grants (R389, R390, R394, R431), pre-emption (R391, R392), the attic (R393,
R396), calls of the supervisor (R379, R435), and tlbinv (R380). -/

namespace Sys2Proof.Machine

/-! ## What belongs to a partition -/

/-- A core of partition `p`. -/
def State.coreIn (s : State) (p : BitVec 4) (c : Fin 64) : Bool := s.cores[c].part == some p

/-- The cores of a partition that are not in the attics. -/
def State.coresOf (s : State) (p : BitVec 4) : List (Fin 64) := (List.finRange 64).filter (s.coreIn p)

/-- Another partition than `p` holds a tile too: the tile is time-shared. -/
def State.shared (s : State) (p : BitVec 4) (t : TileId) : Bool :=
  (List.finRange 16).any fun q => q.val != p.toNat && s.parts[q].grants.tiles.contains t

/-- The holder of a walk or a hold, or a wait entry, belongs to a partition. -/
def State.waitIn (s : State) (p : BitVec 4) (e : WaitEntry) : Bool :=
  match e.who with
  | .ldc c .. => s.coreIn p c
  | .stf c .. => s.coreIn p c
  | .ldcs t .. => ((s.regionOf t).map fun r => r.part == p).getD false
  | .stfs t .. => ((s.regionOf t).map fun r => r.part == p).getD false

/-- The part of a sampler that belongs to some cores, as a sampler of its own. -/
def Sampler.only (x : Sampler) (mine : Fin 64 → Bool) : Sampler :=
  { progs := [], inputs := x.inputs.filter (mine ·.1), outputs := x.outputs.filter (mine ·.1),
    items := x.items.filter (mine ·.core), skips := x.skips.filter (mine ·.core),
    ctx := mapAll x.ctx fun o => o.filter fun (c : Ctx) => mine c.core, parked := Vector.replicate 2 none }

/-- A sampler without what belongs to some cores. `park` keeps the contexts of their runs occupied, for a partition that goes out
(R422). -/
def Sampler.without (x : Sampler) (mine : Fin 64 → Bool) (park : Option (BitVec 4)) : Sampler :=
  let gone (i : Fin 2) : Bool := (x.ctx[i].map fun (c : Ctx) => mine c.core).getD false
  { x with
    inputs := x.inputs.filter (!mine ·.1), outputs := x.outputs.filter (!mine ·.1), items := x.items.filter (!mine ·.core),
    skips := x.skips.filter (!mine ·.core), ctx := mapEach x.ctx fun i o => if gone i then none else o,
    parked := mapEach x.parked fun i b => if gone i then b <|> park else b }

/-- A sampler of which no context waits for a partition. -/
def Sampler.unpark (x : Sampler) (p : BitVec 4) : Sampler := { x with parked := mapAll x.parked fun b => if b = some p then none else b }

/-- A sampler with what was taken out of it put back. -/
def Sampler.join (x y : Sampler) : Sampler :=
  { x with
    inputs := x.inputs ++ y.inputs, outputs := x.outputs ++ y.outputs, items := x.items ++ y.items, skips := x.skips ++ y.skips,
    ctx := mapEach x.ctx fun i o => o <|> y.ctx[i] }

/-! ## Measurement registers (R431) -/

/-- A measurement register extended by a digest (R431). -/
def State.extendMr (s : State) (i : Nat) (d : List Byte) : State :=
  { s with mrs := s.mrs.set i (shake256 (s.mrs.getD i [] ++ d) 64) }

/-! ## Reset of a partition (R390, R431) -/

/-- A tile that keeps only its weights, its TLB empty. -/
def Tile.bare (x : Tile) : Tile := { Tile.zero x.id with mx := { Matrix.zero with rgs := x.mx.rgs }, rcl := x.rcl }

/-- A core of a partition as it starts: at ENTRY, when the system image has been verified (R75, R390, R429). -/
def Partition.start (x : Partition) (p : BitVec 4) : Core :=
  { Core.reset x.entry with part := some p, run := if x.booted then .run else .off }

/-- A saved context in which nothing is left: its cores as they start, its tiles empty. -/
def Saved.blank (v : Saved) (k : Core) : Saved :=
  { cores := v.cores.map fun q => (q.1, k), regions := [], tiles := v.tiles.map fun y => Tile.zero y.id, bins := [], bytes := [],
    waits := [], walks := [], holds := [], streams := [], smps := Vector.replicate 8 Sampler.zero, flight := [], lost := [], out := v.out, awake := v.awake, cut := v.cut }

/-- The partition's own registers and records as they start; the timestamp counter goes on (R347). -/
def Partition.clear (x : Partition) (p : BitVec 4) : Partition :=
  { Partition.reset with
    booted := x.booted, grants := x.grants, dpn := x.dpn, entry := x.entry, cfgKey := x.cfgKey, ownerKey := x.ownerKey,
    image := x.image, tstamp := x.tstamp, notices := x.notices, resets := x.resets + 1, pre := if x.saved.isSome then x.pre else .running,
    saved := x.saved.map fun v => v.blank (x.start p) }

/-- The tiles whose live context is a partition's: those granted to it and not in its attics. -/
def State.liveTiles (s : State) (p : BitVec 4) : List TileId :=
  (s.part p).grants.tiles.filter fun t => !(((s.part p).saved.map fun v => v.tiles.any (·.id = t)).getD false)

/-- The bins of an MT that a partition holds reset (R267): all of its own MT's, else those it holds outside the run, and
the run when its context is live. -/
def State.resetBins (s : State) (p : BitVec 4) (t : TileId) : State :=
  let base := tileOff t / 256
  let g := (s.part p).grants
  if !t.isMT then s
  else match g.swapMaps.find? (·.1 = t) with
    | none => s.setBinRun base 1024 []
    | some q =>
      let s1 := (g.bins.filter (·.1 = t)).foldl (fun s b => s.setBinRun (base + b.2.1) b.2.2 []) s
      if (s.liveTiles p).contains t then s1.setBinRun (base + q.2.1) q.2.2 [] else s1

/-- The bindings and work of some cores given up: regions, mailboxes, streams, holds, walks, waits and sampler runs. -/
def State.giveUp (s : State) (p : BitVec 4) : State :=
  let mine := s.coreIn p
  let tiles := s.liveTiles p
  { s with
    regions := s.regions.filter (·.part ≠ p), flight := s.flight.filter (!tiles.contains ·.dst),
    waits := s.waits.filter (!s.waitIn p ·), walks := s.walks.filter (·.part ≠ p), holds := s.holds.filter (!mine ·.core),
    streams := s.streams.filter (·.part ≠ p), flits := s.flits.filter (·.part ≠ some p), credits := s.credits.filter (·.part ≠ some p),
    smps := mapAll s.smps fun x => (x.without mine none).unpark p, doubles := s.doubles.filter (!mine ·),
    tiles := s.tiles.map fun (x : Tile) => if tiles.contains x.id then x.bare else x }

/-- Every stream channel that a region is bound to is unbound. -/
def State.unbindAll (s : State) (r : Region) : State :=
  r.ends.foldl (fun s e => match e.2 with
    | .tarior p vc _ => if h : p < 18 then s.unbindChannel r e.1 ⟨p, h⟩ vc else s
    | _ => s) s

/-- The reset of a partition (R390): its launches are cancelled, its regions, bindings and pins released, its recall units
and bins reset, and its cores restart at ENTRY. Its debug state closes before its image is measured again (R431, R440).
DEDUCED: log 69. -/
def State.resetPartition (s : State) (p : BitVec 4) : State :=
  let mine := s.regions.filter (·.part = p)
  let s1 := mine.foldl (fun s r => s.cancelAll r.core r.bslot ⟨s.module, r.origin, eCANCEL⟩) s
  let s2 := mine.foldl (fun s r => s.unbindAll r) s1
  let s3 := s2.giveUp p
  let s4 := (s.part p).grants.tiles.foldl (fun s t => s.resetBins p t) s3
  let s5 := (s.part p).grants.recallU.foldl (fun s t => s.onTile t fun x => { x with rcl := Recall.zero }) s4
  let s6 := { s5 with
    larder := s5.larder.filter (·.part ≠ p), laid := s5.laid.filter (·.part ≠ p),
    cores := mapEach s5.cores fun c k => if s.coreIn p c then (s.part p).start p else k,
    mrs := s5.mrs.set (4 + p.toNat) (List.replicate 64 0) }
  (s6.setPart p ((s.part p).clear p)).extendMr (4 + p.toNat) (s.part p).image

/-! ## Calls of the supervisor (R379) -/

/-! ## Identity and reports (R432, R433) -/

/-- The secrets of the layers, and the private keys of DeviceID and Alias (R432). DESIGN CHOICE: log 9. -/
def State.cdi0 (s : State) : List Byte := shake256 (Config.uds ++ s.mrs.getD 0 []) 64
def State.cdi1 (s : State) : List Byte := shake256 (s.cdi0 ++ s.mrs.getD 1 [] ++ s.mrs.getD 2 []) 64
def State.deviceSecret (s : State) : List Byte := shake256 (s.cdi0 ++ [1]) 57
def State.aliasSecret (s : State) : List Byte := shake256 (s.cdi1 ++ [2]) 57

/-- A report of the asking function, signed with the Alias key (R433): on a virtual function MR0 to MR3, its partition's register and
its reset count. -/
def State.report (s : State) (fn : Option (BitVec 4)) (challenge : Bool) : SpdmResp :=
  let body : List Byte → SpdmResp := match fn with
    | none => .report s.mrs none s.sec.code (if s.vendor then 2 else 0) challenge
    | some p => .report (s.mrs.take 4 ++ [s.mrs.getD (4 + p.toNat) []]) (some (s.part p).resets) s.sec.code (s.dbgOf p) challenge
  body (edSign s.aliasSecret (Config.spdmBytes (body [])))

/-- The certificates: the vendor's of the DeviceID key, and that key's of the Alias key (R432). -/
def State.certificate (s : State) : SpdmResp :=
  let key := edPublic s.aliasSecret
  .certificate Config.deviceCert key (edSign s.deviceSecret (Config.spdmBytes (.certificate Config.deviceCert key [])))

/-- What an SPDM request of a function is answered with (R433). -/
def State.spdmFor (s : State) (fn : Option (BitVec 4)) : SpdmReq → SpdmResp
  | .getVersion => .version
  | .getCapabilities => .capabilities
  | .negotiateAlgorithms => .algorithms
  | .getDigests => .digests
  | .getCertificate => s.certificate
  | .challenge => s.report fn true
  | .getMeasurements => s.report fn false
  | .keyExchange => .unsupportedRequest

/-- A call of the supervisor by a partition's core. DEDUCED: log 67. -/
def State.hvc (s : State) (k : BitVec 4 → State → State) : State :=
  s.unsafeIssue fun s => match s.core.part with
    | none => (s.setCore (s.core.setReg 3 (-1))).retire
    | some p => k p s

/-- g3 receives a value and the core goes on. -/
def State.answer (s : State) (w : Word) : State := (s.setCore (s.core.setReg 3 w)).retire

/-- HVC_INFO (R379). DESIGN CHOICE: log 7. -/
def execHvcInfo (s : State) : Out :=
  .next (s.hvc fun p s =>
    (s.setCore (s.core.setReg 4 (BitVec.ofNat 64 (s.part p).grants.tiles.length))).answer (Config.supervisorVersion.setWidth 64))

/-- HVC_YIELD (R379): the time slice ends; the core goes on behind the hvc when the partition is next resumed. -/
def execHvcYield (s : State) : Out :=
  .next (s.hvc fun p s =>
    let s1 := s.answer 0
    (s1.setCore { s1.core with run := .preempted }).setPart p
      { s1.part p with pre := if (s1.part p).pre = .running then .requested else (s1.part p).pre })

/-- HVC_NOTICE (R379): the oldest notice, or 0. -/
def execHvcNotice (s : State) : Out :=
  .next (s.hvc fun p s =>
    match (s.part p).notices with
    | [] => s.answer 0
    | w :: rest => (s.setPart p { s.part p with notices := rest }).answer w)

/-- What a debug token is checked against, in order (R435): the status, and whether the token is accepted.
DESIGN CHOICE: log 8. DEDUCED: log 73. -/
def State.debugToken (s : State) (p : BitVec 4) (va : Nat) : Int × Bool :=
  if va % 8 ≠ 0 then (-1, false)
  else match s.readCore va 192 with
    | .error _ => (-1, false)
    | .ok b =>
      if dwAt b 8 ≠ p.setWidth 64 ∨ dirty b 16 78 ∨
          !ed448 (s.part p).ownerKey (shake256 (b.take 78 ++ edPublic s.deviceSecret) 64) (b.drop 78) then (-2, false)
      else if (s.part p).nonce ≠ some (dwAt b 0) then (-3, false)
      else (0, true)

/-- HVC_DEBUG (R435). -/
def execHvcDebug (s : State) : Out :=
  .next (s.hvc fun p s => s.withRegs [3] fun ws s =>
    let g3 := ws.getD 0 0
    if s.vendor ∨ s.sec = .failed then s.answer (-4)
    else if g3 = 0 then
      let n := Config.nonce s.fresh
      (({ s with fresh := s.fresh + 1 }).setPart p { s.part p with nonce := some n }).answer n
    else
      let r := s.debugToken p g3.toNat
      (if r.2 then s.setPart p { s.part p with nonce := none, debug := true } else s).answer (hStatus r.1))

/-- HVC_ATTEST (R433): the 4 KiB buffer at g3 is read, and the response to its request put in its place. DESIGN CHOICE: log 10. -/
def execHvcAttest (s : State) : Out :=
  .next (s.hvc fun p s => s.withRegs [3] fun ws s =>
    let va := (ws.getD 0 0).toNat
    match s.readCore va 4096 with
    | .error _ => s.answer (-1)
    | .ok b =>
      match Config.spdmRequest b with
      | none => s.answer (-1)
      | some q =>
        let r := (Config.spdmBytes (s.spdmFor (some p) q)).take 4096
        match s.writeV p coreWindows va r with
        | .error _ => s.answer (-1)
        | .ok s1 => s1.answer (BitVec.ofNat 64 r.length))

/-- HVC_RESET (R379, R390). The supervisor answers a DOUBLE notice with the same reset (R372). -/
def execHvcReset (s : State) : Out :=
  .next (if s.core.run = .double then (match s.core.part with
      | none => s
      | some p => s.resetPartition p)
    else s.hvc fun p s => s.resetPartition p)

/-- HVC_SWAPMAP (R394). -/
def execHvcSwapmap (s : State) : Out :=
  .next (s.hvc fun p s => s.withRegs [3] fun ws s =>
    let w := ws.getD 0 0
    let t : TileId := ⟨w.extractLsb' 9 2, w.extractLsb' 4 5, w.extractLsb' 0 4⟩
    if w.extractLsb' 11 53 ≠ 0 ∨ !t.isMT ∨ !s.hasTile p t then s.answer (-1)
    else match (s.part p).grants.swapMaps.find? (·.1 = t) with
      | none => s.answer 0
      | some q => s.answer (field 0 10 q.2.1 ||| field 10 7 q.2.2))

/-! ## Pre-emption (R391, R392) -/

/-- PREEMPT_REQUEST (R391, step 1). -/
def execPreemptRequest (s : State) : Out :=
  let x := s.part s.input.p
  .next (if x.pre = .running ∧ x.booted then s.setPart s.input.p { x with pre := .requested } else s)

/-- Home addresses of host memory over CXL (R261). -/
def hostMem (home : Nat) : Bool := decide (2 ^ 48 ≤ home ∧ home < apertureBase)

/-- A load that is not asked for again after a pre-emption: an atomic, a remote load, or one of host memory (R392). -/
def LoadOp.once (l : LoadOp) : Bool := l.isRemote || l.how == .atomic || hostMem l.home

/-- A store, or an atomic without a result, that is not asked for again after a pre-emption (R392). -/
def StoreOp.once (x : StoreOp) : Bool := x.isRemote || x.rmw.isSome || hostMem x.home

/-- A copy under way of core `c` that is not asked for again after a pre-emption: one end of it lies at another module or in host
memory (R392). -/
def State.copyOnce (s : State) (c : Fin 64) (op : CopyOp) : Bool :=
  let host (va : BitVec 57) (need : Need) : Bool := match { s with cur := c }.copyPieces va op.len need with
    | .ok l => l.any fun q => hostMem q.1
    | .error _ => false
  op.ended.isNone && (s.peerEnd op.src || s.peerEnd op.dst || host op.src .read || host op.dst .write)

/-- A token in a reorder buffer has settled (R391, R393). -/
def Flight.settled (q : Flight) : Bool := q.reorders && q.hops.isEmpty

/-- Nothing of the partition is on its way any more, and every reply that is not asked for again has come (R391, R392).
DEDUCED: log 71. -/
def State.settled (s : State) (p : BitVec 4) : Bool :=
  let tiles := s.liveTiles p
  !s.flight.any (fun q => tiles.contains q.dst && !q.settled && !s.heldOut q) && !s.flits.any (·.part == some p) &&
    !s.credits.any (·.part == some p) && (tiles.all fun t => (s.tileAt t).remote.isEmpty) &&
    (s.coresOf p).all fun c => s.cores[c].loads.all (!·.once) && s.cores[c].stores.all (!·.once) &&
      s.cores[c].copies.all (!s.copyOnce c ·)

/-- A core halts at an instruction boundary: an open region aborts with PREEMPT, a waiting idle completes, and any other
waiting instruction is abandoned (R81, R344, R378, R391). -/
def State.haltCore (s : State) (c : Fin 64) : State :=
  let k := s.cores[c]
  let k1 := match k.tx with
    | none => k
    | some x => k.abort x 7 true
  let k2 := if k1.idling then { k1 with pc := k1.pc + 4, instret := k1.instret + 1 } else k1
  if k.run = .run then (s.setCoreAt c { k2 with run := .preempted }).abandon c else s

/-- PREEMPT_FAILURE_REPLY (R392): a request of partition `p` that is not asked for again receives a failure reply: a load,
store or copy of the acting core, or a remote operation of the acting tile. -/
def execPreemptFailureReply (s : State) : Out :=
  if (s.part s.input.p).pre ≠ .requested then .next s
  else
    let i := s.input.index
    match s.input.k with
    | 0 =>
      match s.core.loads[i]? with
      | none => .next s
      | some l => .next (if s.coreIn s.input.p s.cur ∧ l.once then s.failLoad i (if l.isRemote then 4 else 8) else s)
    | 1 =>
      match s.core.stores[i]? with
      | none => .next s
      | some st => .next (if s.coreIn s.input.p s.cur ∧ st.once then s.failStore i else s)
    | 2 =>
      match s.core.copies[i]? with
      | none => .next s
      | some op => .next (if s.coreIn s.input.p s.cur ∧ s.copyOnce s.cur op then State.endCopy s s.cur op (some ePREEMPT) else s)
    | _ => .next (if ((s.regionOf s.tile).map fun r => r.part == s.input.p).getD false then s.remoteReply s.tile i .preempt else s)

/-! ## Containment (R389, R365) -/

/-- The live state of a tile cleared: its configurations, weights and entry store stay. -/
def Tile.contained (x : Tile) (sel : BitVec 2) (ok : Bool) : Tile :=
  { ({ x with mx := { Matrix.zero with rgs := x.mx.rgs }, rcl := { x.rcl with gather := [] } }).select sel with
    rr := [], tlb := [], broken := x.broken || !ok, aborted := true }

/-- A tile of a region is reset (R389): its live state is cleared, every outgoing stream carries ERROR with RESET, and the
region's live launches are cancelled (R42). `ok` says whether its configuration words passed their check. -/
def State.containTile (s : State) (r : Region) (t : TileId) (ok : Bool) : State :=
  let e := s.self t eRESET
  let s1 := (s.abortPackets t).onTile t fun x => x.contained r.sel ok
  let s2 := r.live.foldl (fun s l => (List.range 16).foldl (fun s st =>
    if (s.wordAt t st).isSome then s.purge r t st l.seq e else s) s) s1
  r.live.foldl (fun s l => s.failLive r.core r.bslot l.seq e) s2

/-- A partition that is out loses the saved context of a tile that is reset, and what a reorder buffer held for it; its region's
launches end with RESET once it is restored (R397). -/
def Partition.loseTile (x : Partition) (t : TileId) (ok : Bool) : Partition :=
  { x with saved := x.saved.map fun v => { v with
      tiles := v.tiles.map fun y => if y.id = t then { y.contained 0 ok with q := Vector.replicate 16 0, aborted := false } else y,
      lost := if v.regions.any (·.tiles.contains t) then (t, ok) :: v.lost.filter (·.1 ≠ t) else v.lost } }

/-- TILE_CONTAINMENT_RESET (R389, R397). -/
def execTileContainmentReset (s : State) : Out :=
  let s1 := { s with parts := mapAll s.parts fun (x : Partition) => x.loseTile s.tile s.input.ok }
  .next (match s.regionOf s.tile with
    | some r => s1.containTile r s.tile s.input.ok
    | none => (s1.abortPackets s.tile).onTile s.tile fun x => { x.contained 0 s.input.ok with aborted := false })

/-- CREDIT_RECLAIM: the credits of a tile that was reset are back in their pools (R365). -/
def execCreditReclaim (s : State) : Out :=
  let s1 := (s.owed.filter (·.1 = s.tile)).foldl (fun s q =>
    let x := s.ports[q.2.1]
    s.setPort q.2.1 { x with creds := assign x.creds q.2.2.1 (lookupD x.creds q.2.2.1 0 + q.2.2.2) }) s
  .next ({ s1 with owed := s1.owed.filter (·.1 ≠ s.tile) }.onTile s.tile fun x => { x with aborted := false })

/-! ## The attic (R393, R394, R396) -/

/-- The part of a tile that the attic captures: everything but weights, the recall entry store and the TLB. -/
def Tile.captured (x : Tile) : Tile :=
  { x with mx := { x.mx with rgs := [] }, rcl := { x.rcl with entries := [] }, tlb := [], aborted := false }

/-- A tile into which a captured context moves: its weights and entry store stay. -/
def Tile.give (x y : Tile) : Tile := { y with mx := { y.mx with rgs := x.mx.rgs }, rcl := { y.rcl with entries := x.rcl.entries }, tlb := [] }

/-- The live context of a partition with some of its tiles (R393). DEDUCED: log 70. -/
def State.captureOf (s : State) (p : BitVec 4) (tiles : List TileId) : Saved :=
  let mine := s.coreIn p
  let maps := (s.part p).grants.swapMaps
  { cores := (s.coresOf p).map fun c => (c, { s.cores[c] with tlb := [] }), regions := s.regions.filter (·.part = p),
    tiles := tiles.map fun t => (s.tileAt t).captured,
    bins := s.bins.filter fun (b : Nat × Bin) => maps.any fun q =>
      decide (tileOff q.1 / 256 + q.2.1 ≤ b.1 ∧ b.1 < tileOff q.1 / 256 + q.2.1 + q.2.2),
    bytes := maps.map fun q =>
      let a := spadBase + tileOff q.1 + 256 * q.2.1
      (a, memGets s.mem a (256 * q.2.2)),
    waits := s.waits.filter (s.waitIn p), walks := s.walks.filter (·.part = p), holds := s.holds.filter (mine ·.core),
    streams := s.streams.filter (·.part = p), smps := mapAll s.smps (·.only mine),
    flight := s.flight.filter ((s.liveTiles p).contains ·.dst), lost := [], out := false, awake := false, cut := [] }

/-- The live context of a partition, as the attics take it: its time-shared tiles (R393). -/
def State.capture (s : State) (p : BitVec 4) : Saved := s.captureOf p ((s.part p).grants.tiles.filter (s.shared p))

/-- The state without the live context of a partition in some of its tiles. -/
def State.vacateOf (s : State) (p : BitVec 4) (tiles : List TileId) : State :=
  let mine := s.coreIn p
  let s1 := (s.part p).grants.swapMaps.foldl (fun s q => s.setBinRun (tileOff q.1 / 256 + q.2.1) q.2.2 []) s
  { s1 with
    cores := mapEach s.cores fun c k => if mine c then Core.reset 0 else k, regions := s.regions.filter (·.part ≠ p),
    tiles := s.tiles.map fun (x : Tile) => if tiles.contains x.id then x.give (Tile.zero x.id) else x,
    waits := s.waits.filter (!s.waitIn p ·), walks := s.walks.filter (·.part ≠ p), holds := s.holds.filter (!mine ·.core),
    streams := s.streams.filter (·.part ≠ p), smps := mapAll s.smps (·.without mine (some p)),
    flight := s.flight.filter (!(s.liveTiles p).contains ·.dst) }

/-- The state without what the attics take of a partition's live context. -/
def State.vacate (s : State) (p : BitVec 4) : State := s.vacateOf p ((s.part p).grants.tiles.filter (s.shared p))

/-- A saved context put back, and the partition resumed (R391, R396): its loads and stores that have not been performed are
performed from then on (R392). A tile that was reset meanwhile ends the launches on its region with RESET (R397). -/
def State.putBack (s : State) (p : BitVec 4) (v : Saved) : State :=
  let s1 := v.bytes.foldl (fun s q => s.writeMem none q.1 q.2) s
  let s2 := v.bytes.foldl (fun s q => s.setBinRun ((q.1 - spadBase) / 256) (q.2.length / 256) []) s1
  let s3 := v.tiles.foldl (fun s y => s.onTile y.id fun x => x.give y) s2
  let s4 := v.cores.foldl (fun s q => s.setCoreAt q.1
    { q.2 with run := if q.2.run = .preempted then .run else q.2.run }) s3
  let s5 := { s4.setPart p { s4.part p with pre := .running, saved := none } with
    regions := s4.regions ++ v.regions, bins := v.bins ++ s4.bins, waits := s4.waits ++ v.waits, walks := s4.walks ++ v.walks,
    holds := s4.holds ++ v.holds, streams := s4.streams ++ v.streams,
    smps := mapEach s4.smps fun i x => (x.join v.smps[i]).unpark p, flight := s4.flight ++ v.flight }
  let s6 := v.lost.foldl (fun s y => match s.regionOf y.1 with
    | some r => s.containTile r y.1 y.2
    | none => s) s5
  v.cut.foldl (fun s q => match s.region q.1 q.2.1 with
    | some r => s.cutLaunches r q.2.2
    | none => s) s6

/-! ## Loss of power (R437, R440) -/

/-- Before the fabric loses its power the supervisor saves a partition's context: a live one with all its tiles, and one that stands
in the attics (R437). DEDUCED: log 74. -/
def State.stash (s : State) (p : BitVec 4) : State :=
  match (s.part p).saved with
  | some v => s.setPart p { s.part p with saved := some { v with out := true } }
  | none =>
    let tiles := (s.part p).grants.tiles
    (s.vacateOf p tiles).setPart p { s.part p with saved := some { s.captureOf p tiles with out := true, awake := true } }

/-- P2 and P3 lose what R437 says, and what the supervisor has not saved of the fabric. DEDUCED: log 74. -/
def State.losePower (s0 : State) (w : Power) : State :=
  let lost (a : Nat) : Bool := match w with
    | .p2 => decide (spadBase ≤ a ∧ a < spadBase + 2 ^ 29)
    | .p3 => decide (vaultBase ≤ a) || decide (a < 2 ^ 40)
    | _ => false
  if w = .p2 ∨ w = .p3 then
    let s := (List.finRange 16).foldl (fun s i => if s.parts[i].booted then s.stash (BitVec.ofNat 4 i.val) else s) s0
    { s with
      power := w, powerAsk := none, mem := s.mem.filter fun c => !lost c.1, olds := s.olds.filter fun o => !lost o.home, bins := [],
      flight := [], qtlb := [], tiles := s.tiles.map fun (x : Tile) => Tile.zero x.id,
      cores := mapAll s.cores fun (k : Core) => { k with tlb := [] } }
  else { s0 with power := w, powerAsk := none }

/-- Every partition whose cores have started is halted. -/
def State.allHalted (s : State) : Bool := s.parts.toList.all fun x => !x.booted || x.pre == .halted

/-- A power change that waits for every partition to halt (R440). -/
def State.powerWaits (s : State) : State :=
  match s.powerAsk with
  | some .p2 => if s.allHalted then s.losePower .p2 else s
  | some .p3 => if s.allHalted then s.losePower .p3 else s
  | _ => s

/-- PREEMPT_HALT_COMPLETE (R391, steps 2 and 3). -/
def execPreemptHaltComplete (s : State) : Out :=
  let p := s.input.p
  if (s.part p).pre = .requested ∧ s.settled p then
    let s1 := (s.coresOf p).foldl (fun s c => s.haltCore c) s
    .next (s1.setPart p { s1.part p with pre := .halted }).powerWaits
  else .next s

/-! ## The attic's instructions (R396) -/

/-- An attic that a live context of `p` would move into is occupied: by one that the supervisor has not copied out (R395). -/
def State.atticHeld (s : State) (p : BitVec 4) : Bool :=
  (List.finRange 16).any fun q => match (s.parts[q].saved).filter (!·.out) with
    | none => false
    | some v => (v.cores.any fun e => s.coreIn p e.1) ||
        v.tiles.any fun y => (s.part p).grants.tiles.contains y.id && s.shared p y.id && q.val != p.toNat

/-- The partitions whose live contexts stand where a saved context is to go (R396): one that has never started has none. -/
def State.standing (s : State) (p : BitVec 4) (v : Saved) : List (BitVec 4) :=
  ((List.finRange 16).map fun q => BitVec.ofNat 4 q.val).filter fun q =>
    q != p && (s.part q).booted && (s.part q).saved.isNone &&
      ((v.cores.any fun e => s.coreIn q e.1) || v.tiles.any fun y => (s.part q).grants.tiles.contains y.id)

/-- What stands before an attic instruction: a partition's core traps with PRIV (R381), a bit that must be 0 with HANDLE. -/
def State.attic (s : State) (a : Reg) (k : BitVec 4 → State → State) : State :=
  s.unsafeIssue fun s =>
    if s.core.part.isSome then s.trap tPRIV 0
    else s.withRegs [a] fun ws s1 =>
      let w := ws.getD 0 0
      if w.extractLsb' 4 60 ≠ 0 then s.trap tHANDLE w else k (w.extractLsb' 0 4) s1

/-- The oldest flit on its way to a core of a partition reaches its queue. -/
def State.landFor (s : State) (p : BitVec 4) : State := s.landFlit (s.flits.findIdx fun g => g.part == some p)

/-- The live context of a partition goes into the attics, after the flits on their way to its cores have come (R112, R396). -/
def State.stow (s0 : State) (p : BitVec 4) : State :=
  let s := (List.range s0.flits.length).foldl (fun s _ => s.landFor p) s0
  (s.vacate p).setPart p { s.part p with saved := some (s.capture p) }

/-- ATTIC_SAVE (R396). -/
def execAtticSave (a : Reg) (s : State) : Out :=
  .next (s.attic a fun p s1 =>
    if (s1.part p).pre ≠ .halted ∨ (s1.part p).saved.isSome ∨ s1.atticHeld p then s.trap tPRIV 0 else (s1.stow p).retire)

/-- ATTIC_RESTORE (R396): the live contexts in the way go into the attics, and `p` is resumed. -/
def execAtticRestore (a : Reg) (s : State) : Out :=
  .next (s.attic a fun p s1 =>
    match (s1.part p).saved.filter (!·.out) with
    | none => s.trap tPRIV 0
    | some v =>
      if (s1.part p).pre ≠ .halted then s.trap tPRIV 0
      else (((s1.standing p v).foldl (fun s q => s.stow q) s1).putBack p v).retire)

/-! ## Grants (R390, R394) -/

/-- Nothing in a list is missing from another. -/
def within {α : Type} [BEq α] (l m : List α) : Bool := l.all m.contains

/-- Two lists share nothing. -/
def apart {α : Type} [BEq α] (l m : List α) : Bool := !l.any m.contains

/-- What a list has and another lacks. -/
def lostOf {α : Type} [BEq α] (l m : List α) : List α := l.filter (!m.contains ·)

/-- A running partition has released what new grants take from it: no region stands on its tiles, row groups and recall units, no
sequence is bound to its larder and program slots, no edge to its samplers and channels, no mailbox to a module that it reaches
through its ports alone, and its arena lies in none of its vaults (R390). Of its memory it has released what its tables no longer
map, which is software's. DEDUCED: log 72. -/
def State.released (s : State) (p : BitVec 4) (g : Grants) : Bool :=
  let h := (s.part p).grants
  let mine := s.regions.filter (·.part = p)
  let bare (t : TileId) : Bool := mine.all fun r => !r.tiles.contains t
  (lostOf h.tiles g.tiles).all bare && (lostOf h.recallU g.recallU).all bare &&
    (lostOf h.rowGroups g.rowGroups).all (fun q => bare q.1) &&
    (lostOf h.larder g.larder).all (fun n => !s.larder.any fun b => b.part == p && b.slot.toNat == n) &&
    (lostOf h.pslots g.pslots).all (fun q => !s.larder.any fun b => b.part == p && (b.smp, b.pslot) == q) &&
    (lostOf h.samplers g.samplers).all (fun n => mine.all fun r => r.ends.all fun e => e.2 != .smpIn n && e.2 != .smpOut n) &&
    (lostOf h.channels g.channels).all (fun q => mine.all fun r => r.ends.all fun e => match e.2 with
      | .tarior k vc _ => (k, vc) != q
      | _ => true) &&
    (lostOf h.vaults g.vaults).all (fun v => !s.inArena p (vaultBase + v * 2 ^ 25) (2 ^ 25)) &&
    within h.swapMaps g.swapMaps && within h.bins g.bins

/-- Two partitions' grants do not claim one resource: only tiles may be held by two (R390, R391). -/
def grantsApart (g h : Grants) : Bool :=
  apart g.rowGroups h.rowGroups && apart g.vaults h.vaults && apart g.larder h.larder && apart g.pslots h.pslots &&
    apart g.channels h.channels && apart g.recallU h.recallU &&
    !(g.phys.any fun a => h.phys.any fun b => decide (a.1 < b.2 ∧ b.1 < a.2))

/-- The bins that a list of runs gives an MT. -/
def binsAt (l : List (TileId × Nat × Nat)) (t : TileId) : List Nat :=
  (l.filter (·.1 = t)).flatMap fun q => (List.range q.2.2).map (· + q.2.1)

/-- The other partitions that hold a tile. -/
def State.holdersOf (s : State) (p : BitVec 4) (t : TileId) : List (Fin 16) :=
  (List.finRange 16).filter fun q => q.val != p.toNat && s.parts[q].grants.tiles.contains t

/-- What new grants say of an MT's bins (R394): of one that another partition holds too, one run of at most 64 bins within the MT,
the same for all who hold it, and bins outside it that no other holds; of its own MT, no run. A partition that comes to share its
MT is halted, since it loses bins. -/
def State.mapOk (s : State) (p : BitVec 4) (g : Grants) (t : TileId) : Bool :=
  let others := s.holdersOf p t
  let maps := g.swapMaps.filter (·.1 = t)
  if others.isEmpty then maps.all (fun q => q.2.2 == 0) && (binsAt g.bins t).isEmpty
  else match maps with
    | [(_, first, count)] =>
      decide (count ≤ 64 ∧ first + count ≤ 1024) &&
        ((binsAt g.bins t).all fun k => decide (k < 1024) && !decide (first ≤ k ∧ k < first + count)) &&
        others.all fun q =>
          let x := s.parts[q]
          match x.grants.swapMaps.find? (·.1 = t) with
          | some m => m.2 == (first, count) && apart (binsAt g.bins t) (binsAt x.grants.bins t)
          | none => !x.booted || x.pre == .halted
    | _ => false

/-- New grants may take effect: a partition that loses something is halted, or has released it, no other partition holds what it
gains, and every MT's swap map is one (R390, R394). DEDUCED: log 72. -/
def State.mayGrant (s : State) (p : BitVec 4) (g : Grants) : Bool :=
  let x := s.part p
  (!x.booted || x.pre == .halted || s.released p g) &&
    ((List.finRange 16).all fun q => q.val == p.toNat || grantsApart g s.parts[q].grants) &&
    (g.tiles.filter (·.isMT)).all (s.mapOk p g) && (g.swapMaps ++ g.bins).all fun q => g.tiles.contains q.1

/-- The grants of another partition after those of `p` have changed from `h` to `g`: an MT that the two come to share has the new
swap map and leaves it the bins that `p` does not hold, and one that `p` no longer holds is its own again, unless a third shares
it (R394, R395). -/
def State.otherGrants (s : State) (p : BitVec 4) (g : Grants) (q : Fin 16) (y : Grants) : Grants :=
  let h := (s.part p).grants
  let came := g.swapMaps.filter fun m => y.tiles.contains m.1 && !y.swapMaps.any (·.1 = m.1)
  let went := (lostOf h.tiles g.tiles).filter fun t => y.tiles.contains t && (s.holdersOf p t).all (· == q)
  { y with
    swapMaps := came ++ y.swapMaps.filter fun m => !went.contains m.1,
    bins := (came.flatMap fun m => ((List.range 1024).filter fun k =>
        !decide (m.2.1 ≤ k ∧ k < m.2.1 + m.2.2) && !(binsAt g.bins m.1).contains k).map fun k => (m.1, k, 1)) ++
      y.bins.filter fun b => !went.contains b.1 }

/-- The mailboxes of a partition whose peers it can no longer reach are revoked, those of a partition that is out where its context
is (R109, R390, R397). -/
def State.revokeLost (s : State) (p : BitVec 4) : State :=
  let gone (m : Mailbox) : Bool := m.state == .bound && !s.isLocal m.desc && !s.reaches p (dModule m.desc)
  let note (n : Fin 4) : Word := BitVec.ofNat 64 (1 + 16 * n.val)
  let s1 := (s.coresOf p).foldl (fun s c => (List.finRange 4).foldl (fun s n =>
    if gone s.cores[c].mb[n] then (s.setCoreAt c (s.cores[c].revoke n)).notice p (note n) else s) s) s
  let out : List (Fin 64 × Core) := ((s.part p).saved.map (·.cores)).getD []
  let s2 := out.foldl (fun s q => (List.finRange 4).foldl (fun s n =>
    if gone q.2.mb[n] then s.notice p (note n) else s) s) s1
  s2.setPart p { s2.part p with saved := (s2.part p).saved.map fun v => { v with cores := v.cores.map fun q =>
    (q.1, (List.finRange 4).foldl (fun (k : Core) n => if gone k.mb[n] then k.revoke n else k) q.2) } }

/-- Sequences whose larder slot, sampler or program slot a partition no longer holds are unbound, their runs with them, whose
launches end with LINK (R390, R404). DESIGN CHOICE: log 114. -/
def State.unbindLost (s : State) (p : BitVec 4) : State :=
  let g := (s.part p).grants
  let gone := s.larder.filter fun b => b.part == p &&
    !(g.larder.contains b.slot.toNat && g.samplers.contains b.smp && g.pslots.contains (b.smp, b.pslot))
  let mine (slot : BitVec 12) : Bool := gone.any (·.slot = slot)
  let runs := s.smps.toList.flatMap fun x => x.items.filter fun q => mine q.slot && q.out.isNone
  let s1 := { s with
    larder := s.larder.filter fun b => !gone.contains b,
    smps := mapAll s.smps fun x => { x with
      items := x.items.filter fun q => !(mine q.slot && q.out.isNone),
      ctx := mapAll x.ctx fun o => o.filter fun (c : Ctx) => !mine c.slot } }
  runs.foldl (fun s q => match s.region q.core q.bslot with
    | some r => s.failLive r.core r.bslot q.seq (s.self r.origin eLINK)
    | none => s) s1

/-- The TLBs without the translations of a partition: none outlives the grants that it was checked against (R9). -/
def State.forgetTlbs (s : State) (p : BitVec 4) : State :=
  { s with
    cores := mapEach s.cores fun c (k : Core) => if s.coreIn p c then { k with tlb := [] } else k,
    tiles := s.tiles.map fun (x : Tile) => if (s.part p).grants.tiles.contains x.id then { x with tlb := [] } else x,
    qtlb := s.qtlb.map fun q => (q.1, q.2.filter (·.1 ≠ p)),
    hubTlb := s.hubTlb.filter (·.1 ≠ p) }

/-- A recall unit as its grant resets it: SEQN is the SHARD of the configuration's q15 where one is selected that uses the unit
(R315). -/
def Tile.grantRcl (y : Tile) (sel : Option (BitVec 2)) : Tile :=
  let z := { y with rcl := Recall.zero }
  (sel.map z.fixSeqn).getD z

/-- A recall unit granted to a partition is reset, in the tile and in the partition's saved context of it (R315). -/
def State.grantRecall (s : State) (p : BitVec 4) (t : TileId) : State :=
  let s1 := s.onTile t fun y => y.grantRcl ((s.regionOf t).map (·.sel))
  let reset (v : Saved) (y : Tile) : Tile :=
    if y.id = t then y.grantRcl ((v.regions.find? (·.tiles.contains t)).map (·.sel)) else y
  s1.setPart p { s1.part p with saved := (s1.part p).saved.map fun v => { v with tiles := v.tiles.map (reset v) } }

/-- A partition's copy of an MT's swap map starts with every bin empty: its live one, or the one in its saved context; while
another partition's context stands on the MT it has none yet (R394). -/
def State.emptyRun (s : State) (p : BitVec 4) (q : TileId × Nat × Nat) : State :=
  let first := tileOff q.1 / 256 + q.2.1
  let there (y : Partition) : Bool := y.saved.any fun v => v.tiles.any (·.id = q.1)
  match (s.part p).saved with
  | some v => s.setPart p { s.part p with saved := some { v with
      bins := v.bins.filter fun (b : Nat × Bin) => !decide (first ≤ b.1 ∧ b.1 < first + q.2.2) } }
  | none => if (s.holdersOf p q.1).all fun k => there s.parts[k] || !s.parts[k].booted then s.setBinRun first q.2.2 [] else s

/-- The bins of an MT that a partition newly holds are reset: all of its own MT, else those outside the run and its copy of the run
(R267, R394). -/
def State.grantBins (s : State) (p : BitVec 4) (old : Grants) (t : TileId) : State :=
  let g := (s.part p).grants
  match g.swapMaps.find? (·.1 = t) with
  | none => if old.tiles.contains t then s else s.setBinRun (tileOff t / 256) 1024 []
  | some q =>
    let fresh := (binsAt g.bins t).filter fun k => !old.tiles.contains t || !((old.swapMaps.all (·.1 ≠ t)) || (binsAt old.bins t).contains k)
    let s1 := fresh.foldl (fun s k => s.setBinRun (tileOff t / 256 + k) 1 []) s
    if old.swapMaps.contains q then s1 else s1.emptyRun p q

/-- The supervisor copies a saved context out to memory, so that its attics are free, or back into them (R395).
DESIGN CHOICE: log 115. -/
def State.copyOut (s : State) (p : BitVec 4) : State :=
  match (s.part p).saved with
  | none => s
  | some v =>
    let back := { s with parts := s.parts.set p.toNat { s.part p with saved := none } p.isLt }
    let free := (v.cores.all fun e => !(List.finRange 16).any fun q => match (back.parts[q].saved).filter (!·.out) with
        | some w => w.cores.any (·.1 = e.1)
        | none => false) &&
      v.tiles.all fun y => !(List.finRange 16).any fun q => match (back.parts[q].saved).filter (!·.out) with
        | some w => w.tiles.any (·.id = y.id)
        | none => false
    if v.out && !free then s else s.setPart p { s.part p with saved := some { v with out := !v.out } }

/-- GRANT_CHANGE (R390, R394): what a partition newly holds starts reset (R267, R315), and a new swap map's bins are empty in
each partition's copy. An unchanged grant of a partition that is out is the supervisor's copying of its context (R395). -/
def execGrantChange (s : State) : Out :=
  let p := s.input.p
  let g := s.input.grants
  let x := s.part p
  if g = x.grants ∧ x.saved.isSome then .next (s.copyOut p)
  else if !s.mayGrant p g then .next s
  else
    let s0 := s.forgetTlbs p
    let s1 := { s0 with parts := mapEach s0.parts fun i y =>
      if i.val = p.toNat then { y with grants := g } else { y with grants := s.otherGrants p g i y.grants } }
    let s2 := (lostOf g.recallU x.grants.recallU).foldl (fun s t => s.grantRecall p t) s1
    let s3 := (g.tiles.filter (·.isMT)).foldl (fun s t => s.grantBins p x.grants t) s2
    let s4 := (g.swapMaps.filter (!x.grants.swapMaps.contains ·)).foldl (fun s m =>
      (s.holdersOf p m.1).foldl (fun s2 k =>
        if s1.parts[k].grants.swapMaps.contains m && !(s0.parts[k].grants.swapMaps.contains m) then s2.emptyRun (BitVec.ofNat 4 k.val) m else s2) s) s3
    .next ((s4.revokeLost p).unbindLost p)

/-! ## tlbinv (R380) -/

/-- The TLBs of the acting core's partition in a scope, without the entries that `w` names. DEDUCED: log 76. -/
def State.tlbinv (s : State) (w : Word) (scope : Nat) : State :=
  let p := s.pid
  let die := dieOf s.cur
  let core (i : Fin 64) : Bool :=
    i == s.cur || (s.cores[i].part == s.core.part && (decide (3 ≤ scope) || (scope == 2 && dieOf i == die)))
  let tile (t : TileId) : Bool := s.hasTile p t &&
    (decide (3 ≤ scope) || (scope == 2 && t.die == die) ||
      (scope == 1 && s.regions.any fun r => r.core == s.cur && r.tiles.contains t))
  let engine (n : Nat) : Bool := decide (3 ≤ scope) || (scope == 2 && n / 8 == die.toNat)
  let s1 := s.dropTlbs p w core tile engine (decide (3 ≤ scope))
  if scope = 4 then { s1 with sent := s1.sent ++ [.tlbinv (s.part p).dpn (w.getLsbD 63) (w.extractLsb' 16 41)] } else s1

/-- TLBINV (R380): fence.rel, the removal, fence.acq. The walks that stations wait for read the tables when they end. -/
def execTlbinv (a : Reg) (c : BitVec 3) (s : State) : Out :=
  .next (s.unsafeIssue fun s =>
    if s.fenceWaits c (if c = 0 then 3 else 2) then s
    else s.withRegs [a] fun ws s1 =>
      (((s1.raceRelease (.core s.cur) c).tlbinv (ws.getD 0 0) c.toNat).acquire c).retire)

end Sys2Proof.Machine
end

