-- ==== Sys2Proof/Machine/Power.lean ====
section
/-! DEFINITION. Measured boot (R429 to R431), attestation (R433), the vendor's debug token (R434), host accesses (R436), and
power (R437 to R440). -/

namespace Sys2Proof.Machine

/-! ## Measured boot (R429, R430) -/

/-- One boot step: the image is measured into its register, then its signature is checked. -/
def State.bootStep (s : State) (mr : Nat) (key : List Byte) (x : List Byte × List Byte) : State × Bool :=
  let d := shake256 x.1 64
  (s.extendMr mr d, ed448 key d x.2)

/-- Steps 1 to 4 in order; the first that fails leaves the module FAILED. -/
def State.bootSteps (s : State) : List (Nat × List Byte × (List Byte × List Byte)) → State
  | [] => { s with sec := .secure }
  | (mr, key, x) :: rest =>
    match s.bootStep mr key x with
    | (s1, true) => s1.bootSteps rest
    | (s1, false) => { s1 with sec := .failed }

/-- The digest of a system image (R430). -/
def imageDigest (x : SysImage) : List Byte := shake256 (x.header.take 128 ++ x.body) 64

/-- A system image passes its check (R430): its fields, its zero fields, and its signature. -/
def imageOk (x : SysImage) : Bool :=
  let h := x.header
  h.length == 256 && dwAt h 0 == 0x000000010D7C5157 && (dwAt h 8).extractLsb' 57 7 == 0 &&
    dwAt h 16 == BitVec.ofNat 64 x.body.length && decide (x.body.length < 2 ^ 40) && !dirty h 24 64 && !dirty h 121 128 &&
    !dirty h 242 256 && ed448 x.owner (imageDigest x) ((h.drop 128).take 114)

/-- The cores that start live for a partition: those that name it first. The others start in its attics. -/
def liveCores (l : List (Nat × BitVec 4)) (p : BitVec 4) : List Nat :=
  (l.filter fun q => q.2 = p ∧ (l.find? (·.1 = q.1)).map (·.2) = some p).map (·.1)

/-- Step 5 for one partition: its image is measured; when it passes, its cores start at ENTRY. -/
def State.bootPart (s : State) (b : BootIn) (p : BitVec 4) : State :=
  let g := lookupD b.grants p Grants.none
  let x0 := { Partition.reset with grants := g, dpn := lookupD b.dpns p 0 }
  let s1 := match b.images.find? (·.1 = p) with
    | none => s.setPart p x0
    | some (_, im) =>
      let x1 := { x0 with image := imageDigest im, ownerKey := im.owner }
      let x := if imageOk im then { x1 with booted := true, entry := dwAt im.header 8, cfgKey := (im.header.drop 64).take 57 } else x1
      (s.extendMr (4 + p.toNat) (imageDigest im)).setPart p x
  let x := s1.part p
  let mine := (b.cores.filter (·.2 = p)).map (·.1)
  let live := liveCores b.cores p
  let out := (List.finRange 64).filter fun c => mine.contains c.val && !live.contains c.val
  let s2 := { s1 with cores := mapEach s1.cores fun c k => if live.contains c.val then x.start p else k }
  if out.isEmpty then s2
  else
    let shared := g.tiles.filter fun t => b.grants.any fun q => q.1 != p && q.2.tiles.contains t
    let v : Saved := { s2.captureOf p [] with cores := out.map fun c => (c, x.start p), tiles := shared.map Tile.zero, bins := [], bytes := [] }
    s2.setPart p { x with pre := .halted, saved := some v }

/-- The module with nothing held but what is fixed, what lies outside it, and what the model keeps of its own. -/
def State.bare (s : State) (w : Power) : State :=
  { State.reset with
    module := s.module, fused := s.fused, mem := s.mem.filter fun c => decide (2 ^ 48 ≤ c.1 ∧ c.1 < vaultBase), power := w,
    cur := s.cur, tile := s.tile, st := s.st, smp := s.smp, ctx := s.ctx, input := s.input, agenda := s.agenda, fresh := s.fresh }

/-- A vendor's debug token is signed with the vendor key (R434). DESIGN CHOICE: log 9. -/
def tokenOk (bytes sig : List Byte) : Bool := ed448 Config.vendorKey (shake256 bytes 64) sig

/-- POWER_ON (R429): everything is at reset, then boot steps 1 to 5 run; a vendor's debug token that comes meanwhile leaves the boot
to continue (R439). DESIGN CHOICE: log 9. DEDUCED: log 24. -/
def execPowerOn (s : State) : Out :=
  let b := s.input.boot
  let s1 := ({ s.bare .p3 with vendor := b.token.any fun t => tokenOk t.1 t.2 } : State).bootSteps
    [(0, Config.vendorKey, b.firmware), (1, Config.vendorKey, b.hub), (2, Config.vendorKey, b.supervisor), (3, b.ownerKey, b.table)]
  .next (if s1.sec = .secure then
    (List.finRange 16).foldl (fun s i => s.bootPart b (BitVec.ofNat 4 i.val)) s1 else s1)

/-- POWER_OFF (R437, R439). -/
def execPowerOff (s : State) : Out := .next (s.bare .off)

/-! ## Power states (R437, R440) -/

/-- The contexts that were live when the fabric lost its power are put back, and their partitions go on (R437). DEDUCED: log 74. -/
def State.resumeAll (s : State) : State :=
  (List.finRange 16).foldl (fun s i => match s.parts[i].saved.filter (·.awake) with
    | some v => s.putBack (BitVec.ofNat 4 i.val) v
    | none => s) s

/-- POWER_STATE_CHANGE (R437, R440): between P0 and P1 at the next window; to P2 or P3 once every partition is halted; back
to P0 at once. -/
def execPowerStateChange (s : State) : Out :=
  let w := s.input.pw
  let on := s.power = .p0 ∨ s.power = .p1
  if s.sec ≠ .secure ∨ s.power = .off ∨ w = .off then .next s
  else if w = .p2 ∨ w = .p3 then
    if s.allHalted then .next (s.losePower w)
    else .next { s with
      powerAsk := some w,
      parts := mapAll s.parts fun (x : Partition) => if x.booted ∧ x.pre = .running then { x with pre := .requested } else x }
  else if on then .next { s with powerAsk := some w }
  else if w = .p0 then .next { s.resumeAll with power := .p0, powerAsk := none }
  else .next s

/-- The arbiter's grants are within the cap, and none is below 150 W (R438). -/
def grantsOk (watts : List (BitVec 12)) (cap : BitVec 12) : Bool :=
  watts.length == 4 && watts.all (fun w => decide (150 ≤ w.toNat)) && decide ((watts.map (·.toNat)).sum ≤ cap.toNat)

/-- BUDGET_WINDOW (R437, R438, R440): a new window begins with its cap, its grants, and a change between P0 and P1. -/
def execBudgetWindow (s : State) : Out :=
  let s1 := { s with pwrWin := s.pwrWin + 1, pwrCap := s.input.cap }
  let s2 := if (s.power = .p0 ∨ s.power = .p1) ∧ grantsOk s.input.watts s.input.cap then
      { s1 with pwrGrant := mapEach s1.pwrGrant fun i _ => s.input.watts.getD i.val 0 } else s1
  .next (match s.power, s.powerAsk with
    | .p0, some .p1 => { s2 with power := .p1, powerAsk := none }
    | .p1, some .p0 => { s2 with power := .p0, powerAsk := none }
    | .p0, some .p0 => { s2 with powerAsk := none }
    | .p1, some .p1 => { s2 with powerAsk := none }
    | _, _ => s2)

/-! ## Debug (R434) -/

/-- What the grants of the partitions name is zeroised, and every vault, in which the spill areas lie (R434). Weights and recall
stores go with it. DESIGN CHOICE: log 116. -/
def State.zeroise (s : State) : State :=
  let tiles := s.parts.toList.flatMap (·.grants.tiles)
  let slots := s.parts.toList.flatMap (·.grants.larder)
  let phys := s.parts.toList.flatMap (·.grants.phys)
  let secret (a : Nat) : Bool := match windowOf a with
    | some .vault => true
    | some .spad => tiles.contains (spadTile (a - spadBase))
    | some .larder => slots.contains ((a - larderBase) / 2 ^ 17)
    | _ => phys.any fun r => decide (r.1 ≤ a ∧ a < r.2)
  { s with
    mem := s.mem.filter fun c => !secret c.1, olds := [], bins := [],
    tiles := s.tiles.map fun (x : Tile) => if tiles.contains x.id then Tile.zero x.id else x }

/-- Every partition is reset and zeroised, and the module is in vendor-debug (R434). -/
def State.vendorReset (s : State) : State :=
  let s1 := (List.finRange 16).foldl (fun s i => s.resetPartition (BitVec.ofNat 4 i.val)) s
  { s1.zeroise with vendor := true, vendorAsk := false }

/-- A token that waited for a pre-emption takes effect once none is under way (R440). -/
def State.vendorWaits (s : State) : State :=
  if s.vendorAsk && s.parts.toList.all (·.pre != .requested) then s.vendorReset else s

/-- VENDOR_DEBUG_TOKEN (R434): a token that the vendor has signed resets and zeroises every partition, behind a pre-emption that is
under way (R440). -/
def execVendorDebugToken (s : State) : Out :=
  .next (if s.power ≠ .off ∧ tokenOk s.input.bytes s.input.sig then { s with vendorAsk := true }.vendorWaits else s)

/-! ## Attestation (R433, R439) -/

/-- An SPDM response is given: while the module boots and in P3 on the physical function alone, in off on none. DEDUCED: log 75. -/
def State.spdmAnswer (s : State) (q : SpdmReq) : State :=
  if s.power = .off ∨ ((s.sec = .booting ∨ s.power = .p3) ∧ s.input.fn.isSome) then s
  else { s with spdm := s.spdm ++ [s.spdmFor s.input.fn q] }

/-- GET_VERSION (R433). -/
def execGetVersion (s : State) : Out := .next (s.spdmAnswer .getVersion)
/-- GET_CAPABILITIES (R433). -/
def execGetCapabilities (s : State) : Out := .next (s.spdmAnswer .getCapabilities)
/-- NEGOTIATE_ALGORITHMS (R433). -/
def execNegotiateAlgorithms (s : State) : Out := .next (s.spdmAnswer .negotiateAlgorithms)
/-- GET_DIGESTS (R433). -/
def execGetDigests (s : State) : Out := .next (s.spdmAnswer .getDigests)
/-- GET_CERTIFICATE (R433). -/
def execGetCertificate (s : State) : Out := .next (s.spdmAnswer .getCertificate)
/-- CHALLENGE (R433). -/
def execChallenge (s : State) : Out := .next (s.spdmAnswer .challenge)
/-- GET_MEASUREMENTS (R433). -/
def execGetMeasurements (s : State) : Out := .next (s.spdmAnswer .getMeasurements)
/-- KEY_EXCHANGE and the requests behind it (R433). -/
def execKeyExchange (s : State) : Out := .next (s.spdmAnswer .keyExchange)

/-! ## The host and other modules -/

/-- The bytes that a host access covers. -/
def hostLen : HostOp → Nat
  | .read n => n
  | .write b => b.length

/-- A host access by a partition's virtual function to its BAR2, and its completion; one that faults changes nothing (R436). -/
def State.hostDo (s : State) (p : BitVec 4) (op : HostOp) : HostResp × State :=
  if 2 ^ 36 < s.input.off.toNat + hostLen op then (.unsupportedRequest, s)
  else match op with
    | .read n =>
      match s.readV p [.translated] s.input.off.toNat n with
      | .ok b => (.data b, s)
      | .error _ => (.unsupportedRequest, s)
    | .write bytes =>
      match s.writeV p [.translated] s.input.off.toNat bytes with
      | .ok s1 => (.written, s1)
      | .error _ => (.unsupportedRequest, s)

/-- A host access to BAR0: a write rings doorbells, and what is read there the manual does not say (R436).
DESIGN CHOICE: log 117. -/
def State.doorbell (s : State) (p : BitVec 4) (op : HostOp) : HostResp × State :=
  if 2 ^ 16 < s.input.off.toNat + hostLen op then (.unsupportedRequest, s)
  else match op with
    | .read n =>
      (.data ((List.range n).map fun i => Config.bar0 s.fresh (s.input.off.toNat + i)), { s with fresh := s.fresh + 1 })
    | .write bytes => (.written, { s with doorbells := s.doorbells ++ [(p, s.input.off.toNat, bytes)] })

/-- HOST_ACCESS (R436): BAR0 or BAR2 of a virtual function, while partitions may run; all else is an Unsupported Request. -/
def execHostAccess (s : State) : Out :=
  let refused : State := { s with hostOut := s.hostOut ++ [.unsupportedRequest] }
  match s.input.fn with
  | none => .next refused
  | some p =>
    if s.sec ≠ .secure ∨ !(s.part p).booted ∨ !(s.power = .p0 ∨ s.power = .p1) then .next refused
    else
      let r := if s.input.bar0 then s.doorbell p s.input.host else s.hostDo p s.input.host
      .next { r.2 with hostOut := r.2.hostOut ++ [r.1] }

/-- PEERRESET (R379): the partitions are told which module was reset. -/
def execPeerreset (s : State) : Out :=
  .next ((List.finRange 16).foldl (fun s i =>
    if s.parts[i].booted then s.notice (BitVec.ofNat 4 i.val) (field 0 4 3 ||| field 16 10 s.input.module.toNat) else s) s)

end Sys2Proof.Machine
end

