-- ==== Sys2Proof/Machine/Recall.lean ====
section
/-! DEFINITION. The recall unit and its stations (R313 to R329): gathering runs, storing, scoring and selection, weights,
commands, and the merging of shards. -/

namespace Sys2Proof.Machine

/-! ## The store descriptor in q15 (R314) -/

/-- The fields of q15 (R314). -/
structure RDesc where
  kf    : BitVec 2
  vf    : BitVec 2
  fifo  : Bool
  pos   : Bool
  nsat  : Bool
  d     : Nat
  v     : Nat
  shard : BitVec 10
  step  : Nat
  deriving DecidableEq, Repr

/-- q15 read as a descriptor (R314). -/
def RDesc.of (w : Word) : RDesc :=
  ⟨w.extractLsb' 0 2, w.extractLsb' 2 2, w.getLsbD 4, w.getLsbD 5, w.getLsbD 6, (w.extractLsb' 8 9).toNat + 1,
   (w.extractLsb' 17 9).toNat + 1, w.extractLsb' 26 10, (w.extractLsb' 36 10).toNat + 1⟩

/-- The descriptor of the acting station's tile. -/
def State.rdesc (s : State) (x : Sta) : RDesc := RDesc.of ((s.tileAt x.t).q[15])

/-- Tokens that `n` elements take, 16 to a token. -/
def runOf (n : Nat) : Nat := (n + 15) / 16

/-- The format code of KFMT and VFMT (R314). -/
def recallFmt (f : BitVec 2) : Nat := 2 + f.toNat

/-- A stored element's width in bytes. -/
def recallWidth (f : BitVec 2) : Nat := if f = 0 then 2 else 1

/-- `n` elements of a bin as W48, in the format they were stored in; what the bin does not hold reads +0 (R318). -/
def recallRead (f : BitVec 2) (bytes : List Byte) (n : Nat) : List W48 :=
  (List.range n).map fun i =>
    (decodeElem (recallFmt f) false rNE (leNat ((bytes.drop (i * recallWidth f)).take (recallWidth f)))).setWidth 48

/-- Elements converted for a bin (R318). -/
def recallWrite (f : BitVec 2) (rm : RMode) (nsat : Bool) (els : List W48) : List Byte :=
  els.flatMap fun w => leBytes (recallWidth f) (encodeElem (recallFmt f) false rm nsat (w.setWidth 64))

/-! ## The unit and its buffers -/

/-- The state with the acting tile's recall unit changed. -/
def State.onRcl (s : State) (x : Sta) (f : Recall → Recall) : State := s.onTile x.t fun y => { y with rcl := f y.rcl }

/-- The run being gathered at a port. -/
def State.gathered (s : State) (x : Sta) (p : Nat) : List Token := lookupD (s.tileAt x.t).rcl.gather p []

/-- The gather buffer of a port replaced; an empty one is not kept. -/
def Recall.setGather (r : Recall) (p : Nat) (l : List Token) : Recall :=
  { r with gather := if l.isEmpty then r.gather.filter (·.1 ≠ p) else assign r.gather p l }

/-- Lanes of a run's tokens in order. -/
def runLanes (l : List Token) : List W48 :=
  l.flatMap fun t => match t.pay with
    | .vector v => v
    | p => p.word.setWidth 48 :: List.replicate 15 0

/-- Two tokens carry one tag. -/
def sameTag (a b : Token) : Bool := a.seq == b.seq && a.iter == b.iter

/-- The first ERROR of a run. -/
def poisonOf (l : List Token) (self : ErrInfo) : Option ErrInfo := (l.find? (·.kind = .error)).map (·.err self)

/-- Tokens that make a whole run at a port of ksto or kqry (R317); port c holds commands. -/
def runNeed (kqry : Bool) (d : RDesc) (p : Nat) : Nat := if kqry && p == 0 then runOf d.d else runOf d.d + runOf d.v

/-- The kinds that a run's tokens may have (R317). -/
def runKind (kqry : Bool) (p : Nat) (k : Kind) : Bool := k == .data || k == .error || (if kqry && p == 0 then k == .query else k == .key)

/-- The head of a port as it stands. -/
def State.rawHead (s : State) (x : Sta) (p : Nat) : Option Token := (s.tileAt x.t).head x.st p

/-- One cycle of a port's gathering (R317): the head joins its run, or breaks it. A STOP between runs stays at the head. -/
def State.gatherPort (s : State) (x : Sta) (kqry : Bool) (p : Nat) : State :=
  let g := s.gathered x p
  if runNeed kqry (s.rdesc x) p ≤ g.length then s
  else match s.rawHead x p with
    | none => s
    | some t =>
      if t.kind.level = 0 ∧ !runKind kqry p t.kind then
        ((s.take x [p]).onRcl x (·.setGather p [])).errFire x t.seq t.iter (s.self x.t eKIND)
      else match g with
        | [] => if t.kind.level ≠ 0 then s else (s.take x [p]).onRcl x (·.setGather p [t])
        | h :: _ =>
          if t.kind.level ≠ 0 ∨ !sameTag h t then
            (s.onRcl x (·.setGather p [])).errFire x h.seq h.iter (s.self x.t eSTOPMIS)
          else (s.take x [p]).onRcl x (·.setGather p (g ++ [t]))

/-! ## Storing (R318) -/

/-- The entry with the lowest SEQ. -/
def lowestSeq : List REntry → Option REntry
  | [] => none
  | e :: es => match lowestSeq es with
    | none => some e
    | some o => if o.seq.ult e.seq then some o else some e

/-- A key run stored (R318): the unit after, and the acknowledgement's count; none when SEQN is used up. -/
def Recall.store (r : Recall) (d : RDesc) (rm : RMode) (iter : BitVec 24) (keys vals : List W48) : Recall × Option Nat :=
  let full := decide (256 ≤ r.entries.length)
  if full && !d.fifo then (r, some 0)
  else
    let r1 := if full then { r with entries := match lowestSeq r.entries with
      | none => r.entries
      | some e => r.entries.erase e } else r
    let seqn := r.seqn.getD (d.shard.setWidth 32)
    if seqn = 0xFFFFFFFF then (r1, none)
    else
      let e : REntry := ⟨recallWrite d.kf rm d.nsat (keys.take d.d), recallWrite d.vf rm d.nsat (vals.take d.v), seqn,
        if d.pos then some iter else none, 0, d.kf, d.vf⟩
      ({ r1 with entries := r1.entries ++ [e], seqn := some (seqn + BitVec.ofNat 32 d.step) }, some 1)

/-- A whole key run applied: stored and acknowledged on output `o`, or its ERROR in place of that (R317, R318).
DEDUCED: log 65. -/
def State.applyKey (s : State) (x : Sta) (g : List Token) (o : Option Nat) : State :=
  let d := s.rdesc x
  match g.head? with
  | none => s
  | some t =>
    match poisonOf g (s.self x.t 0) with
    | some e => s.emits x.t x.st [(o, tokE t.seq t.iter e)]
    | none =>
      let q := (s.tileAt x.t).rcl.store d x.f.rm t.iter (runLanes (g.take (runOf d.d))) (runLanes (g.drop (runOf d.d)))
      let s1 := s.onRcl x fun _ => q.1
      match q.2 with
      | none => s1.errFire x t.seq t.iter (s.self x.t eTAGOVF)
      | some n => s1.emits x.t x.st [(o, tokS t.seq t.iter .done (BitVec.ofNat 64 n))]

/-! ## Scoring and selection (R319) -/

/-- A candidate: its score, SEQ, shard and value; a pad ranks after every entry. -/
structure Cand where
  score : W48
  seq   : BitVec 32
  shard : BitVec 10
  val   : List W48
  pad   : Bool
  deriving DecidableEq, Repr

/-- Before (R319). -/
def Cand.before (x y : Cand) : Bool :=
  let nx := wIsNaN x.score
  let ny := wIsNaN y.score
  let tie := (nx && ny) || (!nx && !ny && fvEq (fvOf x.score) (fvOf y.score))
  if x.pad || y.pad then !x.pad && y.pad
  else (!nx && ny) || (!nx && !ny && fvLt (fvOf y.score) (fvOf x.score)) || (tie && x.seq.ult y.seq) ||
    (tie && x.seq == y.seq && x.shard.ult y.shard)

/-- A candidate placed behind every one that it does not come before. -/
def candInsert (c : Cand) : List Cand → List Cand
  | [] => [c]
  | x :: xs => if c.before x then c :: x :: xs else x :: candInsert c xs

/-- Candidates in rank order; equal ones keep their order (R329). -/
def candSort (l : List Cand) : List Cand := l.foldl (fun acc c => candInsert c acc) []

/-- A pad (R319, R321). -/
def Cand.padOf (v : Nat) (shard : BitVec 10) : Cand := ⟨wInf true, 0xFFFFFFFF, shard, List.replicate v (wZero false), true⟩

/-- The first k in rank, filled up with pads. -/
def selectK (k v : Nat) (shard : BitVec 10) (l : List Cand) : List Cand :=
  ((candSort l) ++ List.replicate k (Cand.padOf v shard)).take k

/-- An entry is visible under the mask (R324). -/
def Recall.visible (r : Recall) (e : REntry) : Bool :=
  !r.mmode || match e.pos with
    | none => true
    | some p => p.ult r.tbase || r.nodes.contains (p - r.tbase).toNat

/-- The score of an entry for a query (R319). -/
def scoreOf (d : RDesc) (rm : RMode) (q : List W48) (scale : W48) (e : REntry) : W48 :=
  let k := recallRead e.kf e.key d.d
  wMul (pairSum ((List.range d.d).map fun j => wMul (q.getD j 0) (k.getD j 0) rm) rm) scale rm

/-- The weights of selected candidates (R320); a NaN among them is the distinguished quiet one. -/
def weightsOf (rm : RMode) (l : List Cand) : List W48 :=
  match l.filter (!·.pad) with
  | [] => l.map fun _ => wZero false
  | c :: cs =>
    let m := cs.foldl (fun a c => wMinMax true a c.score) c.score
    let u := l.map fun c => if c.pad then wZero false else expW (wSub c.score m rm) rm
    let z := pairSum u rm
    u.map fun w => if wIsNaN (wDiv w z rm) then wNaN else wDiv w z rm

/-! ## Results (R321) -/

/-- k, .fused and .raw of a word's AUX (R316). -/
def kOf (f : StF) : Nat := (f.aux.extractLsb' 0 4).toNat + 1
def isFused (f : StF) : Bool := f.aux.getLsbD 4
def isRaw (f : StF) : Bool := f.aux.getLsbD 5

/-- Lane `j` of a list in tokens of 16, +0 beyond the end. -/
def valueTokens (seq : BitVec 8) (iter : BitVec 24) (l : List W48) (n : Nat) : List Token :=
  (List.range n).map fun i => tokV seq iter .data ((List.range 16).map fun j => l.getD (16 * i + j) (wZero false))

/-- A raw burst's header (R321). -/
def rawHeader (seq : BitVec 8) (iter : BitVec 24) (k i : Nat) (c : Cand) : Token :=
  tokV seq iter .data ([c.score, c.seq.setWidth 48, c.shard.setWidth 48, BitVec.ofNat 48 i, BitVec.ofNat 48 (k - 1),
    if c.pad then 1 else 0] ++ List.replicate 10 0)

/-- What a query or a merge emits of its selected candidates, or the ERROR that stands for each token (R317, R321). -/
def State.results (s : State) (x : Sta) (t : Token) (v : Nat) (l : List Cand) (bad : Option ErrInfo) : List (Option Nat × Token) :=
  let k := kOf x.f
  let n := runOf v
  let mark (t : Token) : Token := match bad with
    | none => t
    | some e => tokE t.seq t.iter e
  let cands := (List.range k).map fun i => (i, l.getD i (Cand.padOf v 0))
  if isRaw x.f then
    cands.flatMap fun q => ((rawHeader t.seq t.iter k q.1 q.2) :: valueTokens t.seq t.iter q.2.val n).map fun y => (some 0, mark y)
  else
    let w := weightsOf x.f.rm l
    if isFused x.f then
      (valueTokens t.seq t.iter ((List.range v).map fun j =>
        pairSum (cands.map fun q => wMul (w.getD q.1 (wZero false)) (q.2.val.getD j (wZero false)) x.f.rm) x.f.rm) n).map
          fun y => (some 0, mark y)
    else
      cands.flatMap fun q =>
        let tag (y : Token) : Token := s.retag x (mark y) (k * t.iter.toNat + q.1)
        ((valueTokens t.seq t.iter q.2.val n).map fun y => (some 0, tag y)) ++
          [(some 1, tag (tokS t.seq t.iter .data ((w.getD q.1 (wZero false)).setWidth 64)))]

/-- A whole query run applied (R319 to R321, R325). -/
def State.applyQuery (s : State) (x : Sta) (g : List Token) : State :=
  let d := s.rdesc x
  match g.head? with
  | none => s
  | some t =>
    match poisonOf g (s.self x.t 0) with
    | some e => s.emits x.t x.st (s.results x t d.v [] (some e))
    | none =>
      let r := (s.tileAt x.t).rcl
      let q := (runLanes g).take d.d
      let scale : W48 := (s.kWord x).setWidth 48
      let cands := (r.entries.filter r.visible).map fun e =>
        (⟨scoreOf d x.f.rm q scale e, e.seq, d.shard, recallRead e.vf e.val d.v, false⟩ : Cand)
      let out := s.results x t d.v (selectK (kOf x.f) d.v d.shard cands) none
      (if r.aunit = 1 then s.onRcl x (·.older) else s).emits x.t x.st out

/-! ## Commands (R322 to R325) -/

/-- Removing entries, and how many (R323). -/
def Recall.evict (r : Recall) (p : REntry → Bool) : Nat × Recall :=
  ((r.entries.filter p).length, { r with entries := r.entries.filter fun e => !p e })

/-- EVICT (R323); none when a field is out of range. -/
def Recall.evictCmd (r : Recall) (d : RDesc) (w : Word) : Option (Nat × Recall) :=
  let v := w.extractLsb' 0 32
  if w.extractLsb' 32 26 ≠ 0 then none
  else match (w.extractLsb' 58 2).toNat with
    | 0 => some (r.evict fun e => !e.seq.ult v)
    | 1 => let q := r.evict fun _ => true
           some (q.1, { q.2 with seqn := some (d.shard.setWidth 32) })
    | 2 => if 2 ^ 24 ≤ v.toNat then none
           else some (r.evict fun e => match e.pos with
             | none => false
             | some p => decide (v.toNat ≤ p.toNat))
    | _ => some (r.evict fun e => e.seq == v)

/-- The nodes of A(q), the walk's order (R311). -/
def ancestors (entry : Nat → Nat) (size : Nat) : Nat → Nat → List Nat
  | 0, _ => []
  | n + 1, q =>
    if size ≤ q then [q]
    else if entry q / 2 ^ 15 % 2 = 1 then [q]
    else q :: ancestors entry size n (entry q % 1024)

/-- MASK (R324): the table is read from the tile's scratchpad, whatever its bins' tags. -/
def State.maskCmd (s : State) (t : TileId) (r : Recall) (w : Word) : Option (Nat × Recall) :=
  let tbin := (w.extractLsb' 10 10).toNat
  let tbm1 := (w.extractLsb' 20 3).toNat
  if w.extractLsb' 48 12 ≠ 0 ∨ 1023 < tbin + tbm1 then none
  else if !w.getLsbD 23 then some (0, { r with mmode := false, nodes := [] })
  else
    let base := spadBase + tileOff t + tbin * 256
    let size := 128 * (tbm1 + 1)
    let set := (ancestors (fun n => leNat (memGets s.mem (base + 2 * n) 2)) size 1024 (w.extractLsb' 0 10).toNat).eraseDups
    some (set.length, { r with mmode := true, tbase := w.extractLsb' 24 24, nodes := set.filter (· < size) })

/-- AGE (R325): the new limit applies at once. -/
def Recall.ageCmd (r : Recall) (w : Word) : Option (Nat × Recall) :=
  let u := w.extractLsb' 58 2
  let lim := w.extractLsb' 0 32
  if w.extractLsb' 32 26 ≠ 0 ∨ u = 3 ∨ (u ≠ 0 ∧ lim = 0) then none
  else
    let r1 := { r with aunit := u, alim := lim }
    some (if u = 0 then (0, r1) else r1.evict fun e => !e.age.ult lim)

/-- A command word applied (R322). `own` is a command station's CMD; none where CMD selects. -/
def State.command (s : State) (x : Sta) (own : Option Nat) (w : Word) : Option (Nat × Recall) :=
  let r := (s.tileAt x.t).rcl
  let cmd := (w.extractLsb' 60 4).toNat
  let run (c : Nat) : Option (Nat × Recall) := match c with
    | 1 => r.evictCmd (s.rdesc x) w
    | 2 => s.maskCmd x.t r w
    | 3 => r.ageCmd w
    | _ => none
  match own with
  | none => run cmd
  | some c => if cmd = 0 ∨ cmd = c then run c else none

/-- The head of a command port applied: acknowledged on output `o` (R317, R322). -/
def State.applyCommand (s : State) (x : Sta) (p : Nat) (own : Option Nat) (o : Option Nat) : State :=
  match s.rawHead x p with
  | none => s
  | some t =>
    let s1 := s.take x [p]
    match t.kind with
    | .stop _ => s1.emits x.t x.st [(none, t)]
    | .error => s1.emits x.t x.st [(o, tokE t.seq t.iter (t.err (s.self x.t 0)))]
    | k =>
      if k ≠ .data ∧ k ≠ .param then s1.errFire x t.seq t.iter (s.self x.t eKIND)
      else match s.command x own t.pay.word with
        | none => s1.errFire x t.seq t.iter (s.self x.t eKIND)
        | some q => (s1.onRcl x fun _ => q.2).emits x.t x.st [(o, tokS t.seq t.iter .done (BitVec.ofNat 64 q.1))]

/-! ## ksto and kqry (R317) -/

/-- What a port of ksto or kqry offers: a whole run, a command, or a STOP between runs, with its tag. -/
def State.offers (s : State) (x : Sta) (kqry : Bool) (p : Nat) : Option Token :=
  if p = 2 then s.rawHead x 2
  else
    let g := s.gathered x p
    if g.isEmpty then (s.rawHead x p).filter (·.kind.level ≠ 0)
    else if runNeed kqry (s.rdesc x) p ≤ g.length then g.head? else none

/-- The oldest of the offers, port c before b before a among equal tags (R317). -/
def oldestOffer (r : Region) : List (Nat × Token) → Option (Nat × Token)
  | [] => none
  | q :: qs => match oldestOffer r qs with
    | none => some q
    | some o => if r.age o.2 < r.age q.2 then some o else some q

/-- One cycle of ksto or kqry: its run ports each take a token, then the oldest whole run, command or STOP is applied. -/
def State.fireRecall (s : State) (f : StF) (kqry : Bool) : State :=
  s.fireHeads f fun x s =>
    let runs := (portsOf f).filter (· ≠ 2)
    let s1 := runs.foldl (fun s p => s.gatherPort x kqry p) s
    let offers := ([2, 1, 0].filter ((portsOf f).contains ·)).filterMap fun p => (s1.offers x kqry p).map fun t => (p, t)
    let ack := if kqry then some 2 else none
    match oldestOffer x.r offers with
    | none => s1
    | some (p, t) =>
      if t.kind.level ≠ 0 then
        let waits := kqry && ([0, 1, 2].filter (· ≠ p)).any fun o =>
          match ((s1.gathered x o).head?).or (s1.rawHead x o) with
          | none => false
          | some y => decide (x.r.age y < x.r.age t)
        if waits then s1 else (s1.take x [p]).emits x.t x.st [(none, t)]
      else if p = 2 then s1.applyCommand x 2 none ack
      else
        let g := s1.gathered x p
        let s2 := s1.onRcl x (·.setGather p [])
        if kqry && p == 0 then s2.applyQuery x g else s2.applyKey x g ack

/-- ksto (R316, R318). -/
def execKsto (f : StF) (s : State) : Out := .next (s.fireRecall f false)

/-- kqry (R316, R319). -/
def execKqry (f : StF) (s : State) : Out := .next (s.fireRecall f true)

/-- kevict (R323). -/
def execKevict (f : StF) (s : State) : Out := .next (s.fireHeads f fun x s => s.applyCommand x 0 (some 1) none)

/-- kmask (R324). -/
def execKmask (f : StF) (s : State) : Out := .next (s.fireHeads f fun x s => s.applyCommand x 0 (some 2) none)

/-- kage (R325). -/
def execKage (f : StF) (s : State) : Out := .next (s.fireHeads f fun x s => s.applyCommand x 0 (some 3) none)

/-! ## kmerge (R326) -/

/-- The tokens of one tag that a port of kmerge has gathered. -/
def State.burst (s : State) (x : Sta) (p : Nat) (t : Token) : List Token := (s.gathered x p).filter (sameTag t)

/-- The candidates of a burst (R321, R326). -/
def burstCands (k v : Nat) (l : List Token) : List Cand :=
  (List.range k).map fun i =>
    let h := runLanes ((l.drop (i * (1 + runOf v))).take 1)
    let vals := runLanes ((l.drop (i * (1 + runOf v) + 1)).take (runOf v))
    ⟨h.getD 0 0, (h.getD 1 0).extractLsb' 0 32, (h.getD 2 0).extractLsb' 0 10, vals.take v, (h.getD 5 0).getLsbD 0⟩

/-- A header's lane 4 holds k − 1 (R326). -/
def headersOk (k v : Nat) (l : List Token) : Bool :=
  (List.range k).all fun i => ((runLanes ((l.drop (i * (1 + runOf v))).take 1)).getD 4 0).toNat == k - 1

/-- kmerge (R326): each set of its ports' tokens joins the bursts of its tag, and whole bursts are merged. -/
def execKmerge (f : StF) (s : State) : Out :=
  .next (s.fireHeads f fun x s =>
    let ports := portsOf f
    match s.nextSet x ports with
    | none => s
    | some (q, s1) =>
      let t0 : Token := tokS (setSeq q) (setIter q) .data 0
      let k := kOf f
      let v := (s.rdesc x).v
      let drop (s : State) : State := s.onRcl x fun r =>
        ports.foldl (fun r p => r.setGather p ((lookupD r.gather p []).filter fun t => !sameTag t0 t)) r
      let part := !(s.burst x (ports.headD 0) t0).isEmpty
      let join (s : State) : State :=
        let s2 := s.onRcl x fun r => q.foldl (fun r e => r.setGather e.1 (lookupD r.gather e.1 [] ++ [e.2])) r
        let bursts := ports.map fun p => s2.burst x p t0
        if bursts.any fun b => b.length < k * (1 + runOf v) then s2
        else
          let s3 := drop s2
          match bursts.findSome? fun b => poisonOf b (s.self x.t 0) with
          | some e => s3.errFire x t0.seq t0.iter e
          | none =>
            if bursts.all (headersOk k v) then
              s3.emits x.t x.st (s3.results x t0 v (selectK k v 0 (bursts.flatMap (burstCands k v))) none)
            else s3.errFire x t0.seq t0.iter (s.self x.t eKIND)
      if q.any (·.2.kind = .error) then join s1
      else (if part && q.any (·.2.kind.level ≠ 0) then (drop s1).errFire x t0.seq t0.iter (s.self x.t eSTOPMIS)
        else if q.any (fun e => e.2.kind.level = 0 ∧ e.2.kind ≠ .data) then (drop s1).errFire x t0.seq t0.iter (s.self x.t eKIND)
        else s1.rows x q dataOnly (passStop x q) join))

end Sys2Proof.Machine
end

