-- ==== Sys2Proof/Machine/Dispatch.lean ====
section
/-! DEFINITION. One arm per step of the D7: a direct call of its meaning. -/

namespace Sys2Proof.Machine
open Sys2Proof

/-- The effect of one step of the table. -/
def exec (i : Instr) (s : State) : Host.Outcome State Fault Refusal :=
  match i with
  | .add d a b => Sys2Proof.Machine.execAdd d a b s
  | .sub d a b => Sys2Proof.Machine.execSub d a b s
  | .and_ d a b => Sys2Proof.Machine.execAnd d a b s
  | .or_ d a b => Sys2Proof.Machine.execOr d a b s
  | .xor d a b => Sys2Proof.Machine.execXor d a b s
  | .andn d a b => Sys2Proof.Machine.execAndn d a b s
  | .shl d a b => Sys2Proof.Machine.execShl d a b s
  | .shr d a b => Sys2Proof.Machine.execShr d a b s
  | .sar d a b => Sys2Proof.Machine.execSar d a b s
  | .mul d a b => Sys2Proof.Machine.execMul d a b s
  | .mulh d a b => Sys2Proof.Machine.execMulh d a b s
  | .mulhu d a b => Sys2Proof.Machine.execMulhu d a b s
  | .div d a b => Sys2Proof.Machine.execDiv d a b s
  | .divu d a b => Sys2Proof.Machine.execDivu d a b s
  | .rem d a b => Sys2Proof.Machine.execRem d a b s
  | .remu d a b => Sys2Proof.Machine.execRemu d a b s
  | .min d a b => Sys2Proof.Machine.execMin d a b s
  | .max d a b => Sys2Proof.Machine.execMax d a b s
  | .minu d a b => Sys2Proof.Machine.execMinu d a b s
  | .maxu d a b => Sys2Proof.Machine.execMaxu d a b s
  | .slt d a b => Sys2Proof.Machine.execSlt d a b s
  | .sltu d a b => Sys2Proof.Machine.execSltu d a b s
  | .seq d a b => Sys2Proof.Machine.execSeq d a b s
  | .clz d a => Sys2Proof.Machine.execClz d a s
  | .ctz d a => Sys2Proof.Machine.execCtz d a s
  | .popc d a => Sys2Proof.Machine.execPopc d a s
  | .bswap d a => Sys2Proof.Machine.execBswap d a s
  | .bext d a b => Sys2Proof.Machine.execBext d a b s
  | .bins d a b => Sys2Proof.Machine.execBins d a b s
  | .lea d a b sc => Sys2Proof.Machine.execLea d a b sc s
  | .addi d a imm => Sys2Proof.Machine.execAddi d a imm s
  | .andi d a imm => Sys2Proof.Machine.execAndi d a imm s
  | .ori d a imm => Sys2Proof.Machine.execOri d a imm s
  | .xori d a imm => Sys2Proof.Machine.execXori d a imm s
  | .slti d a imm => Sys2Proof.Machine.execSlti d a imm s
  | .sltiu d a imm => Sys2Proof.Machine.execSltiu d a imm s
  | .shli d a n => Sys2Proof.Machine.execShli d a n s
  | .shri d a n => Sys2Proof.Machine.execShri d a n s
  | .sari d a n => Sys2Proof.Machine.execSari d a n s
  | .lui d imm => Sys2Proof.Machine.execLui d imm s
  | .auipc d imm => Sys2Proof.Machine.execAuipc d imm s
  | .ldb d a imm => Sys2Proof.Machine.execLdb d a imm s
  | .ldh d a imm => Sys2Proof.Machine.execLdh d a imm s
  | .ldw d a imm => Sys2Proof.Machine.execLdw d a imm s
  | .ldd d a imm => Sys2Proof.Machine.execLdd d a imm s
  | .ldbu d a imm => Sys2Proof.Machine.execLdbu d a imm s
  | .ldhu d a imm => Sys2Proof.Machine.execLdhu d a imm s
  | .ldwu d a imm => Sys2Proof.Machine.execLdwu d a imm s
  | .stb d a imm => Sys2Proof.Machine.execStb d a imm s
  | .sth d a imm => Sys2Proof.Machine.execSth d a imm s
  | .stw d a imm => Sys2Proof.Machine.execStw d a imm s
  | .std d a imm => Sys2Proof.Machine.execStd d a imm s
  | .ldx d a b z c => Sys2Proof.Machine.execLdx d a b z c s
  | .ldxu d a b z c => Sys2Proof.Machine.execLdxu d a b z c s
  | .stx d a b z c => Sys2Proof.Machine.execStx d a b z c s
  | .beq a b imm => Sys2Proof.Machine.execBeq a b imm s
  | .bne a b imm => Sys2Proof.Machine.execBne a b imm s
  | .blt a b imm => Sys2Proof.Machine.execBlt a b imm s
  | .bge a b imm => Sys2Proof.Machine.execBge a b imm s
  | .bltu a b imm => Sys2Proof.Machine.execBltu a b imm s
  | .bgeu a b imm => Sys2Proof.Machine.execBgeu a b imm s
  | .jmp imm => Sys2Proof.Machine.execJmp imm s
  | .call imm => Sys2Proof.Machine.execCall imm s
  | .jr a => Sys2Proof.Machine.execJr a s
  | .callr a => Sys2Proof.Machine.execCallr a s
  | .atadd d a b c o => Sys2Proof.Machine.execAtadd d a b c o s
  | .atand d a b c o => Sys2Proof.Machine.execAtand d a b c o s
  | .ator d a b c o => Sys2Proof.Machine.execAtor d a b c o s
  | .atxor d a b c o => Sys2Proof.Machine.execAtxor d a b c o s
  | .atmin d a b c o => Sys2Proof.Machine.execAtmin d a b c o s
  | .atmax d a b c o => Sys2Proof.Machine.execAtmax d a b c o s
  | .atminu d a b c o => Sys2Proof.Machine.execAtminu d a b c o s
  | .atmaxu d a b c o => Sys2Proof.Machine.execAtmaxu d a b c o s
  | .atxch d a b c o => Sys2Proof.Machine.execAtxch d a b c o s
  | .atcas d a b c o => Sys2Proof.Machine.execAtcas d a b c o s
  | .fence c k => Sys2Proof.Machine.execFence c k s
  | .wait l sc n k => Sys2Proof.Machine.execWait l sc n k s
  | .tbegin a => Sys2Proof.Machine.execTbegin a s
  | .tabort c => Sys2Proof.Machine.execTabort c s
  | .tstamp d => Sys2Proof.Machine.execTstamp d s
  | .ldc d a => Sys2Proof.Machine.execLdc d a s
  | .stf a b => Sys2Proof.Machine.execStf a b s
  | .binq d a => Sys2Proof.Machine.execBinq d a s
  | .binset a v => Sys2Proof.Machine.execBinset a v s
  | .mbbind a n => Sys2Proof.Machine.execMbbind a n s
  | .mbfree n => Sys2Proof.Machine.execMbfree n s
  | .cfgld d a b => Sys2Proof.Machine.execCfgld d a b s
  | .cfgchk d a => Sys2Proof.Machine.execCfgchk d a s
  | .cfgcommit a => Sys2Proof.Machine.execCfgcommit a s
  | .launch d a p => Sys2Proof.Machine.execLaunch d a p s
  | .param a b n => Sys2Proof.Machine.execParam a b n s
  | .selcfg a n => Sys2Proof.Machine.execSelcfg a n s
  | .phase d a => Sys2Proof.Machine.execPhase d a s
  | .phend a => Sys2Proof.Machine.execPhend a s
  | .cancelLaunch d a => Sys2Proof.Machine.execCancelLaunch d a s
  | .cancelGraph d a => Sys2Proof.Machine.execCancelGraph d a s
  | .cancelPhase d a => Sys2Proof.Machine.execCancelPhase d a s
  | .cancelJob d a => Sys2Proof.Machine.execCancelJob d a s
  | .cwait d a => Sys2Proof.Machine.execCwait d a s
  | .cread d a => Sys2Proof.Machine.execCread d a s
  | .ckpt d a => Sys2Proof.Machine.execCkpt d a s
  | .resume a => Sys2Proof.Machine.execResume a s
  | .drain a => Sys2Proof.Machine.execDrain a s
  | .cpy d a b => Sys2Proof.Machine.execCpy d a b s
  | .splice d a b => Sys2Proof.Machine.execSplice d a b s
  | .stpin d a => Sys2Proof.Machine.execStpin d a s
  | .stunpin a => Sys2Proof.Machine.execStunpin a s
  | .stver d a => Sys2Proof.Machine.execStver d a s
  | .stlook d a b => Sys2Proof.Machine.execStlook d a b s
  | .seqbind d a b => Sys2Proof.Machine.execSeqbind d a b s
  | .sequnbind a => Sys2Proof.Machine.execSequnbind a s
  | .seqstep d a => Sys2Proof.Machine.execSeqstep d a s
  | .csrrd d c => Sys2Proof.Machine.execCsrrd d c s
  | .csrwr d a c => Sys2Proof.Machine.execCsrwr d a c s
  | .csrset d a c => Sys2Proof.Machine.execCsrset d a c s
  | .csrclr d a c => Sys2Proof.Machine.execCsrclr d a c s
  | .brk c => Sys2Proof.Machine.execBrk c s
  | .tlbinv a sc => Sys2Proof.Machine.execTlbinv a sc s
  | .atticSave a => Sys2Proof.Machine.execAtticSave a s
  | .atticRestore a => Sys2Proof.Machine.execAtticRestore a s
  | .steer f => Sys2Proof.Machine.execSteer f s
  | .merge f => Sys2Proof.Machine.execMerge f s
  | .cmerge f => Sys2Proof.Machine.execCmerge f s
  | .carry f => Sys2Proof.Machine.execCarry f s
  | .invar f => Sys2Proof.Machine.execInvar f s
  | .gate f => Sys2Proof.Machine.execGate f s
  | .sink f => Sys2Proof.Machine.execSink f s
  | .dup f => Sys2Proof.Machine.execDup f s
  | .tagnew f => Sys2Proof.Machine.execTagnew f s
  | .tagset f => Sys2Proof.Machine.execTagset f s
  | .tagrst f => Sys2Proof.Machine.execTagrst f s
  | .stopgen f => Sys2Proof.Machine.execStopgen f s
  | .stopadv f => Sys2Proof.Machine.execStopadv f s
  | .count f => Sys2Proof.Machine.execCount f s
  | .intersect f => Sys2Proof.Machine.execIntersect f s
  | .union_ f => Sys2Proof.Machine.execUnion f s
  | .lim f => Sys2Proof.Machine.execLim f s
  | .iadd f => Sys2Proof.Machine.execIadd f s
  | .isub f => Sys2Proof.Machine.execIsub f s
  | .imul f => Sys2Proof.Machine.execImul f s
  | .iand f => Sys2Proof.Machine.execIand f s
  | .ior f => Sys2Proof.Machine.execIor f s
  | .ixor f => Sys2Proof.Machine.execIxor f s
  | .ishl f => Sys2Proof.Machine.execIshl f s
  | .ishr f => Sys2Proof.Machine.execIshr f s
  | .isar f => Sys2Proof.Machine.execIsar f s
  | .imin f => Sys2Proof.Machine.execImin f s
  | .imax f => Sys2Proof.Machine.execImax f s
  | .icmp f => Sys2Proof.Machine.execIcmp f s
  | .isel f => Sys2Proof.Machine.execIsel f s
  | .fadd f => Sys2Proof.Machine.execFadd f s
  | .fsub f => Sys2Proof.Machine.execFsub f s
  | .fmul f => Sys2Proof.Machine.execFmul f s
  | .fma f => Sys2Proof.Machine.execFma f s
  | .fms f => Sys2Proof.Machine.execFms f s
  | .fnma f => Sys2Proof.Machine.execFnma f s
  | .fneg f => Sys2Proof.Machine.execFneg f s
  | .fabs f => Sys2Proof.Machine.execFabs f s
  | .fmin f => Sys2Proof.Machine.execFmin f s
  | .fmax f => Sys2Proof.Machine.execFmax f s
  | .fcmp f => Sys2Proof.Machine.execFcmp f s
  | .fsel f => Sys2Proof.Machine.execFsel f s
  | .fclass f => Sys2Proof.Machine.execFclass f s
  | .fscale f => Sys2Proof.Machine.execFscale f s
  | .frnd f => Sys2Proof.Machine.execFrnd f s
  | .frcp f => Sys2Proof.Machine.execFrcp f s
  | .frsq f => Sys2Proof.Machine.execFrsq f s
  | .fdiv f => Sys2Proof.Machine.execFdiv f s
  | .fsqrt f => Sys2Proof.Machine.execFsqrt f s
  | .vred f => Sys2Proof.Machine.execVred f s
  | .vbcast f => Sys2Proof.Machine.execVbcast f s
  | .vshuf f => Sys2Proof.Machine.execVshuf f s
  | .vpack f => Sys2Proof.Machine.execVpack f s
  | .vunpk f => Sys2Proof.Machine.execVunpk f s
  | .vscan f => Sys2Proof.Machine.execVscan f s
  | .vdot f => Sys2Proof.Machine.execVdot f s
  | .vext f => Sys2Proof.Machine.execVext f s
  | .vins f => Sys2Proof.Machine.execVins f s
  | .fcvt f => Sys2Proof.Machine.execFcvt f s
  | .dsenc f => Sys2Proof.Machine.execDsenc f s
  | .dsdec f => Sys2Proof.Machine.execDsdec f s
  | .dscut f => Sys2Proof.Machine.execDscut f s
  | .qblk f => Sys2Proof.Machine.execQblk f s
  | .qbmap f => Sys2Proof.Machine.execQbmap f s
  | .mxload f => Sys2Proof.Machine.execMxload f s
  | .mxdot f => Sys2Proof.Machine.execMxdot f s
  | .mxacc f => Sys2Proof.Machine.execMxacc f s
  | .mxrd f => Sys2Proof.Machine.execMxrd f s
  | .mxclr f => Sys2Proof.Machine.execMxclr f s
  | .mxscale f => Sys2Proof.Machine.execMxscale f s
  | .fexp f => Sys2Proof.Machine.execFexp f s
  | .fexp2 f => Sys2Proof.Machine.execFexp2 f s
  | .flog2 f => Sys2Proof.Machine.execFlog2 f s
  | .fmaxrun f => Sys2Proof.Machine.execFmaxrun f s
  | .lds f => Sys2Proof.Machine.execLds f s
  | .sts f => Sys2Proof.Machine.execSts f s
  | .agen f => Sys2Proof.Machine.execAgen f s
  | .gath f => Sys2Proof.Machine.execGath f s
  | .scat f => Sys2Proof.Machine.execScat f s
  | .rport f => Sys2Proof.Machine.execRport f s
  | .ldcs f => Sys2Proof.Machine.execLdcs f s
  | .stfs f => Sys2Proof.Machine.execStfs f s
  | .pport f => Sys2Proof.Machine.execPport f s
  | .ksto f => Sys2Proof.Machine.execKsto f s
  | .kqry f => Sys2Proof.Machine.execKqry f s
  | .kmerge f => Sys2Proof.Machine.execKmerge f s
  | .kevict f => Sys2Proof.Machine.execKevict f s
  | .kmask f => Sys2Proof.Machine.execKmask f s
  | .kage f => Sys2Proof.Machine.execKage f s
  | .rld f => Sys2Proof.Machine.execRld f s
  | .rst f => Sys2Proof.Machine.execRst f s
  | .ramo f => Sys2Proof.Machine.execRamo f s
  | .rfence f => Sys2Proof.Machine.execRfence f s
  | .bar f => Sys2Proof.Machine.execBar f s
  | .decide f => Sys2Proof.Machine.execDecide f s
  | .seqc f => Sys2Proof.Machine.execSeqc f s
  | .pipec f => Sys2Proof.Machine.execPipec f s
  | .strmc f => Sys2Proof.Machine.execStrmc f s
  | .done f => Sys2Proof.Machine.execDone f s
  | .lgin d => Sys2Proof.Machine.execLgin d s
  | .bias d a => Sys2Proof.Machine.execBias d a s
  | .pen d a b => Sys2Proof.Machine.execPen d a b s
  | .scl d a b => Sys2Proof.Machine.execScl d a b s
  | .msk d a => Sys2Proof.Machine.execMsk d a s
  | .clamp d a b => Sys2Proof.Machine.execClamp d a b s
  | .topk d a b => Sys2Proof.Machine.execTopk d a b s
  | .topp d a b => Sys2Proof.Machine.execTopp d a b s
  | .minp d a b => Sys2Proof.Machine.execMinp d a b s
  | .smax d a => Sys2Proof.Machine.execSmax d a s
  | .vmax d a => Sys2Proof.Machine.execVmax d a s
  | .vsum d a => Sys2Proof.Machine.execVsum d a s
  | .draw d a => Sys2Proof.Machine.execDraw d a s
  | .cnt d a => Sys2Proof.Machine.execCnt d a s
  | .emit a => Sys2Proof.Machine.execEmit a s
  | .set_ d imm => Sys2Proof.Machine.execSet d imm s
  | .slds d imm => Sys2Proof.Machine.execSlds d imm s
  | .ssts a imm => Sys2Proof.Machine.execSsts a imm s
  | .br imm => Sys2Proof.Machine.execBr imm s
  | .brz a imm => Sys2Proof.Machine.execBrz a imm s
  | .brnz a imm => Sys2Proof.Machine.execBrnz a imm s
  | .tcommit => Sys2Proof.Machine.execTcommit s
  | .syscall => Sys2Proof.Machine.execSyscall s
  | .hvcInfo => Sys2Proof.Machine.execHvcInfo s
  | .hvcYield => Sys2Proof.Machine.execHvcYield s
  | .hvcNotice => Sys2Proof.Machine.execHvcNotice s
  | .hvcDebug => Sys2Proof.Machine.execHvcDebug s
  | .hvcAttest => Sys2Proof.Machine.execHvcAttest s
  | .hvcReset => Sys2Proof.Machine.execHvcReset s
  | .hvcSwapmap => Sys2Proof.Machine.execHvcSwapmap s
  | .eret => Sys2Proof.Machine.execEret s
  | .idle => Sys2Proof.Machine.execIdle s
  | .interruptTaken => Sys2Proof.Machine.execInterruptTaken s
  | .timer => Sys2Proof.Machine.execTimer s
  | .loadReply => Sys2Proof.Machine.execLoadReply s
  | .storeFailure => Sys2Proof.Machine.execStoreFailure s
  | .mailboxFlitArrival => Sys2Proof.Machine.execMailboxFlitArrival s
  | .mailboxCreditReturn => Sys2Proof.Machine.execMailboxCreditReturn s
  | .mailboxRevoke => Sys2Proof.Machine.execMailboxRevoke s
  | .tokenArrival => Sys2Proof.Machine.execTokenArrival s
  | .launchWideErrorPurge => Sys2Proof.Machine.execLaunchWideErrorPurge s
  | .launchRecordEnqueue => Sys2Proof.Machine.execLaunchRecordEnqueue s
  | .launchStart => Sys2Proof.Machine.execLaunchStart s
  | .sourceRoundStart => Sys2Proof.Machine.execSourceRoundStart s
  | .decisionSwitch => Sys2Proof.Machine.execDecisionSwitch s
  | .commitApply => Sys2Proof.Machine.execCommitApply s
  | .reconfigFenceLift => Sys2Proof.Machine.execReconfigFenceLift s
  | .phaseAck => Sys2Proof.Machine.execPhaseAck s
  | .phaseStart => Sys2Proof.Machine.execPhaseStart s
  | .copyComplete => Sys2Proof.Machine.execCopyComplete s
  | .quarryRowReturn => Sys2Proof.Machine.execQuarryRowReturn s
  | .tlbWalkComplete => Sys2Proof.Machine.execTlbWalkComplete s
  | .faultWithhold => Sys2Proof.Machine.execFaultWithhold s
  | .faultRecordPost => Sys2Proof.Machine.execFaultRecordPost s
  | .holdLimitExpiry => Sys2Proof.Machine.execHoldLimitExpiry s
  | .hangDeclared => Sys2Proof.Machine.execHangDeclared s
  | .binWaitGrant => Sys2Proof.Machine.execBinWaitGrant s
  | .waitEntryResend => Sys2Proof.Machine.execWaitEntryResend s
  | .balancerSample => Sys2Proof.Machine.execBalancerSample s
  | .balancerMove => Sys2Proof.Machine.execBalancerMove s
  | .mxdotFill => Sys2Proof.Machine.execMxdotFill s
  | .mxSequencerApply => Sys2Proof.Machine.execMxSequencerApply s
  | .mxrdReadApply => Sys2Proof.Machine.execMxrdReadApply s
  | .mxclrApply => Sys2Proof.Machine.execMxclrApply s
  | .remoteRequestServe => Sys2Proof.Machine.execRemoteRequestServe s
  | .remoteReply => Sys2Proof.Machine.execRemoteReply s
  | .tariorFlitReceive => Sys2Proof.Machine.execTariorFlitReceive s
  | .tariorReroute => Sys2Proof.Machine.execTariorReroute s
  | .tariorPortRetrain => Sys2Proof.Machine.execTariorPortRetrain s
  | .tileContainmentReset => Sys2Proof.Machine.execTileContainmentReset s
  | .creditReclaim => Sys2Proof.Machine.execCreditReclaim s
  | .eccUncorrectable => Sys2Proof.Machine.execEccUncorrectable s
  | .preemptRequest => Sys2Proof.Machine.execPreemptRequest s
  | .preemptHaltComplete => Sys2Proof.Machine.execPreemptHaltComplete s
  | .preemptFailureReply => Sys2Proof.Machine.execPreemptFailureReply s
  | .reclaimRecordPost => Sys2Proof.Machine.execReclaimRecordPost s
  | .securityProcessorVerify => Sys2Proof.Machine.execSecurityProcessorVerify s
  | .samplerRunStart => Sys2Proof.Machine.execSamplerRunStart s
  | .staGeomWrite => Sys2Proof.Machine.execStaGeomWrite s
  | .jccTargetWrite => Sys2Proof.Machine.execJccTargetWrite s
  | .lqStateWrite => Sys2Proof.Machine.execLqStateWrite s
  | .tarBind => Sys2Proof.Machine.execTarBind s
  | .tarUnbind => Sys2Proof.Machine.execTarUnbind s
  | .smpBind => Sys2Proof.Machine.execSmpBind s
  | .smpUnbind => Sys2Proof.Machine.execSmpUnbind s
  | .rclqCtlWrite => Sys2Proof.Machine.execRclqCtlWrite s
  | .rlogCtlWrite => Sys2Proof.Machine.execRlogCtlWrite s
  | .fqCtlWrite => Sys2Proof.Machine.execFqCtlWrite s
  | .hangCtlWrite => Sys2Proof.Machine.execHangCtlWrite s
  | .grantChange => Sys2Proof.Machine.execGrantChange s
  | .powerOn => Sys2Proof.Machine.execPowerOn s
  | .vendorDebugToken => Sys2Proof.Machine.execVendorDebugToken s
  | .getVersion => Sys2Proof.Machine.execGetVersion s
  | .getCapabilities => Sys2Proof.Machine.execGetCapabilities s
  | .negotiateAlgorithms => Sys2Proof.Machine.execNegotiateAlgorithms s
  | .getDigests => Sys2Proof.Machine.execGetDigests s
  | .getCertificate => Sys2Proof.Machine.execGetCertificate s
  | .challenge => Sys2Proof.Machine.execChallenge s
  | .getMeasurements => Sys2Proof.Machine.execGetMeasurements s
  | .keyExchange => Sys2Proof.Machine.execKeyExchange s
  | .hostAccess => Sys2Proof.Machine.execHostAccess s
  | .powerStateChange => Sys2Proof.Machine.execPowerStateChange s
  | .budgetWindow => Sys2Proof.Machine.execBudgetWindow s
  | .halt => Sys2Proof.Machine.execHalt s
  | .illegalInstruction => Sys2Proof.Machine.execIllegalInstruction s
  | .fetchfault => Sys2Proof.Machine.execFetchfault s
  | .storePerformed => Sys2Proof.Machine.execStorePerformed s
  | .remotePhaseCancel => Sys2Proof.Machine.execRemotePhaseCancel s
  | .peerreset => Sys2Proof.Machine.execPeerreset s
  | .debuggerCommand => Sys2Proof.Machine.execDebuggerCommand s
  | .powerOff => Sys2Proof.Machine.execPowerOff s

end Sys2Proof.Machine
end

