-- ==== Sys2Proof/Machine/Schedule.lean ====
section
/-! DEFINITION. Who moves next. The D7's units run side by side and the manual gives no order among them, so the turn of
a step is a free value of the machine's own turns; the outside world's steps come through the agenda (log 3). -/

namespace Sys2Proof

/-- Free numbers that make up the turn of a step, by draw and part (log 3). -/
opaque Config.turn : Nat → Nat → Nat

namespace Machine

/-- The autonomous steps of the machine: those that nothing outside it brings about. -/
def ownEvents : List Instr :=
  [.interruptTaken, .timer, .loadReply, .mailboxFlitArrival, .mailboxCreditReturn, .tokenArrival,
   .launchWideErrorPurge, .launchRecordEnqueue, .launchStart, .sourceRoundStart, .decisionSwitch, .commitApply,
   .reconfigFenceLift, .phaseAck, .phaseStart, .copyComplete, .quarryRowReturn, .tlbWalkComplete, .faultWithhold,
   .faultRecordPost, .binWaitGrant, .waitEntryResend, .balancerSample, .balancerMove, .mxdotFill, .mxSequencerApply,
   .mxrdReadApply, .mxclrApply, .creditReclaim, .preemptHaltComplete, .reclaimRecordPost, .securityProcessorVerify,
   .samplerRunStart, .storePerformed, .holdLimitExpiry, .hangDeclared, .preemptFailureReply]

/-! ## Arbitration (R36) -/

/-- A station is ready: its firing would change what its tile holds. DEDUCED: log 48. -/
def State.readyAt (s : State) (t : TileId) (st : Nat) : Bool :=
  match (s.wordAt t st).bind decodeStation with
  | none => false
  | some i =>
    match exec i { s with tile := t, st := st } with
    | .next s' => s'.tileAt t != s.tileAt t
    | _ => false

/-- The tokens that a station holds at its ports, in its ready sets, at its outputs and in its slots. -/
def Tile.holds (x : Tile) (st : Nat) : List Token :=
  ((x.outq.filter (·.st = st)).map (·.tok)) ++ ((x.queue.filter (·.st = st)).map (·.tok)) ++
    ((x.ready.filter (·.st = st)).flatMap fun q => q.toks.map Prod.snd) ++
    ((x.slots.filter (·.st = st)).flatMap fun z => z.held.toList ++ z.buf)

/-- The age of what a ready station fires next: of the tokens that its firing takes, or, where it takes none, of the oldest that
it holds; a purge has the age of its launch-wide ERROR (R36, R41). -/
def State.claim (s : State) (r : Region) (t : TileId) (st : Nat) : Option Nat :=
  match (s.wordAt t st).bind decodeStation with
  | none => none
  | some i =>
    match exec i { s with tile := t, st := st } with
    | .next s' =>
      if s'.tileAt t == s.tileAt t then none
      else
        let mine := (s.tileAt t).holds st
        let taken := mine.diff ((s'.tileAt t).holds st)
        let wide := taken.filter (·.isWide)
        some ((((if wide.isEmpty then (if taken.isEmpty then mine else taken) else wide).map r.age).min?).getD 0)
    | _ => none

/-- A station of a CT wins its class: no ready station of the class has an older claim, and among equal claims it comes
first after the last winner (R36). -/
def State.wins (s : State) (t : TileId) (st : Nat) : Bool :=
  match s.regionOf t, s.wordAt t st with
  | some r, some w =>
    match issueClass (opOf w), t.isMT with
    | some k, false =>
      let last := lookupD (s.tileAt t).rr k 15
      let rank (i : Nat) : Nat := (i + 16 - (last + 1) % 16) % 16
      match s.claim r t st with
      | none => true
      | some a => (List.range 16).all fun i =>
          match s.wordAt t i with
          | none => true
          | some wi =>
            if i = st ∨ issueClass (opOf wi) ≠ some k then true
            else match s.claim r t i with
              | none => true
              | some ai => decide (a < ai) || (a == ai && decide (rank st < rank i))
    | _, _ => true
  | _, _ => true

/-- A free number below `n + 1`. -/
def freeFin (n k part : Nat) : Fin (n + 1) := ⟨Config.turn k part % (n + 1), Nat.mod_lt _ (Nat.succ_pos n)⟩

/-- The choices that a machine's own step leaves open: which core, slot, port, bank, phase and waiting operation. It is about this
module, of number `m`, and about no other. -/
def freeInput (m : BitVec 10) (k : Nat) : Input :=
  { Input.none with module := m, bslot := BitVec.ofNat 3 (Config.turn k 10), k := BitVec.ofNat 2 (Config.turn k 11),
                    p := BitVec.ofNat 4 (Config.turn k 12), serial := BitVec.ofNat 32 (Config.turn k 13),
                    who := .die (BitVec.ofNat 2 (Config.turn k 14)), index := Config.turn k 15,
                    seq := BitVec.ofNat 8 (Config.turn k 16), near := BitVec.ofNat 2 (Config.turn k 17),
                    load := if Config.turn k 18 % 2 = 0 then .data else .old (Config.turn k 19) }

/-- The own turn of a module, by draw. -/
def freeTurn (m : BitVec 10) (k : Nat) : Turn :=
  let c : Fin 64 := freeFin 63 k 1
  let t : TileId := ⟨BitVec.ofNat 2 (Config.turn k 2), BitVec.ofNat 5 (Config.turn k 3), BitVec.ofNat 4 (Config.turn k 4)⟩
  let st : Nat := Config.turn k 5 % 16
  match Config.turn k 0 % 4 with
  | 0 => .core c
  | 1 => .fire t st
  | 2 => .logit (freeFin 7 k 6) (freeFin 1 k 7)
  | _ => .event c t st (freeFin 7 k 6) (ownEvents.getD (Config.turn k 8) .timer) (freeInput m k)

/-- The turn of the next step. DESIGN CHOICE: log 3. -/
def State.nextTurn (s : State) : Turn := s.agenda.headD (freeTurn s.module s.fresh)

/-- A core that has started counts the cycles that have gone by (R79). -/
def Core.elapse (c : Core) (n : Word) : Core := if c.run = .off then c else { c with cycle := c.cycle + n }

/-- Time passes with every step, for cores that are swapped out as well (R393), and a free value is drawn.
DESIGN CHOICE: log 6. -/
def State.tick (s : State) : State :=
  let n := Config.elapsed s.fresh
  { s with agenda := s.agenda.tail, fresh := s.fresh + 1, cores := mapAll s.cores (·.elapse n),
           regions := s.regions.map (s.watched n.toNat), holds := s.holds.map (s.held n.toNat),
           parts := mapAll s.parts fun (x : Partition) => { x with saved := x.saved.map fun v =>
             { v with cores := v.cores.map fun q => (q.1, q.2.elapse n) } } }

/-- The fabric is powered (R437). -/
def State.powered (s : State) : Bool := s.power == .p0 || s.power == .p1

/-- The acting units of a turn. -/
def State.at_ (s : State) : Turn → State
  | .core c => { s with cur := c }
  | .fire t st => { s with tile := t, st := st }
  | .logit n x => { s with smp := n, ctx := x }
  | .event c t st n _ x => { s with cur := c, tile := t, st := st, smp := n, input := x }

/-- The steps without a word that carry on a station's firing. -/
def stationWork : List Instr :=
  [.sourceRoundStart, .quarryRowReturn, .binWaitGrant, .mxdotFill, .mxSequencerApply, .mxrdReadApply, .mxclrApply, .remoteReply]

/-- A step has changed a tile of a region. -/
def State.touched (s s' : State) (r : Region) : Bool := r.tiles.any fun t => s'.tileAt t != s.tileAt t

/-- The state before a step without a word: where it carries on a firing, the hang monitor's timer of each region of which it
changes a tile restarts (R387). -/
def State.works (s : State) (i : Instr) : State :=
  if !stationWork.contains i then s
  else match exec i s with
    | .next s' => { s with regions := s.regions.map fun (r : Region) => if s.touched s' r then { r with quiet := 0 } else r }
    | _ => s

/-- The steps without a word that a core takes part in alone. -/
def coreEvents : List Instr :=
  [.interruptTaken, .timer, .loadReply, .storePerformed, .storeFailure, .mailboxFlitArrival, .mailboxCreditReturn]

/-- The core that acts in a turn; none where another agent does. -/
def Turn.core? : Turn → Option (Fin 64)
  | .core c => some c
  | .event c _ _ _ i _ => if coreEvents.contains i then some c else none
  | _ => none

/-- An aborted region's timestamp is kept for as long as its core goes back to the tbegin: by the abort itself, or through the handler
of a trap taken at it (R342, R344). -/
def Core.strays (c : Core) : Core :=
  if !c.inh && c.txKept.any (·.1 ≠ c.pc) then { c with txKept := none } else c

/-- What stands before a turn: the hub sends what waits (R354), a vendor's token that waited may take effect (R440), stores performed at
a scope that the acting agent stands in are found in memory (R336), and a core that has gone elsewhere has given up its region's
re-run (R341). -/
def State.before (s : State) (t : Turn) : State :=
  let s1 := s.hubWork.vendorWaits.heed t.core?
  match t with
  | .core c => s1.setCoreAt c s1.cores[c].strays
  | _ => s1

/-- A control instruction would be turned back by a synchronous trap (R372): INH is set, or the core halted, and nothing retires. -/
def State.traps (s : State) (i : Instr) : Bool :=
  match exec i s with
  | .next t => (t.core.inh || t.core.run == .double) && t.core.instret == s.core.instret
  | _ => false

/-- What the acting core executes at its program counter, and the state in which it does: a word, one that is illegal, or a fetch
that faults. -/
def State.nextWord (s : State) : Instr × State :=
  match s.fetch with
  | none => (.fetchfault, s)
  | some (bytes, s1) =>
    match decode bytes with
    | .ok (i, _) => (i, s1)
    | .error _ => (.illegalInstruction, s1)

/-- What a turn executes: a core's next word, or an interrupt before it unless the word traps (R375); a
station's word, if its class is won (R36); a context's next logit word; or a step without a word. A core that a double
trap has halted has its partition reset by the supervisor (R372). The state is the one in which it executes. None when the
unit has nothing to do, or the fabric is not powered (R437). -/
def State.todo (s : State) : Turn → Option (Instr × State)
  | .core _ =>
    if !s.powered then none
    else if s.core.run = .double then some (.hvcReset, s)
    else if s.core.run ≠ .run then none
    else if s.interrupted && !s.nextWord.2.traps s.nextWord.1 then some (.interruptTaken, s)
    else some s.nextWord
  | .fire t st =>
    if s.powered && s.wins t st then ((s.wordAt t st).bind decodeStation).map fun i => (i, if s.readyAt t st then s.won t st else s) else none
  | .logit n x =>
    if !s.powered then none
    else match s.smps[n].ctx[x] with
    | none => none
    | some c =>
      ((lookupD s.smps[n].progs (c.pslot) [])[c.pc]?.bind decodeLogit).map fun i => (i, s)
  | .event _ _ _ _ i _ =>
    if (encode i).isSome ∨ (i = .launchWideErrorPurge ∧ !s.wins s.tile s.st) ∨ (!s.powered ∧ i ≠ .preemptHaltComplete ∧ ownEvents.contains i) then none
    else some (i, if i = .launchWideErrorPurge then s.won s.tile s.st else s.works i)

end Machine
end Sys2Proof
end

