-- ==== Sys2Proof/Machine/Step.lean ====
section
/-! DEFINITION. One step of the machine: time passes, the turn's units act, and exec gives the meaning of what they
execute. And the placing of one instruction where the next step runs it. -/

namespace Sys2Proof.Machine

/-- One step. A unit with nothing to do leaves the state as time has left it. DEDUCED: log 18. -/
def step (s : State) : Host.Outcome State Fault Refusal :=
  match ((s.tick.before s.nextTurn).at_ s.nextTurn).todo s.nextTurn with
  | none => .next ((s.tick.before s.nextTurn).at_ s.nextTurn)
  | some (i, s') => exec i s'

/-- A station slot that a family may use (R63), on the tile that `stationTile` gives. -/
def stationSlot (op : Nat) : Nat :=
  if op < 0x80 then 0 else if op < 0x85 ∨ op = 0x89 then 0 else if op < 0x90 then 4 else if op < 0xA0 then 6
  else if op < 0xB0 then 4 else 0

/-- The tile for a family (R63): a memory tile for AG, memory and recall stations, else a compute tile. -/
def stationTile (op : Nat) : TileId := if 0x80 ≤ op ∧ op < 0xB0 then ⟨0, 1, 0⟩ else ⟨0, 0, 0⟩

/-- A region of one tile, bound to slot 0 of core 0 and resident. -/
def oneTile (t : TileId) : Region :=
  { Region.fresh 0 0 0 t 1 1 0 with resident := true, tiles := [t], lpos := [(t, 0, 0)], targets := [0, 0, 0, 0] }

/-- A configuration block whose only word stands in one slot. -/
def oneWord (st : Nat) (w : Word32) : CfgBlock :=
  { used := BitVec.ofNat 16 (2 ^ st), stage := [], tagb := [], ops := List.replicate st 0 ++ [w], sw := [],
    consts := List.replicate 16 0, qinit := List.replicate 16 0, byp := [], shapes := [] }

/-- A control word at the program counter of core 0: the core runs for partition 0, a leaf of its TLB maps the page of
its program counter, executable, to physical address 0, and the word's bytes stand there. -/
def State.placeControl (s : State) (w : Word32) : State :=
  let c := s.cores[(0 : Fin 64)]
  let page := c.pc.toNat / 2 ^ 16 * 2 ^ 16
  let s1 := s.setCoreAt 0 { c with run := .run, part := some 0, ie := false, tlb := [⟨page, 2 ^ 16, 0, true, true, true⟩] }
  { s1 with power := .p0, mem := memSets s1.mem (c.pc.toNat % 2 ^ 16) (wordBytes w), agenda := [.core 0] }

/-- A station word in the one resident configuration of a region of one tile, whose station fires next. -/
def State.placeStation (s : State) (w : Word32) : State :=
  let op := (w.extractLsb' 24 8).toNat
  let t := stationTile op
  let st := stationSlot op
  { s with power := .p0, regions := [oneTile t], tiles := [{ Tile.zero t with cfgs := [(0, oneWord st w)] }], agenda := [.fire t st] }

/-- A logit word as the program of a run in context 0 of sampler 0, which executes it next. -/
def State.placeLogit (s : State) (w : Word32) : State :=
  let c : Ctx := ⟨0, 0, 0, 0, 0, 0, [], Vector.replicate 8 [], Vector.replicate 8 (wZero false), 0,
    ⟨[], [], none, none, false⟩, none, 0⟩
  { s.onSmp 0 (fun x => { x with progs := [(0, [w])], ctx := x.ctx.set 0 (some c) }) with power := .p0, agenda := [.logit 0 0] }

/-- The state with an instruction stored where the next step takes its instruction: a control word in memory at the
program counter, a station word in a resident configuration, a logit word in a program slot. Every instruction has 32
bits. -/
def State.withFetchWord (s : State) (_nbits w : Nat) : State :=
  let x : Word32 := BitVec.ofNat 32 w
  if (decodeControl x).isSome then s.placeControl x
  else if (decodeStation x).isSome then s.placeStation x
  else s.placeLogit x

end Sys2Proof.Machine
end

