-- ==== Sys2Proof/Safety.lean ====
section
/-! DEFINITION. What counts as a safe run: the machine never stops with a fault or a refusal, and memory keeps its
canonical form. -/

namespace Sys2Proof

/-- An outcome that lets the machine go on. -/
def Safe : Host.Outcome Machine.State Machine.Fault Machine.Refusal → Prop
  | .next _ => True
  | _ => False

/-- A state whose memory is in canonical form (log 1). -/
structure Machine.State.Ok (s : Machine.State) : Prop where
  mem : Machine.Memory.wf s = true

end Sys2Proof
end

