-- ==== Sys2Proof/Certificates/Slice0/Obligations.lean ====
section
/-! DEFINITION. The statements about this model, each over the spec's numbered rules, and the few terms they are said in. -/

open Sys2Proof Sys2Proof.Machine

/-! ## Terms of the control cores' statements -/

namespace Sys2Proof.Says

/-- The registers `rs` are read in order with the values `ws`, and `s'` is the state after the reads: none of them waits or
traps (R75, R76). -/
def Reads : State → List Reg → List Word → State → Prop
  | s, [], ws, s' => ws = [] ∧ s' = s
  | s, r :: rs, ws, s' => ∃ w ws' s1, ws = w :: ws' ∧ s.getReg r = .ok w s1 ∧ Reads s1 rs ws' s'

/-- No store that failed is waiting to be reported (R97). -/
def Clear (s : State) : Prop := s.core.sterr = none

/-- Neither a failed store nor an open commit region stands in the way (R97, R344). -/
def Free (s : State) : Prop := s.core.sterr = none ∧ s.core.tx = none

/-- The acting core goes on at an address, with one more instruction retired (R79). -/
def goesTo (s : State) (pc : Word) : State :=
  { s with cores := s.cores.set s.cur.val { s.core with pc := pc, instret := s.core.instret + 1 } s.cur.isLt }

/-- The acting core goes on behind the instruction at the program counter of `s0`. -/
def goesOn (s0 s : State) : State := goesTo s (s0.core.pc + 4)

/-- The register file entry of the acting core. -/
def reg (s : State) (r : Reg) : Word := s.core.regs[r.toNat]'r.isLt

/-- A register that is a plain one now: neither a mailbox, nor awaited, nor poisoned (R75, R80, R97). -/
def Plain (s : State) (r : Reg) : Prop :=
  r ≠ 0 ∧ s.core.isMb r = false ∧ s.core.busy r = false ∧ s.core.poison[r.toNat]'r.isLt = none

/-- The amount of a shift: the low eight bits (R83). -/
def shiftBy (b : Word) : Nat := b.toNat % 256

/-- Zero bits above the highest one bit, zero bits below the lowest, and one bits (R83). -/
def zerosAbove (a : Word) : Nat := ((List.range 64).reverse.takeWhile fun i => !a.getLsbD i).length
def zerosBelow (a : Word) : Nat := ((List.range 64).takeWhile fun i => !a.getLsbD i).length
def onesIn (a : Word) : Nat := ((List.range 64).filter fun i => a.getLsbD i).length

/-- Byte i of the result is byte 7 − i of `a` (R83). -/
def bytesReversed (a : Word) : Word :=
  a.extractLsb' 0 8 ++ a.extractLsb' 8 8 ++ a.extractLsb' 16 8 ++ a.extractLsb' 24 8 ++ a.extractLsb' 32 8 ++
    a.extractLsb' 40 8 ++ a.extractLsb' 48 8 ++ a.extractLsb' 56 8

/-- One of two words, by a test. -/
def pick (c : Prop) [Decidable c] (x y : Word) : Word := if c then x else y

/-- The register-register integer instructions without the divisions: destination, a, b and d ← (R83, R86, R87). -/
def binaryOf : Instr → Option (Reg × Reg × Reg × (Word → Word → Word))
  | .add d a b => some (d, a, b, fun x y => BitVec.ofNat 64 (x.toNat + y.toNat))
  | .sub d a b => some (d, a, b, fun x y => BitVec.ofInt 64 (x.toInt - y.toInt))
  | .and_ d a b => some (d, a, b, fun x y => x &&& y)
  | .or_ d a b => some (d, a, b, fun x y => x ||| y)
  | .xor d a b => some (d, a, b, fun x y => x ^^^ y)
  | .andn d a b => some (d, a, b, fun x y => x &&& ~~~y)
  | .shl d a b => some (d, a, b, fun x y => BitVec.ofNat 64 (x.toNat * 2 ^ shiftBy y))
  | .shr d a b => some (d, a, b, fun x y => BitVec.ofNat 64 (x.toNat / 2 ^ shiftBy y))
  | .sar d a b => some (d, a, b, fun x y => BitVec.ofInt 64 (x.toInt / 2 ^ shiftBy y))
  | .mul d a b => some (d, a, b, fun x y => BitVec.ofNat 64 (x.toNat * y.toNat))
  | .mulh d a b => some (d, a, b, fun x y => BitVec.ofInt 64 (x.toInt * y.toInt / 2 ^ 64))
  | .mulhu d a b => some (d, a, b, fun x y => BitVec.ofNat 64 (x.toNat * y.toNat / 2 ^ 64))
  | .min d a b => some (d, a, b, fun x y => pick (x.toInt ≤ y.toInt) x y)
  | .max d a b => some (d, a, b, fun x y => pick (x.toInt ≤ y.toInt) y x)
  | .minu d a b => some (d, a, b, fun x y => pick (x.toNat ≤ y.toNat) x y)
  | .maxu d a b => some (d, a, b, fun x y => pick (x.toNat ≤ y.toNat) y x)
  | .slt d a b => some (d, a, b, fun x y => pick (x.toInt < y.toInt) 1 0)
  | .sltu d a b => some (d, a, b, fun x y => pick (x.toNat < y.toNat) 1 0)
  | .seq d a b => some (d, a, b, fun x y => pick (x = y) 1 0)
  | .bext d a b => some (d, a, b, fun x y =>
      BitVec.ofNat 64 (x.toNat / 2 ^ (y.toNat % 64) % 2 ^ (y.toNat / 256 % 64 + 1)))
  | .lea d a b s => some (d, a, b, fun x y => BitVec.ofNat 64 (x.toNat + y.toNat * 2 ^ s.toNat))
  | _ => none

/-- The instructions of one register source: destination, a and d ← (R83, R88, R89). -/
def unaryOf : Instr → Option (Reg × Reg × (Word → Word))
  | .clz d a => some (d, a, fun x => BitVec.ofNat 64 (zerosAbove x))
  | .ctz d a => some (d, a, fun x => BitVec.ofNat 64 (zerosBelow x))
  | .popc d a => some (d, a, fun x => BitVec.ofNat 64 (onesIn x))
  | .bswap d a => some (d, a, bytesReversed)
  | .addi d a i => some (d, a, fun x => BitVec.ofInt 64 (x.toInt + i.toInt))
  | .andi d a i => some (d, a, fun x => x &&& BitVec.ofInt 64 i.toInt)
  | .ori d a i => some (d, a, fun x => x ||| BitVec.ofInt 64 i.toInt)
  | .xori d a i => some (d, a, fun x => x ^^^ BitVec.ofInt 64 i.toInt)
  | .slti d a i => some (d, a, fun x => pick (x.toInt < i.toInt) 1 0)
  | .sltiu d a i => some (d, a, fun x => pick (x.toNat < (BitVec.ofInt 64 i.toInt).toNat) 1 0)
  | .shli d a n => some (d, a, fun x => BitVec.ofNat 64 (x.toNat * 2 ^ n.toNat))
  | .shri d a n => some (d, a, fun x => BitVec.ofNat 64 (x.toNat / 2 ^ n.toNat))
  | .sari d a n => some (d, a, fun x => BitVec.ofInt 64 (x.toInt / 2 ^ n.toNat))
  | _ => none

/-- The divisions: destination, a, b, the result, and the flags DZ and OVF that it calls for (R84, R85). -/
def divisionOf : Instr → Option (Reg × Reg × Reg × (Word → Word → Word × Bool × Bool))
  | .div d a b => some (d, a, b, fun x y =>
      if y = 0 then (if x = 0 then 0 else if x.toInt < 0 then 0x8000000000000000 else 0x7FFFFFFFFFFFFFFF, true, false)
      else if x = 0x8000000000000000 ∧ y = 0xFFFFFFFFFFFFFFFF then (0x7FFFFFFFFFFFFFFF, false, true)
      else (BitVec.ofInt 64 (x.toInt.tdiv y.toInt), false, false))
  | .divu d a b => some (d, a, b, fun x y =>
      if y = 0 then (if x = 0 then 0 else 0xFFFFFFFFFFFFFFFF, true, false)
      else (BitVec.ofNat 64 (x.toNat / y.toNat), false, false))
  | .rem d a b => some (d, a, b, fun x y =>
      if y = 0 then (x, true, false)
      else (BitVec.ofInt 64 (x.toInt - x.toInt.tdiv y.toInt * y.toInt), false, false))
  | .remu d a b => some (d, a, b, fun x y =>
      if y = 0 then (x, true, false) else (BitVec.ofNat 64 (x.toNat - x.toNat / y.toNat * y.toNat), false, false))
  | _ => none

/-- ARITH_STAT of the acting core with flags set (R85). -/
def flagged (s : State) (dz ovf : Bool) : State :=
  { s with cores := s.cores.set s.cur.val { s.core with dz := s.core.dz || dz, ovf := s.core.ovf || ovf } s.cur.isLt }

end Sys2Proof.Says

/-! ## Integer instructions -/

/-- R83, R86 to R89: a register-register, one-source or immediate instruction whose sources can be read writes the value of
its table row to d, through whatever d is (a register, g0, or a mailbox with a credit), and goes on at the next word. -/
def Obligations.IntegerResults : Prop :=
  (∀ i d a b f, Says.binaryOf i = some (d, a, b, f) → ∀ (s : State) x y (s1 : State) (s2 : State), Says.Clear s → Says.Reads s [a, b] [x, y] s1 →
    s1.putReg d (f x y) = .ok (f x y) s2 → exec i s = .next (Says.goesOn s2 s2)) ∧
  (∀ i d a f, Says.unaryOf i = some (d, a, f) → ∀ (s : State) x (s1 : State) (s2 : State), Says.Clear s → Says.Reads s [a] [x] s1 →
    s1.putReg d (f x) = .ok (f x) s2 → exec i s = .next (Says.goesOn s2 s2)) ∧
  (∀ d a b (s : State) x y z (s1 : State) (s2 : State), Says.Clear s → Says.Reads s [a, b, d] [x, y, z] s1 →
    let p := y.toNat % 64
    let m := 2 ^ (y.toNat / 256 % 64 + 1) - 1
    let v := (z &&& ~~~BitVec.ofNat 64 (m * 2 ^ p)) ||| BitVec.ofNat 64 ((x &&& BitVec.ofNat 64 m).toNat * 2 ^ p)
    s1.putReg d v = .ok v s2 → exec (.bins d a b) s = .next (Says.goesOn s2 s2)) ∧
  (∀ d i (s : State) (s2 : State), Says.Clear s →
    let v := BitVec.ofInt 64 (i.toInt * 65536)
    (s.putReg d v = .ok v s2 → exec (.lui d i) s = .next (Says.goesOn s2 s2)) ∧
    (s.putReg d (s.core.pc + v) = .ok (s.core.pc + v) s2 → exec (.auipc d i) s = .next (Says.goesOn s2 s2)))

/-- R84, R85: a division writes its quotient or remainder, saturated where R84 says so, sets the flag that its own result
calls for and clears none, and goes on. -/
def Obligations.DivisionResults : Prop :=
  ∀ i d a b f, Says.divisionOf i = some (d, a, b, f) → ∀ (s : State) x y (s1 : State) (s2 : State), Says.Clear s → Says.Reads s [a, b] [x, y] s1 →
    (Says.flagged s1 (f x y).2.1 (f x y).2.2).putReg d (f x y).1 = .ok (f x y).1 s2 →
    exec i s = .next (Says.goesOn s2 s2)

/-- The frame of R83 to R90: with plain source registers (or g0) and a plain destination or g0, the instruction changes only
d with its poison mark, PC, INSTRET and, in a division, the two flags; `ord`, which is the model's own record of what loads may
still read (log 95), is left out. -/
def Obligations.IntegerFrame : Prop :=
  ∀ i (s : State) (t : State) d, ((∃ a b f, Says.binaryOf i = some (d, a, b, f) ∧ ∀ r ∈ [a, b], r = 0 ∨ Says.Plain s r) ∨
      (∃ a f, Says.unaryOf i = some (d, a, f) ∧ (a = 0 ∨ Says.Plain s a)) ∨
      (∃ a b f, Says.divisionOf i = some (d, a, b, f) ∧ ∀ r ∈ [a, b], r = 0 ∨ Says.Plain s r) ∨
      (∃ a b, i = .bins d a b ∧ ∀ r ∈ [a, b, d], r = 0 ∨ Says.Plain s r) ∨ (∃ x, i = .lui d x ∨ i = .auipc d x)) →
    Says.Clear s → d = 0 ∨ Says.Plain s d → exec i s = .next t →
      (∀ r : Reg, r ≠ 0 → r ≠ d → Says.reg t r = Says.reg s r) ∧
      (∀ r : Reg, r = 0 ∨ r ≠ d → t.core.poison[r.toNat]'r.isLt = s.core.poison[r.toNat]'r.isLt) ∧
      ((∀ a b f, Says.divisionOf i ≠ some (d, a, b, f)) → t.core.dz = s.core.dz ∧ t.core.ovf = s.core.ovf) ∧
      { t with cores := s.cores } = s ∧ (∀ c : Fin 64, c ≠ s.cur → t.cores[c] = s.cores[c]) ∧
      t.core = { s.core with regs := t.core.regs, poison := t.core.poison, pc := s.core.pc + 4,
                             instret := s.core.instret + 1, dz := t.core.dz, ovf := t.core.ovf, ord := t.core.ord }

/-! ## Terms of the memory instructions -/

namespace Sys2Proof.Says

/-- The number that `n` bytes hold, least significant first (R6). -/
def littleEndian (f : Nat → Byte) : Nat → Nat
  | 0 => 0
  | n + 1 => littleEndian f n + (f n).toNat * 256 ^ n

/-- The bytes of a number, least significant first (R6). -/
def bytesOf (v : Word) (n : Nat) : List Byte := (List.range n).map fun k => BitVec.ofNat 8 (v.toNat / 256 ^ k)

/-- A byte as a load behind the first `n` outstanding stores sees it: the latest of those stores to it that is not yet
performed, else memory (R94); what is read only stands as memory has it (R7). -/
def seen (s : State) (n a : Nat) : Byte := byteUnder (s.core.stores.take n) a (memGet s.mem a)

/-- What a load of `n` bytes brings to d (R91). -/
def loaded (n : Nat) (signed : Bool) (v : Nat) : Word :=
  if signed = true ∧ 2 ^ (8 * n - 1) ≤ v then BitVec.ofInt 64 ((v : Int) - 2 ^ (8 * n)) else BitVec.ofNat 64 v

/-- The effective addresses of R91 and R92. -/
def eaImm (i : BitVec 16) (ws : List Word) : Word := BitVec.ofInt 64 ((ws.getD 0 0).toInt + i.toInt)
def eaIdx (k : BitVec 2) (ws : List Word) : Word :=
  BitVec.ofNat 64 ((ws.getD 0 0).toNat + (ws.getD 1 0).toNat * 2 ^ k.toNat)

/-- The loads: source registers, effective address, d, bytes, sign extension (R91, R92). -/
def loadOf : Instr → Option (List Reg × (List Word → Word) × Reg × Nat × Bool)
  | .ldb d a i => some ([a], eaImm i, d, 1, true)
  | .ldh d a i => some ([a], eaImm i, d, 2, true)
  | .ldw d a i => some ([a], eaImm i, d, 4, true)
  | .ldd d a i => some ([a], eaImm i, d, 8, false)
  | .ldbu d a i => some ([a], eaImm i, d, 1, false)
  | .ldhu d a i => some ([a], eaImm i, d, 2, false)
  | .ldwu d a i => some ([a], eaImm i, d, 4, false)
  | .ldx d a b z k => some ([a, b], eaIdx k, d, 2 ^ z.toNat, z != 3)
  | .ldxu d a b z k => some ([a, b], eaIdx k, d, 2 ^ z.toNat, false)
  | _ => none

/-- The stores: source registers, d last, effective address, bytes (R76, R91, R92). -/
def storeOf : Instr → Option (List Reg × (List Word → Word) × Nat)
  | .stb d a i => some ([a, d], eaImm i, 1)
  | .sth d a i => some ([a, d], eaImm i, 2)
  | .stw d a i => some ([a, d], eaImm i, 4)
  | .std d a i => some ([a, d], eaImm i, 8)
  | .stx d a b z k => some ([a, b, d], eaIdx k, 2 ^ z.toNat)
  | _ => none

/-- The atomics: d, a, b, scope, ordering, sub, and the new value from old, b and d; none where nothing is written (R337). -/
def atomicOf : Instr → Option (Reg × Reg × Reg × BitVec 3 × BitVec 2 × BitVec 4 × (Word → Word → Word → Option Word))
  | .atadd d a b c o => some (d, a, b, c, o, 0, fun t x _ => some (BitVec.ofNat 64 (t.toNat + x.toNat)))
  | .atand d a b c o => some (d, a, b, c, o, 1, fun t x _ => some (t &&& x))
  | .ator d a b c o => some (d, a, b, c, o, 2, fun t x _ => some (t ||| x))
  | .atxor d a b c o => some (d, a, b, c, o, 3, fun t x _ => some (t ^^^ x))
  | .atmin d a b c o => some (d, a, b, c, o, 4, fun t x _ => some (pick (t.toInt ≤ x.toInt) t x))
  | .atmax d a b c o => some (d, a, b, c, o, 5, fun t x _ => some (pick (t.toInt ≤ x.toInt) x t))
  | .atminu d a b c o => some (d, a, b, c, o, 6, fun t x _ => some (pick (t.toNat ≤ x.toNat) t x))
  | .atmaxu d a b c o => some (d, a, b, c, o, 7, fun t x _ => some (pick (t.toNat ≤ x.toNat) x t))
  | .atxch d a b c o => some (d, a, b, c, o, 8, fun _ x _ => some x)
  | .atcas d a b c o => some (d, a, b, c, o, 9, fun t x e => if t = e then some x else none)
  | _ => none

/-- The acting core with its core record replaced. -/
def withCore (s : State) (c : Core) : State := { s with cores := s.cores.set s.cur.val c s.cur.isLt }

/-- A load of this module's memory as it leaves the core, for a register or a bound mailbox: its value is not yet known, and
the stores that stand before it are those outstanding now (R94, R101, R106). `low` is the count of writes that its address depends
on (R333; log 95). -/
def leaving (s : State) (d : Reg) (ea : Word) (home n : Nat) (sx : Bool) (low : Nat) : LoadOp :=
  ⟨d, d != 0 && s.core.isMb d, none, ea, home, n, sx, none, s.core.stores.length, false, false, s.core.cmode, .plain, none, low, none⟩

/-- A load joins the outstanding ones; what is on its way to the same plain register will be discarded (R80, R101). -/
def withLoad (s : State) (l : LoadOp) : State :=
  withCore s { s.core with
    loads := (if l.mbx then s.core.loads else s.core.loads.map fun o =>
      if o.dest = l.dest ∧ o.mbx = false then { o with dest := 0 } else o) ++ [l],
    recs := if l.mbx then s.core.recs else s.core.recs.map fun o =>
      if o.dest = l.dest ∧ o.mbx = false then { o with dest := 0 } else o }

/-- A store joins the outstanding ones (R101). -/
def withStore (s : State) (x : StoreOp) : State := withCore s { s.core with stores := s.core.stores ++ [x] }

/-- The outstanding stores without store `k`: what counted the stores before it counts one less. -/
def lessStore (c : Core) (k : Nat) : Core :=
  { c with stores := c.stores.eraseIdx k,
           loads := c.loads.map fun l => { l with older := if k < l.older then l.older - 1 else l.older },
           copies := c.copies.map fun o => { o with after := if k < o.after then o.after - 1 else o.after } }

/-- The bytes `bs` stand from address `a` on, but for bits that are read only (R7), and every other byte is as before. -/
def Stored (before after : State) (a : Nat) (bs : List Byte) : Prop :=
  ∀ k, memGet after.mem k =
    if a ≤ k ∧ k < a + bs.length then keepRo k (memGet before.mem k) (bs.getD (k - a) 0) else memGet before.mem k

end Sys2Proof.Says

/-! ## Memory instructions -/

/-- R91 to R93, R101: a load whose address passes the checks of R93 leaves the core: NL rises by one, and nothing else
changes. Outside a commit region, with the race detector off, and with no atomic of the core outstanding at those bytes.
R91, R92, R101: a store whose address passes the checks of R93 is accepted: NS rises by one with the low bytes of d at
the address; memory, the registers and everything else are as before. Outside a commit region, detector off. Where it
goes beyond those rules it rests on the model's own readings, log 17, 92 and 94. -/
def Obligations.AccessesIssue : Prop :=
  (
  ∀ i rs ea d n sx, Says.loadOf i = some (rs, ea, d, n, sx) → ∀ (s : State) ws (s1 : State) (s2 : State) (s3 : State) home, Says.Free s → s.core.cmode = false →
    s.core.loads.length < 16 → s.core.acquiring = false → Says.Reads s rs ws s1 → s1.reserve d = .ok 0 s2 →
    s2.locate (ea ws) n .read = .at_ home s3 → s3.core.atomicOn home n = false →
    exec i s = .next (Says.goesOn s3 (Says.withLoad s3 (Says.leaving s3 d (ea ws) home n sx (s.core.behind rs))))) ∧
  (
  ∀ i rs ea n, Says.storeOf i = some (rs, ea, n) → ∀ (s : State) ws (s1 : State) (s2 : State) home, Says.Free s → s.core.cmode = false →
    s.core.stores.length < 32 → s.core.acquiring = false → Says.Reads s rs ws s1 →
    s1.locate (ea ws) n .write = .at_ home s2 → s2.core.atomicOn home n = false →
    exec i s = .next (Says.goesOn s2 (Says.withStore s2
      ⟨ea ws, home, Says.bytesOf (ws.getLastD 0) n, false, none, none, false, false, none, none⟩)))

/-- R91, R94, R97, R101: once the loads that stand before it by common bytes are performed, a load's value is the bytes at
its address as the core sees them behind its own earlier stores, sign- or zero-extended; it reaches the load's register,
clears its poison and lowers NL by one; a load to g0 discards it; an uncorrectable error poisons the register instead,
with the load's address. `ord` is the model's own record of what the core has read (log 95); where the home is no longer
granted the load fails (log 113), which is left out. R94, R95, R101: an outstanding store is performed: its bytes stand
in memory from its home address on and every other byte is as before; NS falls by one; an earlier load of one of those
bytes keeps the value that stood before it; the acting core's registers, PC and flags are as before. `ord` is the
model's own record of what the core has read (log 95); a store whose home is no longer granted fails instead (log 113),
which is left out. Where it goes beyond those rules it rests on the model's own readings, log 17, 92 and 93. -/
def Obligations.AccessesComplete : Prop :=
  (
  ∀ (s : State) k (l : LoadOp), s.core.loads[k]? = some l → s.core.loadIndex s.input.index = k → l.isRemote = false → s.core.tx = none →
    s.haltedCore = false → l.mbx = false → l.val = none → l.rmw = none → l.check = false → s.homeOk s.pid l.home l.size = true →
    (∀ j ∈ loadsBefore s.core.loads (fun _ => true) [(l.home, l.size)] k, ∀ p, s.core.loads[j]? = some p → p.val.isSome = true) →
    let v := Says.loaded l.size l.sext (Says.littleEndian (fun m => Says.seen s l.older (l.home + m)) l.size)
    let s1 := Says.withCore s { s.core with loads := s.core.loads.eraseIdx k }
    let read := s.core.ord.read l.home s.writes
    (s.input.load = .data → exec .loadReply s = .next (if l.dest = 0 then Says.withCore s { s.core with
        loads := s.core.loads.eraseIdx k, ord := read } else Says.withCore s { s.core with
      loads := s.core.loads.eraseIdx k, ord := read.wrote l.dest, regs := s.core.regs.set l.dest.toNat v l.dest.isLt,
      poison := s.core.poison.set l.dest.toNat none l.dest.isLt })) ∧
    (s.input.load = .ecc → exec .loadReply s = .next (if l.dest = 0 then s1 else Says.withCore s { s.core with
      loads := s.core.loads.eraseIdx k, poison := s.core.poison.set l.dest.toNat (some l.ea) l.dest.isLt }))) ∧
  (
  ∀ (s : State) k (x : StoreOp), s.core.stores[k]? = some x → s.core.storeIndex s.input.index = k → x.isRemote = false →
    s.haltedCore = false → x.rmw = none → x.via = none → s.homeGone x = false → s.input.near = 0 →
    (∀ l ∈ s.core.loads, l.rmw = none ∧ l.check = false) →
    Memory.wf s = true → ∃ (t : State), exec .storePerformed s = .next t ∧ Says.Stored s t x.home x.bytes ∧
      t.core = { Says.lessStore s.core k with loads := t.core.loads, sterr := t.core.sterr, ord := t.core.ord } ∧
      t.core.loads.map (fun l => (l.dest, l.mbx, l.ea)) = s.core.loads.map (fun l => (l.dest, l.mbx, l.ea)) ∧
      (∀ (j : Nat) (l : LoadOp), s.core.loads[j]? = some l → l.val = none → l.isRemote = false → l.older ≤ k →
        meets l.home l.size x.home (Nat.max 1 x.bytes.length) = true →
        (Option.bind (α := LoadOp) t.core.loads[j]? (·.val)) =
          some (Says.loaded l.size l.sext (Says.littleEndian (fun m => Says.seen s l.older (l.home + m)) l.size))) ∧
      t.regions = s.regions ∧ t.tiles = s.tiles ∧ t.parts = s.parts ∧ t.bins = s.bins)

/-- R97: a store that failed traps with STERR at the next instruction to issue, whichever control instruction that is, with
FAULT_ADDR its address; and STORE_FAILURE is what makes it due, of a store that no agent has seen yet (log 95). -/
def Obligations.StoreFailureTraps : Prop :=
  (∀ (s : State) k (x : StoreOp), s.core.stores[k]? = some x → s.input.index = k → s.core.tx = none → s.core.sterr = none →
    s.haltedCore = false → x.region = false → x.near = none →
    exec .storeFailure s = .next (Says.withCore s { Says.lessStore s.core k with sterr := some (x.ea, k) })) ∧
  (∀ i (s : State) a n, (encodeControl i).isSome → s.core.sterr = some (a, n) → s.core.tx = none →
    exec i s = .next ((Says.withCore s { s.core with sterr := none }).trap 0x0F a))

/-- R93: a load or store takes the first trap of the four checks, in their order, with FAULT_ADDR the effective address, and
has no other effect. -/
def Obligations.AccessChecks : Prop :=
  ∀ i rs ea n (wr : Bool), ((∃ d sx, Says.loadOf i = some (rs, ea, d, n, sx)) ∧ wr = false ∨
      Says.storeOf i = some (rs, ea, n) ∧ wr = true) → i.wf = true →
    ∀ (s : State) ws (s1 : State), Says.Free s → s.core.acquiring = false → s.core.loads.length < 16 → s.core.stores.length < 32 →
      Says.Reads s rs ws s1 → (∀ r : Reg, 28 ≤ r.toNat → s.core.isMb r = false) →
      (2 ^ 57 ≤ (ea ws).toNat → exec i s = .next (s.trap 0x08 (ea ws))) ∧
      ((ea ws).toNat < 2 ^ 57 → (ea ws).toNat % n ≠ 0 → exec i s = .next (s.trap (if wr then 0x05 else 0x04) (ea ws))) ∧
      ((ea ws).toNat < 2 ^ 57 → (ea ws).toNat % n = 0 → windowOf (ea ws).toNat = none →
        exec i s = .next (s.trap 0x08 (ea ws))) ∧
      ((ea ws).toNat < 2 ^ 57 → (ea ws).toNat % n = 0 → ∀ w, windowOf (ea ws).toNat = some w → w ≠ .translated →
        s.granted s.pid w (ea ws).toNat n wr = false → exec i s = .next (s.trap 0x08 (ea ws))) ∧
      ((ea ws).toNat % n = 0 → windowOf (ea ws).toNat = some .translated →
        ∀ r, s.translate s.pid s.core.tlb (ea ws).toNat (if wr then .write else .read) = .error r →
          exec i s = .next (s.trap (if wr then 0x07 else 0x06) (ea ws)))

/-- R333, R337 to R339: an atomic at a location of this module, outside a commit region and with the detector off, leaves
the core as a load, or for d = g0 as a store, and one that acquires past .tile, where a core is alone, holds back later
accesses; one that releases starts once the earlier accesses have been performed. At its home it reads the dword and
writes the new value in the same step, and the old value comes to d. Where it goes beyond those rules it rests on the
model's own readings, log 17. -/
def Obligations.AtomicResults : Prop :=
  (∀ i d a b c o n f, Says.atomicOf i = some (d, a, b, c, o, n, f) → ∀ (s : State) x y e (s1 : State) (s2 : State) (s3 : State) home,
    Says.Free s → s.core.cmode = false → s.core.acquiring = false → (d ≠ 0 → s.core.loads.length < 16) →
    (d = 0 → s.core.stores.length < 32) → (o.getLsbD 1 = true → s.core.loads = [] ∧ s.core.stores = []) →
    Says.Reads s [a, b, d] [x, y, e] s1 → s1.reserve d = .ok 0 s2 → s2.locate x 8 .both = .at_ home s3 →
    s3.core.pendingOn home 8 = false →
    ∃ (t : State), exec i s = .next t ∧ { t with cores := s3.cores, clocks := s3.clocks } = s3 ∧
      (d ≠ 0 → t.cores = (Says.goesOn s3 (Says.withLoad s3 { Says.leaving s3 d x home 8 false 0 with
        acq := o.getLsbD 0 && c != 0, how := .atomic, rmw := some ⟨n, y, e, c, o⟩ })).cores) ∧
      (d = 0 → t.cores = (Says.goesOn s3 (Says.withStore s3
        ⟨x, home, [], false, none, some ⟨n, y, e, c, o⟩, o.getLsbD 0 && c != 0, false, none, none⟩)).cores)) ∧
  (∀ i d a b c o n f, Says.atomicOf i = some (d, a, b, c, o, n, f) → ∀ (s : State) y e home, Memory.wf s = true → s.core.tx = none →
    s.haltedCore = false →
    let old := BitVec.ofNat 64 (Says.littleEndian (fun k => memGet s.mem (home + k)) 8)
    (∀ k (l : LoadOp), s.core.loads[k]? = some l → s.core.loadIndex s.input.index = k → l.isRemote = false → l.mbx = false →
      l.val = none → l.rmw = some ⟨n, y, e, c, o⟩ → l.check = false → l.home = home → l.dest ≠ 0 → s.homeOk s.pid home l.size = true →
      (∀ j ∈ loadsBefore s.core.loads (fun _ => true) [(home, l.size)] k, ∀ p, s.core.loads[j]? = some p → p.val.isSome = true) →
      s.input.load = .data →
      ∃ (t : State), exec .loadReply s = .next t ∧ Says.reg t l.dest = old ∧ t.core.loads = s.core.loads.eraseIdx k ∧
        (match f old y e with
          | some v => Says.Stored s t home (Says.bytesOf v 8)
          | none => t.mem = s.mem) ∧
        t.bins = s.bins ∧ t.regions = s.regions ∧ t.tiles = s.tiles ∧ t.parts = s.parts) ∧
    (∀ k (x : StoreOp), s.core.stores[k]? = some x → s.core.storeIndex s.input.index = k → x.isRemote = false → x.mark = none →
      x.rmw = some ⟨n, y, e, c, o⟩ → x.home = home → x.via = none → s.homeGone x = false → s.input.near = 0 → s.core.loads = [] →
      ∃ (t : State), exec .storePerformed s = .next t ∧ t.core.stores = s.core.stores.eraseIdx k ∧ t.core.regs = s.core.regs ∧
        (match f old y e with
          | some v => Says.Stored s t home (Says.bytesOf v 8)
          | none => t.mem = s.mem) ∧
        t.bins = s.bins ∧ t.regions = s.regions ∧ t.tiles = s.tiles ∧ t.parts = s.parts))

/-! ## Branches, jumps, calls -/

namespace Sys2Proof.Says

/-- The conditional branches: a, b, offset, and when it is taken (R98). -/
def branchOf : Instr → Option (Reg × Reg × BitVec 16 × (Word → Word → Bool))
  | .beq a b i => some (a, b, i, fun x y => decide (x.toNat = y.toNat))
  | .bne a b i => some (a, b, i, fun x y => decide (x.toNat ≠ y.toNat))
  | .blt a b i => some (a, b, i, fun x y => decide (x.toInt < y.toInt))
  | .bge a b i => some (a, b, i, fun x y => decide (y.toInt ≤ x.toInt))
  | .bltu a b i => some (a, b, i, fun x y => decide (x.toNat < y.toNat))
  | .bgeu a b i => some (a, b, i, fun x y => decide (y.toNat ≤ x.toNat))
  | _ => none

end Sys2Proof.Says

/-- R98, R99: where each branch, jump and call goes, what it writes (g1 alone, by call and callr), and that jr and callr to a
target with bits [1:0] not zero trap with FETCHALIGN and write nothing. The target of callr is read before g1 is written. -/
def Obligations.BranchResults : Prop :=
  (∀ i a b off f, Says.branchOf i = some (a, b, off, f) → ∀ (s : State) x y (s1 : State), Says.Clear s → Says.Reads s [a, b] [x, y] s1 →
    exec i s = .next (Says.goesTo s1
      (if f x y then BitVec.ofInt 64 (s.core.pc.toInt + off.toInt * 4) else s.core.pc + 4))) ∧
  (∀ off (s : State), Says.Clear s →
    let t := BitVec.ofInt 64 (s.core.pc.toInt + BitVec.toInt (n := 26) off * 4)
    exec (.jmp off) s = .next (Says.goesTo s t) ∧
    exec (.call off) s = .next (Says.goesTo (s.setCore (s.core.setReg 1 (s.core.pc + 4))) t)) ∧
  (∀ a (s : State) x (s1 : State), Says.Clear s → Says.Reads s [a] [x] s1 →
    (x.toNat % 4 = 0 → exec (.jr a) s = .next (Says.goesTo s1 x) ∧
      exec (.callr a) s = .next (Says.goesTo (s1.setCore (s1.core.setReg 1 (s1.core.pc + 4))) x)) ∧
    (x.toNat % 4 ≠ 0 → exec (.jr a) s = .next (s.trap 0x02 x) ∧ exec (.callr a) s = .next (s.trap 0x02 x)))

/-! ## Waiting, fences, commit regions -/

/-- R102, R336: wait goes on once all four counts are at or under their fields, and until then has no effect; a fence waits
without effect while an access that it orders first is not performed at its scope, goes on once they all are, changing
only PC, INSTRET, the race detector's clocks and `ord`, the model's own record of what later loads may read (log 95),
and goes on at once inside a commit region. Where it goes beyond those rules it rests on the model's own readings, log
95. -/
def Obligations.WaitsAndFences : Prop :=
  (∀ (l n c k : BitVec 5) (s : State), Says.Free s → s.core.loads.length ≤ l.toNat → s.core.stores.length ≤ n.toNat →
    s.core.copies.length ≤ c.toNat → s.core.recs.length ≤ k.toNat →
    ∃ (t : State), exec (.wait l n c k) s = .next t ∧ { t with clocks := s.clocks } = Says.goesOn s s) ∧
  (∀ (l n c k : BitVec 5) (s : State), Says.Free s → l.toNat < s.core.loads.length ∨ n.toNat < s.core.stores.length ∨
    c.toNat < s.core.copies.length ∨ k.toNat < s.core.recs.length → exec (.wait l n c k) s = .next s) ∧
  (∀ (sc : BitVec 3) (k : BitVec 2) (s : State), Says.Free s →
    (sc = 0 ∧ k ≠ 3) ∨ (s.core.loads = [] ∧ (k.getLsbD 1 = true → s.core.stores = [])) →
    ∃ (t : State), exec (.fence sc k) s = .next t ∧ t.core = { (Says.goesOn s s).core with ord := t.core.ord } ∧
      (∀ c : Fin 64, c ≠ s.cur → t.cores[c] = s.cores[c]) ∧ { t with cores := s.cores, clocks := s.clocks } = s) ∧
  (∀ (sc : BitVec 3) (k : BitVec 2) (s : State), Says.Free s → 1 ≤ sc.toNat →
    s.core.loads ≠ [] ∨ (k.getLsbD 1 = true ∧ ∃ x ∈ s.core.stores, ((x.near.map Prod.fst).getD 0).toNat < sc.toNat) →
    exec (.fence sc k) s = .next s) ∧
  (∀ sc k (s : State) x, Says.Clear s → s.core.tx = some x → exec (.fence sc k) s = .next (Says.goesOn s s))

/-- R341, R347: tbegin opens a region with its timestamp and the checkpoint once its fence is satisfied (`ord` is the
model's own record of what later loads may read, log 95); tcommit and tabort outside a region only go on; tstamp gives
the partition's counter, which advances. Where it goes beyond those rules it rests on the model's own readings, log 28,
78 and 95. -/
def Obligations.RegionsOpen : Prop :=
  (∀ a (s : State) w (s1 : State), Says.Free s → s.core.loads = [] → s.core.stores = [] → (∀ r ∈ s.core.recs, r.dest = 0) →
    s.core.txKept = none → Says.Reads s [a] [w] s1 →
    ∃ (t : State), exec (.tbegin a) s = .next t ∧ t.mem = s.mem ∧
      t.core = { (Says.goesOn s1 s1).core with
        tx := some ⟨w, s1.core.pc, s1.core.regs, s1.core.poison, [], [], [], [], false⟩, txKept := none, ord := t.core.ord,
        txRerun := if s1.core.txAgain then s1.core.txRerun else 0,
        txRemote := if s1.core.txAgain then s1.core.txRemote else 0 }) ∧
  (∀ (s : State) code, Says.Free s → exec .tcommit s = .next (Says.goesOn s s) ∧ exec (.tabort code) s = .next (Says.goesOn s s)) ∧
  (∀ d (s : State) (s2 : State), Says.Clear s →
    let p := s.part s.pid
    (s.setPart s.pid { p with tstamp := p.tstamp + 1 }).putReg d p.tstamp = .ok p.tstamp s2 →
    exec (.tstamp d) s = .next (Says.goesOn s2 s2))

/-- R341: tcommit, once no earlier region of the partition is live and the region's own accesses are performed, makes every
held store visible in one step, but for bits that are read only (R7), and closes the region; it waits before that. -/
def Obligations.RegionsCommit : Prop :=
  ∀ (s : State) x, Says.Clear s → s.core.tx = some x → s.core.loads = [] → s.core.stores = [] →
    Memory.wf s = true → x.failed = false → (∀ st ∈ x.held, st.isRemote = false ∧ st.rmw = none) →
    ((∀ o ∈ s.otherRegions, txOrder s.cur.val x ≤ txOrder o.1 o.2) →
      ∃ (t : State), exec .tcommit s = .next t ∧ t.core.tx = none ∧ t.core.regs = s.core.regs ∧ t.core.pc = s.core.pc + 4 ∧
        ∀ k, memGet t.mem k = byteUnder x.held k (memGet s.mem k)) ∧
    ((∃ o ∈ s.otherRegions, txOrder o.1 o.2 < txOrder s.cur.val x) → exec .tcommit s = .next s)

/-- R341, R343: inside a region tabort records its code and cause and takes the fallback with the checkpoint's registers, or
the trap TXABORT at the tbegin when TX_FALL is 0; no byte of memory changes, and the region is closed. An abort by
CONFLICT, PREEMPT or one of the first seven REMOTE goes back to the tbegin word. R344: inside a region every instruction
of the named majors, but csrrd, and wait, tbegin, mbbind, mbfree and the bin instructions abort it with UNSAFE before
they take any effect. Where it goes beyond those rules it rests on the model's own readings, log 78. -/
def Obligations.RegionsAbort : Prop :=
  (
  (∀ (s : State) x code, Says.Clear s → s.core.tx = some x → s.core.txFall ≠ 0 →
    ∃ (t : State), exec (.tabort code) s = .next t ∧ t.core.tx = none ∧ t.core.regs = x.regs ∧ t.core.poison = x.poison ∧
      t.core.txCode = code ∧ t.core.txCause = 3 ∧ t.core.pc = s.core.txFall ++ (0 : BitVec 2) ∧ t.mem = s.mem) ∧
  (∀ (s : State) x code, Says.Clear s → s.core.tx = some x → s.core.txFall = 0 → s.core.inh = false → s.core.trapVec ≠ 0 →
    ∃ (t : State), exec (.tabort code) s = .next t ∧ t.core.tx = none ∧ t.core.regs = x.regs ∧ t.core.poison = x.poison ∧
      t.core.txCode = code ∧ t.core.txCause = 3 ∧ t.core.trapPc = x.pc ∧ t.core.fcode = 0x13 ∧
      t.core.faddr = BitVec.ofNat 64 (3 + 16 * code.toNat) ∧ t.core.inh = true ∧ t.core.ie = false ∧ t.core.pie = s.core.ie ∧
      t.core.pc = s.core.trapVec ++ (0 : BitVec 2) ∧ t.mem = s.mem) ∧
  (∀ (s : State) x cause, s.core.tx = some x → cause = 1 ∨ cause = 7 ∨ (cause = 4 ∧ s.core.txRemote < 7) →
    let t := s.txAbort cause
    t.core.tx = none ∧ t.core.regs = x.regs ∧ t.core.poison = x.poison ∧ t.core.pc = x.pc ∧ t.core.txCause = cause ∧
      t.mem = s.mem)) ∧
  (
  ∀ i w (s : State) x, encodeControl i = some w → s.core.sterr = none → s.core.tx = some x →
    (w.extractLsb' 26 6 ∈ ([0x33, 0x34, 0x38, 0x39, 0x3A] : List (BitVec 6)) ∨
      (w.extractLsb' 26 6 = 0x3C ∧ ∀ d c, i ≠ .csrrd d c) ∨ (∃ l n c k, i = .wait l n c k) ∨ (∃ a, i = .tbegin a)) →
    exec i s = .next (s.txAbort 5))

/-! ## Bins, mailboxes -/

/-- R270, R281: an aligned ldc outside the scratchpad window traps with ADDR; inside it ldc takes the dword of a full bin on
its way to d (a register, g0 or a mailbox with a credit) and, unless it peeks, empties the bin; on an empty bin it waits
in the MT without effect on the bin; stf fills an empty bin with its dword in memory; binq brings the state word to d;
binset sets the tag and DECL and clears CNT and OVR. Detector off. `ord` is the model's own record of what later loads
may read (log 95); no older load of the bin's dword may be outstanding. R281: the oldest refused request is sent again,
and takes a wait entry when its MT has one of the 16 free. Where it goes beyond those rules it rests on the model's own
readings, log 26 and 27. -/
def Obligations.BinInstructions : Prop :=
  (
  ∀ (s : State) a x (s1 : State), Memory.wf s = true → Says.Free s → s.core.cmode = false → s.core.acquiring = false →
    (∀ e ∈ s.waits, e.who.core? ≠ some s.cur) → Says.Reads s [a] [x] s1 →
    (s.core.loads.length < 16 → x.toNat < 2 ^ 57 → windowOf x.toNat ≠ some .spad → x.toNat / 2 % 4 = 0 →
      ∀ d, exec (.ldc d a) s = .next (s.trap 0x08 x)) ∧
    (∀ off, x.toNat = spadBase + off → off < 2 ^ 29 → s.granted s.pid .spad x.toNat 8 false = true →
      let k := off / 256
      let home := spadBase + off / 8 * 8
      let b := s.bin k
      (∀ d (s2 : State), x.toNat / 2 % 4 = 0 → s.core.loads.length < 16 → (∃ u, s.reserve d = .ok 0 u) → s1.reserve d = .ok 0 s2 →
        (∀ e ∈ s.waits, e.bin ≠ k) → s.core.atomicOn home 8 = false → b.full = true →
        (∀ l ∈ s2.core.loads, l.isRemote = true ∨ meets l.home l.size home 8 = false) →
        let s3 := Says.withCore s2 { s2.core with ord := (s2.core.ord.read home s2.writes).fence 4 s2.writes }
        ∃ (t : State), exec (.ldc d a) s = .next t ∧
          { t with clocks := s2.clocks } = Says.goesOn s1 (Says.withLoad (if x.toNat % 2 = 1 then s3 else
            s3.setBin k { b with full := false, cnt := 0 }) { Says.leaving s2 d (BitVec.ofNat 64 home) home 8 false 0 with
              val := some (BitVec.ofNat 64 (Says.littleEndian (fun j => Says.seen s2 s2.core.stores.length (home + j)) 8)),
              how := .bin })) ∧
      (∀ d, x.toNat / 2 % 4 = 0 → s.core.loads.length < 16 → (∃ u, s.reserve d = .ok 0 u) →
        s.core.atomicOn home 8 = false → b.full = false →
        ∃ (t : State), exec (.ldc d a) s = .next t ∧ t.cores = s.cores ∧ t.bins = s.bins ∧ t.mem = s.mem ∧
          ∃ e ∈ t.waits, e.bin = k ∧ e.who.core? = some s.cur) ∧
      (∀ c y (s2 : State), x.toNat % 8 = 0 → s.core.loads = [] → s.core.stores = [] → (∀ e ∈ s.waits, e.bin ≠ k) → b.full = false →
        Says.Reads s [a, c] [x, y] s2 →
        ∃ (t : State), exec (.stf a c) s = .next t ∧ Says.Stored s t home (Says.bytesOf y 8) ∧
          t.bin k = { b with full := true, cnt := 0, staged := none } ∧ (∀ j, j ≠ k → t.bin j = s.bin j) ∧
          t.core.pc = s.core.pc + 4 ∧ t.core.regs = s.core.regs ∧ t.core.stores.length = 1) ∧
      (∀ d (s2 : State), s1.putReg d b.word = .ok b.word s2 → exec (.binq d a) s = .next (Says.goesOn s2 s2)) ∧
      (∀ v, x.toNat % 8 = 0 → s.core.stores.length < 32 →
        ∃ (t : State), exec (.binset a v) s = .next t ∧ t.mem = s.mem ∧ t.core.pc = s.core.pc + 4 ∧ t.core.regs = s.core.regs ∧
          t.core.stores.length = s.core.stores.length + 1 ∧
          t.bin k = ⟨v == 1, 0, off / 8 % 32 + 1, false, b.seq, none⟩ ∧ ∀ j, j ≠ k → t.bin j = s.bin j))) ∧
  (
  ∀ (s : State) e, s.waits.find? (fun x => !x.sent) = some e →
    ∃ (t : State), exec .waitEntryResend s = .next t ∧ { t with waits := s.waits } = s ∧
      t.waits.getLast? = some { e with sent := decide (((dropFirst (fun x => !x.sent) s.waits).filter fun o =>
        o.mt = e.mt ∧ o.sent).length < 16) })

/-- R75, R97, R106, R109: reading a register by each of its cases, through an addi: g0; a mailbox with a flit, which leaves
the queue and returns a credit; an empty mailbox, which waits; an empty revoked one, which traps; a register still
awaited, which waits; a poisoned one, which traps. R75, R106, R109: writing a register by each of its cases, through an
addi: g0 discards; a mailbox sends a flit for one credit; without a credit it waits; a revoked one traps. -/
def Obligations.RegisterAccesses : Prop :=
  (
  ∀ d a (s : State), Says.Free s → Says.Plain s d →
    let n := mbOf a
    let m := s.core.mb[n]
    (exec (.addi d 0 7) s = .next (Says.goesOn s (s.setCore (s.core.setReg d 7)))) ∧
    (s.core.isMb a = true → ∀ v rest, m.rxq = v :: rest →
      let s1 := (Says.withCore s { s.core with mb := s.core.mb.set n.val { m with rxq := rest } n.isLt }).giveCredit n m.desc
      exec (.addi d a 0) s = .next (Says.goesOn s1 (s1.setCore (s1.core.setReg d v)))) ∧
    (s.core.isMb a = true → m.rxq = [] →
      exec (.addi d a 0) s = .next (if m.state = .revoked then s.trap 0x0B (BitVec.ofNat 64 n.val) else s)) ∧
    (a ≠ 0 → s.core.isMb a = false → s.core.busy a = true → exec (.addi d a 0) s = .next s) ∧
    (a ≠ 0 → s.core.isMb a = false → s.core.busy a = false → ∀ ea, s.core.poison[a.toNat]'a.isLt = some ea →
      exec (.addi d a 0) s = .next (s.trap 0x0E ea))) ∧
  (
  ∀ d (s : State), Says.Free s →
    let n := mbOf d
    let m := s.core.mb[n]
    (exec (.addi 0 0 7) s = .next (Says.goesOn s s)) ∧
    (s.core.isMb d = true → m.state = .bound → m.cred ≠ 0 →
      let s1 := (Says.withCore s { s.core with mb := s.core.mb.set n.val { m with cred := m.cred - 1 } n.isLt }).sendFlit n m.desc 7
      exec (.addi d 0 7) s = .next (Says.goesOn s1 s1)) ∧
    (s.core.isMb d = true → m.state = .bound → m.cred = 0 → exec (.addi d 0 7) s = .next s) ∧
    (s.core.isMb d = true → m.state = .revoked → exec (.addi d 0 7) s = .next (s.trap 0x0B (BitVec.ofNat 64 n.val))))

/-- R103 to R109: binding and freeing a mailbox, a flit and a credit that arrive, and a revocation. Where it goes beyond
those rules it rests on the model's own readings, log 14. -/
def Obligations.MailboxEffects : Prop :=
  (∀ (s : State) a n x (s1 : State), Says.Free s → Says.Reads s [a] [x] s1 →
    let k : Fin 4 := ⟨BitVec.toNat (w := 2) n, n.isLt⟩
    (s.core.mb[k].state ≠ .unbound → exec (.mbbind a n) s = .next (s.trap 0x0C (n.setWidth 64))) ∧
    (s.core.mb[k].state = .unbound → descOk x = false ∨ s.peerOk x = false →
      exec (.mbbind a n) s = .next (s.trap 0x0D (n.setWidth 64))) ∧
    (s.core.mb[k].state = .unbound → descOk x = true → s.peerOk x = true →
      ∃ (t : State), exec (.mbbind a n) s = .next t ∧ t.core.pc = s.core.pc + 4 ∧ t.core.regs = s.core.regs ∧ t.mem = s.mem ∧
        t.core.mb[k].state = .bound ∧ t.core.mb[k].desc = x ∧ t.core.mb[k].rxq = [])) ∧
  (∀ (s : State) n, Says.Free s →
    let k : Fin 4 := ⟨BitVec.toNat (w := 2) n, n.isLt⟩
    ∃ (t : State), exec (.mbfree n) s = .next t ∧ t.core.pc = s.core.pc + 4 ∧ t.core.regs = s.core.regs ∧ t.mem = s.mem ∧
      t.core.mb[k].state = .unbound) ∧
  (∀ (s : State) f rest, s.input.module = s.module → s.input.index = 0 → s.flits = f :: rest →
    let k : Fin 4 := ⟨f.mbx % 4, Nat.mod_lt _ (by decide)⟩
    let m := s.cores[f.core].mb[k]
    m.state = .bound → s.isLocal m.desc = true → mbName s.module (dCore m.desc) (dMbx m.desc) = f.peer →
    s.cores[f.core].part = f.part → m.taken.length + m.rxq.length < 8 →
    exec .mailboxFlitArrival s = .next ({ s with flits := rest }.setMb f.core k { m with rxq := m.rxq ++ [f.value] })) ∧
  (∀ (s : State) f rest, s.input.module = s.module → s.input.index = 0 → s.credits = f :: rest →
    let k : Fin 4 := ⟨f.mbx % 4, Nat.mod_lt _ (by decide)⟩
    let m := s.cores[f.core].mb[k]
    m.state = .bound → s.isLocal m.desc = true → mbName s.module (dCore m.desc) (dMbx m.desc) = f.peer →
    s.cores[f.core].part = f.part → m.cred < 8 →
    exec .mailboxCreditReturn s = .next ({ s with credits := rest }.setMb f.core k { m with cred := m.cred + 1 })) ∧
  (∀ (s : State),
    let k : Fin 4 := ⟨s.input.k.toNat, s.input.k.isLt⟩
    let c := s.input.core
    (s.part s.input.p).saved = none → s.cores[c].mb[k].state = .bound →
    ∃ (t : State), exec .mailboxRevoke s = .next t ∧ t.cores[c].mb[k].state = .revoked ∧ t.cores[c].mb[k].cred = 0 ∧
      t.cores[c].regs = s.cores[c].regs ∧ t.mem = s.mem)

/-! ## CSRs -/

/-- R78: an existing number answers; one in the core's reach that names no CSR traps with CSRNONE, one outside it with
CSRPRIV, and a trapping CSR instruction changes nothing else. Where it goes beyond those rules it rests on the model's
own readings, log 21 and 38. -/
def Obligations.CsrReach : Prop :=
  ∀ (s : State) d a c i, Says.Free s → i = .csrrd d c ∨ i = .csrwr d a c ∨ i = .csrset d a c ∨ i = .csrclr d a c →
    s.core.part ≠ none → s.debugging = false → csrExists (BitVec.toNat (w := 12) c) = false →
    exec i s = .next (s.trap (if c.toNat < 0x800 then 0x09 else 0x0A) 0)

/-- R377: csrrd brings the CSR's value to d; csrwr, csrset and csrclr bring the old value to d and write a, old | a, or old
& ~a, W1C fields clearing where the written bit is 1. Where it goes beyond those rules it rests on the model's own
readings, log 66. -/
def Obligations.CsrResults : Prop :=
  (∀ d c (s : State) (s2 : State), Says.Clear s → csrExists (BitVec.toNat (w := 12) c) = true → c.toNat ≠ 0x77 → c.toNat ≠ 0x17 → c.toNat ≠ 0x411 →
    s.putReg d (s.csrRead c.toNat) = .ok (s.csrRead c.toNat) s2 → exec (.csrrd d c) s = .next (Says.goesOn s2 s2)) ∧
  (∀ d (s : State) (s2 : State), Says.Clear s → ∀ c, c = 0x77 ∨ c = 0x17 ∨ c = 0x411 →
    (s.acquire 3).putReg d (s.csrRead (BitVec.toNat (w := 12) c)) = .ok (s.csrRead c.toNat) s2 →
    exec (.csrrd d c) s = .next (Says.goesOn s2 s2)) ∧
  (∀ d a c (s : State) x (s1 : State) (s2 : State), Says.Free s → csrExists (BitVec.toNat (w := 12) c) = true → Says.Reads s [a] [x] s1 →
    let n := c.toNat
    let old := s1.csrRead n
    let m := csrMask n
    ((s1.csrWrite n x).putReg d old = .ok old s2 → exec (.csrwr d a c) s = .next (Says.goesOn s2 s2)) ∧
    (m.1 ||| m.2 ≠ 0 → (s1.csrWrite n (((old ||| x) &&& m.1) ||| (x &&& m.2))).putReg d old = .ok old s2 →
      exec (.csrset d a c) s = .next (Says.goesOn s2 s2)) ∧
    (m.1 ≠ 0 → (s1.csrWrite n ((old &&& ~~~x) &&& m.1)).putReg d old = .ok old s2 →
      exec (.csrclr d a c) s = .next (Says.goesOn s2 s2)))

namespace Sys2Proof.Says

/-- A record ring after SIZE and HEAD are written: a changed SIZE sets HEAD and TAIL to 0, an equal one sets HEAD (R307). -/
def ringWritten (r : Ring) (v : Word) : Ring :=
  if v.extractLsb' 0 12 = r.size then { r with head := v.extractLsb' 12 12 } else ⟨r.base, v.extractLsb' 0 12, 0, 0⟩

/-- The launch queues of the acting core whose FROZEN bit a written word sets, released (R129). -/
def unfrozen (s : State) (v : Word) : State :=
  { s with regions := s.regions.map fun (r : Region) =>
    if r.core = s.cur ∧ v.getLsbD (8 * r.bslot.toNat + 7) = true then { r with frozen := false } else r }

/-- A partition with a new job of `n` graphs; one of none is complete (R135). -/
def newJob (x : Partition) (n : BitVec 32) : Partition :=
  { x with jccTarget := n, jcc := if n = 0 then ⟨.complete, 0, 0x3FF, 0, 0⟩ else ⟨.open_, 0, 0x3FF, 0, 0⟩ }

/-- The first region that matches a core and slot, replaced through `f`. -/
def onRegion (s : State) (c : Fin 64) (b : BitVec 3) (f : Region → Region) : State :=
  { s with regions := updFirst (fun (r : Region) => r.core = c ∧ r.bslot = b) f s.regions }

end Sys2Proof.Says

/-- R85, R287, R371, R374: what a write leaves in the trap registers and the other registers of a core, read back: a
writable register reads as written in its writable fields, for TRAP_SCR, TRAP_PC, TRAP_VEC, FAULT_ADDR, TIMECMP, INT_EN,
TX_FALL, HOLD_LIM; ARITH_STAT clears by ones. R307, R352, R382, R387: the rows of the table for the writes of RCLQ_CTL,
FQ_CTL, RLOG_CTL and HANG_CTL: a ring takes SIZE and HEAD, RLOG_CTL's DROP clears when SIZE changes, and HUNG bits of
HANG_CTL clear where a 1 is written. Where it goes beyond those rules it rests on the model's own readings, log 20. -/
def Obligations.CsrReadBack : Prop :=
  (
  ∀ (s : State) v,
    (s.csrWrite 0x405 v).csrRead 0x405 = v ∧ (s.csrWrite 0x401 v).csrRead 0x401 = v ∧
    (s.csrWrite 0x403 v).csrRead 0x403 = v ∧ (s.csrWrite 0x408 v).csrRead 0x408 = v ∧
    (s.csrWrite 0x400 v).csrRead 0x400 = v &&& 0xFFFFFFFFFFFFFFFC ∧ (s.csrWrite 0x407 v).csrRead 0x407 = v &&& 0x7F ∧
    (s.csrWrite 0x013 v).csrRead 0x013 = v &&& 0xFFFFFFFFFFFFFFFC ∧ (s.csrWrite 0x404 v).csrRead 0x404 = v &&& 7 ∧
    (s.csrWrite 0x072 v).csrRead 0x072 = BitVec.ofNat 64 (max 1 (min 10000 (v.toNat % 2 ^ 14))) ∧
    (s.csrWrite 0x004 v).csrRead 0x004 = s.csrRead 0x004 &&& ~~~v) ∧
  (
  ∀ (s : State),
    let c := s.core
    let v := s.input.val
    exec .rclqCtlWrite s = .next (Says.withCore s { c with rclq := Says.ringWritten c.rclq v }) ∧
    exec .fqCtlWrite s = .next (Says.withCore s { c with fq := Says.ringWritten c.fq v }) ∧
    exec .rlogCtlWrite s = .next (Says.withCore s { c with
      rlog := Says.ringWritten c.rlog v, rlogDrop := if v.extractLsb' 0 12 = c.rlog.size then c.rlogDrop else 0 }) ∧
    exec .hangCtlWrite s = .next (Says.withCore s { c with
      hangEn := v.extractLsb' 0 8, hung := c.hung &&& ~~~(v.extractLsb' 8 8), hangIval := v.extractLsb' 16 24 }))

/-- R129, R135, R293, R362, R405: what a write of LQ_STATE, JCC_TARGET, STA_GEOM, TAR_BIND and SMP_BIND does. STA_GEOM is
ignored while a version is pinned, leaves no arena where the new one does not fit, and else makes NLIST empty lists at
version 0. A binding that passes the checks joins its EXT edge to the channel or the sampler and sets the status to 0;
an unbinding takes it away; one that fails a check sets the status of the first check that fails, in the order of the
codes, and does nothing else. Where it goes beyond those rules it rests on the model's own readings, log 62 and 114. -/
def Obligations.BindingWrites : Prop :=
  (∀ (s : State), exec .lqStateWrite s = .next (Says.unfrozen s s.input.val)) ∧
  (∀ (s : State), exec .jccTargetWrite s = .next (s.setPart s.pid (Says.newJob (s.part s.pid) (s.input.val.extractLsb' 0 32)))) ∧
  (∀ (s : State), s.anyPinned s.pid = false → s.input.val.extractLsb' 0 16 = 0 → s.input.val.extractLsb' 16 24 ≠ 0xFFFFFF →
    ∃ (t : State), exec .staGeomWrite s = .next t ∧ (t.part s.pid).nlist = 0 ∧ (t.part s.pid).nblk = s.input.val.extractLsb' 16 24 ∧
      (t.part s.pid).slotVer = [] ∧ (∀ r ∈ (t.part s.pid).retired, r.freed = true) ∧ t.mem = s.mem ∧ t.cores = s.cores) ∧
  (∀ (s : State), s.anyPinned s.pid = true → exec .staGeomWrite s = .next s) ∧
  (∀ (s : State), s.anyPinned s.pid = false →
    let nlist := s.input.val.extractLsb' 0 16
    let nblk := s.input.val.extractLsb' 16 24
    (nblk = 0xFFFFFF ∨ (nlist ≠ 0 ∧ s.arenaFits s.pid nlist.toNat nblk.toNat = false) →
      let x := s.part s.pid
      let kept := x.retired.map fun (r : Retired) => { r with freed := true }
      exec .staGeomWrite s = .next (s.setPart s.pid { x with slotVer := [], nlist := 0, nblk := 0, retired := kept })) ∧
    (Memory.wf s = true → nblk ≠ 0xFFFFFF → nlist ≠ 0 → s.arenaFits s.pid nlist.toNat nblk.toNat = true →
      ∃ (t : State), exec .staGeomWrite s = .next t ∧ (t.part s.pid).nlist = nlist ∧ (t.part s.pid).nblk = nblk ∧
        (t.part s.pid).slotVer = [] ∧ (∀ r ∈ (t.part s.pid).retired, r.freed = true) ∧
        (∀ n < nlist.toNat, t.listHdr s.pid n = ListHdr.zero) ∧
        ∀ a, a < (s.part s.pid).hdrAt 0 ∨ (s.part s.pid).hdrAt nlist.toNat ≤ a → memGet t.mem a = memGet s.mem a)) ∧
  (∀ (s : State) (r : Region) (e : Edge) (p : Fin 18),
    let v := s.input.val
    let b := v.extractLsb' 0 3
    let id := v.extractLsb' 3 12
    let vc := (v.extractLsb' 20 5).toNat
    (v.extractLsb' 15 5).toNat = p.val → (s.part s.pid).grants.ports.contains p.val = true →
    (s.part s.pid).grants.channels.contains (p.val, vc) = true → s.region s.cur b = some r →
    r.edges.find? (fun e => e.id == id && e.ext) = some e →
    (s.onChannel p.val vc = [] → s.savedOn p.val vc = [] → (∀ x ∈ r.ends, x.1 ≠ id) →
      ∃ (t : State), exec .tarBind s = .next t ∧ t.core.tarStat = 0 ∧ t.mem = s.mem ∧
        t.regions = (Says.onRegion s s.cur b fun r => { r with ends := (id, .tarior p.val vc (v.extractLsb' 25 10)) :: r.ends }).regions) ∧
    (∀ far, r.ends.find? (·.1 = id) = some (id, .tarior p.val vc far) →
      exec .tarUnbind s = .next (Says.withCore (s.unbindChannel r id p vc)
        { (s.unbindChannel r id p vc).core with tarStat := 0 })) ∧
    (s.onChannel p.val vc ≠ [] ∨ s.savedOn p.val vc ≠ [] →
      exec .tarBind s = .next (Says.withCore s { s.core with tarStat := 3 })) ∧
    (s.onChannel p.val vc = [] → s.savedOn p.val vc = [] → (∃ x ∈ r.ends, x.1 = id) →
      exec .tarBind s = .next (Says.withCore s { s.core with tarStat := 4 }))) ∧
  (∀ (s : State) i, i = .tarBind ∨ i = .tarUnbind →
    let v := s.input.val
    let p := (v.extractLsb' 15 5).toNat
    let vc := (v.extractLsb' 20 5).toNat
    let granted := p < 18 ∧ (s.part s.pid).grants.ports.contains p = true ∧ (s.part s.pid).grants.channels.contains (p, vc) = true
    (¬granted → exec i s = .next (Says.withCore s { s.core with tarStat := 1 })) ∧
    (granted → (∀ r, s.region s.cur (v.extractLsb' 0 3) = some r → ∀ e ∈ r.edges, ¬(e.id = v.extractLsb' 3 12 ∧ e.ext = true)) →
      exec i s = .next (Says.withCore s { s.core with tarStat := 2 }))) ∧
  (∀ (s : State) (r : Region) (e : Edge),
    let v := s.input.val
    let b := v.extractLsb' 0 3
    let id := v.extractLsb' 3 12
    let n : Fin 8 := ⟨(v.extractLsb' 15 3).toNat, (v.extractLsb' 15 3).isLt⟩
    (s.part s.pid).grants.samplers.contains n.val = true → v.getLsbD 18 = false → s.extEdge b id false = some (r, e) →
    e.net = 1 →
    (s.smps[n].inputs.length < 16 → (∀ x ∈ r.ends, x.1 ≠ id) →
      ∃ (t : State), exec .smpBind s = .next t ∧ t.core.smpStat = 0 ∧ t.mem = s.mem ∧
        t.smps[n].inputs = s.smps[n].inputs ++ [(s.cur, b, id)] ∧
        t.regions = (Says.onRegion s s.cur b fun r => { r with ends := (id, .smpIn n.val) :: r.ends }).regions) ∧
    (16 ≤ s.smps[n].inputs.length → exec .smpBind s = .next (Says.withCore s { s.core with smpStat := 3 })) ∧
    (s.smps[n].inputs.length < 16 → (∃ x ∈ r.ends, x.1 = id) →
      exec .smpBind s = .next (Says.withCore s { s.core with smpStat := 4 })) ∧
    (s.smps[n].inputs.contains (s.cur, b, id) = true →
      let seqs := (s.smps[n].items.filter fun q =>
        q.core == s.cur && q.bslot == b && (q.edge == id && q.out.isNone)).map (·.seq)
      ∃ (u : State), u.smps[n].inputs.contains (s.cur, b, id) = false ∧ u.mem = s.mem ∧ u.cores = s.cores ∧
        exec .smpUnbind s = .next (Says.withCore (u.cutLaunches r seqs) { (u.cutLaunches r seqs).core with smpStat := 0 }))) ∧
  (∀ (s : State) (r : Region) (e : Edge),
    let v := s.input.val
    let b := v.extractLsb' 0 3
    let id := v.extractLsb' 3 12
    let n : Fin 8 := ⟨(v.extractLsb' 15 3).toNat, (v.extractLsb' 15 3).isLt⟩
    (s.part s.pid).grants.samplers.contains n.val = true → v.getLsbD 18 = true → s.extEdge b id true = some (r, e) →
    e.net = 0 →
    ((∀ k ∈ s.smps[n].outputs, ¬(k.1 = s.cur ∧ k.2.1 = b)) → (∀ x ∈ r.ends, x.1 ≠ id) →
      ∃ (t : State), exec .smpBind s = .next t ∧ t.core.smpStat = 0 ∧ t.mem = s.mem ∧
        t.smps[n].outputs = s.smps[n].outputs ++ [(s.cur, b, id)] ∧
        t.regions = (Says.onRegion s s.cur b fun r => { r with ends := (id, .smpOut n.val) :: r.ends }).regions) ∧
    ((∃ k ∈ s.smps[n].outputs, k.1 = s.cur ∧ k.2.1 = b) → exec .smpBind s = .next (Says.withCore s { s.core with smpStat := 3 })) ∧
    ((∀ k ∈ s.smps[n].outputs, ¬(k.1 = s.cur ∧ k.2.1 = b)) → (∃ x ∈ r.ends, x.1 = id) →
      exec .smpBind s = .next (Says.withCore s { s.core with smpStat := 4 })) ∧
    (s.smps[n].outputs.contains (s.cur, b, id) = true →
      let seqs := (s.smps[n].items.filter fun q => q.core == s.cur && q.bslot == b && q.out.isSome).map (·.seq)
      ∃ (u : State), u.smps[n].outputs.contains (s.cur, b, id) = false ∧ u.mem = s.mem ∧ u.cores = s.cores ∧
        let d := u.dropIngress r id
        exec .smpUnbind s = .next (Says.withCore (d.2.cutLaunches r (seqs ++ d.1))
          { (d.2.cutLaunches r (seqs ++ d.1)).core with smpStat := 0 }))) ∧
  (∀ (s : State) i, i = .smpBind ∨ i = .smpUnbind →
    let v := s.input.val
    let n := (v.extractLsb' 15 3).toNat
    ((s.part s.pid).grants.samplers.contains n = false → exec i s = .next (Says.withCore s { s.core with smpStat := 1 })) ∧
    ((s.part s.pid).grants.samplers.contains n = true →
      (∀ r e, s.extEdge (v.extractLsb' 0 3) (v.extractLsb' 3 12) (v.getLsbD 18) = some (r, e) → e.net ≠ if v.getLsbD 18 then 0 else 1) →
      exec i s = .next (Says.withCore s { s.core with smpStat := 2 })))

/-! ## Traps, interrupts, system instructions -/

/-- R372, R373: trap entry with a handler, outside a handler and outside a commit region: the saved PC, FAULT_CAUSE and
FAULT_ADDR are recorded, PIE takes IE, IE clears, INH is set and the core goes on at TRAP_VEC; no general register and no
byte of memory changes. With INH set or no handler the core halts and a DOUBLE notice goes to the supervisor. -/
def Obligations.TrapEntry : Prop :=
  ∀ (s : State) code addr, s.core.tx = none →
    (s.core.inh = false → s.core.trapVec ≠ 0 →
      (s.trap code addr).core = { s.core with
        trapPc := s.core.pc, fcode := code, intr := false, faddr := addr, pie := s.core.ie, ie := false, inh := true,
        pc := s.core.trapVec ++ (0 : BitVec 2), idling := false } ∧
      (s.trap code addr).mem = s.mem ∧ (s.trap code addr).parts = s.parts ∧ (s.trap code addr).tiles = s.tiles) ∧
    (s.core.inh = true ∨ s.core.trapVec = 0 →
      (s.trap code addr).core = { s.core with run := .double, idling := false } ∧
      (s.trap code addr).doubles = s.doubles ++ [s.cur] ∧ (s.trap code addr).mem = s.mem)

/-- R343, R344: a synchronous trap inside a commit region aborts it with TRAP and is taken with the checkpoint's registers
and the tbegin word as saved PC; no held store becomes visible. Where it goes beyond those rules it rests on the model's
own readings, log 78. -/
def Obligations.TrapInRegion : Prop :=
  ∀ (s : State) code addr x, s.core.tx = some x → s.core.inh = false → s.core.trapVec ≠ 0 →
    (s.trap code addr).core.trapPc = x.pc ∧ (s.trap code addr).core.regs = x.regs ∧
    (s.trap code addr).core.poison = x.poison ∧ (s.trap code addr).core.tx = none ∧
    (s.trap code addr).core.fcode = code ∧ (s.trap code addr).core.faddr = addr ∧ (s.trap code addr).core.txCause = 6 ∧
    (s.trap code addr).core.pc = s.core.trapVec ++ (0 : BitVec 2) ∧ (s.trap code addr).mem = s.mem

/-- R53, R82, R100, R373, R378: syscall, brk, an illegal word and a fetch that faults trap with their causes; brk in a debug
state halts the core for the debugger, who lets it go on behind the brk. Where it goes beyond those rules it rests on
the model's own readings, log 15 and 67. -/
def Obligations.TrapInstructions : Prop :=
  (∀ (s : State), Says.Free s → exec .syscall s = .next (s.trap 0x15 0)) ∧
  (∀ c (s : State), Says.Free s → exec (.brk c) s = .next
    (if s.vendor = true ∨ (s.part s.pid).debug = true then Says.withCore s { s.core with run := .brk }
     else s.trap 0x16 (BitVec.ofNat 64 (BitVec.toNat (w := 5) c)))) ∧
  (∀ (s : State), Says.Clear s → (∀ b (u : State), s.fetch = some (b, u) → spareHvc (BitVec.ofNat 32 (leNat b)) = false) →
    exec .illegalInstruction s = .next (s.trap 0x01 s.core.pc)) ∧
  (∀ (s : State), Says.Clear s → exec .fetchfault s = .next (s.trap 0x03 s.core.pc)) ∧
  (∀ (s : State), let c := s.cores[s.input.core]
    c.run = .brk → s.input.ok = true →
    exec .debuggerCommand s = .next (s.setCoreAt s.input.core { c with run := .run, pc := c.pc + 4, instret := c.instret + 1 }))

/-- R375, R378: eret goes on at TRAP_PC with IE from PIE and INH clear, and traps where TRAP_PC is not aligned; idle goes on
once an enabled interrupt is pending, and until then waits; a pending enabled interrupt enters the handler with INTR
set, its number as the code, and the lowest first; TIMER lets CYCLE reach TIMECMP. R374: the pending conditions are the
seven of the table, each from the state it names. Where it goes beyond those rules it rests on the model's own readings,
log 6. -/
def Obligations.Interrupts : Prop :=
  (
  (∀ (s : State), Says.Free s → s.core.trapPc.toNat % 4 = 0 → exec .eret s = .next (Says.withCore s { s.core with
    ie := s.core.pie, inh := false, pc := s.core.trapPc, instret := s.core.instret + 1 })) ∧
  (∀ (s : State), Says.Free s → s.core.trapPc.toNat % 4 ≠ 0 → exec .eret s = .next (s.trap 0x02 s.core.trapPc)) ∧
  (∀ (s : State), Says.Free s → exec .idle s = .next
    (if s.pending ≠ 0 ∨ (s.part s.pid).pre ≠ .running then
      Says.withCore s { s.core with idling := false, pc := s.core.pc + 4, instret := s.core.instret + 1 }
     else Says.withCore s { s.core with idling := true })) ∧
  (∀ (s : State) n, s.core.run = .run → s.core.ie = true → s.core.inh = false → s.core.tx = none → s.core.idling = false →
    s.core.trapVec ≠ 0 → n < 7 → s.pending.getLsbD n = true → (∀ k < n, s.pending.getLsbD k = false) →
    ∃ (t : State), exec .interruptTaken s = .next t ∧ t.mem = s.mem ∧ t.core = { s.core with
      trapPc := s.core.pc, fcode := BitVec.ofNat 6 (0x20 + n), intr := true, faddr := 0, pie := true, ie := false, inh := true,
      pc := s.core.trapVec ++ (0 : BitVec 2), idling := false }) ∧
  (∀ (s : State), exec .timer s = .next (Says.withCore s { s.core with
    cycle := if s.core.timecmp.toNat ≤ s.core.cycle.toNat then s.core.cycle else s.core.timecmp }))) ∧
  (
  ∀ (s : State) (c : Fin 64) (p : BitVec 4), s.cores[c].part = some p →
    ((s.pendOf c).getLsbD 0 = true ↔ s.cores[c].fq.tail ≠ s.cores[c].fq.head) ∧
    ((s.pendOf c).getLsbD 1 = true ↔ s.cores[c].hung ≠ 0) ∧
    ((s.pendOf c).getLsbD 2 = true ↔ s.cores[c].cpyV = true) ∧
    ((s.pendOf c).getLsbD 3 = true ↔ s.cores[c].rlog.tail ≠ s.cores[c].rlog.head) ∧
    ((s.pendOf c).getLsbD 4 = true ↔ s.cores[c].rclq.tail ≠ s.cores[c].rclq.head) ∧
    ((s.pendOf c).getLsbD 5 = true ↔ (s.part p).notices ≠ []) ∧
    ((s.pendOf c).getLsbD 6 = true ↔ s.cores[c].timecmp.toNat ≤ s.cores[c].cycle.toNat))

/-- R379, R394, R433, R435: the calls of the supervisor by a partition's core: INFO, YIELD, NOTICE, DEBUG for a nonce and
with a token, each with its statuses in the table's order, SWAPMAP of an MT, of one without a run (0) and of what is no
MT of the partition (−1), ATTEST, RESET; a code from 7 to 31 gives −1 in g3. Where it goes beyond those rules it rests
on the model's own readings, log 7, 8, 10 and 67. -/
def Obligations.SupervisorCalls : Prop :=
  ∀ (s : State) p, Says.Free s → s.core.part = some p →
    let x := s.part p
    exec .hvcInfo s = .next (Says.goesOn s (s.setCore ((s.core.setReg 4 (BitVec.ofNat 64 x.grants.tiles.length)).setReg 3
      (Config.supervisorVersion.setWidth 64)))) ∧
    (x.pre = .running → ∃ (t : State), exec .hvcYield s = .next t ∧ (t.part p).pre = .requested ∧ t.core.run = .preempted ∧
      t.core.pc = s.core.pc + 4 ∧ t.core.regs = s.core.regs.set 3 0 ∧ t.mem = s.mem) ∧
    (x.notices = [] → exec .hvcNotice s = .next (Says.goesOn s (s.setCore (s.core.setReg 3 0)))) ∧
    (∀ w rest, x.notices = w :: rest →
      exec .hvcNotice s = .next (Says.goesOn s ((s.setPart p { x with notices := rest }).setCore (s.core.setReg 3 w)))) ∧
    (Says.Plain s 3 → s.vendor = false → s.sec ≠ .failed → Says.reg s 3 = 0 → ∃ (t : State), exec .hvcDebug s = .next t ∧
      (t.part p).nonce = some (Config.nonce s.fresh) ∧ t.core.regs = s.core.regs.set 3 (Config.nonce s.fresh) ∧
      t.core.pc = s.core.pc + 4 ∧ t.mem = s.mem) ∧
    (Says.Plain s 3 → Says.reg s 3 ≠ 0 ∨ s.vendor = true ∨ s.sec = .failed →
      let va := (Says.reg s 3).toNat
      let tells (n : Int) (u : State) := Says.goesOn u (u.setCore (u.core.setReg 3 (BitVec.ofInt 64 n)))
      (s.vendor = true ∨ s.sec = .failed → exec .hvcDebug s = .next (tells (-4) s)) ∧
      (s.vendor = false → s.sec ≠ .failed → va % 8 ≠ 0 ∨ (∃ e, s.readCore va 192 = .error e) →
        exec .hvcDebug s = .next (tells (-1) s)) ∧
      (∀ b, s.vendor = false → s.sec ≠ .failed → va % 8 = 0 → s.readCore va 192 = .ok b →
        let signed := dwAt b 8 = p.setWidth 64 ∧ dirty b 16 78 = false ∧
          ed448 x.ownerKey (shake256 (b.take 78 ++ edPublic s.deviceSecret) 64) (b.drop 78) = true
        (¬signed → exec .hvcDebug s = .next (tells (-2) s)) ∧
        (signed → x.nonce ≠ some (dwAt b 0) → exec .hvcDebug s = .next (tells (-3) s)) ∧
        (signed → x.nonce = some (dwAt b 0) →
          exec .hvcDebug s = .next (tells 0 (s.setPart p { x with nonce := none, debug := true }))))) ∧
    (Says.Plain s 3 →
      let va := (Says.reg s 3).toNat
      let no := Says.goesOn s (s.setCore (s.core.setReg 3 (-1)))
      (∀ e, s.readCore va 4096 = .error e → exec .hvcAttest s = .next no) ∧
      (∀ b, s.readCore va 4096 = .ok b → exec .hvcAttest s = .next (match Config.spdmRequest b with
        | none => no
        | some q =>
          let r := (Config.spdmBytes (s.spdmFor (some p) q)).take 4096
          match s.writeV p coreWindows va r with
          | .error _ => no
          | .ok u => Says.goesOn u (u.setCore (u.core.setReg 3 (BitVec.ofNat 64 r.length)))))) ∧
    (Says.Plain s 3 →
      let w := Says.reg s 3
      let t : TileId := ⟨w.extractLsb' 9 2, w.extractLsb' 4 5, w.extractLsb' 0 4⟩
      let tells (v : Word) := Says.goesOn s (s.setCore (s.core.setReg 3 v))
      (w.toNat < 2 ^ 11 → t.isMT = true → s.hasTile p t = true →
        (∀ q, x.grants.swapMaps.find? (·.1 = t) = some q →
          exec .hvcSwapmap s = .next (tells (field 0 10 q.2.1 ||| field 10 7 q.2.2))) ∧
        ((∀ q ∈ x.grants.swapMaps, q.1 ≠ t) → exec .hvcSwapmap s = .next (tells 0))) ∧
      (2 ^ 11 ≤ w.toNat ∨ t.isMT = false ∨ s.hasTile p t = false → exec .hvcSwapmap s = .next (tells (-1)))) ∧
    (∃ (t : State), exec .hvcReset s = .next t ∧ t.cores[s.cur] = { Core.reset x.entry with
        part := some p, run := if x.booted then .run else .off } ∧
      (t.part p).resets = x.resets + 1 ∧ (t.part p).debug = false ∧ (t.part p).grants = x.grants) ∧
    (∀ b (u : State), s.fetch = some (b, u) → spareHvc (BitVec.ofNat 32 (leNat b)) = true →
      exec .illegalInstruction s = .next (Says.goesOn s (s.setCore (s.core.setReg 3 (-1)))))

/-- R381: an attic instruction of a partition's core traps with PRIV; on a supervisor's core attic.save moves a halted
partition's context into the attics, and attic.restore brings it back and lets the partition run. R380: tlbinv waits,
without effect, for the core's accesses that a fence.rel of its scope orders first, and then removes what its operand
names: every entry with ALL, else those whose leaf covers the page. It does so from the core's own TLB; from those of
the partition's cores and tiles on the die at .die, on the module at .mod and .dom, of the tiles of the core's regions
at .rgn; from the hub's TLB at .mod and .dom; and at .dom the other modules are told. Memory and registers are as
before. Where it goes beyond those rules it rests on the model's own readings, log 21, 70, 76 and 95. -/
def Obligations.SupervisorInstructions : Prop :=
  (
  (∀ a (s : State), Says.Free s → s.core.part ≠ none →
    exec (.atticSave a) s = .next (s.trap 0x17 0) ∧ exec (.atticRestore a) s = .next (s.trap 0x17 0)) ∧
  (∀ a (s : State) (s1 : State) x, Says.Free s → s.core.part = none → Says.Reads s [a] [x] s1 → x.toNat < 16 →
    let p := x.extractLsb' 0 4
    ((s1.part p).pre = .halted → (s1.part p).saved = none → s1.atticHeld p = false →
      ∃ (t : State), exec (.atticSave a) s = .next t ∧ (t.part p).saved.isSome = true ∧
        ((∀ f ∈ s1.flits, f.part ≠ some p) → (t.part p).saved = some (s1.capture p)) ∧ t.core.pc = s.core.pc + 4 ∧
        (∀ c : Fin 64, s1.cores[c].part = some p → t.cores[c] = Core.reset 0) ∧ ∀ r ∈ t.regions, r.part ≠ p) ∧
    (∀ v, (s1.part p).pre = .halted → (s1.part p).saved = some v → v.out = false → s1.standing p v = [] →
      exec (.atticRestore a) s = .next (Says.goesOn (s1.putBack p v) (s1.putBack p v))))) ∧
  (
  ∀ a (c : BitVec 3) (s : State) x (s1 : State), Says.Free s → Says.Reads s [a] [x] s1 →
    let page := x.extractLsb' 16 41
    let covers (e : TlbEntry) : Bool := decide (e.va ≤ page.toNat * 2 ^ 16 ∧ page.toNat * 2 ^ 16 < e.va + e.size)
    let kept (l : List TlbEntry) := if x.toNat / 2 ^ 63 = 1 then [] else l.filter (!covers ·)
    (s.core.loads ≠ [] ∨ (∃ st ∈ s.core.stores, ((st.near.map Prod.fst).getD 0).toNat < if c = 0 then 3 else c.toNat) →
      exec (.tlbinv a c) s = .next s) ∧
    (s.core.loads = [] → s.core.stores = [] →
      ∃ (t : State), exec (.tlbinv a c) s = .next t ∧ t.mem = s.mem ∧ t.core.regs = s.core.regs ∧ t.core.pc = s.core.pc + 4 ∧
        t.core.tlb = kept s.core.tlb ∧ t.parts = s.parts ∧
        (∀ j : Fin 64, j ≠ s.cur → t.cores[j] =
          if s.cores[j].part = s.core.part ∧ (3 ≤ c.toNat ∨ (c = 2 ∧ dieOf j = dieOf s.cur)) then
            { s.cores[j] with tlb := kept s.cores[j].tlb } else s.cores[j]) ∧
        (t.tiles = s.tiles.map fun (y : Tile) =>
          if s.hasTile s.pid y.id = true ∧ (3 ≤ c.toNat ∨ (c = 2 ∧ y.id.die = dieOf s.cur) ∨
              (c = 1 ∧ ∃ r ∈ s.regions, r.core = s.cur ∧ r.tiles.contains y.id = true)) then { y with tlb := kept y.tlb } else y) ∧
        (t.hubTlb = if 3 ≤ c.toNat then s.hubTlb.filter fun q => q.1 != s.pid || !(x.getLsbD 63 || covers q.2) else s.hubTlb) ∧
        (t.sent = if c = 4 then s1.sent ++ [.tlbinv (s.part s.pid).dpn (x.getLsbD 63) page] else s1.sent)))

/-! ## Partitions, power, security -/

/-- R389, R391, R392, R365: a pre-emption request and its completion, a failure reply to a remote load, the reset of a tile
that no region holds, and the return of its credits. R390, R394: new grants take effect for a partition that may have
them; for one that may not, nothing changes. Where it loses no bound larder slot, memory is as before. Where it goes
beyond those rules it rests on the model's own readings, log 71, 72, 113 and 120. -/
def Obligations.PreemptAndContain : Prop :=
  (
  (∀ (s : State), (s.part s.input.p).pre = .running → (s.part s.input.p).booted = true →
    exec .preemptRequest s = .next (s.setPart s.input.p { s.part s.input.p with pre := .requested })) ∧
  (∀ (s : State), (s.part s.input.p).pre = .requested → s.settled s.input.p = true → s.powerAsk = none →
    ∃ (t : State), exec .preemptHaltComplete s = .next t ∧ (t.part s.input.p).pre = .halted ∧
      ∀ c : Fin 64, s.cores[c].part = some s.input.p → t.cores[c].run ≠ .run) ∧
  (∀ (s : State) (l : LoadOp), (s.part s.input.p).pre = .requested → s.input.k = 0 → s.core.loads[s.input.index]? = some l →
    s.core.part = some s.input.p → l.isRemote = true → s.core.tx = none → l.dest ≠ 0 → l.mbx = false →
    exec .preemptFailureReply s = .next (Says.withCore s { s.core with
      loads := s.core.loads.eraseIdx s.input.index, poison := s.core.poison.set l.dest.toNat (some l.ea) l.dest.isLt })) ∧
  (∀ (s : State), s.regionOf s.tile = none → (∀ p : Fin 16, s.parts[p].saved = none) →
    ∃ (t : State), exec .tileContainmentReset s = .next t ∧ (t.tileAt s.tile).slots = [] ∧ (t.tileAt s.tile).queue = [] ∧
      (t.tileAt s.tile).cfgs = (s.tileAt s.tile).cfgs ∧ (t.tileAt s.tile).mx.rgs = (s.tileAt s.tile).mx.rgs ∧
      (t.tileAt s.tile).rcl.entries = (s.tileAt s.tile).rcl.entries ∧ t.mem = s.mem ∧ t.cores = s.cores) ∧
  (∀ (s : State), ∃ (t : State), exec .creditReclaim s = .next t ∧ (t.tileAt s.tile).aborted = false ∧
    (∀ y, y ≠ s.tile → t.tileAt y = s.tileAt y) ∧ t.owed = s.owed.filter (·.1 ≠ s.tile) ∧ t.cores = s.cores ∧ t.mem = s.mem ∧
    ∀ (n : Fin 18) vc, lookupD t.ports[n].creds vc 0 = lookupD s.ports[n].creds vc 0 +
      ((s.owed.filter fun q => q.1 = s.tile ∧ q.2.1 = n ∧ q.2.2.1 = vc).map (·.2.2.2)).sum)) ∧
  (
  ∀ (s : State), s.input.grants ≠ (s.part s.input.p).grants ∨ (s.part s.input.p).saved = none →
    (s.mayGrant s.input.p s.input.grants = true →
      ∃ (t : State), exec .grantChange s = .next t ∧ (t.part s.input.p).grants = s.input.grants ∧
        ((∀ b ∈ s.larder, b.part ≠ s.input.p) → t.mem = s.mem)) ∧
    (s.mayGrant s.input.p s.input.grants = false → exec .grantChange s = .next s))

/-- R437, R438, R440: a change of power state and a budget window. R429 to R431, R437, R439: power-on measures firmware, hub
image, supervisor and partition table in order, each into its register, the last one signed by the owner and the others
by the vendor, and stops FAILED, with no core started, at the first whose signature does not hold; when all four hold it
is SECURE, and each partition's system image is measured into the partition's register, and where it passes its check
its cores start at ENTRY; power-off leaves the module off with nothing held; memory outside the module is kept. Where it
goes beyond those rules it rests on the model's own readings, log 9, 74 and 116. -/
def Obligations.PowerStates : Prop :=
  (
  (∀ (s : State), s.sec = .secure → s.input.pw = .p1 → s.power = .p0 → exec .powerStateChange s = .next { s with powerAsk := some .p1 }) ∧
  (∀ (s : State), s.sec = .secure → s.input.pw = .p3 → s.power = .p0 → s.allHalted = true →
    ∃ (t : State), exec .powerStateChange s = .next t ∧ t.power = .p3 ∧ t.powerAsk = none ∧ t.bins = [] ∧
      ∀ k, memGet t.mem k = if vaultBase ≤ k ∨ k < 2 ^ 40 then unlisted else memGet s.mem k) ∧
  (∀ (s : State), s.sec = .secure → s.input.pw = .p0 → s.power = .p2 → ∃ (t : State), exec .powerStateChange s = .next t ∧ t.power = .p0 ∧
    t.powerAsk = none ∧ ((∀ p : Fin 16, s.parts[p].saved = none) → t = { s with power := .p0, powerAsk := none })) ∧
  (∀ (s : State), s.power = .p0 → s.powerAsk = some .p1 → ∃ (t : State), exec .budgetWindow s = .next t ∧ t.power = .p1 ∧ t.powerAsk = none ∧
    t.pwrWin = s.pwrWin + 1 ∧ t.pwrCap = s.input.cap ∧ t.cores = s.cores ∧
    (grantsOk s.input.watts s.input.cap = true → ∀ d : Fin 4, t.pwrGrant[d] = s.input.watts.getD d.val 0) ∧
    (grantsOk s.input.watts s.input.cap = false → t.pwrGrant = s.pwrGrant))) ∧
  (
  (∀ (s : State), let b := s.input.boot
    let signed (key : List Byte) (x : List Byte × List Byte) := ed448 key (shake256 x.1 64) x.2
    let measured (n : Nat) : List (List Byte) := (State.reset.mrs.zipIdx).map fun q =>
      if q.2 < n then shake256 (q.1 ++ shake256 (([b.firmware, b.hub, b.supervisor, b.table].map Prod.fst).getD q.2 []) 64) 64 else q.1
    let held (n : Nat) := ([signed Config.vendorKey b.firmware, signed Config.vendorKey b.hub, signed Config.vendorKey b.supervisor,
      signed b.ownerKey b.table].take n).all id
    (∀ n < 4, held n = true → held (n + 1) = false →
      ∃ (t : State), exec .powerOn s = .next t ∧ t.sec = .failed ∧ t.power = .p3 ∧ (∀ c : Fin 64, t.cores[c].run = .off) ∧
        t.mrs = measured (n + 1)) ∧
    (held 4 = true →
      ∃ (t : State), exec .powerOn s = .next t ∧ t.sec = .secure ∧ t.power = .p3 ∧
        (∀ k < 4, t.mrs.getD k [] = (measured 4).getD k []) ∧
        ∀ p : BitVec 4, (t.part p).grants = lookupD b.grants p Grants.none ∧ (t.part p).dpn = lookupD b.dpns p 0 ∧
          (∀ c : Fin 64, (b.cores.find? (·.1 = c.val)).map Prod.snd = some p →
            t.cores[c] = { Core.reset (t.part p).entry with part := some p, run := if (t.part p).booted then .run else .off }) ∧
          (match b.images.find? (·.1 = p) with
          | none => (t.part p).booted = false ∧ t.mrs.getD (4 + p.toNat) [] = List.replicate 64 0
          | some q => (t.part p).booted = imageOk q.2 ∧
              t.mrs.getD (4 + p.toNat) [] =
                shake256 (List.replicate 64 0 ++ shake256 (q.2.header.take 128 ++ q.2.body) 64) 64 ∧
              (imageOk q.2 = true → (t.part p).entry = dwAt q.2.header 8 ∧ (t.part p).cfgKey = (q.2.header.drop 64).take 57)))) ∧
  (∀ (s : State), ∃ (t : State), exec .powerOff s = .next t ∧ t.power = .off ∧ t.sec = .booting ∧ t.regions = [] ∧ t.tiles = [] ∧ t.bins = [] ∧
    (∀ c : Fin 64, t.cores[c].run = .off) ∧
    ∀ k, memGet t.mem k = if 2 ^ 48 ≤ k ∧ k < vaultBase then memGet s.mem k else unlisted))

/-- R379, R433, R434, R436: SPDM requests are answered, a challenge and a measurement request with the measurement
registers; other requests are not supported; a host read of a virtual function gives the partition's bytes and changes
nothing, and one that faults is an Unsupported Request; a write of BAR0 rings a doorbell; certificates and reports are
signed with the keys of R432; a vendor token that verifies resets and zeroises every partition, behind a pre-emption
that is under way; a peer's reset is told to every booted partition. Where it goes beyond those rules it rests on the
model's own readings, log 9, 10, 75, 116 and 117. -/
def Obligations.SecurityAndHost : Prop :=
  (∀ (s : State), s.power ≠ .off → s.sec = .secure → s.power ≠ .p3 ∨ s.input.fn = none →
    let cdi0 := shake256 (Config.uds ++ s.mrs.getD 0 []) 64
    let cdi1 := shake256 (cdi0 ++ s.mrs.getD 1 [] ++ s.mrs.getD 2 []) 64
    let device := shake256 (cdi0 ++ [1]) 57
    let aliased := shake256 (cdi1 ++ [2]) 57
    let signs (f : List Byte → SpdmResp) := f (edSign aliased (Config.spdmBytes (f [])))
    exec .getVersion s = .next { s with spdm := s.spdm ++ [.version] } ∧
    exec .getCapabilities s = .next { s with spdm := s.spdm ++ [.capabilities] } ∧
    exec .negotiateAlgorithms s = .next { s with spdm := s.spdm ++ [.algorithms] } ∧
    exec .getDigests s = .next { s with spdm := s.spdm ++ [.digests] } ∧
    exec .getCertificate s = .next { s with spdm := s.spdm ++ [.certificate Config.deviceCert (edPublic aliased)
      (edSign device (Config.spdmBytes (.certificate Config.deviceCert (edPublic aliased) [])))] } ∧
    exec .keyExchange s = .next { s with spdm := s.spdm ++ [.unsupportedRequest] } ∧
    (∀ p, s.input.fn = some p →
      let mine := s.mrs.take 4 ++ [s.mrs.getD (4 + BitVec.toNat (w := 4) p) []]
      let dbg := if s.vendor then 2 else if (s.part p).debug then 1 else 0
      exec .challenge s = .next { s with spdm := s.spdm ++ [signs (.report mine (some (s.part p).resets) 1 dbg true)] } ∧
      exec .getMeasurements s = .next { s with spdm := s.spdm ++ [signs (.report mine (some (s.part p).resets) 1 dbg false)] })) ∧
  (∀ (s : State) p off b, s.input.fn = some p → s.sec = .secure → (s.part p).booted = true → s.power = .p0 → s.input.bar0 = true →
    s.input.host = .write b → s.input.off.toNat = off → off + b.length ≤ 2 ^ 16 →
    exec .hostAccess s = .next { s with doorbells := s.doorbells ++ [(p, off, b)], hostOut := s.hostOut ++ [.written] }) ∧
  (∀ (s : State) p n, s.input.fn = some p → s.sec = .secure → (s.part p).booted = true → s.power = .p0 → s.input.host = .read n →
    s.input.bar0 = false → s.input.off.toNat + n ≤ 2 ^ 36 →
    (∀ b, s.readV p [.translated] s.input.off.toNat n = .ok b →
      exec .hostAccess s = .next { s with hostOut := s.hostOut ++ [.data b] }) ∧
    (∀ e, s.readV p [.translated] s.input.off.toNat n = .error e →
      exec .hostAccess s = .next { s with hostOut := s.hostOut ++ [.unsupportedRequest] })) ∧
  (∀ (s : State), s.power ≠ .off →
    let signed := ed448 Config.vendorKey (shake256 s.input.bytes 64) s.input.sig
    let bare := (List.finRange 16).foldl (fun u i => u.resetPartition (BitVec.ofNat 4 i.val)) { s with vendorAsk := true }
    (signed = false → exec .vendorDebugToken s = .next s) ∧
    (signed = true → (∃ p : Fin 16, s.parts[p].pre = .requested) → exec .vendorDebugToken s = .next { s with vendorAsk := true }) ∧
    (signed = true → (∀ p : Fin 16, s.parts[p].pre ≠ .requested) →
      exec .vendorDebugToken s = .next { bare.zeroise with vendor := true, vendorAsk := false })) ∧
  (∀ (s : State) (p : BitVec 4), (s.part p).booted = true → (s.part p).notices.length < 64 →
    ∃ (t : State), exec .peerreset s = .next t ∧ (t.part p).notices = (s.part p).notices ++ [field 0 4 3 ||| field 16 10 s.input.module.toNat] ∧
      t.cores = s.cores ∧ t.mem = s.mem)

/-! ## Terms of the launch statements -/

namespace Sys2Proof.Says

/-- What an instruction that answers with a word does: the word goes to d, and the core goes on (R75, R115). -/
def Answers (i : Instr) (s : State) (d : Reg) (w : Word) (u : State) : Prop :=
  ∀ (t : State), u.putReg d w = .ok w t → exec i s = .next (goesOn t t)

/-- The acting core's region in the slot that the input names. -/
def regionNow (s : State) : Option Region := s.region s.cur s.input.bslot

end Sys2Proof.Says

/-! ## Configurations -/

/-- R117, R118: cfgld of an image whose header or edge table breaks a rule, or whose origin register does, answers the
status and changes nothing. On tiles of no region of the core it takes a free binding slot: when every record and the
whole graph pass, a region is bound there with what it staged and d takes its graph handle; else d takes the status and
nothing is bound; with no free slot the status is NOSLOT. On a resident region of the core with that origin and size,
and nothing staged, it stages the next generation there, past those of stagings that cancel.graph has given up, and
waits while a commit of the region has not been applied. R120, R121, R399: cfgchk of a handle that names no graph of the
core answers its status, and of one with nothing staged NOSTAGE; else it asks the security processor, whose queue holds
four requests, and waits; once the signature holds and every record's CRC did, it answers 0 and the staging has passed;
a signature that fails is answered SIG, and a record's CRC that failed CRC with the record's tile. The processor takes
the partitions in turn and verifies the oldest request of one against its configuration key; a signature of zeros fails.
Where it goes beyond those rules it rests on the model's own readings, log 35, 40, 41, 44, 84 and 89. -/
def Obligations.ConfigurationLoads : Prop :=
  (
  ∀ d a b (s : State) x y (s1 : State), Says.Free s → Says.Reads s [a, b] [x, y] s1 →
    (∀ w, s1.loadHeader x y = .error w → Says.Answers (.cfgld d a b) s d w s1) ∧
    (∀ (h : ImgHdr) org hb sig, s1.loadHeader x y = .ok (h, org, hb, sig) →
      (∀ w, s1.loadEdges h org x.toNat = .error w → Says.Answers (.cfgld d a b) s d w s1) ∧
      (∀ es eb, s1.loadEdges h org x.toNat = .ok (es, eb) →
        (s1.originOk h org y = false → Says.Answers (.cfgld d a b) s d (refuse 0x28) s1) ∧
        (s1.originOk h org y = true →
          (s1.regions.find? fun r => r.core == s1.cur && r.origin == org && r.w == h.w && r.h == h.h) = none →
          let free := (List.range 8).filter fun n => (s1.region s1.cur (BitVec.ofNat 3 n)).isNone
          let k : BitVec 3 := BitVec.ofNat 3 (free.getD (Config.slotPick s1.fresh % free.length) 0)
          let gen := s1.core.gens[k.toNat]'k.isLt
          let u : State := { s1 with fresh := s1.fresh + 1 }
          (free = [] → Says.Answers (.cfgld d a b) s d (refuse 0x2C) s1) ∧
          (free ≠ [] →
            (∀ w, u.loadBody x h org hb sig es eb none (s1.core.gmodeOf k) gen = .error w →
              Says.Answers (.cfgld d a b) s d w u) ∧
            (∀ g ps, u.loadBody x h org hb sig es eb none (s1.core.gmodeOf k) gen = .ok (g, ps) →
              let r := { Region.fresh s1.cur k s1.pid org h.w h.h gen with staging := some g }
              Says.Answers (.cfgld d a b) s d r.handle (State.logPairs { u with regions := u.regions ++ [r] } ps)))) ∧
        (s1.originOk h org y = true → ∀ (r : Region),
          (s1.regions.find? fun r => r.core == s1.cur && r.origin == org && r.w == h.w && r.h == h.h) = some r →
          (r.commitWait = true → exec (.cfgld d a b) s = .next s) ∧
          (r.commitWait = false → r.resident = true → r.staging = none →
            let past := s1.core.gens[r.bslot.toNat]'r.bslot.isLt
            let gen := if (r.serial + 1).toNat < past.toNat then past else r.serial + 1
            (∀ w, s1.loadBody x h org hb sig es eb (some r.bslot) (s1.core.gmodeOf r.bslot) gen = .error w →
              Says.Answers (.cfgld d a b) s d w s1) ∧
            (∀ g ps, s1.loadBody x h org hb sig es eb (some r.bslot) (s1.core.gmodeOf r.bslot) gen = .ok (g, ps) →
              Says.Answers (.cfgld d a b) s d { r with serial := gen }.handle
                ((s1.setRegion { r with staging := some g }).logPairs ps))))))) ∧
  (
  (∀ d a (s : State) h (s1 : State), Says.Free s → Says.Reads s [a] [h] s1 →
    (∀ e, s1.graphMine h = .error e → Says.Answers (.cfgchk d a) s d (hStatus e) s1) ∧
    (∀ (r : Region), s1.graphMine h = .ok r →
      (r.stagingOf h = none → Says.Answers (.cfgchk d a) s d (hStatus hNOSTAGE) s1) ∧
      (∀ (g : Staging), r.stagingOf h = some g →
        (g.sigOk = some true → g.crcBad = [] →
          Says.Answers (.cfgchk d a) s d 0 (s1.setRegion { r with staging := some { g with passed := true } })) ∧
        (∀ x rest, g.sigOk = some true → g.crcBad = x :: rest → Says.Answers (.cfgchk d a) s d (refusal 0x2F 0 0 (some x)) s1) ∧
        (g.sigOk = some false → Says.Answers (.cfgchk d a) s d (refuse 0x2E) s1) ∧
        (g.sigOk = none → g.asked = false → (s.part r.part).chkq.length < 4 →
          ∃ (t : State), exec (.cfgchk d a) s = .next t ∧ t.cores = s.cores ∧ t.mem = s.mem ∧
            (t.part r.part).chkq = (s.part r.part).chkq ++ [(r.core, r.bslot)]) ∧
        (g.sigOk = none → g.asked = true ∨ 4 ≤ (s.part r.part).chkq.length → exec (.cfgchk d a) s = .next s)))) ∧
  (∀ (s : State) (n : Nat) (c : Fin 64) (b : BitVec 3) rest, let p := s.verified + 1 + BitVec.ofNat 4 n
    n < 16 → (∀ k < n, (s.part (s.verified + 1 + BitVec.ofNat 4 k)).chkq = []) → (s.part p).chkq = (c, b) :: rest →
    (s.part p).saved = none →
    ∃ (t : State), exec .securityProcessorVerify s = .next t ∧ t.verified = p ∧ (t.part p).chkq = rest ∧ t.mem = s.mem ∧
      t.cores = s.cores ∧ ∀ (r : Region) (g : Staging), s.region c b = some r → r.staging = some g →
        (t.region c b).bind (·.staging) = some { g with sigOk := some ((g.sig.any (· != 0)) &&
          ed448 (s.part p).cfgKey g.digest g.sig) }))

/-- R121, R165: cfgcommit of a staging that has not passed traps with CFGSTATE; one that has passed is installed on a fresh
region at once, and on a resident one waits until the live launches have ended, when COMMIT_APPLY fences the region's
ingress and, once the region reports empty, installs the staging; RECONFIG_FENCE_LIFT lifts the fence. After the commit
the region is resident with the staged tiles and edges, a new epoch is open, and the staging is gone. Where it goes
beyond those rules it rests on the model's own readings, log 41 and 42. -/
def Obligations.ConfigurationCommits : Prop :=
  (∀ a (s : State) h (s1 : State) (r : Region) (g : Staging), Says.Free s → Says.Reads s [a] [h] s1 → s1.graphMine h = .ok r →
    r.stagingOf h = some g →
    (g.passed = false → exec (.cfgcommit a) s = .next (s.trap 0x11 h)) ∧
    (g.passed = true → r.resident = false →
      exec (.cfgcommit a) s = .next (Says.goesOn (s1.install r g) (s1.install r g))) ∧
    (g.passed = true → r.resident = true → exec (.cfgcommit a) s =
      .next (Says.goesOn s1 (s1.setRegion { r with commitWait := true, serial := g.serial })))) ∧
  (∀ (s : State) (r : Region) (g : Staging), Says.regionNow s = some r → r.staging = some g → r.commitWait = true → r.live = [] →
    r.decision = none →
    (s.regionEmpty r = true → exec .commitApply s = .next (s.install { r with fenced := true } g)) ∧
    (s.regionEmpty r = false → exec .commitApply s = .next (s.setRegion { r with fenced := true }))) ∧
  (∀ (s : State) (r : Region) (g : Staging), r ∈ s.regions →
    ∃ r' ∈ (s.install r g).regions, r'.core = r.core ∧ r'.bslot = r.bslot ∧ r'.resident = true ∧ r'.edges = g.edges ∧
      r'.tiles = g.recs.map (·.tile) ∧ r'.serial = g.serial ∧ r'.staging = none ∧ r'.epochOpen = true ∧
      r'.gcc.state = .open_) ∧
  (∀ (s : State) (r : Region), Says.regionNow s = some r → r.fenced = true → r.commitWait = false →
    exec .reconfigFenceLift s = .next ((s.setRegion { r with fenced := false }).releaseIngress s.cur s.input.bslot))

/-! ## Launches -/

/-- R115, R123 to R125: launch on an open graph of the core sends a launch record with the pending parameters, the
prerequisites and the priority, clears the pending parameters, LPRE0 and LPRE1, and goes on, its handle still to come to
d, a register or a mailbox with a credit; refused, it clears them too and d takes the status; with 16 records on their
way it waits. param sets one pending parameter. The record's arrival puts it into the queue with the graph's next SERIAL
and brings its handle to d. R126, R127: a start slot starts the head of the highest priority that may start, unless a
lower one has waited 64 starts; a priority that is passed over counts, and one that starts or may not start counts from
0 again. Where it goes beyond those rules it rests on the model's own readings, log 39 and 50. -/
def Obligations.Launches : Prop :=
  (
  (∀ d a p (s : State) h (s1 : State) (r : Region), Says.Free s → Says.Reads s [a] [h] s1 → s.core.recs.length < 16 → s1.graphMine h = .ok r →
    (s1.closed r = false → r.slave = false → s.preTaken s.core.lpre0h = true → s.preTaken s.core.lpre1h = true →
      (∃ u, s1.reserve d = .ok 0 u) →
      ∃ (t : State), exec (.launch d a p) s = .next t ∧ t.core.pc = s.core.pc + 4 ∧ t.core.regs = s.core.regs ∧ t.mem = s.mem ∧
        t.core.lpre0h = 0 ∧ t.core.lpre1h = 0 ∧ (t.region r.core r.bslot).map (·.pending) = some (Vector.replicate 4 0) ∧
        t.core.recs.getLast? = some ⟨r.bslot, d, d != 0 && s.core.isMb d,
          ⟨r.pending, s.core.lpre0h, s.core.lpre1h, s.core.lpre0v, s.core.lpre1v, p, 0, 0, 0⟩⟩ ∧
        t.core.recs.length = s.core.recs.length + 1) ∧
    (∀ e, (s1.closed r = true ∧ e = hENDED) ∨ (s1.closed r = false ∧ r.slave = true ∧ e = hBUSY) ∨
        (s1.closed r = false ∧ r.slave = false ∧ (s.preTaken s.core.lpre0h && s.preTaken s.core.lpre1h) = false ∧ e = hBADHANDLE) →
      Says.Answers (.launch d a p) s d (hStatus e)
        ((s1.setCore s1.core.clearPre).setRegion { r with pending := Vector.replicate 4 0 }))) ∧
  (∀ d a p (s : State) h (s1 : State) e, Says.Free s → Says.Reads s [a] [h] s1 → s.core.recs.length < 16 → s1.graphMine h = .error e →
    Says.Answers (.launch d a p) s d (hStatus e) (s1.setCore s1.core.clearPre)) ∧
  (∀ d a p (s : State) h (s1 : State), Says.Free s → Says.Reads s [a] [h] s1 → 16 ≤ s.core.recs.length →
    exec (.launch d a p) s = .next s) ∧
  (∀ a b n (s : State) h w (s1 : State) (r : Region), Says.Free s → Says.Reads s [a, b] [h, w] s1 → s1.graphMine h = .ok r →
    (s1.closed r = false → exec (.param a b n) s = .next (Says.goesOn s1 (s1.setRegion
      { r with pending := r.pending.set (BitVec.toNat (w := 2) n) w n.isLt }))) ∧
    (s1.closed r = true → exec (.param a b n) s = .next (s.trap 0x10 h))) ∧
  (∀ (s : State) (r : Region) o rest, Says.regionNow s = some r → s.recsOf r = o :: rest → r.queue.length < 16 → o.mbx = false →
    ∃ (t : State), exec .launchRecordEnqueue s = .next t ∧ t.mem = s.mem ∧
      t.core.regs = (if o.dest = 0 then s.core.regs
        else s.core.regs.set o.dest.toNat (r.launchHandle 0 r.accepted) o.dest.isLt) ∧
      t.core.recs = s.core.recs.erase o ∧
      t.regions = (s.setRegion { r with queue := r.queue ++ [{ o.record with serial := r.accepted }],
                                        accepted := r.accepted + 1 }).regions)) ∧
  (
  (∀ (s : State) (r : Region), Says.regionNow s = some r → (∀ p, p < 4 → s.eligible r p = false) →
    exec .launchStart s = .next (s.setRegion { r with starve := [0, 0, 0] })) ∧
  (∀ (s : State) (r : Region) p q, Says.regionNow s = some r → p < 4 → s.eligible r p = true → r.headOf p = some q →
    (∀ k, p < k → k < 4 → s.eligible r k = false) → (∀ k, k < 3 → r.starve.getD k 0 < 64 ∨ s.eligible r k = false) →
    ∃ st, (∀ k, k < 3 → List.getD st k 0 = if s.eligible r k = true ∧ k < p then r.starve.getD k 0 + 1 else 0) ∧
      exec .launchStart s = .next ((s.setRegion { r with starve := st }).startRec { r with starve := st } q)) ∧
  (∀ (s : State) (r : Region) p q, Says.regionNow s = some r → p < 3 → s.eligible r p = true → 64 ≤ r.starve.getD p 0 →
    r.headOf p = some q → (∀ k, k < p → r.starve.getD k 0 < 64 ∨ s.eligible r k = false) →
    ∃ st, (∀ k, k < 3 → List.getD st k 0 = if s.eligible r k = false ∨ k = p then 0
        else if k < p then r.starve.getD k 0 + 1 else r.starve.getD k 0) ∧
      exec .launchStart s = .next ((s.setRegion { r with starve := st }).startRec { r with starve := st } q)))

/-- R48, R49, R115, R130: selcfg of a configuration that the region holds makes a decision pending, and waits while one is;
of one that it does not hold, it traps with CFGSTATE. The decision takes effect once the region is empty. Where it goes
beyond those rules it rests on the model's own readings, log 47 and 49. -/
def Obligations.ConfigurationSwitches : Prop :=
  (∀ a n (s : State) h (s1 : State) (r : Region), Says.Free s → Says.Reads s [a] [h] s1 → s1.graphMine h = .ok r →
    let held := r.resident = true ∧ ∃ t ∈ r.tiles, (s.tileAt t).cfg n ≠ none
    (held → r.decision = none → exec (.selcfg a n) s = .next (Says.goesOn s1 (s1.setRegion { r with decision := some n }))) ∧
    (held → r.decision ≠ none → exec (.selcfg a n) s = .next s) ∧
    (¬ held → exec (.selcfg a n) s = .next (s.trap 0x11 h))) ∧
  (∀ (s : State) (r : Region) n, Says.regionNow s = some r → r.decision = some n → s.regionEmpty r = true →
    exec .decisionSwitch s = .next ((s.selectCfg r n).releaseIngress s.cur s.input.bslot)) ∧
  (∀ (s : State) (r : Region) n, r ∈ s.regions → ∃ r' ∈ (s.selectCfg r n).regions, r'.core = r.core ∧ r'.bslot = r.bslot ∧ r'.sel = n ∧
    r'.decision = none ∧ r'.tiles = r.tiles)

/-- R131 to R133: a phase whose descriptor and graphs pass is recorded with the next serial, its graphs here belong to it,
and d takes its handle; a descriptor that is malformed, misaligned or unreadable, a graph that does not pass, and a
seventeenth live phase are answered with their statuses. A remote module's acknowledgement is taken and its refusal
cancels the phase with PEER; a die's is taken once its graphs are committed with no commit or decision pending. The
phase starts after the last acknowledgement, and each of its graphs opens an epoch, here and, as it tells them, on the
other modules that it names. phend closes a graph's epoch, or marks a phase that has not started. A cancellation that
comes from another module cancels the phase, or this module's graphs of a phase of another module. Where it goes beyond
those rules it rests on the model's own readings, log 51, 52, 77 and 87. -/
def Obligations.PhaseLife : Prop :=
  (∀ d a (s : State) x (s1 : State) es, Says.Free s → Says.Reads s [a] [x] s1 → s1.phaseDesc x = some es → s1.phaseRefusal es = none →
    ((s1.part s1.pid).phases.filter (·.pcc.state = .open_)).length < 16 →
    ∃ (u : State) (ph : Phase), Says.Answers (.phase d a) s d (phaseHandle s1.pid (s1.part s1.pid).nextPhase) u ∧ u.mem = s.mem ∧ u.cores = s1.cores ∧ u.tiles = s1.tiles ∧
      (u.part s1.pid).phases = (s1.part s1.pid).phases ++ [ph] ∧ ph.serial = (s1.part s1.pid).nextPhase ∧ ph.entries = es ∧
      ph.started = false ∧ (u.part s1.pid).nextPhase = (s1.part s1.pid).nextPhase + 1 ∧
      ∀ q ∈ s1.phaseRegions es, (u.region q.2.core q.2.bslot).bind (·.phase) = some (s1.module, ph.serial)) ∧
  (∀ d a (s : State) x (s1 : State), Says.Free s → Says.Reads s [a] [x] s1 →
    (s1.phaseDesc x = none → Says.Answers (.phase d a) s d (hStatus hDESC) s1) ∧
    (∀ es, s1.phaseDesc x = some es →
      (∀ e, s1.phaseRefusal es = some e → Says.Answers (.phase d a) s d (hStatus e) s1) ∧
      (s1.phaseRefusal es = none → 16 ≤ ((s1.part s1.pid).phases.filter (·.pcc.state = .open_)).length →
        Says.Answers (.phase d a) s d (hStatus hBUSY) s1))) ∧
  (∀ a (s : State) h (s1 : State), Says.Free s → Says.Reads s [a] [h] s1 →
    (∀ (r : Region), hLevel h ≠ 3 → s1.graphMine h = .ok r → s1.inLivePhase r = false →
      exec (.phend a) s = .next (Says.goesOn (s1.closeEpoch r) (s1.closeEpoch r))) ∧
    (∀ (ph : Phase), hLevel h = 3 → s1.phaseOf h = .ok ph → ph.started = false →
      exec (.phend a) s = .next (Says.goesOn s1
        ((s1.onPhase s1.pid ph.serial fun x => { x with phended := true }).tellAway s1.pid ph.serial ph.entries .close)))) ∧
  (∀ (s : State) (ph : Phase), (s.part s.input.p).phases.find? (·.serial = s.input.serial) = some ph → ph.pcc.state = .open_ →
    (∀ m, s.input.who = .module m → s.input.hub = none → ph.acks.contains s.input.who = true →
      (s.input.ok = true → exec .phaseAck s = .next
        ((s.onPhase s.input.p ph.serial fun x => { x with acks := x.acks.erase s.input.who }).onPhase s.input.p ph.serial
          fun x => { x with entries := tellSinks m x.entries s.input.far })) ∧
      (s.input.ok = false → exec .phaseAck s = .next
        ((s.failPhase s.input.p ph ⟨m, ⟨0, 0, 0⟩, 0x0D⟩).jobCount s.input.p (some ⟨m, ⟨0, 0, 0⟩, 0x0D⟩)))) ∧
    (∀ n, s.input.who = .die n → ph.acks.contains s.input.who = true →
      (∀ q ∈ s.phaseRegions ph.entries, dieOf q.2.core = n → q.2.resident = true ∧ (∀ g, q.2.staging = some g → g.serial ≠ hSerial q.1.graph) ∧
        q.2.commitWait = false ∧ q.2.fenced = false ∧ q.2.decision = none) →
      exec .phaseAck s = .next (s.onPhase s.input.p ph.serial fun x => { x with acks := x.acks.erase s.input.who })) ∧
    (ph.started = false → ph.cancelled = false → ph.acks = [] →
      let staging := s.cores[ph.core].stageEn
      let v := (s.onPhase s.input.p ph.serial fun x => { x with started := true, staging }).tellAway s.input.p ph.serial ph.entries
        (.begin_ staging)
      exec .phaseStart s = .next ((v.phaseRegions ph.entries).foldl
        (fun (u : State) (q : PhaseEntry × Region) => u.epochCheck q.2.core q.2.bslot) ((v.phaseRegions ph.entries).foldl
          (fun (u : State) (q : PhaseEntry × Region) => (u.onRegion q.2.core q.2.bslot fun r =>
            { r.openEpoch with closing := ph.phended && q.1.count == 0 }).bindCut ((u.region q.2.core q.2.bslot).getD q.2)) v))) ∧
    ((∃ n, s.input.who = .die n) ∨ s.input.who = .module s.module → (s.part s.input.p).saved = none → ph.cancelled = false →
      exec .remotePhaseCancel s = .next (s.cancelPhase s.input.p ph s.input.module))) ∧
  (∀ (s : State) (ph : Phase) m, m ≠ s.module → s.input.who = .module m → (s.part s.input.p).saved = none →
    s.phaseAt s.input.p (m, s.input.serial) = some ph → ph.cancelled = false → exec .remotePhaseCancel s = .next
      ((s.onGuest s.input.p (m, s.input.serial) fun x => { x with cancelled := true }).cancelEntries s.input.p ph s.input.module))

/-- R137, R138: cwait waits while the counter its handle names is OPEN, and then answers 0 for COMPLETE and the cause for
CANCELLED; cread answers the counter's word at once; a handle that names nothing is answered with its status. Where it
goes beyond those rules it rests on the model's own readings, log 25. -/
def Obligations.CounterReads : Prop :=
  ∀ d a (s : State) h (s1 : State), Says.Free s → Says.Reads s [a] [h] s1 →
    (∀ e, s1.counterOf h = .error e →
      Says.Answers (.cwait d a) s d (hStatus e) s1 ∧ Says.Answers (.cread d a) s d (hStatus e) s1) ∧
    (∀ k, s1.counterOf h = .ok k →
      Says.Answers (.cread d a) s d k.word s1 ∧
      (k.state = .open_ → exec (.cwait d a) s = .next s) ∧
      (k.state = .complete → Says.Answers (.cwait d a) s d 0 (s1.cwaitAcquire h)) ∧
      (k.state = .cancelled → Says.Answers (.cwait d a) s d (BitVec.ofNat 64 k.cause.toNat) (s1.cwaitAcquire h)))

/-- R139 to R141, R288: cpy of a well-formed block enters the copy with the next serial, charged to the launch that b names
or to none, and answers 0; a block that is malformed, misaligned or unreadable is answered DESC, a launch that cannot be
charged its status, and with 64 copies outstanding cpy waits. A copy that is charged to no launch and has no channel
lands its bytes and lowers NC once the earlier stores of its core are performed; one that fails is recorded in CPY_STAT
while that holds no failure. Where it goes beyond those rules it rests on the model's own readings, log 11 and 54. -/
def Obligations.CopyLife : Prop :=
  (∀ d a b (s : State) x y (s1 : State), Says.Free s → Says.Reads s [a, b] [x, y] s1 →
    (64 ≤ s.core.copies.length → exec (.cpy d a b) s = .next s) ∧
    (s.core.copies.length < 64 →
      (x.toNat % 64 ≠ 0 → Says.Answers (.cpy d a b) s d (hStatus hDESC) s1) ∧
      (∀ e, s.readCore x.toNat 64 = .error e → Says.Answers (.cpy d a b) s d (hStatus hDESC) s1) ∧
      (∀ blk, x.toNat % 64 = 0 → s.readCore x.toNat 64 = .ok blk →
        (copyOf blk s.core.copySerial none = none → Says.Answers (.cpy d a b) s d (hStatus hDESC) s1) ∧
        (∀ op e, copyOf blk s.core.copySerial none = some op → s1.chargeOf y = .error e →
          Says.Answers (.cpy d a b) s d (hStatus e) s1) ∧
        (∀ op, copyOf blk s.core.copySerial none = some op → y = 0 →
          Says.Answers (.cpy d a b) s d 0 (s1.setCore { s1.core with
            copies := s1.core.copies ++ [{ op with check := s.core.cmode, after := s.core.stores.length,
                                                   since := (s.clock (.copies s.cur)).c, known := (s.clock (.core s.cur)).h }],
            copySerial := s1.core.copySerial + 1 })) ∧
        (∀ op bs q ser, copyOf blk s.core.copySerial none = some op → s1.chargeOf y = .ok (some (bs, q, ser)) →
          Says.Answers (.cpy d a b) s d 0 ((s1.setCore { s1.core with
            copies := s1.core.copies ++ [{ op with
              charge := some (bs, q, ser), check := s.core.cmode, after := s.core.stores.length,
              nth := (op.chan.map fun k => ((s.region s.cur bs).map fun r => lookupD r.chans (ser, k) 0).getD 0).getD 0,
              since := (s.clock (.copies s.cur)).c, known := (s.clock (.core s.cur)).h }],
            copySerial := s1.core.copySerial + 1 }).onRegion s.cur bs (·.charge ser op.chan)))))) ∧
  (∀ (s : State) (op : CopyOp) rd wr, (s.core.copies.filter (·.ended.isNone))[s.input.index]? = some op →
    s.copyStalled s.cur op = false → op.charge = none → op.chan = none →
    (s.input.copy = .landed → op.acq = none → op.rel = none → op.check = false → op.after = 0 → op.len ≠ 0 →
      s.peerEnd op.src = false → s.peerEnd op.dst = false →
      s.check s.pid copyWindows .read (chunks op.src.toNat op.len) = .ok rd →
      s.check s.pid copyWindows .write (chunks op.dst.toNat op.len) = .ok wr →
      ∃ (t : State), exec .copyComplete s = .next t ∧
        t.mem = (s.copyWrite op (s.gather rd) (s.keptChunks op (s.rivals s.cur op)) none wr).mem ∧
        (∀ o ∈ t.core.copies, o.serial ≠ op.serial) ∧ t.core.cpyV = s.core.cpyV) ∧
    (∀ k, s.input.copy = .failed k → s.core.cpyV = false →
      exec .copyComplete s = .next (Says.withCore s { s.core with
        copies := s.core.copies.filter (·.serial ≠ op.serial), cpyV := true, cpyCause := k,
        cpyAddr := BitVec.ofNat 57 op.dst.toNat })))
/-! ## Where instructions that may also wait, trap or be refused complete -/

/-- Conditions under which these complete, each with its own effect: wait, fence, ldc, stf, binq, binset, cfgld, cfgchk,
launch, param, phase, phend, cancel.launch, cancel.graph, cancel.phase, cancel.job, cwait, cread and cpy. A word that an
instruction answers with goes to d where d can take it. And these steps: WAIT_ENTRY_RESEND, SECURITY_PROCESSOR_VERIFY,
LAUNCH_RECORD_ENQUEUE, LAUNCH_START, PHASE_ACK, PHASE_START, REMOTE_PHASE_CANCEL, LAUNCH_WIDE_ERROR_PURGE,
ECC_UNCORRECTABLE, BALANCER_SAMPLE, BALANCER_MOVE and COPY_COMPLETE. Where it goes beyond those rules it rests on the
model's own readings, log 17, 25, 27, 35, 37, 51, 52, 54, 81, 84, 85, 87, 88 and 95. -/
def Obligations.WaitingInstructionsComplete : Prop :=
  (∀ (l n c k : BitVec 5) (s : State), Says.Free s → s.core.loads = [] → s.core.stores = [] → s.core.copies = [] → s.core.recs = [] →
    ∃ (t : State), exec (.wait l n c k) s = .next t ∧ { t with clocks := s.clocks } = Says.goesOn s s) ∧
  (∀ sc k (s : State), Says.Free s → s.core.loads = [] → s.core.stores = [] →
    ∃ (t : State), exec (.fence sc k) s = .next t ∧ t.core.pc = s.core.pc + 4 ∧ t.mem = s.mem) ∧
  (∀ a (s : State) x (s1 : State) off, Memory.wf s = true → Says.Free s → s.core.cmode = false → s.core.loads = [] → s.core.stores = [] →
    s.waits = [] → Says.Reads s [a] [x] s1 → x.toNat = spadBase + off → off < 2 ^ 29 → s.granted s.pid .spad x.toNat 8 false = true →
    let b := s.bin (off / 256)
    (∀ d, Says.Plain s d → off / 2 % 4 = 0 → b.full = true → ∃ (t : State), exec (.ldc d a) s = .next t ∧ t.core.pc = s.core.pc + 4 ∧
      t.core.loads.length = 1) ∧
    (∀ c y (s2 : State), off % 8 = 0 → b.full = false → Says.Reads s [a, c] [x, y] s2 → ∃ (t : State), exec (.stf a c) s = .next t ∧
      t.core.pc = s.core.pc + 4 ∧ Says.Stored s t (spadBase + off) (Says.bytesOf y 8)) ∧
    (∀ d, Says.Answers (.binq d a) s d b.word s1) ∧
    (∀ v, off % 8 = 0 → ∃ (t : State), exec (.binset a v) s = .next t ∧ t.core.pc = s.core.pc + 4 ∧
      t.bin (off / 256) = ⟨v == 1, 0, off / 8 % 32 + 1, false, b.seq, none⟩)) ∧
  (∀ d a b (s : State) x y (s1 : State) (h : ImgHdr) org hb sig es eb g ps, Says.Free s → Says.Reads s [a, b] [x, y] s1 →
    s1.loadHeader x y = .ok (h, org, hb, sig) → s1.loadEdges h org x.toNat = .ok (es, eb) → s1.originOk h org y = true →
    (∀ r ∈ s1.regions, r.core ≠ s1.cur) →
    let k : BitVec 3 := BitVec.ofNat 3 (Config.slotPick s1.fresh % 8)
    let u : State := { s1 with fresh := s1.fresh + 1 }
    let gen := s1.core.gens[k.toNat]'k.isLt
    u.loadBody x h org hb sig es eb none (s1.core.gmodeOf k) gen = .ok (g, ps) →
    let r := { Region.fresh s1.cur k s1.pid org h.w h.h gen with staging := some g }
    Says.Answers (.cfgld d a b) s d r.handle (State.logPairs { u with regions := u.regions ++ [r] } ps)) ∧
  (∀ d a (s : State) h (s1 : State) (r : Region), Says.Free s → Says.Reads s [a] [h] s1 → s1.graphMine h = .ok r →
    (∀ (g : Staging), r.stagingOf h = some g → g.sigOk = some true → g.crcBad = [] →
      Says.Answers (.cfgchk d a) s d 0 (s1.setRegion { r with staging := some { g with passed := true } })) ∧
    (∀ p, Says.Plain s d → s.core.recs = [] → s1.closed r = false → r.slave = false → s.preTaken s.core.lpre0h = true →
      s.preTaken s.core.lpre1h = true → ∃ (t : State), exec (.launch d a p) s = .next t ∧ t.core.pc = s.core.pc + 4 ∧
        t.core.recs.length = 1 ∧ t.mem = s.mem) ∧
    (hLevel h ≠ 3 → s1.inLivePhase r = false → exec (.phend a) s = .next (Says.goesOn (s1.closeEpoch r) (s1.closeEpoch r))) ∧
    (r.stagingOf h = none → r.live ≠ [] → Says.Answers (.cancelGraph d a) s d 0 (s1.cancelGraph r.core r.bslot s.module))) ∧
  (∀ a b n (s : State) h w (s1 : State) (r : Region), Says.Free s → Says.Reads s [a, b] [h, w] s1 → s1.graphMine h = .ok r →
    s1.closed r = false → exec (.param a b n) s = .next (Says.goesOn s1 (s1.setRegion
      { r with pending := r.pending.set (BitVec.toNat (w := 2) n) w n.isLt }))) ∧
  (∀ d a (s : State) x (s1 : State) es, Says.Free s → Says.Reads s [a] [x] s1 → s1.phaseDesc x = some es → s1.phaseRefusal es = none →
    (∀ ph ∈ (s1.part s1.pid).phases, ph.pcc.state ≠ .open_) →
    ∃ (u : State), Says.Answers (.phase d a) s d (phaseHandle s1.pid (s1.part s1.pid).nextPhase) u ∧ u.mem = s1.mem ∧ u.cores = s1.cores ∧
      (u.part s1.pid).nextPhase = (s1.part s1.pid).nextPhase + 1) ∧
  (∀ d a (s : State) h (s1 : State), Says.Free s → Says.Reads s [a] [h] s1 →
    (∀ (r : Region) l, s1.launchMine h = .ok (r, .live l) → Says.Answers (.cancelLaunch d a) s d 0
      ((s1.setRegion { r with hung := false }).cancelLive r.core r.bslot l.seq ⟨s.module, r.origin, 0x01⟩)) ∧
    (∀ (ph : Phase), s1.phaseOf h = .ok ph → ph.pcc.state = .open_ → ph.cancelled = false →
      Says.Answers (.cancelPhase d a) s d 0 (s1.cancelPhase s1.pid ph s.module)) ∧
    (s1.jobOk h = true → (s1.part s1.pid).jcc.state = .open_ →
      let x := s1.part s1.pid
      let u := s1.setPart s1.pid { x with jobCancel := true, jcc := x.jcc.blame ⟨s1.module, ⟨0, 0, 0⟩, 0x01⟩ }
      Says.Answers (.cancelJob d a) s d 0 (State.jobEnd ((x.phases.filter fun ph => ph.pcc.state = .open_).foldl (fun (v : State) ph =>
        if ph.started = false then v.discardPhase s1.pid ph else if ph.cancelled = true then v
        else v.cancelPhase s1.pid ph s1.module) u) s1.pid)) ∧
    (∀ (k : Counter), s1.counterOf h = .ok k → Says.Answers (.cread d a) s d k.word s1 ∧
      (k.state = .complete → Says.Answers (.cwait d a) s d 0 (s1.cwaitAcquire h)))) ∧
  (∀ d a b (s : State) x (s1 : State) blk op, Says.Free s → Says.Reads s [a, b] [x, 0] s1 → s.core.copies = [] → x.toNat % 64 = 0 →
    s.readCore x.toNat 64 = .ok blk → copyOf blk s.core.copySerial none = some op →
    Says.Answers (.cpy d a b) s d 0 (s1.setCore { s1.core with
      copies := s1.core.copies ++ [{ op with check := s.core.cmode, after := s.core.stores.length,
                                             since := (s.clock (.copies s.cur)).c, known := (s.clock (.core s.cur)).h }],
      copySerial := s1.core.copySerial + 1 })) ∧
  (∀ (s : State) e, s.waits.find? (fun x => !x.sent) = some e →
    exec .waitEntryResend s = .next (State.enqueueWait { s with waits := dropFirst (fun x => !x.sent) s.waits } e)) ∧
  (∀ (s : State) q rest, (s.part (s.verified + 1)).chkq = q :: rest → (s.part (s.verified + 1)).saved = none →
    ∃ (t : State), exec .securityProcessorVerify s = .next t ∧ (t.part (s.verified + 1)).chkq = rest ∧ t.mem = s.mem) ∧
  (∀ (s : State) (r : Region), Says.regionNow s = some r →
    (∀ o rest, s.recsOf r = o :: rest → r.queue = [] → o.mbx = false → ∃ (t : State), exec .launchRecordEnqueue s = .next t ∧
      t.core.recs = s.core.recs.erase o ∧ t.mem = s.mem) ∧
    (∀ q, s.eligible r 3 = true → r.headOf 3 = some q → (∀ k, k < 3 → s.eligible r k = false) → ∃ st,
      exec .launchStart s = .next ((s.setRegion { r with starve := st }).startRec { r with starve := st } q)) ∧
    (s.input.k = 0 → exec .eccUncorrectable s = .next (s.failLive s.cur s.input.bslot s.input.seq ⟨s.module, r.origin, 0x08⟩)) ∧
    (∀ t n, r.move = some (t, n) → s.stageEmpty r t (lookupD r.serving t 0) = true → exec .balancerMove s = .next (s.setRegion
      { r with serving := assign r.serving t n, move := none, moved := assign r.moved t s.cores[r.core].cycle }))) ∧
  (∀ (s : State) (ph : Phase), (s.part s.input.p).phases.find? (·.serial = s.input.serial) = some ph → ph.pcc.state = .open_ →
    (∀ n, s.input.who = .die n → ph.acks.contains s.input.who = true →
      (∀ q ∈ s.phaseRegions ph.entries, dieOf q.2.core ≠ n) →
      exec .phaseAck s = .next (s.onPhase s.input.p ph.serial fun x => { x with acks := x.acks.erase s.input.who })) ∧
    (ph.started = false → ph.cancelled = false → ph.acks = [] → s.phaseRegions ph.entries = [] → exec .phaseStart s = .next
      ((s.onPhase s.input.p ph.serial fun x => { x with started := true, staging := s.cores[ph.core].stageEn }).tellAway s.input.p
        ph.serial ph.entries (.begin_ s.cores[ph.core].stageEn))) ∧
    ((∃ n, s.input.who = .die n) → (s.part s.input.p).saved = none → ph.cancelled = false → exec .remotePhaseCancel s = .next (s.cancelPhase s.input.p ph s.input.module))) ∧
  (∀ (s : State) r w, s.regionOf s.tile = some r → (s.tileAt s.tile).wideAt s.st = some w → s.outCredit r s.tile s.st none = true →
    r.hung = false → (s.tileAt s.tile).broken = false → (s.part r.part).pre = .running →
    exec .launchWideErrorPurge s = .next (s.purge r s.tile s.st w.seq (w.err (s.self s.tile 0)))) ∧
  (∀ (s : State), s.core.balEn = true → exec .balancerSample s = .next { s with regions := s.regions.map fun (r : Region) =>
    if r.core = s.cur ∧ r.resident = true ∧ 256 ≤ r.occTime then
      { r with occ := [], occTime := 0,
               move := if r.move = none ∧ 5 ≤ s.core.balTh.toNat then s.chooseMove r s.core.balTh.toNat else r.move } else r }) ∧
  (∀ (s : State) (op : CopyOp) k, (s.core.copies.filter (·.ended.isNone))[s.input.index]? = some op → s.copyStalled s.cur op = false →
    op.charge = none → op.chan = none → s.input.copy = .failed k → s.core.cpyV = false →
    exec .copyComplete s = .next (Says.withCore s { s.core with
      copies := s.core.copies.filter (·.serial ≠ op.serial), cpyV := true, cpyCause := k, cpyAddr := BitVec.ofNat 57 op.dst.toNat }))

/-! ## Stitched tensors -/

/-- R294, R299, R302, R303: stver answers the header word; stpin pins the current version and answers its token, or PINFULL;
stunpin gives a pin back, and traps on a value that names no live pinned version; stlook answers the row's address,
BADPIN or RANGE; without an arena, or for a bad handle, the status is answered. `ord` is the model's own record of what
later loads may read (log 95). R300, R304, R306, R307: splice, once the core's earlier accesses are performed at its
scope, checks in R300's order (NOARENA and BADLIST, DESC, STALEV, RANGE, VFULL, LIMIT, NOSPACE), answers the first
failure and changes nothing; when none fails it publishes the next version with the new length, in the slot that R300
names, enters the removed pieces on the retirement list and answers the version's number. A retired piece's record is
posted to the reclaim queue of the core that removed it, which advances. Where it goes beyond those rules it rests on
the model's own readings, log 25 and 33. -/
def Obligations.StitchInstructions : Prop :=
  (
  (∀ d a (s : State) h (s1 : State), Says.Free s → Says.Reads s [a] [h] s1 →
    (∀ e, s.listOf s.pid h = .error e → Says.Answers (.stver d a) s d (BitVec.ofInt 64 e) s1 ∧
      Says.Answers (.stpin d a) s d (BitVec.ofInt 64 e) s1) ∧
    (∀ n, s.listOf s.pid h = .ok n →
      Says.Answers (.stver d a) s d
        (memDword s.mem ((s.part s.pid).staBase.toNat * 2 ^ 16 + 64 * n) &&& 0x07FFFFFFFFFFFFFF) (s1.readHdrWord (.core s.cur) s.pid n) ∧
      (49151 ≤ ((s.listHdr s.pid n).slot (s.listHdr s.pid n).cur).pins →
        Says.Answers (.stpin d a) s d (BitVec.ofInt 64 (-22)) s1) ∧
      (((s.listHdr s.pid n).slot (s.listHdr s.pid n).cur).pins < 49151 → Memory.wf s = true →
        let g := s.listHdr s.pid n
        ∃ (u : State), Says.Answers (.stpin d a) s d
            (field 0 32 g.ver.toNat ||| field 32 3 g.cur ||| field 35 16 n ||| 0x4000000000000000) u ∧
          (u.listHdr s.pid n).word = g.word ∧ ((u.listHdr s.pid n).slot g.cur).pins = (g.slot g.cur).pins + 1 ∧
          ((u.listHdr s.pid n).slot g.cur).live = true ∧ u.core = { s1.core with ord := u.core.ord } ∧ u.parts = s.parts ∧
          ∀ k, k < (s.part s.pid).hdrAt n ∨ (s.part s.pid).hdrAt n + 64 ≤ k → memGet u.mem k = memGet s.mem k))) ∧
  (∀ a (s : State) tok (s1 : State), Says.Free s → Says.Reads s [a] [tok] s1 →
    (s.tokenOf s.pid tok = none → exec (.stunpin a) s = .next (s.trap 0x12 tok)) ∧
    (∀ n i, s.tokenOf s.pid tok = some (n, i) → Memory.wf s = true →
      let g := s.listHdr s.pid n
      ∃ (u : State), exec (.stunpin a) s = .next (Says.goesOn u u) ∧ (u.listHdr s.pid n).word = g.word ∧
        ((u.listHdr s.pid n).slot i).pins = (g.slot i).pins - 1 ∧
        (((u.listHdr s.pid n).slot i).live = true ↔ i = g.cur ∨ 1 < (g.slot i).pins) ∧ u.core = s1.core ∧
        ∀ k, k < (s.part s.pid).hdrAt n ∨ (s.part s.pid).hdrAt n + 64 ≤ k → memGet u.mem k = memGet s.mem k)) ∧
  (∀ d a b (s : State) tok x (s1 : State), Says.Free s → Says.Reads s [a, b] [tok, x] s1 →
    ((s.part s.pid).nlist = 0 → Says.Answers (.stlook d a b) s d (BitVec.ofInt 64 (-16)) s1) ∧ ((s.part s.pid).nlist ≠ 0 →
    (∀ e, tok.getLsbD 62 = false → s.listOf s.pid tok = .error e → Says.Answers (.stlook d a b) s d (BitVec.ofInt 64 e) s1) ∧
    (tok.getLsbD 62 = true → s.tokenOf s.pid tok = none → Says.Answers (.stlook d a b) s d (BitVec.ofInt 64 (-25)) s1) ∧
    (tok.getLsbD 62 = true → ∀ n i, s.tokenOf s.pid tok = some (n, i) →
      (s.listRow s.pid n i x.toNat = none → Says.Answers (.stlook d a b) s d (BitVec.ofInt 64 (-23)) s1) ∧
      (∀ r, s.listRow s.pid n i x.toNat = some r → Says.Answers (.stlook d a b) s d (r.1.setWidth 64) s1)) ∧
    (tok.getLsbD 62 = false → ∀ n, s.listOf s.pid tok = .ok n →
      (s.listRow s.pid n (s.listHdr s.pid n).cur x.toNat = none →
        Says.Answers (.stlook d a b) s d (BitVec.ofInt 64 (-23)) (s1.readHdrWord (.core s.cur) s.pid n)) ∧
      (∀ r, s.listRow s.pid n (s.listHdr s.pid n).cur x.toNat = some r →
        Says.Answers (.stlook d a b) s d (r.1.setWidth 64) (s1.readHdrWord (.core s.cur) s.pid n)))))) ∧
  (
  (∀ d a b (s : State) h x (s1 : State), Says.Free s → Says.Reads s [a, b] [h, x] s1 →
    (∀ e, s.listOf s.pid h = .error e → Says.Answers (.splice d a b) s d (BitVec.ofInt 64 e) s1) ∧
    (∀ n, s.listOf s.pid h = .ok n → s1.spliceReq x = none →
      Says.Answers (.splice d a b) s d (BitVec.ofInt 64 (-21)) s1) ∧
    (∀ n q, s.listOf s.pid h = .ok n → s1.spliceReq x = some q → 1 ≤ q.scope.toNat →
      s.core.loads ≠ [] ∨ (∃ st ∈ s.core.stores, ((st.near.map Prod.fst).getD 0).toNat < q.scope.toNat) →
      exec (.splice d a b) s = .next s) ∧
    (∀ n q, s.listOf s.pid h = .ok n → s1.spliceReq x = some q → s.core.loads = [] → s.core.stores = [] →
      let g := s1.listHdr s.pid n
      (q.chk = true → g.ver ≠ q.expv → Says.Answers (.splice d a b) s d (BitVec.ofInt 64 (-24)) s1) ∧
      ((q.chk = true → g.ver = q.expv) → g.len < q.index + q.nrem →
        Says.Answers (.splice d a b) s d (BitVec.ofInt 64 (-23)) s1) ∧
      ((q.chk = true → g.ver = q.expv) → q.index + q.nrem ≤ g.len →
        (g.newSlot = none → Says.Answers (.splice d a b) s d (BitVec.ofInt 64 (-18)) s1) ∧
        (∀ i, g.newSlot = some i →
          let runs := s1.runsOf s.pid (g.slot g.cur).spine
          let new := spliceRuns runs q.index (q.index + q.nrem) q.ins
          let len := g.len - q.nrem + (q.ins.map Piece.plen).sum
          let removed := cutOut q.index (q.index + q.nrem) 0 (runs.flatMap Prod.snd)
          let need := if len = 0 then 0 else (new.filter fun r => r.1.isNone).length + 1
          let tooBig := 2 ^ 24 - 1 < len ∨ 1792 < (new.map fun r => r.2.length).sum ∨ 112 < new.length
          let noRoom := (s1.freeBlocks s.pid).length < need ∨ 4096 < (s1.part s.pid).retired.length + removed.length
          (tooBig → Says.Answers (.splice d a b) s d (BitVec.ofInt 64 (-19)) s1) ∧
          (¬tooBig → noRoom → Says.Answers (.splice d a b) s d (BitVec.ofInt 64 (-20)) s1) ∧
          (¬tooBig → ¬noRoom → Memory.wf s1 = true → ∃ (u : State),
            Says.Answers (.splice d a b) s d (BitVec.ofNat 64 ((g.ver.toNat + 1) % 2 ^ 32)) u ∧
            (u.listHdr s.pid n).ver = g.ver + 1 ∧ (u.listHdr s.pid n).len = len ∧ (u.listHdr s.pid n).cur = i ∧
            (u.part s.pid).retired = (s1.part s.pid).retired ++ removed.map (fun r => (⟨s.cur, BitVec.ofNat 16 n, g.ver + 1, r.vbase,
              BitVec.ofNat 24 r.plen, r.pitch, r.borrow, r.rdonly, r.tagw, false⟩ : Retired)) ∧
            u.core = s1.core))))) ∧
  (∀ (s : State) r (s2 : State) q, s.nextReclaim s.input.p = some r →
    let p := s.input.p
    let s1 := s.setPart p { s.part p with retired := (s.part p).retired.erase r }
    s1.post p ((s.rclqOf p r.core).getD Ring.zero) r.record = .posted s2 q →
    exec .reclaimRecordPost s = .next (s2.setRclq p r.core q)))

/-! ## Sequences -/

/-- R411 to R414: seqbind checks in R412's order, answers the first failure's status and changes nothing: a slot that is not
granted (NOGRANT), then one that is bound (SLOTUSE); a block beyond the address space or unreadable (RDFAULT), a
malformed one (BLOCK); a sampler or program slot that is not granted (NOGRANT); a header that seqbind does not accept
(VOCAB); a program that cannot be read (RDFAULT) and its first bad word; a program slot that holds another program of
bound slots (PDIFF). When none fails the program is loaded, the slot is bound, with CLR the sequence's STEP, LAST, LV
and CFULL are 0, and the answer is 0. sequnbind takes the binding away once no run of the slot is queued or in progress;
seqstep answers the state word once none is in progress. Where it goes beyond those rules it rests on the model's own
readings, log 61. -/
def Obligations.SequenceBindings : Prop :=
  (∀ d a b (s : State) x y (s1 : State), Says.Free s → Says.Reads s [a, b] [x, y] s1 →
    let answers (v : Word) := Says.Answers (.seqbind d a b) s d v s1
    Says.Answers (.seqbind d a b) s d (s1.seqbind x y).1 (s1.seqbind x y).2 ∧
    ((s1.seqbind x y).1 ≠ 0 → (s1.seqbind x y).2 = s1) ∧
    (s1.larderSlot x = none → answers 0xC000000000000012) ∧
    (∀ k, s1.larderSlot x = some k →
      (s1.lbind k ≠ none → answers 0xC000000000000011) ∧
      (s1.lbind k = none →
        (2 ^ 57 ≤ y.toNat ∨ (∃ e, s1.readCore y.toNat 32 = .error e) → answers 0xC000000000000015) ∧
        (∀ blk, y.toNat < 2 ^ 57 → s1.readCore y.toNat 32 = .ok blk →
          let n := ((dwordAt blk 1).extractLsb' 0 9).toNat
          let m : Fin 8 := ⟨((dwordAt blk 1).extractLsb' 9 3).toNat, ((dwordAt blk 1).extractLsb' 9 3).isLt⟩
          let ps := ((dwordAt blk 1).extractLsb' 12 6).toNat
          let formed := y.toNat % 32 = 0 ∧ 1 ≤ n ∧ n ≤ 256 ∧ (dwordAt blk 0).toNat < 2 ^ 57 ∧ (dwordAt blk 0).toNat % 4 = 0 ∧
            (dwordAt blk 1).toNat < 2 ^ 19 ∧ dwordAt blk 2 = 0 ∧ dwordAt blk 3 = 0
          let granted := (s1.part s1.pid).grants.samplers.contains m.val = true ∧
            (s1.part s1.pid).grants.pslots.contains (m.val, ps) = true
          (¬formed → answers 0xC000000000000010) ∧
          (formed → ¬granted → answers 0xC000000000000012) ∧
          (formed → granted → headerOk (s1.viewBytes (larderAt k) 64) = false → answers 0xC000000000000013) ∧
          (formed → granted → headerOk (s1.viewBytes (larderAt k) 64) = true →
            (∀ e, s1.readCore (dwordAt blk 0).toNat (4 * n) = .error e → answers 0xC000000000000015) ∧
            (∀ bytes, s1.readCore (dwordAt blk 0).toNat (4 * n) = .ok bytes →
              let ws : List (BitVec 32) := (List.range n).map fun i => BitVec.ofNat 32 (leNat ((bytes.drop (4 * i)).take 4))
              let other := (∃ o ∈ s1.larder, o.smp = m.val ∧ o.pslot = ps) ∧ lookupD s1.smps[m].progs ps [] ≠ ws
              (∀ q, logitExamine ws = some q → answers (0xC000000000000000 ||| BitVec.ofNat 64 (q.2 % 256 * 256 + q.1 % 256))) ∧
              (logitExamine ws = none → other → answers 0xC000000000000014) ∧
              (logitExamine ws = none → ¬other → Memory.wf s1 = true →
                ∃ (u : State), Says.Answers (.seqbind d a b) s d 0 u ∧ u.larder = s1.larder ++ [⟨k, s1.pid, m.val, ps⟩] ∧
                  lookupD u.smps[m].progs ps [] = ws ∧
                  ((dwordAt blk 1).getLsbD 18 = false → u.mem = s.mem ∧ u.cores = s1.cores) ∧
                  ((dwordAt blk 1).getLsbD 18 = true → (memDword u.mem (larderAt k + 8)).toNat % 2 ^ 32 = 0 ∧
                    (memDword u.mem (larderAt k + 16)).toNat % 2 ^ 20 = 0)))))))) ∧
  (∀ a (s : State) x (s1 : State), Says.Free s → Says.Reads s [a] [x] s1 →
    (s.larderSlot x = none → exec (.sequnbind a) s = .next (s.trap 0x10 x)) ∧
    (∀ k, s.larderSlot x = some k → exec (.sequnbind a) s = .next
      (if s.smps.any (·.uses k true) then s
       else Says.goesOn s1 { s1 with larder := s1.larder.filter (·.slot ≠ k) }))) ∧
  (∀ d a (s : State) x (s1 : State), Says.Free s → Says.Reads s [a] [x] s1 →
    (s.larderSlot x = none → Says.Answers (.seqstep d a) s d (-1) s1) ∧
    (∀ k, s.larderSlot x = some k → s.smps.any (·.uses k false) = true → exec (.seqstep d a) s = .next s) ∧
    (∀ k, s.larderSlot x = some k → s.smps.any (·.uses k false) = false →
      let lo := (memDword s.mem (larderAt k + 16)).toNat % 2 ^ 20
      (∀ c ∈ s.cores.toList, c.stores = []) → s.core.tx = none →
      Says.Answers (.seqstep d a) s d (BitVec.ofNat 64 ((memDword s.mem (larderAt k + 8)).toNat % 2 ^ 32 + lo * 2 ^ 32 +
        (match s1.lbind k with | none => 0 | some b => 2 ^ 52 + b.smp % 8 * 2 ^ 53 + b.pslot % 64 * 2 ^ 56)))
        (s1.acquire 3)))

/-! ## Checkpoints, drains, withheld accesses, hangs -/

/-- R287, R383, R385 to R387: ckpt of a quiet graph answers the generation that it wrote, or CKFAULT, and with a live launch
it stops launch starts and waits; drain of a graph with no live launch freezes the queue, reports the result of its read
of the area and goes on; resume lets the named streams of regions that do not drain go on, each translating its access
again, or refuses those whose access still faults; the hold limit fails a copy with HOLD and drains a region with HOLD;
a hang freezes the region and sets HUNG. Where it goes beyond those rules it rests on the model's own readings, log 12,
68 and 96. -/
def Obligations.CheckpointsAndHolds : Prop :=
  (∀ d a (s : State) h (s1 : State) (r : Region), Says.Free s → Says.Reads s [a] [h] s1 → s1.graphMine h = .ok r → s1.mayPut d = true →
    (r.live ≠ [] ∨ r.draining = true → exec (.ckpt d a) s = .next (s.onRegion r.core r.bslot fun x => { x with ckpting := true })) ∧
    (r.live = [] → r.draining = false →
      let u := (s1.checkpoint r).2.onRegion r.core r.bslot fun x => { x with ckpting := false }
      (∀ g, (s1.checkpoint r).1 = some g → g = r.ckGen + 1 ∧ Says.Answers (.ckpt d a) s d (g.setWidth 64) u) ∧
      ((s1.checkpoint r).1 = none → Says.Answers (.ckpt d a) s d (BitVec.ofInt 64 (-8)) u))) ∧
  (∀ a (s : State) h (s1 : State), Says.Free s → Says.Reads s [a] [h] s1 →
    (∀ e, s1.graphMine h = .error e → exec (.drain a) s = .next (s.trap 0x10 h)) ∧
    (∀ (r : Region), s1.graphMine h = .ok r → r.live = [] →
      let r1 := { r with frozen := true, hung := false, draining := true }
      let u := (s1.setRegion r1).drainEnd r1
      exec (.drain a) s = .next (Says.goesOn u u) ∧ u.cores[r.core].drSlot = r.bslot ∧
        u.cores[r.core].drRes = ((s1.setRegion r1).drainFind r1).1 ∧
        u.region r.core r.bslot = some { r1 with draining := false }) ∧
    (∀ (r : Region) x, s1.graphMine h = .ok r → (s1.drainStart r 0x01).region r.core r.bslot = some x → x.live ≠ [] →
      exec (.drain a) s = .next (s.drainStart r 0x01))) ∧
  (∀ a (s : State) w (s1 : State), Says.Free s → Says.Reads s [a] [w] s1 →
    (s.holderOk w = false → exec (.resume a) s = .next (s.trap 0x10 w)) ∧
    (s.holderOk w = true →
      let named := s1.holds.filter fun x => x.word == w && x.stuck && !s1.holdDrains x
      let u := named.foldl (fun (s : State) x => s.resumeHold x) s1
      exec (.resume a) s = .next (Says.goesOn u u) ∧
      ((∀ x ∈ named, s1.refuses x = false) → ∃ hs ts qs, u = { s1 with holds := hs, tiles := ts, qtlb := qs } ∧
        (∀ y, { u.tileAt y with tlb := [] } = { s1.tileAt y with tlb := [] }) ∧
        (∀ x ∈ named, ∀ y n, x.holder = .ag y n ∨ x.holder = .mem y n → ∀ e ∈ (u.tileAt y).tlb,
          ¬(e.va ≤ x.va.toNat / 2 ^ 16 * 2 ^ 16 ∧ x.va.toNat / 2 ^ 16 * 2 ^ 16 < e.va + e.size)) ∧
        (∀ x ∈ hs, x.word = w → x.stuck = false ∨ s1.holdDrains x = true) ∧
        (∀ x ∈ s1.holds, x.word ≠ w → x.stuck = true → x ∈ hs)))) ∧
  (∀ (s : State) x, (∀ r ∈ s.regions, r.draining = false) → (s.holds.filter (·.stuck))[s.input.index]? = some x →
    (∀ p, s.cores[x.core].part = some p → (s.part p).pre ≠ .halted) →
    exec .holdLimitExpiry s = .next (if 1750 * s.cores[x.core].holdLim.toNat ≤ x.time then s.holdExpires x else s) ∧
    (∀ c n op, x.holder = .copy c n → s.cores[c].copies.find? (·.serial = n) = some op →
      s.holdExpires x = State.endCopy { s with holds := releaseHolds (· == x) s.holds } c op (some 0x06)) ∧
    (∀ t (r : Region), x.holder.tile = some t → s.regionOf t = some r → s.holdExpires x = s.drainStart r 0x06)) ∧
  (∀ (s : State) (r : Region), Says.regionNow s = some r → s.hangable r = true →
    ∃ (t : State), exec .hangDeclared s = .next t ∧ t.core.hung = s.core.hung ||| BitVec.ofNat 8 (2 ^ r.bslot.toNat) ∧
      (t.region s.cur s.input.bslot).map (·.frozen) = some true ∧ (t.region s.cur s.input.bslot).map (·.hung) = some true)

/-! ## Terms of the station statements -/

namespace Sys2Proof.Says

/-- The acting station is on a tile of a resident region and nothing keeps it from firing: the words held their check, the
region is not hung, no output waits for a credit, the partition runs, no launch-wide ERROR stands at it, and the tile has its
credits back (R35, R41, R44, R365, R387, R389, R391). -/
def Ready (s : State) (f : StF) (x : Sta) : Prop :=
  s.sta? f = some x ∧ (s.tileAt s.tile).broken = false ∧ x.r.hung = false ∧ s.blocked s.tile s.st = false ∧
    (s.part x.r.part).pre = .running ∧ (s.tileAt s.tile).wideAt s.st = none ∧ (s.tileAt s.tile).aborted = false

/-- It may fire, and every bound output has a credit (R35). -/
def Fires (s : State) (f : StF) (x : Sta) : Prop := Ready s f x ∧ s.outCredit x.r x.t x.st none = true

/-- It fires over its next ready set `q`; `s1` is the state in which the set is consumed (R32, R34). -/
def Takes (s : State) (f : StF) (x : Sta) (q : List (Nat × Token)) (s1 : State) : Prop :=
  Fires s f x ∧ s.nextSet x (portsOf f) = some (q, s1)

/-- Every token of a set is DATA. -/
def AllData (q : List (Nat × Token)) : Prop := ∀ e ∈ q, e.2.kind = .data

/-- A station that never pairs fires with the token `t` at the head of a port. -/
def HasHead (s : State) (f : StF) (x : Sta) (p : Nat) (t : Token) : Prop := Fires s f x ∧ s.hd x p = some t

/-- The amount of a station's shift: a token's low six bits, else the immediate (R217). -/
def stationShift (f : StF) (q : List (Nat × Token)) : Nat :=
  match tokAt q 1 with
  | some t => t.pay.word.toNat % 64
  | none => f.k.toNat

/-- The six conditions over two values (R217). -/
def conditionOf (n : Nat) (a b : Int) : Bool :=
  match n with
  | 0 => decide (a = b)
  | 1 => decide (a ≠ b)
  | 2 => decide (a < b)
  | 3 => decide (a ≤ b)
  | 4 => decide (b < a)
  | _ => decide (b ≤ a)

/-- A word as the unsigned or signed value that bit 3 of AUX asks for (R217). -/
def valueOf (f : StF) (w : Word) : Int := if f.aux.getLsbD 3 then w.toNat else w.toInt

/-- The integer stations: the word, and the result from a, b, c and the shift amount (R217). -/
def integerStation : Instr → Option (StF × (Word → Word → Word → Nat → Word))
  | .iadd f => some (f, fun a b _ _ => BitVec.ofNat 64 (a.toNat + b.toNat))
  | .isub f => some (f, fun a b _ _ => BitVec.ofInt 64 (a.toInt - b.toInt))
  | .imul f => some (f, fun a b _ _ => BitVec.ofNat 64 (a.toNat * b.toNat))
  | .iand f => some (f, fun a b _ _ => a &&& b)
  | .ior f => some (f, fun a b _ _ => a ||| b)
  | .ixor f => some (f, fun a b _ _ => a ^^^ b)
  | .ishl f => some (f, fun a _ _ n => BitVec.ofNat 64 (a.toNat * 2 ^ n))
  | .ishr f => some (f, fun a _ _ n => BitVec.ofNat 64 (a.toNat / 2 ^ n))
  | .isar f => some (f, fun a _ _ n => BitVec.ofInt 64 (a.toInt / 2 ^ n))
  | .imin f => some (f, fun a b _ _ => pick (valueOf f a ≤ valueOf f b) a b)
  | .imax f => some (f, fun a b _ _ => pick (valueOf f a ≤ valueOf f b) b a)
  | .icmp f => some (f, fun a b _ _ => pick (conditionOf (f.aux.toNat % 8) (valueOf f a) (valueOf f b)) 1 0)
  | .isel f => some (f, fun a b c _ => pick (a ≠ 0) b c)
  | _ => none

/-- The lanewise W48 stations: the word, and a lane's result from its operands (R218 to R220, R222, R251). -/
def floatStation : Instr → Option (StF × (W48 → W48 → W48 → W48))
  | .fadd f => some (f, fun a b _ => wAdd a b f.rm)
  | .fsub f => some (f, fun a b _ => wSub a b f.rm)
  | .fmul f => some (f, fun a b _ => wMul a b f.rm)
  | .fma f => some (f, fun a b c => wFma false false a b c f.rm)
  | .fms f => some (f, fun a b c => wFma false true a b c f.rm)
  | .fnma f => some (f, fun a b c => wFma true false a b c f.rm)
  | .fneg f => some (f, fun a _ _ => wNeg a)
  | .fabs f => some (f, fun a _ _ => wAbs a)
  | .fmin f => some (f, fun a b _ => wMinMax false a b)
  | .fmax f => some (f, fun a b _ => wMinMax true a b)
  | .frnd f => some (f, fun a _ _ => wRnd a f.rm)
  | .frcp f => some (f, fun a _ _ => wRcp a f.rm)
  | .frsq f => some (f, fun a _ _ => wRsq a f.rm)
  | .fdiv f => some (f, fun a b _ => wDiv a b f.rm)
  | .fsqrt f => some (f, fun a _ _ => wSqrt a f.rm)
  | .fexp f => some (f, fun a _ _ => expW a f.rm)
  | .fexp2 f => some (f, fun a _ _ => exp2W a f.rm)
  | .flog2 f => some (f, fun a _ _ => log2W a f.rm)
  | _ => none

/-- The other stations whose one result is a function of their operands: the word, and the payload (R221 to R227). -/
def otherStation : Instr → Option (StF × (State → Sta → List (Nat × Token) → Payload))
  | .fcmp f => some (f, fun s x q =>
      if f.ty = 1 then .scalar (BitVec.ofNat 64 (((List.range 16).filter fun j =>
        fcmpOf f.aux ((s.opLanes x q 0).getD j 0) ((s.opLanes x q 1).getD j 0)).map (2 ^ ·)).sum)
      else .scalar (pick (fcmpOf f.aux (s.opW x q 0) (s.opW x q 1)) 1 0))
  | .fsel f => some (f, fun s x q => s.lanewise x q fun j _ b c =>
      if (if f.ty = 1 then (s.opWord x q 0).getLsbD j = true else s.opWord x q 0 ≠ 0) then b else c)
  | .fclass f => some (f, fun s x q => .scalar (BitVec.ofNat 64 (2 ^ wClass (s.opW x q 0))))
  | .fscale f => some (f, fun s x q => s.lanewise x q fun _ a _ _ => wScale a (s.opWord x q 1) f.rm)
  | .vred f => some (f, fun s x q =>
      .scalar ((pairTree (redOp (f.aux.toNat % 4) f.rm) 16 (s.opLanes x q 0)).setWidth 64))
  | .vdot f => some (f, fun s x q => .scalar ((pairSum
      (List.zipWith (fun a b => wMul a b f.rm) (s.opLanes x q 0) (s.opLanes x q 1)) f.rm).setWidth 64))
  | .vscan f => some (f, fun s x q => .vector (scanLanes (redOp (f.aux.toNat / 2 % 4) f.rm) (f.aux.getLsbD 0)
      (if f.aux.getLsbD 0 then some (redId (f.aux.toNat / 2 % 4)) else none) (s.opLanes x q 0)))
  | .vbcast f => some (f, fun s x q =>
      .vector (List.replicate 16 ((s.opLanes x q 0).getD (if f.aux.getLsbD 4 then f.aux.toNat % 16 else 0) 0)))
  | .vshuf f => some (f, fun s x q => .vector ((List.range 16).map fun j =>
      (s.opLanes x q 0).getD ((s.opWord x q 1).toNat / 2 ^ (4 * j) % 16) 0))
  | .vext f => some (f, fun s x q => .scalar (((s.opLanes x q 0).getD (laneAt q f 1) 0).setWidth 64))
  | .vins f => some (f, fun s x q => .vector ((s.opLanes x q 0).set (laneAt q f 2) (s.opW x q 1)))
  | _ => none

/-- The word of a station that is one of the three. -/
def resultStation (i : Instr) : Option StF :=
  (integerStation i).map (·.1) <|> (floatStation i).map (·.1) <|> (otherStation i).map (·.1)

/-- What a lane's result becomes: one W48, or sixteen lanes for v16 (R218). -/
def lanes (s : State) (x : Sta) (q : List (Nat × Token)) (f : StF) (g : W48 → W48 → W48 → W48) : Payload :=
  if f.ty = 1 then .vector ((List.range 16).map fun j =>
    g ((s.opLanes x q 0).getD j 0) ((s.opLanes x q 1).getD j 0) ((s.opLanes x q 2).getD j 0))
  else .scalar ((g (s.opW x q 0) (s.opW x q 1) (s.opW x q 2)).setWidth 64)

end Sys2Proof.Says

/-! ## Stations -/

/-- R35, R197, R217 to R227, R251: an integer, W48, exponential or vector station that takes a set of DATA gives one DATA
with the set's tag and its result on every bound output. Where it goes beyond those rules it rests on the model's own
readings, log 48. -/
def Obligations.StationResults : Prop :=
  (∀ i f g, Says.integerStation i = some (f, g) → ∀ (s : State) x q (s1 : State), Says.Takes s f x q s1 → Says.AllData q →
    exec i s = .next (s1.emits x.t x.st [(none, ⟨setSeq q, setIter q, .data,
      .scalar (g (s1.opWord x q 0) (s1.opWord x q 1) (s1.opWord x q 2) (Says.stationShift f q)), (0, 0)⟩)])) ∧
  (∀ i f g, Says.floatStation i = some (f, g) → ∀ (s : State) x q (s1 : State), Says.Takes s f x q s1 → Says.AllData q →
    exec i s = .next (s1.emits x.t x.st [(none, ⟨setSeq q, setIter q, .data, Says.lanes s1 x q f g, (0, 0)⟩)])) ∧
  (∀ i f g, Says.otherStation i = some (f, g) → ∀ (s : State) x q (s1 : State), Says.Takes s f x q s1 → Says.AllData q →
    exec i s = .next (s1.emits x.t x.st [(none, ⟨setSeq q, setIter q, .data, g s1 x q, (0, 0)⟩)]))

/-- R33: the rows for a set that is not all DATA, for each of these stations: an ERROR in it gives ERROR with the set's tag;
a kind that the station does not accept gives ERROR KIND; STOPs of one level on every port give one STOP; a mixture
gives ERROR STOPMIS. With no ready set, or a bound output without a credit, nothing happens. Where it goes beyond those
rules it rests on the model's own readings, log 48 and 81. -/
def Obligations.StationRows : Prop :=
  ∀ i f, Says.resultStation i = some f → ∀ (s : State) x, Says.Ready s f x →
    (s.outCredit x.r x.t x.st none = false → exec i s = .next s) ∧
    (s.nextSet x (portsOf f) = none → exec i s = .next s) ∧
    (∀ q (s1 : State), Says.Takes s f x q s1 →
      (∀ e, q.find? (·.2.kind = .error) = some e → exec i s = .next (s1.emits x.t x.st
        [(none, tokE (setSeq q) (setIter q) (e.2.err (s1.self x.t 0)))])) ∧
      ((∀ e ∈ q, e.2.kind ≠ .error) → (∃ e ∈ q, e.2.kind.level = 0 ∧ e.2.kind ≠ .data) → exec i s = .next (s1.emits x.t x.st
        [(none, tokE (setSeq q) (setIter q) (s1.self x.t 0x02))])) ∧
      (∀ n, q ≠ [] → (∀ e ∈ q, e.2.kind = .stop n) → n ≠ 0 →
        exec i s = .next (s1.emits x.t x.st [(none, tokStop (setSeq q) (setIter q) n)])) ∧
      ((∀ e ∈ q, e.2.kind = .data ∨ e.2.kind.level ≠ 0) → (∃ e ∈ q, e.2.kind.level ≠ 0) →
        (∀ n, ∃ e ∈ q, e.2.kind.level ≠ n) → (∀ e ∈ q, e.2.kind ≠ .error) →
        exec i s = .next (s1.emits x.t x.st [(none, tokE (setSeq q) (setIter q) (s1.self x.t 0x03))])))

/-- R202 to R212: steer, gate, dup, tagset and tagnew over a set of values, merge, cmerge, carry, invar, lim, sink and
tagrst over the heads of their ports. Where it goes beyond those rules it rests on the model's own readings, log 56 and
81. -/
def Obligations.RoutingStations : Prop :=
  (∀ f (s : State) x q (s1 : State), Says.Takes s f x q s1 → Says.AllData q →
    let a := (tokAt q 0).getD (tokS 0 0 .data 0)
    (exec (.steer f) s = .next (s1.emits x.t x.st
      (if s1.opWord x q 1 ≠ 0 then [(some 1, a), (some 3, a)] else [(some 0, a), (some 2, a)]))) ∧
    (exec (.gate f) s = .next (if s1.opWord x q 1 ≠ 0 then s1.emits x.t x.st [(none, a)] else s1)) ∧
    ((∀ z ∈ (s.tileAt x.t).slots, z.st = x.st → z.held = none) → exec (.dup f) s = .next ((s1.setSlot x.t
      { s1.slot x.t x.st a.seq with held := if f.k.toNat ≤ 1 then none else some a, cnt := f.k.toNat - 1 }).emits x.t x.st
        [(none, a)])) ∧
    (exec (.tagset f) s = .next (s1.emits x.t x.st [(none,
      if 0xFFFFFE ≤ (s1.opWord x q 1).toNat then tokE a.seq a.iter (s1.self x.t 0x05)
      else { a with iter := BitVec.ofNat 24 (s1.opWord x q 1).toNat })])) ∧
    (let n := f.k.toNat + (s1.slot x.t x.st a.seq).tagc
     n < 0xFFFFFE → ∃ (u : State), exec (.tagnew f) s = .next (u.emits x.t x.st [(none, { a with iter := BitVec.ofNat 24 n })]) ∧
       u = s1.setSlot x.t { s1.slot x.t x.st a.seq with tagc := (s1.slot x.t x.st a.seq).tagc + 1 })) ∧
  (∀ f (s : State) x z t, Says.Fires s f x → (s.tileAt x.t).slots.find? (fun z => z.st == x.st && z.held.isSome) = some z →
    z.held = some t → exec (.dup f) s = .next ((s.setSlot x.t
      { s.slot x.t x.st t.seq with held := if z.cnt ≤ 1 then none else some t, cnt := z.cnt - 1 }).emits x.t x.st
        [(none, t)])) ∧
  (∀ f (s : State) x p t, Says.HasHead s f x p t → p ∈ portsOf f → (∀ k ∈ portsOf f, k ≠ p → s.hd x k = none) →
    f.aux.getLsbD 0 = false → exec (.merge f) s = .next ((s.take x [p]).emits x.t x.st [(none, t)])) ∧
  (∀ f (s : State) x c t, Says.HasHead s f x 2 c → c.kind = .data →
    s.hd x (if c.pay.word ≠ 0 then 1 else 0) = some t →
    exec (.cmerge f) s = .next ((s.take x [2, if c.pay.word ≠ 0 then 1 else 0]).emits x.t x.st [(none, t)])) ∧
  (∀ f (s : State) x a, Says.HasHead s f x 0 a → s.hd x 2 = none → (s.slot x.t x.st a.seq).phase = 0 → a.kind = .data →
    exec (.carry f) s = .next (((s.take x [0]).setSlot x.t { s.slot x.t x.st a.seq with phase := 1 }).emits x.t x.st [(none, a)])) ∧
  (∀ f (s : State) x c b, Says.HasHead s f x 2 c → (s.slot x.t x.st c.seq).phase = 1 → s.hd x 0 = none → c.kind = .data →
    (c.pay.word ≠ 0 → s.hd x 1 = some b → b.kind = .data →
      exec (.carry f) s = .next ((s.take x [2, 1]).emits x.t x.st [(none, b)])) ∧
    (c.pay.word = 0 → exec (.carry f) s = .next ((s.take x [2]).setSlot x.t { s.slot x.t x.st c.seq with phase := 0 }))) ∧
  (∀ f (s : State) x a, Says.HasHead s f x 0 a → s.hd x 1 = none → (s.slot x.t x.st a.seq).phase = 0 → a.kind = .data →
    exec (.invar f) s = .next (((s.take x [0]).setSlot x.t
      { s.slot x.t x.st a.seq with phase := 1, held := some a }).emits x.t x.st [(none, a)])) ∧
  (∀ f (s : State) x b v, Says.HasHead s f x 1 b → s.hd x 0 = none → (s.slot x.t x.st b.seq).phase = 1 →
    (s.slot x.t x.st b.seq).held = some v → b.kind = .data → exec (.invar f) s = .next
      (if b.pay.word ≠ 0 then (s.take x [1]).emits x.t x.st [(none, { b with pay := v.pay, hdr := v.hdr })]
       else (s.take x [1]).setSlot x.t { s.slot x.t x.st b.seq with phase := 0, held := none })) ∧
  (∀ f (s : State) x, Says.Fires s f x → s.hd x 2 = none →
    (∀ h, s.hd x 1 = some h → h.kind.level = 0 → exec (.lim f) s = .next ((s.take x [1]).emits x.t x.st [(none, h)])) ∧
    (∀ h, s.hd x 1 = none → s.hd x 0 = some h → h.kind.level = 0 → s.limOcc x < f.aux.toNat →
      exec (.lim f) s = .next (((s.take x [0]).limAdd x h.seq (· + 1)).emits x.t x.st [(none, h)])) ∧
    (∀ h, s.hd x 1 = none → s.hd x 0 = some h → f.aux.toNat ≤ s.limOcc x → exec (.lim f) s = .next s)) ∧
  (∀ f (s : State) x t, Says.Ready s f x → s.hd x 0 = some t →
    (t.kind.level ≠ 0 → exec (.sink f) s = .next (s.take x [0])) ∧
    (t.kind = .data ∨ t.kind = .done → (∃ l ∈ x.r.live, l.seq = t.seq) → (s.slot x.t x.st t.seq).cnt < f.aux.toNat →
      exec (.sink f) s = .next ((s.take x [0]).sinkCount x.r x.t x.st t.seq 1 none))) ∧
  (∀ f (s : State) x t, Says.HasHead s f x 0 t →
    exec (.tagrst f) s = .next ((s.take x [0]).emits x.t x.st [(none, { t with iter := BitVec.ofNat 24 f.k.toNat })]))

/-- R213 to R216: stopgen, stopadv and count over a set, and one firing of intersect and union over two coordinates. Where
it goes beyond those rules it rests on the model's own readings, log 90. -/
def Obligations.StreamStations : Prop :=
  (∀ f (s : State) x q (s1 : State), Says.Takes s f x q s1 →
    let a := (tokAt q 0).getD (tokS 0 0 .data 0)
    let sl := s1.slot x.t x.st (setSeq q)
    (Says.AllData q → exec (.stopgen f) s = .next (s1.emits x.t x.st
      (if s1.opWord x q 1 = 0 then [(none, a)] else [(none, a), (none,
        if 0xFFFFFE ≤ a.iter.toNat + 1 then tokE a.seq a.iter (s1.self x.t 0x05)
        else tokStop a.seq (BitVec.ofNat 24 (a.iter.toNat + 1)) (f.aux.toNat % 8))]))) ∧
    (Says.AllData q → exec (.stopadv f) s = .next (s1.emits x.t x.st [(none, a)])) ∧
    (Says.AllData q → a.kind = .data → sl.cnt < 0xFFFFFE → exec (.count f) s = .next (s1.setSlot x.t { sl with cnt := sl.cnt + 1 })) ∧
    (∀ n, q ≠ [] → (∀ e ∈ q, e.2.kind = .stop n) → n ≠ 0 →
      exec (.stopadv f) s = .next
        (if f.aux.getLsbD 0 then (if n = 1 then s1 else s1.emits x.t x.st [(none, tokStop (setSeq q) (setIter q) (n - 1))])
         else if n = 7 then s1.emits x.t x.st [(none, tokE (setSeq q) (setIter q) (s1.self x.t 0x03))]
         else s1.emits x.t x.st [(none, tokStop (setSeq q) (setIter q) (n + 1))]) ∧
      (f.aux.toNat % 8 ≤ n → sl.cnt < 0xFFFFFE → exec (.count f) s = .next ((s1.setSlot x.t { sl with cnt := 0 }).emits x.t x.st
        [(none, tokS (setSeq q) (setIter q) .data (BitVec.ofNat 64 sl.cnt)), (none, tokStop (setSeq q) (setIter q) n)])))) ∧
  (∀ f (s : State) x a b, Says.HasHead s f x 0 a → s.hd x 1 = some b → a.kind = .data → b.kind = .data → a.seq = b.seq →
    (a.pay.word.toInt < b.pay.word.toInt →
      exec (.intersect f) s = .next ((s.take x [0]).walkPos x a.seq 1 0) ∧
      exec (.union_ f) s = .next (((s.take x [0]).walkOut x a.seq a.pay.word
        (BitVec.ofNat 64 (s.slot x.t x.st a.seq).pa) (-1)).walkPos x a.seq 1 0)) ∧
    (b.pay.word.toInt < a.pay.word.toInt →
      exec (.intersect f) s = .next ((s.take x [1]).walkPos x a.seq 0 1) ∧
      exec (.union_ f) s = .next (((s.take x [1]).walkOut x a.seq b.pay.word (-1)
        (BitVec.ofNat 64 (s.slot x.t x.st a.seq).pb)).walkPos x a.seq 0 1)) ∧
    (a.pay.word = b.pay.word →
      let u := ((s.take x [0, 1]).walkOut x a.seq a.pay.word (BitVec.ofNat 64 (s.slot x.t x.st a.seq).pa)
        (BitVec.ofNat 64 (s.slot x.t x.st a.seq).pb)).walkPos x a.seq 1 1
      exec (.intersect f) s = .next u ∧ exec (.union_ f) s = .next u)) ∧
  (∀ (s : State) x seq v i j, (s.slot x.t x.st seq).tagc < 0xFFFFFE →
    let sl := s.slot x.t x.st seq
    let it := BitVec.ofNat 24 sl.tagc
    s.walkOut x seq v i j = (s.setSlot x.t { sl with tagc := sl.tagc + 1 }).emits x.t x.st
      [(some 0, tokS seq it .data v), (some 1, tokS seq it .data i), (some 2, tokS seq it .data j)])

/-- R228, R230 to R233, R249, R250, R252: fcvt in its three modes; dsdec and dscut of one token; dsenc and qblk, which
gather a block and give it when it is complete; vpack, vunpk and fmaxrun; qbmap on one token of DATA. Where it goes
beyond those rules it rests on the model's own readings, log 59. -/
def Obligations.ConversionStations : Prop :=
  (∀ f (s : State) x q (s1 : State), Says.Takes s f x q s1 → Says.AllData q →
    let a := (tokAt q 0).getD (tokS 0 0 .data 0)
    let n := a.hdr.2.toNat + 1
    (exec (.fcvt f) s = .next (s1.emits x.t x.st [(none, ⟨setSeq q, setIter q, .data,
      (if f.aux.toNat % 4 = 0 then .scalar ((roundW48 (fvInt (s1.opWord x q 0).toInt 0 false) f.rm).setWidth 64)
       else if f.aux.toNat % 4 = 1 then .scalar (BitVec.ofInt 64 (satInt (fvOf (s1.opW x q 0)) f.rm (-(2 ^ 63)) (2 ^ 63 - 1)))
       else Says.lanes s1 x q f fun v _ _ => throughFmt (f.aux.toNat / 4) f.rm v), (0, 0)⟩)])) ∧
    (∀ l, allSome (tokElems a) (fun w => sdDecode n a.hdr.1.toInt (w.toNat % 2 ^ 24)) = some l →
      exec (.dsdec f) s = .next (s1.emits x.t x.st [(none, tokWith a (l.map Prod.snd) (0, 0))])) ∧
    (allSome (tokElems a) (fun w => sdDecode n a.hdr.1.toInt (w.toNat % 2 ^ 24)) = none →
      exec (.dsdec f) s = .next (s1.emits x.t x.st [(none, tokE (setSeq q) (setIter q) (s1.self x.t 0x04))])) ∧
    (let m := f.k.toNat
     let e := a.hdr.1.toInt + 2 * ((n : Int) - m)
     exec (.dscut f) s = .next (s1.emits x.t x.st [(none, if n ≤ m ∨ 127 < e then a else
       tokWith a ((tokElems a).map fun w => BitVec.ofNat 48 (w.toNat % 2 ^ 24 / 2 ^ (24 - 3 * m) * 2 ^ (24 - 3 * m)))
         (BitVec.ofInt 8 e, BitVec.ofNat 3 (m - 1)))])) ∧
    (let sl := s1.slot x.t x.st (setSeq q)
     let rs := (List.range (if f.ty = 1 then 16 else 1)).map fun j =>
       maxRun f.rm ((s1.opLanes x q 0).getD j 0) (sl.lanes.getD j (wInf true))
     let tok (l : List W48) : Token := ⟨setSeq q, setIter q, .data,
       if f.ty = 1 then .vector l else .scalar ((l.getD 0 0).setWidth 64), (0, 0)⟩
     exec (.fmaxrun f) s = .next ((s1.setSlot x.t { sl with lanes := rs.map (·.2.2) }).emits x.t x.st
       [(some 0, tok (rs.map (·.1))), (some 1, tok (rs.map (·.2.1))), (some 2, tok (rs.map (·.2.2)))]))) ∧
  (∀ f (s : State) x t, Says.HasHead s f x 0 t → t.kind = .data →
    let s1 := s.take x [0]
    let sl := s1.slot x.t x.st t.seq
    let l := sl.buf ++ [t]
    let per := match t.pay with | .vector _ => 16 | _ => 1
    (exec (.dsenc f) s = .next (if l.length * per < s.blkAny x then s1.setSlot x.t { sl with buf := l }
      else (s1.setSlot x.t { sl with buf := [] }).emits x.t x.st (dsencOut x l))) ∧
    (exec (.qblk f) s = .next (if l.length * per < s.blkOf x 0 then s1.setSlot x.t { sl with buf := l }
      else (s1.setSlot x.t { sl with buf := [] }).emits x.t x.st (qblkOut x l))) ∧
    (exec (.vpack f) s = .next (if l.length = 16 then (s1.setSlot x.t { sl with buf := [] }).emits x.t x.st
        [(none, packTok x l s1)] else s1.setSlot x.t { sl with buf := l })) ∧
    (∀ v, t.pay = .vector v → 16 * t.iter.toNat < 0xFFFFFE → (∀ z ∈ (s.tileAt x.t).slots, z.st = x.st → z.held = none) →
      exec (.vunpk f) s = .next ((s1.setSlot x.t { sl with held := some t, cnt := 1 }).emits x.t x.st
        [(none, ⟨t.seq, BitVec.ofNat 24 (16 * t.iter.toNat), .data, .scalar ((v.getD 0 0).setWidth 64), (0, 0)⟩)])) ∧
    (∀ w, t.pay = .scalar w → f.inp.getLsbD 1 = false →
      let sl := s.slot x.t x.st t.seq
      let r := qbmapRun f.rm [w.setWidth 48] sl.pa ((sl.pb : Int) - 128) (sl.cnt = 1)
      t.iter.toNat < 0xFFFFFE → exec (.qbmap f) s = .next
        ((s1.setSlot x.t { sl with pa := r.2.1, pb := (r.2.2.1 + 128).toNat, cnt := 1 }).emits x.t x.st
          [(none, ⟨t.seq, t.iter, .data, .scalar (r.1.getD 0 0), (0, 0)⟩)]))) ∧
  (∀ f (s : State) x z t v, Says.Fires s f x → (s.tileAt x.t).slots.find? (fun z => z.st == x.st && z.held.isSome) = some z →
    z.held = some t → t.pay = .vector v → 16 * t.iter.toNat + z.cnt < 0xFFFFFE →
    exec (.vunpk f) s = .next ((s.setSlot x.t { s.slot x.t x.st t.seq with
      held := if z.cnt = 15 then none else some t, cnt := if z.cnt = 15 then 0 else z.cnt + 1 }).emits x.t x.st
        [(none, ⟨t.seq, BitVec.ofNat 24 (16 * t.iter.toNat + z.cnt), .data, .scalar ((v.getD z.cnt 0).setWidth 64), (0, 0)⟩)]))

/-- R239 to R245: mxload and mxscale write their element and give DONE after the last; a token enters a slot of the A row
buffer; mxdot issues a full slot to its banks; the sequencer applies one row group, clearing once for .ovw; mxrd queues
a read that gives its rows of lanes; mxclr queues a clear, and its trigger leaves with the last bank; mxacc accumulates
and gives its sums at the STOP. Where it goes beyond those rules it rests on the model's own readings, log 58. -/
def Obligations.MatrixStations : Prop :=
  (∀ f (s : State) x t, Says.HasHead s f x 0 t → t.kind = .data → (s.tileAt x.t).mx.issued = [] →
    let s1 := s.take x [0]
    let sl := s1.slot x.t x.st t.seq
    let k := (f.aux.toNat % 4, f.aux.toNat / 4 % 8)
    let wrote (g : RowGroup → RowGroup) : State :=
      s1.onTile x.t fun y => { y with mx := y.mx.setRg k (g (lookupD y.mx.rgs k RowGroup.zero)) }
    let cells (g : RowGroup) := putBytes g.cells (128 * (sl.cnt / 16) + 8 * (sl.cnt % 16)) (Says.bytesOf t.pay.word 8)
    let hdrs (g : RowGroup) :=
      putBytes g.hdrs (8 * sl.cnt) ((Says.bytesOf t.pay.word 8).map fun b => BitVec.ofInt 8 (max (-32) (min 31 b.toInt)))
    let ld := wrote fun g => { g with cells := cells g, fmtb := if sl.cnt = 0 then f.aux.getLsbD 5 else g.fmtb }
    let sc := wrote fun g => { g with hdrs := hdrs g }
    (exec (.mxload f) s = .next (if sl.cnt = 2047 then (ld.setSlot x.t { sl with cnt := 0 }).emits x.t x.st
        [(none, tokS t.seq t.iter .done 2048)] else ld.setSlot x.t { sl with cnt := sl.cnt + 1 })) ∧
    (exec (.mxscale f) s = .next (if sl.cnt = 15 then (sc.setSlot x.t { sl with cnt := 0 }).emits x.t x.st
        [(none, tokS t.seq t.iter .done 16)] else sc.setSlot x.t { sl with cnt := sl.cnt + 1 }))) ∧
  (∀ (s : State) w t a, s.wordAt s.tile s.st = some w → opOf w = 0x61 → ((s.tileAt s.tile).head s.st 0).map (Token.plain 0x61) = some t →
    t.kind = .data → s.sequences s.tile = true → (s.tileAt s.tile).mx.abuf.find? (fun b => b.st = s.st ∧ !b.full) = some a → t.seq = a.seq →
    let m (y : Tile) := y.mx.onFill s.st fun b => b.feed t (dotShape (StF.of w)) (s.self s.tile 0)
    exec .mxdotFill s = .next (s.onTile s.tile fun y => { (y.pop s.st 0) with mx := m y })) ∧
  (∀ f (s : State) x a, Says.Fires s f x → (s.tileAt x.t).mx.abuf.find? (fun b => b.st = x.st ∧ b.full) = some a →
    let d := dotShape f
    let gone (y : Tile) : Matrix := { y.mx with abuf := dropFirst (fun b => b.st = x.st ∧ b.full) y.mx.abuf }
    let queued (y : Tile) : Matrix := (maskBanks d.mask).foldl (fun m k =>
      m.setBank k { m.bank k with q := (m.bank k).q ++ [.dot a d.g0 d.ng d.nm 0 d.ovw d.bcast] }) (gone y)
    let fail (e : ErrInfo) : State := (s.onTile x.t fun y => { y with mx := (gone y).poison d.mask }).emits x.t x.st
      [(none, tokE a.seq a.iter e)]
    (∀ e, a.err = some e → exec (.mxdot f) s = .next (fail e)) ∧
    (a.err = none → (∃ k ∈ maskBanks d.mask, ((s.tileAt x.t).mx.bank k).poison = true) →
      exec (.mxdot f) s = .next (fail (s.self x.t 0x0C))) ∧
    (a.err = none → (∀ k ∈ maskBanks d.mask, ((s.tileAt x.t).mx.bank k).poison = false) →
      (∃ k ∈ maskBanks d.mask, 8 ≤ ((s.tileAt x.t).mx.bank k).q.length) → exec (.mxdot f) s = .next s) ∧
    (a.err = none → (∀ k ∈ maskBanks d.mask, ((s.tileAt x.t).mx.bank k).poison = false) →
      (∀ k ∈ maskBanks d.mask, ((s.tileAt x.t).mx.bank k).q.length < 8) →
      ∃ (u : State), exec (.mxdot f) s = .next (u.emits x.t x.st [(none, tokS a.seq a.iter .data (BitVec.ofNat 64 d.mask))]) ∧
        u = s.onTile x.t fun y => { y with mx := queued y })) ∧
  (∀ (s : State) a g0 ng nm done ovw bc rest,
    let k := s.input.k.toNat
    let b := (s.tileAt s.tile).mx.bank k
    s.sequences s.tile = true → b.q = .dot a g0 ng nm done ovw bc :: rest → ∃ b', exec .mxSequencerApply s = .next
        (s.onTile s.tile fun y => { y with mx := y.mx.setBank k b' }) ∧
      b'.q = (if done + 1 < ng then .dot a g0 ng nm (done + 1) false bc :: rest else rest) ∧ b'.poison = b.poison ∧
      b'.s = ((s.tileAt s.tile).mx.runGroup k a g0 ng nm done bc { b with s := if ovw then [] else b.s, nanf := if ovw then [] else b.nanf }).s) ∧
  (∀ f (s : State) x t, Says.HasHead s f x 0 t → t.kind = .data ∨ t.kind = .done →
    let put (m : Matrix) (k : Nat) (q : BankReq) : Matrix := m.setBank k { m.bank k with q := (m.bank k).q ++ [q] }
    (((s.tileAt x.t).mx.bank (f.k.toNat % 4)).q.length < 8 → exec (.mxrd f) s = .next ((s.take x [0]).onTile x.t fun y =>
      { y with mx := put y.mx (f.k.toNat % 4) (.read x.st t (f.aux.toNat % 8) (f.aux.toNat / 8 % 8 + 1) f.rm) })) ∧
    ((∀ k ∈ maskBanks f.k.toNat, ((s.tileAt x.t).mx.bank k).q.length < 8) →
      let cleared (m : Matrix) : Matrix :=
        (maskBanks f.k.toNat).foldl (fun u k => put u k (.clear m.freeClear x.st t)) m
      exec (.mxclr f) s = .next ((s.take x [0]).onTile x.t fun y => { y with mx := cleared y.mx }))) ∧
  (∀ (s : State) st t g n rm rest,
    let k := s.input.k.toNat
    let b := (s.tileAt s.tile).mx.bank k
    s.sequences s.tile = true → b.q = .read st t g n rm :: rest → b.poison = false → n * t.iter.toNat + n ≤ 0xFFFFFE →
    exec .mxrdReadApply s = .next ((s.onTile s.tile fun y => { y with mx := y.mx.setBank k { b with q := rest } }).emits s.tile st
      ((List.range n).map fun j => (none, ⟨t.seq, BitVec.ofNat 24 (n * t.iter.toNat + j), .data, .vector ((List.range 16).map fun l =>
        let c := 16 * (g + j) + l
        if b.nanf.contains c then wNaN else roundW48 (fvInt (lookupD b.s c 0) (-176) false) rm), (0, 0)⟩)))) ∧
  (∀ (s : State) id st t rest,
    let k := s.input.k.toNat
    let mx := (s.tileAt s.tile).mx
    s.sequences s.tile = true → (mx.bank k).q = .clear id st t :: rest →
    let s1 := s.onTile s.tile fun y => { y with mx := mx.setBank k ⟨[], [], false, rest⟩ }
    exec .mxclrApply s = .next (if ∃ j ∈ List.range 4,
        ((mx.setBank k ⟨[], [], false, rest⟩).bank j).q.any (fun r => r.clear? == some id) = true
      then s1 else s1.emits s.tile st [(none, t)])) ∧
  (∀ f (s : State) x t, Says.HasHead s f x 0 t →
    let s1 := s.take x [0]
    let sl := s1.slot x.t x.st t.seq
    let acc := (List.range (if f.ty = 1 then 16 else 1)).map fun j => sl.lanes.getD j (redId (f.aux.toNat % 4))
    (t.kind = .data →
      exec (.mxacc f) s = .next (s1.setSlot x.t { sl with lanes := List.zipWith (redOp (f.aux.toNat % 4) f.rm) acc (tokElems t) })) ∧
    (∀ n, t.kind = .stop n → f.aux.toNat / 4 % 8 ≤ n → sl.err = none →
      exec (.mxacc f) s = .next ((s1.setSlot x.t { sl with lanes := [], err := none }).emits x.t x.st
        [(none, ⟨t.seq, t.iter, .data, if f.ty = 1 then .vector acc else .scalar ((acc.getD 0 0).setWidth 64), (0, 0)⟩),
         (none, t)])))

/-- R45 to R47, R254 to R257: bar gives a pulse for a full set, and ERROR POISON once it has forwarded an ERROR of the
launch; decide makes its decision pending; a controller counts a done token, and takes an enable when nothing else is
due; done gives a pulse for each DATA, or for each STOP of its level. Where it goes beyond those rules it rests on the
model's own readings, log 81. -/
def Obligations.ControlStations : Prop :=
  (∀ f (s : State) x q (s1 : State), Says.Takes s f x q s1 →
    let it := ((tokAt q 0).map (·.iter)).getD (setIter q)
    ((∀ e ∈ q, e.2.kind ≠ .error) → (s.tileAt x.t).barBad.contains (x.st, setSeq q) = false →
      exec (.bar f) s = .next (s1.emits x.t x.st [(none, ⟨setSeq q, it, .data, .ctl true, (0, 0)⟩)])) ∧
    ((∀ e ∈ q, e.2.kind ≠ .error) → (s.tileAt x.t).barBad.contains (x.st, setSeq q) = true →
      exec (.bar f) s = .next (s1.emits x.t x.st [(none, tokE (setSeq q) it (s1.self x.t 0x0C))])) ∧
    (∀ e, q.find? (·.2.kind = .error) = some e → exec (.bar f) s = .next
      ((s1.onTile x.t fun y => { y with barBad := (x.st, setSeq q) :: y.barBad }).emits x.t x.st
        [(none, tokE (setSeq q) it (e.2.err (s1.self x.t 0)))])) ∧
    (Says.AllData q → x.r.decision = none →
      let n := if f.aux.getLsbD 0 then BitVec.ofNat 2 f.k.toNat else BitVec.ofNat 2 (s1.opWord x q 0).toNat
      exec (.decide f) s = .next ((s1.onRegion x.r.core x.r.bslot fun r => { r with decision := some n }).emits
        x.t x.st [(some 0, ⟨setSeq q, setIter q, .data, .ctl true, (0, 0)⟩)])) ∧
    (Says.AllData q → x.r.decision ≠ none → exec (.decide f) s = .next s)) ∧
  (∀ i f (s : State) x t, i = .seqc f ∨ i = .pipec f ∨ i = .strmc f → Says.HasHead s f x 1 t → t.kind ≠ .error →
    (s.slot x.t x.st t.seq).phase ≠ 2 → exec i s = .next ((s.take x [1]).setSlot x.t
      { s.slot x.t x.st t.seq with cnt := (s.slot x.t x.st t.seq).cnt + 1 })) ∧
  (∀ i f (s : State) x t, i = .seqc f ∨ i = .pipec f ∨ i = .strmc f → Says.HasHead s f x 0 t → t.kind ≠ .error →
    s.hd x 1 = none → s.hd x 2 = none → (∀ sl ∈ (s.tileAt x.t).slots, sl.st = x.st → sl.phase ≠ 1) →
    (s.slot x.t x.st t.seq).phase = 0 →
    exec i s = .next ((s.take x [0]).setSlot x.t { s.slot x.t x.st t.seq with phase := 1, held := some t })) ∧
  (∀ i c f (s : State) x l sl, (i, c) ∈ [(Instr.seqc f, Ctl.seqc), (.pipec f, .pipec), (.strmc f, .strmc)] → Says.Fires s f x →
    s.hd x 1 = none → s.hd x 2 = none → x.r.live = [l] → (s.tileAt x.t).slots = [sl] → sl.st = x.st → sl.phase = 1 →
    sl.seq = l.seq → sl.pa < (ctlSet (s.kWord x)).nit → (ctlSet (s.kWord x)).on 0 sl.pa = true →
    c.may (ctlSet (s.kWord x)) sl 0 sl.pa = true →
    exec i s = .next ((s.setSlot x.t { sl with pa := sl.pa + 1 }).emits x.t x.st
      [(some 0, ⟨sl.seq, BitVec.ofNat 24 sl.pa, .data, .ctl true, (0, 0)⟩)])) ∧
  (∀ f (s : State) x t, Says.HasHead s f x 0 t →
    let s1 := s.take x [0]
    let p : State := s1.emits x.t x.st [(none, ⟨t.seq, t.iter, .data, .ctl true, (0, 0)⟩)]
    (t.kind = .data → exec (.done f) s = .next (if f.aux.toNat % 8 = 0 then p else s1)) ∧
    (∀ n, t.kind = .stop n → exec (.done f) s = .next (if 1 ≤ f.aux.toNat % 8 ∧ f.aux.toNat % 8 ≤ n then p else s1)))

/-! ## Terms of the feeding statements -/

namespace Sys2Proof.Says

/-- The bytes of a range can be reached by an AG of the acting station's tile: every piece is translated or granted, and the
detector is off for the launch (R259, R264, R349). -/
def Reached (s : State) (x : Sta) (seq : BitVec 8) (va n : Nat) (wr : Bool) (hs : List (Nat × Nat × Nat)) : Prop :=
  s.stalled (.ag x.t x.st) seq = false ∧
    s.stPieces (s.tileAt x.t).tlb x.r.part memWindows wr (chunks va n) = .ok hs ∧
    ((x.r.liveOf seq).map (·.race)).getD false = false

/-- A round whose shape record stands as it is: no parameter port, no traversal of a list, no acquire (R272 to R275, R309). -/
def PlainRound (x : Sta) (sh : Shape) : Prop :=
  x.shape = some sh ∧ x.fed = false ∧ sh.stv = false ∧ sh.acq = none

end Sys2Proof.Says

/-! ## Feeding -/

/-- R273 to R278: lds and agen read or address the next group of an open round, in the order of the indexes; a DATA token at
a opens a round; a source opens its one round of a launch; sts and scat take their elements and write whole groups; gath
sends its index list to the quarry engine, which returns a group. Where it goes beyond those rules it rests on the
model's own readings, log 49 and 60. -/
def Obligations.AddressGenerators : Prop :=
  (∀ f (s : State) x sl w va, Says.Fires s f x → s.openWalk x (.ag x.t x.st) = some (sl, w) →
    s.groupAddr x w.shape sl.seq w.pos false = .ok va →
    exec (.agen f) s = .next (s.pushGroup x sl w [BitVec.ofNat 64 va]) ∧
    (∀ hs, Says.Reached s x sl.seq va (groupShape w.shape.fmt.toNat).1 false hs →
      exec (.lds f) s = .next (s.pushGroup x sl w (decodeGroup w.shape.fmt.toNat (f.ty == 2) w.shape.rm (s.gather hs))))) ∧
  (∀ i f (s : State) x t sh, i = .lds f ∨ i = .agen f → Says.HasHead s f x 0 t → t.kind = .data → f.inp.getLsbD 2 = true →
    s.openWalk x (.ag x.t x.st) = none → (s.slot x.t x.st t.seq).walk = none → Says.PlainRound x sh →
    exec i s = .next ((s.take x [0]).openRound x t.seq sh)) ∧
  (∀ (s : State) x seq sh, (sh.groups = 0 → s.openRound x seq sh =
      (s.emitRound x (s.slot x.t x.st seq) [(.stop (endLevel x.f sh), .scalar 0)]).roundRel x seq sh) ∧
    (sh.groups ≠ 0 → s.openRound x seq sh =
      s.setSlot x.t { s.slot x.t x.st seq with walk := some ⟨sh, 0, sh.groups, 0, [], true⟩ })) ∧
  (∀ (s : State) x sh xs k seq wr, sh.stv = false → indexes (sh.dims.map (·.1.toNat) |>.take sh.ndim) k = xs →
    s.groupAddr x sh seq k wr = .ok (sh.base + ((sh.dims.zip xs).take sh.ndim).foldl
      (fun a d => a + BitVec.ofInt 57 ((d.2 : Int) * d.1.2.toInt)) 0).toNat) ∧
  (∀ (s : State) (r : Region) w l x sh, s.regionOf s.tile = some r → s.wordAt s.tile s.st = some w → opOf w = 0x80 ∨ opOf w = 0x82 →
    (StF.of w).inp.getLsbD 2 = false → Says.Fires s (StF.of w) x → x.r = r → Says.PlainRound x sh →
    r.live.find? (fun l => !l.started.contains (s.tile, s.st) && l.cancelled.isNone) = some l →
    (s.flight.any fun q => r.tiles.contains q.dst && q.tok.seq == l.seq && q.tok.kind == .param) = false →
    exec .sourceRoundStart s = .next ((s.openRound x l.seq sh).onLive r.core r.bslot l.seq
      fun l => { l with started := (x.t, x.st) :: l.started })) ∧
  (∀ f (s : State) x t w, Says.HasHead s f x 0 t → t.kind = .data → s.storeDue x = none → s.stalled (.ag x.t x.st) t.seq = false →
    (s.slot x.t x.st t.seq).walk = some w → w.total ≠ 0 →
    let els := match t.pay with
      | .vector l => if f.ty = 1 then l.map fun w => some (w.setWidth 64) else [some (wordOfLanes l)]
      | p => [some p.word]
    let w' := { w with elems := w.elems ++ els }
    exec (.sts f) s = .next ((s.take x [0]).setSlot x.t
      { s.slot x.t x.st t.seq with walk := some w', pa := 0, pb := 0, tagc := t.iter.toNat })) ∧
  (∀ f (s : State) x q (s1 : State) a w, Says.Fires s f x → s.nextSet x [0, 1] = some (q, s1) → Says.AllData q → s.storeDue x = none →
    tokAt q 0 = some a → s.stalled (.ag x.t x.st) (setSeq q) = false → a.seq = setSeq q →
    (s1.slot x.t x.st (setSeq q)).walk = some w → w.total ≠ 0 →
    let els := match a.pay with
      | .vector l => if f.ty = 1 then l.map fun w => some (w.setWidth 64) else [some (wordOfLanes l)]
      | p => [some p.word]
    let w' := { w with elems := w.elems ++ els }
    exec (.scat f) s = .next (s1.setSlot x.t { s1.slot x.t x.st a.seq with walk := some w', pa := (s1.opWord x q 1).toNat, pb := 0, tagc := a.iter.toNat })) ∧
  (∀ i b f (s : State) x sl w va hs, (i, b) = (.sts f, false) ∨ (i, b) = (.scat f, true) → Says.Fires s f x → s.storeDue x = some sl →
    sl.walk = some w → w.elems ≠ [] →
    let fmt := w.shape.fmt.toNat
    let per := (groupShape fmt).2
    let els := w.elems.take per
    let n := (els.filterMap id).length
    let skips := n = 0 ∧ (per = 1 ∨ keepsOld fmt = true ∨ (b = true ∧ sl.pb = 1))
    let all := els ++ List.replicate (per - els.length) none
    let encoded (old : List Byte) := encodeGroup fmt (f.ty == 2) w.shape.rm w.shape.nsat all old
    let w' := { w with pos := (w.pos + 1) % Nat.max 1 w.total, elems := w.elems.drop per }
    let next : Slot := { sl with walk := some w', cnt := sl.cnt + n }
    (skips → exec i s = .next (s.setSlot x.t next)) ∧
    (¬ skips → keepsOld fmt = false → s.storeAddr x sl w b = .ok va → Says.Reached s x sl.seq va (groupShape fmt).1 true hs →
      exec i s = .next ((s.fillPieces va (encoded []) none (s.stagingOf x.r sl.seq) hs).setSlot x.t next)) ∧
    (¬ skips → keepsOld fmt = true → s.storeAddr x sl w b = .ok va → Says.Reached s x sl.seq va 272 true hs →
      Says.Reached s x sl.seq va 272 false hs →
      let holding (on : List Nat) := hs.filter fun q => on.any fun o => decide (q.2.1 - va ≤ o ∧ o < q.2.1 - va + q.2.2)
      let seen (l : List (Nat × Nat × Nat)) := s.gatherSome l (chunks va 272)
      let h1 := holding (bvbSure all)
      let h2 := h1 ++ holding (bvbScaleOf (f.ty == 2) all (seen h1))
      let on := bvbWrote all (encoded (seen h2))
      exec i s = .next ((s.fillPieces va (encoded (seen (h2 ++ holding on))) (some on) (s.stagingOf x.r sl.seq) (holding on)).setSlot x.t next))) ∧
  (∀ (s : State) x sl (w : Walk), w.shape.stv = false →
    s.storeAddr x sl w false = s.groupAddr x w.shape sl.seq w.pos true ∧
    s.storeAddr x sl w true = .ok (w.shape.base + BitVec.ofInt 57 ((BitVec.ofNat 64 sl.pa).toInt * (w.shape.dims.getD 1 (0, 0)).2.toInt) +
      BitVec.ofInt 57 (((w.pos % Nat.max 1 (w.shape.exts.getD 0 1) : Nat) : Int) * (w.shape.dims.getD 0 (0, 0)).2.toInt)).toNat) ∧
  (∀ (s : State) x (sl : Slot) (w : Walk) (t : Token), s.storeWork x { sl with walk := some { w with elems := [] }, held := some t, err := none } false =
    ((s.setSlot x.t { sl with held := none, walk := none, err := none, cnt := 0 }).roundRel x t.seq w.shape).emits x.t x.st
      [(none, tokS t.seq t.iter .done (BitVec.ofNat 64 sl.cnt))]) ∧
  (∀ f (s : State) x t sh, Says.HasHead s f x 0 t → t.kind = .data → (∀ q ∈ s.streams, ¬ (q.tile = x.t ∧ q.st = x.st)) →
    Says.PlainRound x sh → sh.groups ≠ 0 → 
    let q : Stream := ⟨x.t, x.st, 8 * x.t.die.toNat + (x.t.col.toNat / 2 + x.t.row.toNat) % 8, x.r.part, t, sh,
      BitVec.ofNat 57 t.pay.word.toNat, BitVec.ofNat 2 f.aux.toNat, 0, 0⟩
    exec (.gath f) s = .next { (s.take x [0]).openRound x t.seq sh with streams := s.streams ++ [q] }) ∧
  (∀ (s : State) q w x wk ih hs, s.served s.input.index = some q → s.wordAt q.tile q.st = some w →
    let s0 := { s with tile := q.tile, st := q.st }
    let f := StF.of w
    let h : Holder := .quarry q.tile q.st q.engine
    let tlb := s.holderTlb x.r.part h
    let nb := if q.ixf = 1 then 8 else 4
    let v := indexValue q.ixf (s0.gather ih)
    let d0 := q.shape.dims.getD 0 (0, 0)
    let d1 := q.shape.dims.getD 1 (0, 0)
    let va := (q.shape.base + BitVec.ofInt 57 (v * d1.2.toInt) + BitVec.ofInt 57 ((q.group : Int) * d0.2.toInt)).toNat
    q.shape.stv = false →
    let next : Stream := if q.group + 1 < d0.1.toNat then { q with group := q.group + 1 } else { q with row := q.row + 1, group := 0 }
    Says.Fires s0 f x → (s0.slot q.tile q.st q.trig.seq).walk = some wk → s0.stalled h q.trig.seq = false →
    ((x.r.liveOf q.trig.seq).map (·.race)).getD false = false →
    s0.stPieces tlb x.r.part [.translated] false (chunks (q.idx + BitVec.ofNat 57 (q.row * nb)).toNat nb) = .ok ih →
    s0.stPieces tlb x.r.part [.translated] false (chunks va (groupShape q.shape.fmt.toNat).1) = .ok hs →
    let rest := if wk.pos + 1 = wk.total then s.streams.erase q else updFirst (· == q) (fun _ => next) s.streams
    exec .quarryRowReturn s = .next (State.pushGroup { s0 with streams := rest } x (s0.slot q.tile q.st q.trig.seq) wk
      (decodeGroup q.shape.fmt.toNat (f.ty == 2) q.shape.rm (s0.gather hs))))

/-- R263, R264, R281 to R286: a token waiting at a boundary port enters while its edge has room; a port's next token goes on
or arrives, and one at a side of the rectangle leaves; a walk that completes fills its TLB; a faulting access is
withheld and its record posted at the fault queue; stfs gathers and fills its bin, ldcs takes a bin's dwords and empties
it, or both wait for the bin, which serves them once it is ready and unless their tile is frozen or halted (R387, R391);
rport reduces; pport passes a token to a parameter port. Where it goes beyond those rules it rests on the model's own
readings, log 13, 16, 27, 46 and 119. -/
def Obligations.FeedingStations : Prop :=
  (∀ (s0 : State) q,
    let s := s0.letIn s0.tile s0.st s0.input.k.toNat
    let s1 := { s with flight := s.flight.erase q }
    let on (hs : List (TileId × Nat)) : State := { s with flight := updFirst (· == q) (fun y => { y with hops := hs }) s.flight }
    (s.nextFlight s0.tile s0.st s0.input.k.toNat = some q →
      (∀ h0 h rest, q.hops = h0 :: h :: rest → exec .tokenArrival s0 = .next (on (h :: rest))) ∧
      (∀ h, q.hops = [h] → q.reorders = true → exec .tokenArrival s0 = .next (on [])) ∧
      ((q.hops = [] ∨ ∃ h, q.hops = [h] ∧ q.reorders = false) → q.port < 4 → q.copy = none →
        exec .tokenArrival s0 = .next (s1.arrive s0.tile s0.st s0.input.k.toNat q.tok) ∧
        ((s1.tileAt s0.tile).purged.contains (s0.st, q.tok.seq) = true → exec .tokenArrival s0 = .next s1) ∧
        ((s1.tileAt s0.tile).purged.contains (s0.st, q.tok.seq) = false → ∀ w, s1.wordAt s0.tile s0.st = some w → pairs w = false →
          exec .tokenArrival s0 = .next (s1.onTile s0.tile fun y =>
            { y with queue := y.queue ++ [⟨s0.st, s0.input.k.toNat, q.tok⟩] })))) ∧
    (s.nextFlight s0.tile s0.st s0.input.k.toNat = none → s.nextEgress s0.tile s0.input.k.toNat = some q →
      (∀ h0 h rest, q.hops = h0 :: h :: rest → exec .tokenArrival s0 = .next (on (h :: rest))) ∧
      (∀ r, (q.hops = [] ∨ ∃ h, q.hops = [h]) → q.reorders = false → q.copy = none → s1.regionOf q.dst = some r →
        exec .tokenArrival s0 = .next (s1.leaveBy r q.edge q.tok))) ∧
    (s.nextFlight s0.tile s0.st s0.input.k.toNat = none → s.nextEgress s0.tile s0.input.k.toNat = none →
      exec .tokenArrival s0 = .next s)) ∧
  (∀ (s : State) t st p, (s.regionOf t = none → s.letIn t st p = s) ∧
    (∀ (r : Region) h (e : Edge), s.regionOf t = some r →
      let u := { r with ingress := s.spread r }
      let s1 := s.setRegion u
      (u.ingress.findSome? fun q => ((s1.entries u q.edge).find? fun e => q.goal = some e.end_ ∧ e.end_ = (t, st, p)).map fun e => (q, e)) =
        some (h, e) →
      (u.holding e = true ∨ s1.edgeRoom e = false ∨ s1.pathOpen u e = false → s.letIn t st p = s1) ∧
      (u.holding e = false → s1.edgeRoom e = true → s1.pathOpen u e = true →
        let s2 := (s1.setRegion { u with ingress := u.ingress.erase h }).leftHeld u h
        s.letIn t st p = { s2 with flight := s2.flight ++ [⟨e.id, none, e.dst, e.dstSt, e.dport, h.tok, s2.pathOf u e, h.copy, h.no⟩] }))) ∧
  (∀ (s : State) q, (s.nextFlight s.tile s.st s.input.k.toNat = some q → q ∈ s.flight ∧ q.dst = s.tile ∧ q.st = s.st ∧
      q.port = s.input.k.toNat ∧ s.mayMove q = true) ∧
    (q.hops = [] → q.port < 4 → s.mayMove q = true →
      s.heldOut q = false ∧ s.robWaits q = false ∧ s.portRoom q.dst q.st q.port q.tok = true) ∧
    (q.hops = [] → 4 ≤ q.port → s.mayMove q = true → ∀ (r : Region) e, s.regionOf q.dst = some r →
      r.edges.find? (fun e => e.id == q.edge && e.ext && !e.xin) = some e → s.endRoom r e 0 = true)) ∧
  (∀ (s : State) w, (s.walks.filter (·.fault.isNone))[s.input.index]? = some w →
    (∀ r, s.walk w.part w.va.toNat = .error r → exec .tlbWalkComplete s = .next
      { s with walks := updFirst (· == w) (fun w => { w with fault := some r }) s.walks }) ∧
    (∀ e, s.walk w.part w.va.toNat = .ok e → e.gives (if w.write then .write else .read) = false → exec .tlbWalkComplete s = .next
      { s with walks := updFirst (· == w) (fun w => { w with fault := some .perm }) s.walks }) ∧
    (∀ e, s.walk w.part w.va.toNat = .ok e → e.gives (if w.write then .write else .read) = true →
      (∀ t st, w.holder = .ag t st → exec .tlbWalkComplete s = .next
        (State.onTile { s with walks := s.walks.erase w } t fun y => { y with tlb := tlbAdd y.tlb 32 e })) ∧
      (∀ t st q, w.holder = .quarry t st q → exec .tlbWalkComplete s = .next
        { s with walks := s.walks.erase w, qtlb := assign s.qtlb q (((w.part, e) :: lookupD s.qtlb q []).take 1024) }))) ∧
  (∀ (s : State) w r, (s.walks.filter (·.fault.isSome))[s.input.index]? = some w → w.fault = some r →
    let h : Hold := ⟨w.holder, w.core, w.seq, w.va, w.write, r, w.iter, false, true, 0⟩
    exec .faultWithhold s = .next { s with walks := s.walks.erase w, holds := s.holds ++ [h] }) ∧
  (∀ (s : State) h (s1 : State) q, s.holds.find? (fun h => h.core == s.cur && !h.posted) = some h →
    s.post (s.core.part.getD 0) s.core.fq [field 0 57 h.va.toNat ||| bit 57 h.write ||| field 58 3 h.reason.code, h.word,
      field 0 32 (h.seq.toNat * 2 ^ 24 + h.iter.toNat), 0] = .posted s1 q →
    let s2 := { s1 with holds := updFirst (· == h) (fun h => { h with posted := true }) s1.holds }
    exec .faultRecordPost s = .next (s2.setCore { s1.core with fq := q })) ∧
  (∀ f (s : State) x t, Says.HasHead s f x 0 t → t.kind = .data → (s.slot x.t x.st t.seq).phase ≠ 1 →
    (s.slot x.t x.st t.seq).buf.length + 1 < ((s.kWord x).toNat / 2 ^ 39 % 32) + 1 →
    exec (.stfs f) s = .next ((s.take x [0]).setSlot x.t
      { s.slot x.t x.st t.seq with buf := (s.slot x.t x.st t.seq).buf ++ [t] })) ∧
  (∀ f (s : State) x t n, Says.HasHead s f x 0 t → t.kind = .stop n → (s.slot x.t x.st t.seq).phase ≠ 1 →
    ((s.slot x.t x.st t.seq).buf = [] → exec (.stfs f) s = .next ((s.take x [0]).emits x.t x.st [(none, t)])) ∧
    ((s.slot x.t x.st t.seq).buf ≠ [] → exec (.stfs f) s = .next (State.stfsAsk s (s.take x [0]) x t.seq (some t)))) ∧
  (∀ f (s : State) x t, Says.HasHead s f x 0 t → t.kind = .data → (s.slot x.t x.st t.seq).phase ≠ 1 →
    (s.slot x.t x.st t.seq).buf.length + 1 = ((s.kWord x).toNat / 2 ^ 39 % 32) + 1 →
    exec (.stfs f) s = .next (State.stfsAsk s ((s.take x [0]).setSlot x.t
      { s.slot x.t x.st t.seq with buf := (s.slot x.t x.st t.seq).buf ++ [t] }) x t.seq none)) ∧
  (∀ (s0 s : State) x seq stop last, (s.slot x.t x.st seq).buf.getLast? = some last →
    let sl := s.slot x.t x.st seq
    let k := s.kWord x
    let bin := k.toNat / 2 ^ 8 % 2 ^ 21 + sl.cnt % (k.toNat / 2 ^ 29 % 2 ^ 10 + 1)
    let ws := sl.buf.map (·.pay.word)
    let s1 := s.setSlot x.t { sl with buf := [], phase := 1 }
    let e : WaitEntry := ⟨binTile bin, bin, BitVec.ofNat 16 sl.cnt, .stfs x.t x.st seq ws last stop, true⟩
    let home := spadBase + bin * 256
    (s0.granted x.r.part .spad home 8 true = true →
      State.stfsAsk s0 s x seq stop = if s.binNow e then State.stfsDone s0 s1 x.t x.st bin seq ws last stop else s1.enqueueWait e) ∧
    (s0.granted x.r.part .spad home 8 true = false → s0.stalled (.mem x.t x.st) seq = false →
      State.stfsAsk s0 s x seq stop = s0.park x.r (.mem x.t x.st) seq last.iter home true (some .window))) ∧
  (∀ f (s : State) x t, Says.HasHead s f x 0 t → t.kind = .data →
    let k := s.kWord x
    let bin := k.toNat / 2 ^ 8 % 2 ^ 21 + t.pay.word.toNat % (k.toNat / 2 ^ 29 % 2 ^ 10 + 1)
    let e : WaitEntry := ⟨binTile bin, bin, BitVec.ofNat 16 t.pay.word.toNat, .ldcs x.t x.st t (f.aux.getLsbD 0), true⟩
    let home := spadBase + bin * 256
    (s.granted x.r.part .spad home 8 false = true →
      exec (.ldcs f) s = .next (if s.binNow e then State.ldcsDone s (s.take x [0]) x.t x.st bin t else (s.take x [0]).enqueueWait e)) ∧
    (s.granted x.r.part .spad home 8 false = false → s.stalled (.mem x.t x.st) t.seq = false →
      exec (.ldcs f) s = .next (s.park x.r (.mem x.t x.st) t.seq t.iter home false (some .window)))) ∧
  (∀ (s : State) e, s.servable[s.input.index]? = some e →
    let s1 := { s with waits := s.waits.erase e }
    (∀ t st req b, e.who = .ldcs t st req b → s.still t = false → exec .binWaitGrant s = .next (State.ldcsDone s s1 t st e.bin req)) ∧
    (∀ t st seq ws last stop, e.who = .stfs t st seq ws last stop → s.still t = false →
      exec .binWaitGrant s = .next (State.stfsDone s s1 t st e.bin seq ws last stop)) ∧
    ((∃ t, s.still t = true ∧ ((∃ st req b, e.who = .ldcs t st req b) ∨ ∃ st seq ws last stop, e.who = .stfs t st seq ws last stop)) →
      exec .binWaitGrant s = .next s)) ∧
  (∀ (s0 s : State) r t st bin seq (ws : List Word) last stop, Memory.wf s = true → s.regionOf t = some r →
    s0.granted r.part .spad (spadBase + bin * 256) 8 true = true → ((r.liveOf seq).map (·.race)).getD false = false →
    let u := State.stfsDone s0 s t st bin seq ws last stop
    (u.bin bin).full = true ∧ (u.bin bin).seq = BitVec.ofNat 16 (s.slot t st seq).cnt ∧ (u.bin bin).cnt = 0 ∧
      ∀ k, memGet u.mem k = if spadBase + bin * 256 ≤ k ∧ k < spadBase + bin * 256 + 8 * ws.length then
        (ws.flatMap fun w => Says.bytesOf w 8).getD (k - (spadBase + bin * 256)) 0 else memGet s.mem k) ∧
  (∀ (s0 s : State) r t st bin req, s.regionOf t = some r → s0.granted r.part .spad (spadBase + bin * 256) 8 false = true →
    ((r.liveOf req.seq).map (·.race)).getD false = false →
    (State.ldcsDone s0 s t st bin req).bin bin = { s.bin bin with full := false, cnt := 0 } ∧
    (State.ldcsDone s0 s t st bin req).mem = s.mem) ∧
  (∀ f (s : State) x t w, Says.HasHead s f x 0 t →
    let k := s.kWord x
    let first := k.toNat % 2 ^ 15
    let len := k.toNat / 2 ^ 16 % 2 ^ 15 + 1
    let sl := (s.take x [0]).slot x.t x.st t.seq
    let home := spadBase + tileOff x.t + 8 * (first + sl.pa % len)
    (t.kind = .data → t.pay = .scalar w → s.granted x.r.part .spad home 8 true = false → s.stalled (.mem x.t x.st) t.seq = false →
      exec (.rport f) s = .next (s.park x.r (.mem x.t x.st) t.seq t.iter home true (some .window))) ∧
    (t.kind = .data → t.pay = .scalar w → s.granted x.r.part .spad home 8 true = true → ((x.r.liveOf t.seq).map (·.race)).getD false = false →
      exec (.rport f) s = .next (((s.take x [0]).rportPut x first len (s.stagingOf x.r t.seq) sl.pa [w]).setSlot x.t
        { sl with pa := (sl.pa + 1) % len, cnt := sl.cnt + 1 })) ∧
    (∀ n, t.kind = .stop n → exec (.rport f) s = .next (((s.take x [0]).setSlot x.t { sl with pa := 0, cnt := 0 }).emits x.t x.st
      [(none, tokS t.seq t.iter .done (BitVec.ofNat 64 sl.cnt))]))) ∧
  (∀ f (s : State) x t, Says.Ready s f x → s.hd x 0 = some t →
    (∀ n, t.kind = .stop n → exec (.pport f) s = .next (s.take x [0])) ∧
    (t.kind = .data → (((s.tileAt x.t).queue.filter fun q => q.st = f.k.toNat ∧ q.port = 3).length < 8 →
        exec (.pport f) s = .next ((s.take x [0]).arrive x.t f.k.toNat 3 t)) ∧
      (8 ≤ ((s.tileAt x.t).queue.filter fun q => q.st = f.k.toNat ∧ q.port = 3).length → exec (.pport f) s = .next s)))

/-! ## Recall -/

/-- R317 to R326: ksto and kqry gather their runs and apply the oldest whole run, command or STOP; a key run enters the
store with the next SEQ and is acknowledged by 1, and by 0 when the store is full; kevict, kmask and kage apply a
command word and acknowledge it, or give ERROR KIND; a STOP of kqry waits for what is older at its other ports; kmerge
joins its tokens to their bursts and gives the merged selection when they are whole. Where it goes beyond those rules it
rests on the model's own readings, log 65. -/
def Obligations.RecallStations : Prop :=
  (∀ i b f (s : State) x, (i, b) = (.ksto f, false) ∨ (i, b) = (.kqry f, true) → Says.Fires s f x →
    let s1 := ((portsOf f).filter (· ≠ 2)).foldl (fun (s : State) p => s.gatherPort x b p) s
    let o := oldestOffer x.r
      (([2, 1, 0].filter ((portsOf f).contains ·)).filterMap fun p => (s1.offers x b p).map fun t => (p, t))
    let ack := if b then some 2 else none
    (o = none → exec i s = .next s1) ∧
    (∀ t, o = some (2, t) → t.kind.level = 0 → exec i s = .next (s1.applyCommand x 2 none ack)) ∧
    (∀ p t, o = some (p, t) → t.kind.level ≠ 0 →
      let older := ∃ p', p' ≠ p ∧ p' < 3 ∧ ∃ y, ((s1.gathered x p').head?).or (s1.rawHead x p') = some y ∧ x.r.age y < x.r.age t
      (b = true → older → exec i s = .next s1) ∧
      (b = false ∨ ¬ older → exec i s = .next ((s1.take x [p]).emits x.t x.st [(none, t)]))) ∧
    (∀ p t, o = some (p, t) → p ≠ 2 → t.kind.level = 0 → (b = true ∧ p = 0 →
        exec i s = .next ((s1.onRcl x (·.setGather p [])).applyQuery x (s1.gathered x p))) ∧
      (¬ (b = true ∧ p = 0) → exec i s = .next ((s1.onRcl x (·.setGather p [])).applyKey x (s1.gathered x p) ack)))) ∧
  (∀ (s : State) x t rest o, (∀ y ∈ t :: rest, y.kind ≠ .error) →
    let d := s.rdesc x
    let r := (s.tileAt x.t).rcl
    let keys := runLanes ((t :: rest).take (runOf d.d))
    let vals := runLanes ((t :: rest).drop (runOf d.d))
    let n := r.seqn.getD (d.shard.setWidth 32)
    (r.entries.length < 256 → n ≠ 0xFFFFFFFF →
      let e : REntry := ⟨recallWrite d.kf x.f.rm d.nsat (keys.take d.d), recallWrite d.vf x.f.rm d.nsat (vals.take d.v), n,
        if d.pos then some t.iter else none, 0, d.kf, d.vf⟩
      s.applyKey x (t :: rest) o = (s.onRcl x fun _ =>
        { r with entries := r.entries ++ [e], seqn := some (n + BitVec.ofNat 32 d.step) }).emits x.t x.st
          [(o, tokS t.seq t.iter .done 1)]) ∧
    (256 ≤ r.entries.length → d.fifo = false →
      s.applyKey x (t :: rest) o = (s.onRcl x fun _ => r).emits x.t x.st [(o, tokS t.seq t.iter .done 0)])) ∧
  (∀ i c f (s : State) x t, (i, c) ∈ [(Instr.kevict f, 1), (.kmask f, 2), (.kage f, 3)] → Says.Fires s f x →
    s.rawHead x 0 = some t → t.kind = .data ∨ t.kind = .param →
    (∀ n r, s.command x (some c) t.pay.word = some (n, r) → exec i s =
      .next (((s.take x [0]).onRcl x fun _ => r).emits x.t x.st [(none, tokS t.seq t.iter .done (BitVec.ofNat 64 n))])) ∧
    (s.command x (some c) t.pay.word = none → exec i s =
      .next ((s.take x [0]).emits x.t x.st [(none, tokE t.seq t.iter (s.self x.t 0x02))]))) ∧
  (∀ (s : State) x w, w.toNat / 2 ^ 60 = 1 → w.toNat / 2 ^ 32 % 2 ^ 26 = 0 →
    let r := (s.tileAt x.t).rcl
    let v := w.toNat % 2 ^ 32
    let left (p : REntry → Bool) : Nat × Recall := ((r.entries.filter p).length, { r with entries := r.entries.filter fun e => !p e })
    (w.toNat / 2 ^ 58 % 4 = 0 → s.command x (some 1) w = some (left fun e => decide (v ≤ e.seq.toNat))) ∧
    (w.toNat / 2 ^ 58 % 4 = 1 → s.command x (some 1) w =
      some (r.entries.length, { r with entries := [], seqn := some ((s.rdesc x).shard.setWidth 32) })) ∧
    (w.toNat / 2 ^ 58 % 4 = 3 → s.command x (some 1) w = some (left fun e => decide (e.seq.toNat = v)))) ∧
  (∀ f (s : State) x q (s1 : State), Says.Takes s f x q s1 → Says.AllData q →
    let ports := portsOf f
    let k := kOf f
    let v := (s.rdesc x).v
    let t0 : Token := tokS (setSeq q) (setIter q) .data 0
    let s2 := s1.onRcl x fun r => q.foldl (fun r e => r.setGather e.1 (lookupD r.gather e.1 [] ++ [e.2])) r
    let bursts := ports.map fun p => s2.burst x p t0
    let s3 := s2.onRcl x fun r =>
      ports.foldl (fun r p => r.setGather p ((lookupD r.gather p []).filter fun t => !sameTag t0 t)) r
    ((∃ b ∈ bursts, b.length < k * (1 + runOf v)) → exec (.kmerge f) s = .next s2) ∧
    ((∀ b ∈ bursts, k * (1 + runOf v) ≤ b.length) → (∀ b ∈ bursts, ∀ t ∈ b, t.kind ≠ .error) →
      (∀ b ∈ bursts, headersOk k v b = true) → exec (.kmerge f) s = .next
        (s3.emits x.t x.st (s3.results x t0 v (selectK k v 0 (bursts.flatMap (burstCands k v))) none))))

/-! ## Beyond the module -/

/-- R357, R359 to R361, R367: rld, rst and ramo send a request and await its reply, a bad address gives ERROR KIND, and with
32 awaited or a release that must wait nothing happens; rfence passes its token once its launch's operations have been
answered; a reply becomes the station's result, or is discarded where its launch has been purged, and one whose port has
failed is ERROR LINK; a request of another module is performed on the bytes of its translated address. Where it goes
beyond those rules it rests on the model's own readings, log 63, 64 and 91. -/
def Obligations.RemoteStations : Prop :=
  (∀ i f (s : State) x q (s1 : State), i = .rld f ∨ i = .rst f → Says.Takes s f x q s1 → Says.AllData q →
    let a := s.opWord x q 0
    let n := if f.ty = 1 then 128 else 8
    (32 ≤ (s.awaiting x).length → exec i s = .next s) ∧
    ((s.awaiting x).length < 32 → s.remoteOk x.r.part a n = false →
      exec i s = .next (s1.emits x.t x.st [(none, tokE (setSeq q) (setIter q) (s.self x.t 0x02))])) ∧
    ((s.awaiting x).length < 32 → s.remoteOk x.r.part a n = true →
      exec (.rld f) s = .next (s1.sendRemote x q a (.read (s1.part x.r.part).dpn (peerOff a) n)) ∧
      exec (.rst f) s = .next (s1.sendRemote x q a (.write (s1.part x.r.part).dpn (peerOff a)
        (if f.ty = 1 then (s1.opLanes x q 1).flatMap fun w => Says.bytesOf (w.setWidth 64) 8 else Says.bytesOf (s1.opWord x q 1) 8)
        ((s1.stagingOf x.r (setSeq q)).map (·.2)))))) ∧
  (∀ f (s : State) x q (s1 : State), Says.Takes s { f with ty := 2 } x q s1 → Says.AllData q →
    let a := s.opWord x q 0
    let acq := f.aux.getLsbD 4
    let rel := f.aux.getLsbD 5
    (s.awaiting x).length < 32 → s.remoteOk x.r.part a 8 = true →
      (rel = false → acq = false ∨ s.awaiting x = [] → exec (.ramo f) s = .next (s1.sendRemote x q a
        (.atomic (s1.part x.r.part).dpn (peerOff a) (f.aux.extractLsb' 0 4) (s1.opWord x q 1) (s1.opWord x q 2)))) ∧
      (rel = true ∧ s.awaitingOf x (setSeq q) ≠ [] ∨ acq = true ∧ s.awaiting x ≠ [] → exec (.ramo f) s = .next s)) ∧
  (∀ (s : State) x q a req, s.sendRemote x q a req =
    { s.onTile x.t fun (y : Tile) => { y with remote := y.remote ++ [⟨x.st, tokS (setSeq q) (setIter q) .data a, req, s.routeTo (peerModule a), false⟩] } with
      sent := s.sent ++ [.remoteReq (s.routeTo (peerModule a)) (peerModule a) (some x.t) req] }) ∧
  (∀ f (s : State) x t, Says.HasHead s f x 0 t → t.kind = .data →
    (s.awaitingOf x t.seq = [] → f.aux.getLsbD 0 = false → f.aux.getLsbD 1 = false →
      exec (.rfence f) s = .next ((s.take x [0]).emits x.t x.st [(none, t)])) ∧
    (s.awaitingOf x t.seq = [] → ∃ (u : State), exec (.rfence f) s = .next (u.emits x.t x.st [(none, t)]) ∧
      { u with clocks := s.clocks } = s.take x [0]) ∧
    (s.awaitingOf x t.seq ≠ [] → f.aux.getLsbD 1 = true → exec (.rfence f) s = .next s) ∧
    ((∃ o ∈ s.awaitingOf x t.seq, ∃ d off n, o.op = .read d off n) → f.aux.getLsbD 0 = true → exec (.rfence f) s = .next s) ∧
    ((∀ o ∈ s.awaitingOf x t.seq, ∀ d off n, o.op ≠ .read d off n) → f.aux.getLsbD 1 = false →
      ∃ (u : State), exec (.rfence f) s = .next (u.emits x.t x.st [(none, t)]) ∧ { u with clocks := s.clocks } = s.take x [0])) ∧
  (∀ (s : State) q, (s.tileAt s.tile).remote[s.input.index]? = some q →
    let u : State := s.onTile s.tile fun (y : Tile) => { y with remote := y.remote.erase q }
    let give (t : Token) : State := u.emits s.tile q.st [(none, t)]
    (s.viaLost q.via = false → q.dead = false →
      (∀ d o ws, q.op = .read d o 8 → s.input.reply = .value ws →
        exec .remoteReply s = .next (give (tokS q.tok.seq q.tok.iter .data (ws.getD 0 0)))) ∧
      (∀ d o b k, q.op = .write d o b k → s.input.reply = .done →
        exec .remoteReply s = .next (give (tokS q.tok.seq q.tok.iter .done (BitVec.ofNat 64 (b.length / 8))))) ∧
      (∀ d o op b e ws w, q.op = .atomic d o op b e → s.input.reply = .value ws → s.wordAt s.tile q.st = some w → w.getLsbD 4 = false →
        exec .remoteReply s = .next (give (tokS q.tok.seq q.tok.iter .data (ws.getD 0 0)))) ∧
      (∀ d o n, q.op = .read d o n → s.input.reply = .xlate → exec .remoteReply s = .next
        (give (tokE q.tok.seq q.tok.iter ⟨peerModule q.tok.pay.word, s.tile, 0x07⟩)))) ∧
    (∀ d o n, q.op = .read d o n → s.viaLost q.via = true → q.dead = false → exec .remoteReply s = .next
      (give (tokE q.tok.seq q.tok.iter ⟨s.module, s.tile, 0x09⟩))) ∧
    (∀ d o, q.op = .read d o 8 → q.dead = true → s.viaLost q.via = true ∨ (∃ ws, s.input.reply = .value ws) ∨ s.input.reply = .xlate →
      exec .remoteReply s = .next u)) ∧
  (∀ (s : State),
    (∀ d off n h (s1 : State), s.input.req = .read d off n → s.hubTranslate d off .read = some (h, s1) →
      exec .remoteRequestServe s = .next { s1 with sent := s1.sent ++ [.remoteAns s.input.module (.value (readWords (memGets s1.mem h n)))] }) ∧
    (∀ d off bs h (s1 : State), s.input.req = .write d off bs none → bs ≠ [] → s.hubTranslate d off .write = some (h, s1) →
      Memory.wf s = true → s1.mem = s.mem →
      ∃ (t : State), exec .remoteRequestServe s = .next t ∧ Says.Stored s t h bs) ∧
    (∀ d off n, s.input.req = .read d off n → s.hubTranslate d off .read = none →
      exec .remoteRequestServe s = .next { s with sent := s.sent ++ [.remoteAns s.input.module .xlate] }))

/-- R354 to R356, R362 to R366: a flit whose CRC does not hold counts in CRCERR and asks for a replay with the number
expected, and fails the port after its eighth replay; a flit that carries only credits, or that resets a channel's
packet, is taken and FSEQ advances; a flit of a class channel joins its packet, and a whole packet for another module
goes on, a request on the forward class; a down or failed port starts training and comes up with its peer; a failed port
is led around. Where it goes beyond those rules it rests on the model's own readings, log 62, 91, 98 and 99. -/
def Obligations.TariorPorts : Prop :=
  (∀ (s : State),
    let p := s.input.port
    let x := s.ports[p]
    let b := s.input.bytes
    let d := dwAt b 0
    let vc := d.toNat % 64
    let cvc := d.toNat / 2 ^ 32 % 64
    let n := d.toNat / 2 ^ 38 % 256
    x.state = .up → b.length = 80 →
    (crc32c (b.take 72) ≠ wAt b 72 → x.tries < 8 →
      let y := { x with crcerr := incSat16 x.crcerr, tries := x.tries + 1, replay := incSat16 x.replay }
      exec .tariorFlitReceive s = .next { s.setPort p y with sent := s.sent ++ [.replayAsk p.val x.fseq] }) ∧
    (crc32c (b.take 72) ≠ wAt b 72 → 8 ≤ x.tries →
      exec .tariorFlitReceive s = .next ((s.setPort p { x with crcerr := incSat16 x.crcerr }).failPort p)) ∧
    (crc32c (b.take 72) = wAt b 72 → flitBad b x.fseq (s.scalarsIn p.val vc) = true →
      d.toNat / 2 ^ 8 % 2 ^ 12 ≠ x.fseq.toNat → exec .tariorFlitReceive s =
        .next { s.setPort p { x with proterr := incSat16 x.proterr, replay := incSat16 x.replay } with
          sent := s.sent ++ [.replayAsk p.val x.fseq] }) ∧
    (crc32c (b.take 72) = wAt b 72 → flitBad b x.fseq (s.scalarsIn p.val vc) = true →
      d.toNat / 2 ^ 8 % 2 ^ 12 = x.fseq.toNat → exec .tariorFlitReceive s = .next (if 8 ≤ x.tries
        then (s.setPort p { x with proterr := incSat16 x.proterr }).failPort p
        else { s.setPort p { x with proterr := incSat16 x.proterr, tries := x.tries + 1, replay := incSat16 x.replay } with
          sent := s.sent ++ [.replayAsk p.val x.fseq] })) ∧
    (crc32c (b.take 72) = wAt b 72 → flitBad b x.fseq (s.scalarsIn p.val vc) = false →
      let y := Port.ack { x with fseq := x.fseq + 1, tries := 0 } (BitVec.ofNat 12 (d.toNat / 2 ^ 20))
      (vc = 62 → n ≠ 0 → exec .tariorFlitReceive s = .next (s.setPort p
        { y with creds := assign y.creds cvc (if cvc < 32 then Nat.min 16 (lookupD y.creds cvc 0 + n) else lookupD y.creds cvc 0 + n),
                 far := dropFar cvc n y.far })) ∧
      (vc = 63 → (∀ q ∈ x.partPay, q.1 ≠ cvc) → exec .tariorFlitReceive s = .next (s.setPort p y)) ∧
      (vc = 63 → (∃ q ∈ x.partPay, q.1 = cvc) → exec .tariorFlitReceive s = .next
        ((s.savedOn p.val cvc).foldl (fun (u : State) (q : Region × BitVec 12) => u.onSaved q.1 id (q.1.live.map (·.seq)))
          ((s.onChannel p.val cvc).foldl (fun (u : State) (q : Region × BitVec 12) => u.cutLaunches q.1 (q.1.live.map (·.seq)))
            (s.setPort p { y with partPay := y.partPay.filter (·.1 ≠ cvc) })))) ∧
      (32 ≤ vc → vc < 36 → n = 0 → s.input.ok = false → exec .tariorFlitReceive s = .next (s.setPort p
        { y with partPay := (vc, lookupD x.partPay vc [] ++ (b.drop 8).take 64) :: x.partPay.filter (·.1 ≠ vc) })) ∧
      (32 ≤ vc → vc < 36 → n = 0 → s.input.ok = true →
        let whole := lookupD x.partPay vc [] ++ (b.drop 8).take 64
        let u : State := (s.setPort p { y with partPay := x.partPay.filter (·.1 ≠ vc) }).transmit p 62 vc (whole.length / 64) []
        (s.input.module ≠ s.module → exec .tariorFlitReceive s =
          .next (u.queuePacket (s.routeTo s.input.module) (if vc = 32 then 33 else vc) none whole)) ∧
        (∀ ch, s.input.module = s.module → vc = 35 → s.input.hub = some (.unbound ch) →
          exec .tariorFlitReceive s = .next (u.farUnbound p ch))))) ∧
  (∀ (s : State) i,
    let p := s.input.port
    let x := s.ports[p]
    let again := x.buffer.drop i
    x.state = .up → s.input.bytes = [] → x.buffer.findIdx? (·.1 == BitVec.ofNat 12 s.input.index) = some i →
      (∀ q ∈ again, q.2.2 < 8) → exec .tariorFlitReceive s = .next
        { s.setPort p { x with replay := incSat16 x.replay, buffer := x.buffer.take i ++ again.map fun q => (q.1, q.2.1, q.2.2 + 1) } with
          sent := s.sent ++ again.map fun q => .wire p q.2.1 }) ∧
  (∀ (x : Port) a i, x.buffer.findIdx? (·.1 == a) = some i → Port.ack x a = { x with acked := a, buffer := x.buffer.drop (i + 1) }) ∧
  (∀ (s : State),
    let p := s.input.port
    let x := s.ports[p]
    (∀ q : Fin 18, s.input.index = q.val → s.ports[q].state = .up →
      let s1 : State := { s with routes := (s.input.module, q) :: s.routes.filter (·.1 ≠ s.input.module) }
      exec .tariorReroute s = .next (if x.state = .failed then s1.setPort p { x with rerouted := true } else s1)) ∧
    ((∀ q : Fin 18, s.input.index = q.val → s.ports[q].state ≠ .up) →
      exec .tariorReroute s = .next (if x.state = .failed then s.setPort p { x with rerouted := true } else s)) ∧
    (x.state = .up → exec .tariorPortRetrain s = .next s) ∧
    (x.state = .down ∨ x.state = .failed → exec .tariorPortRetrain s = .next (s.setPort p
      { x with state := .training, peer := 0x3FF, fseq := 0, tries := 0, partPay := [], creds := [], tseq := 0, acked := 0xFFF,
               buffer := [], far := [], rx := [], outq := [] })) ∧
    (x.state = .training → s.input.ok = false → exec .tariorPortRetrain s = .next (s.setPort p { x with state := .failed })) ∧
    (x.state = .training → s.input.ok = true → exec .tariorPortRetrain s = .next ((s.setPort p
      { x with state := .up, peer := s.input.module, rerouted := false }).offerChannels p)))

/-- R43, R136, R401: what each cancel instruction answers and does: a launch that has ended, a graph with nothing to cancel,
an ended phase and an ended job answer 1; a queued launch leaves the queue and counts in GCC, a staging is discarded, a
live launch, a committed graph, a phase and a job are cancelled, and the answer is 0; a job with no phase left ends
cancelled at once. A handle that does not name what the instruction takes is answered with its status. R41, R42, R143,
R144, R387, R391, R406: the purge of a launch at a station, which waits while the region is frozen or halted, an
uncorrectable error that strikes a live launch or a sampler's run, and the balancer's choice and its move. Where it goes
beyond those rules it rests on the model's own readings, log 37, 53, 81, 85 and 88. -/
def Obligations.CancelsAndFailures : Prop :=
  (
  (∀ d a (s : State) h (s1 : State), Says.Free s → Says.Reads s [a] [h] s1 →
    (∀ e, s1.launchMine h = .error e → Says.Answers (.cancelLaunch d a) s d (hStatus e) s1) ∧
    (∀ e, s1.graphMine h = .error e → Says.Answers (.cancelGraph d a) s d (hStatus e) s1) ∧
    (∀ e, s1.phaseOf h = .error e → Says.Answers (.cancelPhase d a) s d (hStatus e) s1) ∧
    (s1.jobOk h = false → Says.Answers (.cancelJob d a) s d (hStatus hBADHANDLE) s1)) ∧
  (∀ d a (s : State) h (s1 : State) (r : Region), Says.Free s → Says.Reads s [a] [h] s1 →
    (∀ k, s1.launchMine h = .ok (r, .ended k) → Says.Answers (.cancelLaunch d a) s d 1 s1) ∧
    (∀ l, s1.launchMine h = .ok (r, .live l) → Says.Answers (.cancelLaunch d a) s d 0
      ((s1.setRegion { r with hung := false }).cancelLive r.core r.bslot l.seq ⟨s.module, r.origin, 0x01⟩)) ∧
    (∀ q, s1.launchMine h = .ok (r, .queued q) → ∃ u r', Says.Answers (.cancelLaunch d a) s d 0 (u.settleWaiting r.core r.bslot) ∧
      u = s1.setRegion r' ∧ r'.queue = r.queue.filter (·.serial ≠ q.serial) ∧ r'.live = r.live ∧
      r'.gcc = r.gcc.add 1 (some ⟨s.module, r.origin, 0x01⟩)) ∧
    (∀ g, s1.graphMine h = .ok r → r.stagingOf h = some g → Says.Answers (.cancelGraph d a) s d 0 (s1.cancelStaging r)) ∧
    (s1.graphMine h = .ok r → r.stagingOf h = none → r.epochOpen = false → r.live = [] → r.queue = [] → s.recsOf r = [] →
      Says.Answers (.cancelGraph d a) s d 1 s1) ∧
    (s1.graphMine h = .ok r → r.stagingOf h = none → r.epochOpen = true ∨ r.live ≠ [] ∨ r.queue ≠ [] ∨ s.recsOf r ≠ [] →
      Says.Answers (.cancelGraph d a) s d 0 (s1.cancelGraph r.core r.bslot s.module))) ∧
  (∀ d a (s : State) h (s1 : State) (ph : Phase), Says.Free s → Says.Reads s [a] [h] s1 → s1.phaseOf h = .ok ph →
    (ph.pcc.state ≠ .open_ → Says.Answers (.cancelPhase d a) s d 1 s1) ∧
    (ph.pcc.state = .open_ → ph.cancelled = true → Says.Answers (.cancelPhase d a) s d 0 s1) ∧
    (ph.pcc.state = .open_ → ph.cancelled = false → Says.Answers (.cancelPhase d a) s d 0 (s1.cancelPhase s1.pid ph s.module))) ∧
  (∀ d a (s : State) h (s1 : State), Says.Free s → Says.Reads s [a] [h] s1 → s1.jobOk h = true →
    ((s1.part s1.pid).jcc.state ≠ .open_ → Says.Answers (.cancelJob d a) s d 1 s1) ∧
    ((s1.part s1.pid).jcc.state = .open_ →
      let x := s1.part s1.pid
      let v := s1.setPart s1.pid { x with jobCancel := true, jcc := x.jcc.blame ⟨s1.module, ⟨0, 0, 0⟩, 0x01⟩ }
      let u := State.jobEnd ((x.phases.filter fun ph => ph.pcc.state = .open_).foldl (fun (w : State) ph =>
        if ph.started = false then w.discardPhase s1.pid ph else if ph.cancelled = true then w
        else w.cancelPhase s1.pid ph s1.module) v) s1.pid
      Says.Answers (.cancelJob d a) s d 0 u ∧
      ((s1.part s1.pid).jcc.cause = 0 → (∀ ph ∈ (s1.part s1.pid).phases, ph.pcc.state ≠ .open_) → ∃ k,
        u = s1.setPart s1.pid { s1.part s1.pid with jobCancel := true, jcc := k } ∧ k.state = .cancelled ∧ k.cause = 0x01)))) ∧
  (
  (∀ (s : State) r w, s.regionOf s.tile = some r → (s.tileAt s.tile).wideAt s.st = some w → s.outCredit r s.tile s.st none = true →
    r.hung = false → (s.tileAt s.tile).broken = false → (s.part r.part).pre = .running → exec .launchWideErrorPurge s = .next (s.purge r s.tile s.st w.seq (w.err (s.self s.tile 0)))) ∧
  (∀ (s : State) r, s.regionOf s.tile = some r →
    r.hung = true ∨ (s.tileAt s.tile).broken = true ∨ (s.part r.part).pre ≠ .running ∨ s.outCredit r s.tile s.st none = false →
    exec .launchWideErrorPurge s = .next s) ∧
  (∀ (s : State), s.input.k ≠ 0 →
    let s1 := { s with ctx := if s.input.index % 2 = 0 then 0 else 1 }
    (∀ c, s1.ctxNow = some c → exec .eccUncorrectable s = .next { s1.abandonRun c with ctx := s.ctx }) ∧
    (s1.ctxNow = none → exec .eccUncorrectable s = .next s)) ∧
  (∀ (s : State) (r : Region), s.input.k = 0 → Says.regionNow s = some r →
    exec .eccUncorrectable s = .next (s.failLive s.cur s.input.bslot s.input.seq ⟨s.module, r.origin, 0x08⟩) ∧
    ((∀ l ∈ (s.lead r).live, l.seq = s.input.seq → l.cancelled ≠ none) → exec .eccUncorrectable s = .next s)) ∧
  (∀ (s : State), s.core.balEn = true → exec .balancerSample s = .next { s with regions := s.regions.map fun (r : Region) =>
    if r.core = s.cur ∧ r.resident = true ∧ 256 ≤ r.occTime then
      { r with occ := [], occTime := 0,
               move := if r.move = none ∧ 5 ≤ s.core.balTh.toNat then s.chooseMove r s.core.balTh.toNat else r.move } else r }) ∧
  (∀ (s : State), s.core.balEn = false → exec .balancerSample s = .next s) ∧
  (∀ (s : State) r th t u, s.chooseMove r th = some (t, u) → ∃ v, (t, v) ∈ r.serving ∧ u ∈ s.stagesOn r t ∧ u ≠ v ∧
    th * r.occ.getD v 0 ≤ 4 * r.occ.getD u 0 ∧ 2 * r.occTime ≤ r.occ.getD u 0 ∧ s.movedLongAgo r t = true) ∧
  (∀ (s : State) (r : Region) t n, Says.regionNow s = some r → r.move = some (t, n) →
    (s.stageEmpty r t (lookupD r.serving t 0) = true →
      exec .balancerMove s = .next (s.setRegion
        { r with serving := assign r.serving t n, move := none, moved := assign r.moved t s.cores[r.core].cycle })) ∧
    (s.stageEmpty r t (lookupD r.serving t 0) = false → exec .balancerMove s = .next s)))

/-! ## The logit machine -/

namespace Sys2Proof.Says

/-- A run stands in the acting context, its partition is not out, and it has words left (R415, R422). -/
def Runs (s : State) (c : Ctx) : Prop :=
  s.ctxNow = some c ∧ (∀ b, s.lbind c.slot = some b → (s.part b.part).pre ≠ .halted) ∧ c.count < 4095

/-- Vector and scalar registers of a run. -/
def vreg (c : Ctx) (r : BitVec 3) : List W48 := c.v[r.toNat]'r.isLt
def sreg (c : Ctx) (r : BitVec 3) : W48 := c.s[r.toNat]'r.isLt

/-- The run goes on at the next word (R415). -/
def onWord (s : State) (c : Ctx) : State := s.setCtx (some { c with pc := c.pc + 1, count := c.count + 1 })

/-- The logit instructions that write a vector register: it, and what it is given (R418, R419). -/
def vectorLogit : Instr → Option (BitVec 3 × (State → Ctx → List W48))
  | .lgin d => some (d, fun _ c => c.logits)
  | .pen d a b => some (d, fun s c => (vreg c a).mapIdx fun i x =>
      if (s.recorded c).contains i then (if isPos x then wDiv x (sreg c b) rNE else wMul x (sreg c b) rNE) else x)
  | .scl d a b => some (d, fun _ c => (vreg c a).map fun x => wMul x (sreg c b) rNE)
  | .msk d a => some (d, fun s c => (vreg c a).mapIdx fun i x =>
      if (memGet s.mem (larderAt c.slot + 0xC000 + i / 8)).getLsbD (i % 8) then x else wInf true)
  | .clamp d a b => some (d, fun _ c => (vreg c a).map fun x => wMinMax false (wMinMax true x (wNeg (sreg c b))) (sreg c b))
  | .topk d a b => some (d, fun _ c => match fvOf (sreg c b) with
      | .num n m e => if roundInt n m e rZ ≤ 0 ∨ ((vreg c a).length : Int) ≤ roundInt n m e rZ then vreg c a
          else keepIds (vreg c a) ((ranking (vreg c a)).take (roundInt n m e rZ).toNat) (wInf true)
      | _ => vreg c a)
  | .topp d a b => some (d, fun _ c => topP (vreg c a) (sreg c b))
  | .minp d a b => some (d, fun _ c =>
      if wIsNaN (sreg c b) = true ∨ fvLt (.num false 0 0) (fvOf (sreg c b)) = false then vreg c a
      else (vreg c a).map fun x => if wCmp 5 x (wMul (sreg c b) (rankedFirst (vreg c a)) rNE) then x else wZero false)
  | .smax d a => some (d, fun _ c => softmax (vreg c a))
  | _ => none

/-- The logit instructions that write a scalar register (R417). -/
def scalarLogit : Instr → Option (BitVec 3 × (State → Ctx → W48))
  | .vmax d a => some (d, fun _ c => pairTree (wMinMax true) (vreg c a).length (vreg c a))
  | .vsum d a => some (d, fun _ c => pairSum (vreg c a) rNE)
  | .cnt d a => some (d, fun s c => match idOf (sreg c a) c.logits.length with
      | some x => match s.countOf c x with
        | some n => wOfInt n
        | none => wZero false
      | none => wZero false)
  | .set_ d i => some (d, fun _ _ => wOfInt i.toInt)
  | .slds d i => some (d, fun s c => (lookupD c.held.params i.toNat
      (memDword s.mem (larderAt c.slot + (0x200 + 8 * i.toNat)))).extractLsb' 0 48)
  | _ => none

end Sys2Proof.Says

/-- R406, R407, R410, R415 to R422: what each logit instruction writes, and that it goes on at the next word or at its
target; draw's id, its held writes and its register; emit and ssts; halt ends the run with its one token, the id of its
first emit or DONE, which leaves in order to the region's output edge or is drained; a run in header order starts in a
free context. Where it goes beyond those rules it rests on the model's own readings, log 3, 100 and 118. -/
def Obligations.LogitInstructions : Prop :=
  (∀ i d g, Says.vectorLogit i = some (d, g) → ∀ (s : State) c, Says.Runs s c →
    exec i s = .next (Says.onWord s { c with v := c.v.set d.toNat (g s c) d.isLt })) ∧
  (∀ i d g, Says.scalarLogit i = some (d, g) → ∀ (s : State) c, Says.Runs s c →
    exec i s = .next (Says.onWord s { c with s := c.s.set d.toNat (g s c) d.isLt })) ∧
  (∀ (s : State) c, Says.Runs s c →
    (∀ d a, (memDword s.mem (larderAt c.slot + 24)).getLsbD 19 = false → exec (.bias d a) s = .next (Says.onWord s
      { c with v := c.v.set d.toNat ((Says.vreg c a).mapIdx fun i x =>
        wAdd x ((s.biasOf c i).getD (wZero false)) rNE) d.isLt })) ∧
    (∀ d a bs, (memDword s.mem (larderAt c.slot + 24)).getLsbD 19 = true →
      s.readV ((s.cores[c.core].part).getD 0) [.vault] ((memDword s.mem (larderAt c.slot + 32)).toNat % 2 ^ 57)
        (2 * (Says.vreg c a).length) = .ok bs → exec (.bias d a) s = .next (Says.onWord s
      { c with v := c.v.set d.toNat ((Says.vreg c a).mapIdx fun i x =>
        wAdd x ((decodeElem 0x02 false rNE (leNat ((bs.drop (2 * i)).take 2))).setWidth 48) rNE) d.isLt })) ∧
    (∀ d a,
      let h := shake256 (memGets s.mem (larderAt c.slot + 0x100) 16 ++ leBytes 8 (memDword s.mem (larderAt c.slot)).toNat ++
        leBytes 8 (s.stepOf c).toNat) 8
      let x := drawId (Says.vreg c a) (leNat h)
      exec (.draw d a) s = .next (Says.onWord s { c with s := c.s.set d.toNat (wOfInt x) d.isLt, held := s.record c x })) ∧
    (∀ a, exec (.emit a) s = .next (Says.onWord s
      { c with out := if c.out.isSome then c.out else idOf (Says.sreg c a) c.logits.length })) ∧
    (∀ a i, exec (.ssts a i) s = .next (Says.onWord s
      { c with held := { c.held with params := assign c.held.params (BitVec.toNat (w := 14) i) ((Says.sreg c a).setWidth 64) } })) ∧
    (∀ i,
      let t := s.setCtx (some { c with pc := ((c.pc : Int) + BitVec.toInt (n := 14) i).toNat, count := c.count + 1 })
      exec (.br i) s = .next t ∧
      (∀ a, exec (.brz a i) s = .next (if isZeroW (Says.sreg c a) then t else Says.onWord s c)) ∧
      (∀ a, exec (.brnz a i) s = .next (if isZeroW (Says.sreg c a) then Says.onWord s c else t))) ∧
    (let t : Token := match c.out with
        | some x => ⟨c.seq, c.iter, .data, .scalar (BitVec.ofNat 64 x), (0, 0)⟩
        | none => ⟨c.seq, c.iter, .done, .scalar 0, (0, 0)⟩
      let u := ((s.halted c).setCtx none).onSmp s.smp fun x =>
        { x with items := updFirst (·.ctx == some s.ctx) (fun q => { q with ctx := none, out := some t }) x.items }
      exec .halt s = .next (State.smpFlush s.smp u.smps[s.smp].items.length u))) ∧
  (∀ n k (s : State) q, s.smpLeaves n [] s.smps[n].items = some q →
    let s1 := s.onSmp n fun x => { x with items := x.items.erase q }
    (s.smpOutEdge n q.core q.bslot = none → State.smpFlush n (k + 1) s = State.smpFlush n k s1) ∧
    (∀ r e t, s.smpOutEdge n q.core q.bslot = some (r, e) → q.out = some t →
      State.smpFlush n (k + 1) s = State.smpFlush n k (s1.inject r e.id t))) ∧
  (∀ (s : State) c x, (s.record c x).step = some (s.stepOf c + 1) ∧
    (s.record c x).last = some (BitVec.ofNat 18 x) ∧ (s.probe c x = none → (s.record c x).cfull = true)) ∧
  (∀ (s : State) c, Memory.wf s = true → c.held.last = none → c.held.counts = [] → c.held.params = [] → ∀ n, c.held.step = some n →
    (memDword (s.halted c).mem (larderAt c.slot + 8)).toNat % 2 ^ 32 = n.toNat) ∧
  (∀ (s : State) q i b,
    let s1 := State.smpFlush s.smp s.smps[s.smp].items.length s
    let x := s1.smps[s.smp]
    nextRun x.items = some q → (List.finRange 2).find? (fun i => x.ctx[i].isNone && x.parked[i].isNone) = some i →
    s1.lbind q.slot = some b → q.need ≤ q.toks.length →
    (∀ j : Fin 2, ∀ c, x.ctx[j] = some c → c.slot ≠ q.slot) → (s1.part b.part).pre = .running →
    (s1.smpBusy s.smp b.part = true → exec .samplerRunStart s = .next s1) ∧
    (s1.smpBusy s.smp b.part = false → ∃ (t : State) (c : Ctx), exec .samplerRunStart s = .next t ∧ t.smps[s.smp].ctx[i] = some c ∧ c.pc = 0 ∧ c.count = 0 ∧ c.slot = q.slot ∧
      c.pslot = b.pslot ∧ c.logits = q.logits (s1.vocab q.slot) ∧ t.mem = s1.mem))

/-! ## Encodings -/

/-- R51 to R62, R64, R67, R68: every well-formed instruction's word decodes to it, with every operand at every value that its
encoding admits: a control word from its four bytes, the rest left over, a station word and a logit word. -/
def Obligations.DecodeEncode : Prop :=
  (∀ i w rest, i.wf = true → encodeControl i = some w → decode (wordBytes w ++ rest) = .ok (i, rest)) ∧
  (∀ i w, i.wf = true → encodeStation i = some w → decodeStation w = some i) ∧
  (∀ i w, i.wf = true → encodeLogit i = some w → decodeLogit w = some i)

/-- R53, R68: a word that decodes is the word of the instruction that it decodes to, which is well formed: no two words of a
set are one instruction, and no bit is read twice. -/
def Obligations.EncodeDecode : Prop :=
  ∀ w i, (decodeControl w = some i → i.wf = true ∧ encodeControl i = some w) ∧
    (decodeStation w = some i → i.wf = true ∧ encodeStation i = some w) ∧
    (decodeLogit w = some i → i.wf = true ∧ encodeLogit i = some w)

/-- R53 to R61, R67, R229: words that the manual writes out, each decoded to the instruction it stands for. -/
def Obligations.DecodeSamples : Prop :=
  decode [0x00, 0x28, 0x64, 0x04] = .ok (.add 3 4 5, []) ∧ decodeControl 0x04000003 = some (.or_ 0 0 0) ∧
  decodeControl 0x1080FFFF = some (.ori 4 0 0xFFFF) ∧ decodeControl 0x25A04020 = some (.lui 13 0x4020) ∧
  decodeControl 0x20640005 = some (.shli 3 4 5) ∧ decodeControl 0x6CE42B60 = some (.ldx 7 4 5 3 3) ∧
  decodeControl 0x61ED0004 = some (.sth 15 13 4) ∧ decodeControl 0x90A6FFFD = some (.bltu 5 6 0xFFFD) ∧
  decodeControl 0xC0E6480E = some (.atadd 7 6 9 3 2) ∧ decodeControl 0xC400000E = some (.fence 3 2) ∧
  decodeControl 0xCCC40040 = some (.binq 6 4) ∧ decodeControl 0xD0090001 = some (.mbbind 9 1) ∧
  decodeControl 0xE1253000 = some (.cfgld 9 5 6) ∧ decodeControl 0xE4642800 = some (.splice 3 4 5) ∧
  decodeControl 0xE8642800 = some (.seqbind 3 4 5) ∧ decodeControl 0xF0131013 = some (.csrwr 0 19 0x013) ∧
  decodeControl 0xF000F087 = some (.brk 7) ∧ decodeControl 0x00000000 = none ∧
  decodeStation 0x00300C00 = some (.steer ⟨0, 6, 0, 3, 0, 0⟩) ∧ decodeStation 0x16A0C400 = some (.ishl ⟨2, 4, 3, 1, 0, 0⟩) ∧
  decodeStation 0x51E10400 = some (.dsenc ⟨3, 4, 4, 1, 0, 0⟩) ∧ decodeStation 0xA2B004A0 = some (.ramo ⟨2, 6, 0, 1, 0, 0xA0⟩) ∧
  decodeLogit 0x10940000 = some (.scl 1 1 2) ∧ decodeLogit 0x41000003 = some (.set_ 2 3) ∧ decodeLogit 0x58000000 = some .halt

/-! ## The step -/

/-- R51, R80, R82, R100, R375: a step whose turn is a running core takes a pending interrupt unless its next word traps;
else it runs the instruction that the four bytes at its program counter decode to, in the state in which time has
passed, what stands before the turn is done and the translation is installed; a word that is illegal and a fetch that
faults run as those. A turn of a station runs its operation word's instruction, and a turn of a sampler's context its
program's. The turns are the model's own (log 3). Where it goes beyond those rules it rests on the model's own readings,
log 3, 13, 95 and 104. -/
def Obligations.StepRunsDecoded : Prop :=
  (∀ (s : State) c, s.nextTurn = .core c →
    let s0 := (s.tick.before (.core c)).at_ (.core c)
    s0.powered = true → s0.core.run = .run →
    (s0.interrupted = true → s0.nextWord.2.traps s0.nextWord.1 = false → step s = exec .interruptTaken s0) ∧
    (s0.interrupted = false ∨ s0.nextWord.2.traps s0.nextWord.1 = true →
    (∀ home e, s0.core.pc.toNat < 2 ^ 57 → windowOf s0.core.pc.toNat = some .translated →
      s0.translate s0.pid s0.core.tlb s0.core.pc.toNat .exec = .ok (home, e) → home < spadBase →
      let s1 := match e with | none => s0 | some e => s0.setCore { s0.core with tlb := tlbAdd s0.core.tlb 64 e }
      (∀ i, decodeControl (BitVec.ofNat 32 (Says.littleEndian (fun k => memGet s0.mem (home + k)) 4)) = some i → step s = exec i s1) ∧
      (decodeControl (BitVec.ofNat 32 (Says.littleEndian (fun k => memGet s0.mem (home + k)) 4)) = none →
        step s = exec .illegalInstruction s1)) ∧
    (s0.fetch = none → step s = exec .fetchfault s0))) ∧
  (∀ (s : State) t st w i, s.nextTurn = .fire t st →
    let s0 := (s.tick.before (.fire t st)).at_ (.fire t st)
    s0.powered = true → s0.wins t st = true → s0.wordAt t st = some w → decodeStation w = some i →
    step s = exec i (if s0.readyAt t st then s0.won t st else s0)) ∧
  (∀ (s : State) n x c w i, s.nextTurn = .logit n x →
    let s0 := (s.tick.before (.logit n x)).at_ (.logit n x)
    s0.powered = true → s0.smps[n].ctx[x] = some c → (lookupD s0.smps[n].progs c.pslot [])[c.pc]? = some w →
    decodeLogit w = some i → step s = exec i s0)

/-! ## Memory and reset -/

/-- The memory is a list in canonical form (addresses rising, no entry equal to what an unlisted address reads as) after every
step from a state in which it is: the model's own form of memory (log 1). -/
def Obligations.MemoryStaysCanonical : Prop :=
  ∀ (s : State) (t : State), Memory.wf s = true → step s = .next t → Memory.wf t = true

/-- R75, R79, R85, R97, R101, R287, R307, R371, R374, R437: what reset leaves, of the values that the manual gives: every
register and counter of a core 0, no poison, nothing outstanding, no mailbox bound, IE 0, TIMECMP all ones, HOLD_LIM 50,
the rings empty, no region, the module in P3 with a cap of 2,400 W; and memory with nothing listed, the model's choice
(log 1). Where it goes beyond those rules it rests on the model's own readings, log 1 and 4. -/
def Obligations.ResetValues : Prop :=
  (∀ c : Fin 64, let x := State.reset.cores[c]
    (∀ r : Fin 32, x.regs[r] = 0 ∧ x.poison[r] = none) ∧ x.cycle = 0 ∧ x.instret = 0 ∧ x.dz = false ∧ x.ovf = false ∧
    x.loads = [] ∧ x.stores = [] ∧ x.copies = [] ∧ x.recs = [] ∧ (∀ k : Fin 4, x.mb[k].state = .unbound) ∧
    x.sterr = none ∧ x.tx = none ∧ x.trapVec = 0 ∧ x.trapPc = 0 ∧ x.ie = false ∧ x.pie = false ∧ x.inh = false ∧ x.intEn = 0 ∧
    x.timecmp = 0xFFFFFFFFFFFFFFFF ∧ x.holdLim = 50 ∧ x.rclq = Ring.zero ∧ x.fq = Ring.zero ∧ x.rlog = Ring.zero) ∧
  State.reset.regions = [] ∧ State.reset.pwrCap = 2400 ∧ State.reset.power = .p3 ∧ State.reset.mem = [] ∧
  Memory.wf State.reset = true
end

