-- ==== Sys2Proof/Laws/State.lean ====
section
/-! SUPPORT. What each shared update of the state leaves, one lemma for each field and update, so that no proof unfolds a
record update. -/

namespace Sys2Proof.Machine

/-! ## The acting core -/

@[simp] theorem State.setCore_core (s : State) (c : Core) : (s.setCore c).core = c := by
  simp [State.setCore, State.core]
@[simp] theorem State.setCore_setCore (s : State) (c c' : Core) : (s.setCore c).setCore c' = s.setCore c' := by
  simp [State.setCore]
@[simp] theorem State.setCore_self (s : State) : s.setCore s.core = s := by
  simp [State.setCore, State.core]
@[simp] theorem State.setCore_cur (s : State) (c : Core) : (s.setCore c).cur = s.cur := rfl
@[simp] theorem State.setCore_mem (s : State) (c : Core) : (s.setCore c).mem = s.mem := rfl
@[simp] theorem State.setCore_parts (s : State) (c : Core) : (s.setCore c).parts = s.parts := rfl
@[simp] theorem State.setCore_regions (s : State) (c : Core) : (s.setCore c).regions = s.regions := rfl
@[simp] theorem State.setCore_tiles (s : State) (c : Core) : (s.setCore c).tiles = s.tiles := rfl
@[simp] theorem State.setCore_flight (s : State) (c : Core) : (s.setCore c).flight = s.flight := rfl
@[simp] theorem State.setCore_bins (s : State) (c : Core) : (s.setCore c).bins = s.bins := rfl
@[simp] theorem State.setCore_waits (s : State) (c : Core) : (s.setCore c).waits = s.waits := rfl
@[simp] theorem State.setCore_walks (s : State) (c : Core) : (s.setCore c).walks = s.walks := rfl
@[simp] theorem State.setCore_holds (s : State) (c : Core) : (s.setCore c).holds = s.holds := rfl
@[simp] theorem State.setCore_streams (s : State) (c : Core) : (s.setCore c).streams = s.streams := rfl
@[simp] theorem State.setCore_flits (s : State) (c : Core) : (s.setCore c).flits = s.flits := rfl
@[simp] theorem State.setCore_credits (s : State) (c : Core) : (s.setCore c).credits = s.credits := rfl
@[simp] theorem State.setCore_sent (s : State) (c : Core) : (s.setCore c).sent = s.sent := rfl
@[simp] theorem State.setCore_smps (s : State) (c : Core) : (s.setCore c).smps = s.smps := rfl
@[simp] theorem State.setCore_ports (s : State) (c : Core) : (s.setCore c).ports = s.ports := rfl
@[simp] theorem State.setCore_shadow (s : State) (c : Core) : (s.setCore c).shadow = s.shadow := rfl
@[simp] theorem State.setCore_clocks (s : State) (c : Core) : (s.setCore c).clocks = s.clocks := rfl
@[simp] theorem State.setCore_qtlb (s : State) (c : Core) : (s.setCore c).qtlb = s.qtlb := rfl
@[simp] theorem State.setCore_hubTlb (s : State) (c : Core) : (s.setCore c).hubTlb = s.hubTlb := rfl
@[simp] theorem State.setCore_larder (s : State) (c : Core) : (s.setCore c).larder = s.larder := rfl
@[simp] theorem State.setCore_routes (s : State) (c : Core) : (s.setCore c).routes = s.routes := rfl
@[simp] theorem State.setCore_laid (s : State) (c : Core) : (s.setCore c).laid = s.laid := rfl
@[simp] theorem State.setCore_power (s : State) (c : Core) : (s.setCore c).power = s.power := rfl
@[simp] theorem State.setCore_powerAsk (s : State) (c : Core) : (s.setCore c).powerAsk = s.powerAsk := rfl
@[simp] theorem State.setCore_sec (s : State) (c : Core) : (s.setCore c).sec = s.sec := rfl
@[simp] theorem State.setCore_module (s : State) (c : Core) : (s.setCore c).module = s.module := rfl
@[simp] theorem State.setCore_fused (s : State) (c : Core) : (s.setCore c).fused = s.fused := rfl
@[simp] theorem State.setCore_input (s : State) (c : Core) : (s.setCore c).input = s.input := rfl
@[simp] theorem State.setCore_agenda (s : State) (c : Core) : (s.setCore c).agenda = s.agenda := rfl
@[simp] theorem State.setCore_fresh (s : State) (c : Core) : (s.setCore c).fresh = s.fresh := rfl
@[simp] theorem State.setCore_writes (s : State) (c : Core) : (s.setCore c).writes = s.writes := rfl
@[simp] theorem State.setCore_olds (s : State) (c : Core) : (s.setCore c).olds = s.olds := rfl
@[simp] theorem State.setCore_owed (s : State) (c : Core) : (s.setCore c).owed = s.owed := rfl
@[simp] theorem State.setCore_vendorAsk (s : State) (c : Core) : (s.setCore c).vendorAsk = s.vendorAsk := rfl
@[simp] theorem State.setCore_verified (s : State) (c : Core) : (s.setCore c).verified = s.verified := rfl
@[simp] theorem State.setCore_sentNo (s : State) (c : Core) : (s.setCore c).sentNo = s.sentNo := rfl
@[simp] theorem State.setCore_packed (s : State) (c : Core) : (s.setCore c).packed = s.packed := rfl
@[simp] theorem State.setCore_doorbells (s : State) (c : Core) : (s.setCore c).doorbells = s.doorbells := rfl
@[simp] theorem State.setCore_hostOut (s : State) (c : Core) : (s.setCore c).hostOut = s.hostOut := rfl
@[simp] theorem State.setCore_spdm (s : State) (c : Core) : (s.setCore c).spdm = s.spdm := rfl
@[simp] theorem State.setCore_doubles (s : State) (c : Core) : (s.setCore c).doubles = s.doubles := rfl
@[simp] theorem State.setCore_ckpts (s : State) (c : Core) : (s.setCore c).ckpts = s.ckpts := rfl
@[simp] theorem State.setCore_mrs (s : State) (c : Core) : (s.setCore c).mrs = s.mrs := rfl
@[simp] theorem State.setCore_vendor (s : State) (c : Core) : (s.setCore c).vendor = s.vendor := rfl
@[simp] theorem State.setCore_pwrGrant (s : State) (c : Core) : (s.setCore c).pwrGrant = s.pwrGrant := rfl
@[simp] theorem State.setCore_pwrCap (s : State) (c : Core) : (s.setCore c).pwrCap = s.pwrCap := rfl
@[simp] theorem State.setCore_pwrWin (s : State) (c : Core) : (s.setCore c).pwrWin = s.pwrWin := rfl
@[simp] theorem State.setCore_smp (s : State) (c : Core) : (s.setCore c).smp = s.smp := rfl
@[simp] theorem State.setCore_ctx (s : State) (c : Core) : (s.setCore c).ctx = s.ctx := rfl
@[simp] theorem State.setCore_tile (s : State) (c : Core) : (s.setCore c).tile = s.tile := rfl
@[simp] theorem State.setCore_st (s : State) (c : Core) : (s.setCore c).st = s.st := rfl
@[simp] theorem State.setCore_part (s : State) (c : Core) (p : BitVec 4) : (s.setCore c).part p = s.part p := rfl

/-- Nothing but the cores changes. -/
theorem State.setCore_frame (s : State) (c : Core) : { s.setCore c with cores := s.cores } = s := rfl
/-- The other cores stand as they were. -/
theorem State.setCore_other (s : State) (c : Core) (i : Fin 64) (h : i ≠ s.cur) : (s.setCore c).cores[i] = s.cores[i] := by
  have : s.cur.val ≠ i.val := fun e => h (Fin.ext e.symm)
  simp [State.setCore, this]

/-! ## Any core -/

@[simp] theorem State.setCoreAt_get (s : State) (i : Fin 64) (c : Core) : (s.setCoreAt i c).cores[i] = c := by
  simp [State.setCoreAt]
@[simp] theorem State.setCoreAt_mem (s : State) (i : Fin 64) (c : Core) : (s.setCoreAt i c).mem = s.mem := rfl
@[simp] theorem State.setCoreAt_cur (s : State) (i : Fin 64) (c : Core) : (s.setCoreAt i c).cur = s.cur := rfl
@[simp] theorem State.setCoreAt_parts (s : State) (i : Fin 64) (c : Core) : (s.setCoreAt i c).parts = s.parts := rfl
@[simp] theorem State.setCoreAt_regions (s : State) (i : Fin 64) (c : Core) : (s.setCoreAt i c).regions = s.regions := rfl
@[simp] theorem State.setCoreAt_tiles (s : State) (i : Fin 64) (c : Core) : (s.setCoreAt i c).tiles = s.tiles := rfl

theorem State.setCoreAt_frame (s : State) (i : Fin 64) (c : Core) : { s.setCoreAt i c with cores := s.cores } = s := rfl
theorem State.setCoreAt_other (s : State) (i j : Fin 64) (c : Core) (h : j ≠ i) : (s.setCoreAt i c).cores[j] = s.cores[j] := by
  have : i.val ≠ j.val := fun e => h (Fin.ext e.symm)
  simp [State.setCoreAt, this]

/-! ## Partitions -/

@[simp] theorem State.setPart_part (s : State) (p : BitVec 4) (x : Partition) : (s.setPart p x).part p = x := by
  simp [State.setPart, State.part]
@[simp] theorem State.setPart_mem (s : State) (p : BitVec 4) (x : Partition) : (s.setPart p x).mem = s.mem := rfl
@[simp] theorem State.setPart_cur (s : State) (p : BitVec 4) (x : Partition) : (s.setPart p x).cur = s.cur := rfl
@[simp] theorem State.setPart_cores (s : State) (p : BitVec 4) (x : Partition) : (s.setPart p x).cores = s.cores := rfl
@[simp] theorem State.setPart_core (s : State) (p : BitVec 4) (x : Partition) : (s.setPart p x).core = s.core := rfl
@[simp] theorem State.setPart_regions (s : State) (p : BitVec 4) (x : Partition) : (s.setPart p x).regions = s.regions := rfl
@[simp] theorem State.setPart_tiles (s : State) (p : BitVec 4) (x : Partition) : (s.setPart p x).tiles = s.tiles := rfl
/-- Nothing but the partitions changes. -/
theorem State.setPart_frame (s : State) (p : BitVec 4) (x : Partition) : { s.setPart p x with parts := s.parts } = s := rfl

/-! ## Ports -/

@[simp] theorem State.setPort_get (s : State) (p : Fin 18) (x : Port) : (s.setPort p x).ports[p] = x := by
  simp [State.setPort]
@[simp] theorem State.setPort_mem (s : State) (p : Fin 18) (x : Port) : (s.setPort p x).mem = s.mem := rfl
@[simp] theorem State.setPort_cur (s : State) (p : Fin 18) (x : Port) : (s.setPort p x).cur = s.cur := rfl
@[simp] theorem State.setPort_cores (s : State) (p : Fin 18) (x : Port) : (s.setPort p x).cores = s.cores := rfl
@[simp] theorem State.setPort_parts (s : State) (p : Fin 18) (x : Port) : (s.setPort p x).parts = s.parts := rfl
@[simp] theorem State.setPort_regions (s : State) (p : Fin 18) (x : Port) : (s.setPort p x).regions = s.regions := rfl
@[simp] theorem State.setPort_tiles (s : State) (p : Fin 18) (x : Port) : (s.setPort p x).tiles = s.tiles := rfl
@[simp] theorem State.setPort_flight (s : State) (p : Fin 18) (x : Port) : (s.setPort p x).flight = s.flight := rfl
@[simp] theorem State.setPort_sent (s : State) (p : Fin 18) (x : Port) : (s.setPort p x).sent = s.sent := rfl
@[simp] theorem State.setPort_packed (s : State) (p : Fin 18) (x : Port) : (s.setPort p x).packed = s.packed := rfl
@[simp] theorem State.setPort_owed (s : State) (p : Fin 18) (x : Port) : (s.setPort p x).owed = s.owed := rfl
@[simp] theorem State.setPort_smps (s : State) (p : Fin 18) (x : Port) : (s.setPort p x).smps = s.smps := rfl
/-- Nothing but the ports changes. -/
theorem State.setPort_frame (s : State) (p : Fin 18) (x : Port) : { s.setPort p x with ports := s.ports } = s := rfl
theorem State.setPort_other (s : State) (p q : Fin 18) (x : Port) (h : q ≠ p) : (s.setPort p x).ports[q] = s.ports[q] := by
  have : p.val ≠ q.val := fun e => h (Fin.ext e.symm)
  simp [State.setPort, this]

/-! ## Retirement -/

@[simp] theorem State.retireAt_core (s : State) (pc : Word) :
    (s.retireAt pc).core = { s.core with pc := pc, instret := s.core.instret + 1 } := by
  simp [State.retireAt]
@[simp] theorem State.retireAt_mem (s : State) (pc : Word) : (s.retireAt pc).mem = s.mem := rfl
@[simp] theorem State.retireAt_cur (s : State) (pc : Word) : (s.retireAt pc).cur = s.cur := rfl
@[simp] theorem State.retireAt_parts (s : State) (pc : Word) : (s.retireAt pc).parts = s.parts := rfl
@[simp] theorem State.retireAt_regions (s : State) (pc : Word) : (s.retireAt pc).regions = s.regions := rfl
@[simp] theorem State.retireAt_tiles (s : State) (pc : Word) : (s.retireAt pc).tiles = s.tiles := rfl
@[simp] theorem State.retireAt_bins (s : State) (pc : Word) : (s.retireAt pc).bins = s.bins := rfl

/-! ## Vectors -/

@[simp] theorem mapEach_get {α β : Type} {n : Nat} (v : Vector α n) (f : Fin n → α → β) (i : Fin n) :
    (mapEach v f)[i] = f i v[i] := by
  simp [mapEach]

@[simp] theorem mapAll_get {α β : Type} {n : Nat} (v : Vector α n) (f : α → β) (i : Fin n) : (mapAll v f)[i] = f v[i] :=
  mapEach_get v (fun _ x => f x) i

end Sys2Proof.Machine
end

