-- ==== Sys2Proof/Laws/Memory.lean ====
section
/-! SUPPORT. Memory: a byte read after a write, the canonical form kept by every memory operation, and what a write
leaves. -/

namespace Sys2Proof.Machine

/-! ## Reading after writing -/

/-- The entries of a canonical memory above an address say nothing of it. -/
theorem memGet_low {m : List Host.Cell} {a : Nat} (h : memWf m = true) (hm : ∀ c ∈ m.head?, a < c.1) :
    memGet m a = unlisted := by
  induction m with
  | nil => rfl
  | cons c m ih =>
    obtain ⟨k, v⟩ := c
    have hk : a < k := hm (k, v) (by simp)
    cases m with
    | nil => simp [memGet, Nat.ne_of_lt hk]
    | cons c' m' =>
      obtain ⟨k', v'⟩ := c'
      simp only [memWf, Bool.and_eq_true, decide_eq_true_eq] at h
      simp only [memGet, Nat.ne_of_lt hk, if_false]
      exact ih h.2 (by simp; omega)

/-- The first entry of a memory after a byte is written lies no lower than the entry or the byte. -/
theorem memSet_head {m : List Host.Cell} {a : Nat} {v : Byte} {k : Nat} (hm : ∀ c ∈ m.head?, k < c.1) (ha : k < a)
    (h : memWf m = true) : ∀ c ∈ (memSet m a v).head?, k < c.1 := by
  cases m with
  | nil => simp only [memSet]; split <;> simp [ha]
  | cons c m =>
    obtain ⟨k', x⟩ := c
    have hk : k < k' := hm (k', x) (by simp)
    simp only [memSet]
    split
    · split <;> simp [ha, hk]
    · split
      · split
        · cases m with
          | nil => simp
          | cons c m =>
            obtain ⟨k2, x2⟩ := c
            simp only [memWf, Bool.and_eq_true, decide_eq_true_eq] at h
            simp; omega
        · simp [ha]
      · simp [hk]

/-- A byte at the head of a canonical memory. -/
theorem memWf_cons {k : Nat} {v : Byte} {m : List Host.Cell} (hv : v ≠ unlisted) (hm : ∀ c ∈ m.head?, k < c.1)
    (h : memWf m = true) : memWf ((k, v) :: m) = true := by
  cases m with
  | nil => simp [memWf, hv]
  | cons c m =>
    obtain ⟨k', v'⟩ := c
    have := hm (k', v') (by simp)
    simp [memWf, hv, this, h]

/-- The parts of a canonical memory. -/
theorem memWf_parts {k : Nat} {v : Byte} {m : List Host.Cell} (h : memWf ((k, v) :: m) = true) :
    v ≠ unlisted ∧ (∀ c ∈ m.head?, k < c.1) ∧ memWf m = true := by
  cases m with
  | nil => simpa [memWf] using h
  | cons c m =>
    obtain ⟨k', v'⟩ := c
    simp only [memWf, Bool.and_eq_true, decide_eq_true_eq, bne_iff_ne] at h
    exact ⟨h.1.1, by simp [h.1.2], h.2⟩

/-- Writing a byte keeps the canonical form. -/
theorem memSet_wf {m : List Host.Cell} (a : Nat) (v : Byte) (h : memWf m = true) : memWf (memSet m a v) = true := by
  induction m with
  | nil =>
    simp only [memSet]
    split
    · rfl
    · rename_i hv; simp [memWf, hv]
  | cons c m ih =>
    obtain ⟨k, x⟩ := c
    obtain ⟨hx, hm, hw⟩ := memWf_parts h
    simp only [memSet]
    split
    · rename_i hak
      split
      · exact h
      · rename_i hv; exact memWf_cons hv (by simp [hak]) h
    · split
      · rename_i hak
        split
        · exact hw
        · rename_i hv; exact memWf_cons hv (hak ▸ hm) hw
      · exact memWf_cons hx (memSet_head hm (by omega) hw) (ih hw)

/-- A written byte reads back, and every other byte reads as before. -/
theorem memGet_memSet {m : List Host.Cell} (a k : Nat) (v : Byte) (h : memWf m = true) :
    memGet (memSet m a v) k = if k = a then v else memGet m k := by
  induction m with
  | nil =>
    simp only [memSet]
    split
    · rename_i hv; simp [memGet, hv]
    · simp [memGet]
  | cons c m ih =>
    obtain ⟨j, x⟩ := c
    obtain ⟨hx, hm, hw⟩ := memWf_parts h
    simp only [memSet]
    split
    · rename_i haj
      split
      · rename_i hv
        by_cases hk : k = a
        · subst hk; simp only [if_true, hv]
          exact memGet_low h (by simp [haj])
        · simp [hk]
      · by_cases hk : k = a <;> simp [memGet, hk]
    · split
      · rename_i haj
        subst haj
        split
        · rename_i hv
          by_cases hk : k = a
          · subst hk; simp only [if_true, hv]; exact memGet_low hw hm
          · simp [hk, memGet]
        · by_cases hk : k = a <;> simp [memGet, hk]
      · rename_i h1 h2
        by_cases hk : k = j
        · subst hk; simp [memGet, Ne.symm h2]
        · simp [memGet, hk, ih hw]

/-- Writing bytes keeps the canonical form. -/
theorem memSets_wf {m : List Host.Cell} (a : Nat) (bs : List Byte) (h : memWf m = true) : memWf (memSets m a bs) = true := by
  induction bs generalizing m a with
  | nil => exact h
  | cons b bs ih => exact ih (a + 1) (memSet_wf a b h)

/-- Written bytes read back, and every other byte reads as before. -/
theorem memGet_memSets {m : List Host.Cell} (a : Nat) (bs : List Byte) (k : Nat) (h : memWf m = true) :
    memGet (memSets m a bs) k = if a ≤ k ∧ k < a + bs.length then bs.getD (k - a) 0 else memGet m k := by
  induction bs generalizing m a with
  | nil =>
    have : ¬ (a ≤ k ∧ k < a) := by omega
    simp [memSets, this]
  | cons b bs ih =>
    rw [memSets, ih (a + 1) (memSet_wf a b h), memGet_memSet a k b h]
    by_cases hk : k = a
    · subst hk
      have h1 : ¬ (k + 1 ≤ k ∧ k < k + 1 + bs.length) := by omega
      have h2 : k ≤ k ∧ k < k + (b :: bs).length := by simp
      rw [if_neg h1, if_pos rfl, if_pos h2]; simp
    · by_cases hr : a + 1 ≤ k ∧ k < a + 1 + bs.length
      · have h2 : a ≤ k ∧ k < a + (b :: bs).length := by simp; omega
        rw [if_pos hr, if_pos h2]
        obtain ⟨n, rfl⟩ := Nat.exists_eq_add_of_le hr.1
        have e1 : a + 1 + n - (a + 1) = n := by omega
        have e2 : a + 1 + n - a = n + 1 := by omega
        rw [e1, e2]; simp
      · have h2 : ¬ (a ≤ k ∧ k < a + (b :: bs).length) := by simp; omega
        rw [if_neg hr, if_neg h2, if_neg hk]

/-- Taking entries away keeps the canonical form. -/
theorem memFilter_wf {m : List Host.Cell} (p : Host.Cell → Bool) (h : memWf m = true) : memWf (m.filter p) = true := by
  have key : ∀ (m : List Host.Cell) (k : Nat), memWf m = true → (∀ c ∈ m.head?, k < c.1) →
      memWf (m.filter p) = true ∧ ∀ c ∈ (m.filter p).head?, k < c.1 := by
    intro m
    induction m with
    | nil => intro k _ _; simp [memWf]
    | cons c m ih =>
      intro k hw hk
      obtain ⟨j, x⟩ := c
      obtain ⟨hx, hm, hw'⟩ := memWf_parts hw
      have hj : k < j := hk (j, x) (by simp)
      obtain ⟨h1, h2⟩ := ih j hw' hm
      by_cases hp : p (j, x) = true
      · rw [List.filter_cons_of_pos hp]
        exact ⟨memWf_cons hx h2 h1, by simp [hj]⟩
      · rw [List.filter_cons_of_neg hp]
        exact ⟨h1, fun c hc => Nat.lt_trans hj (h2 c hc)⟩
  cases m with
  | nil => rfl
  | cons c m =>
    obtain ⟨j, x⟩ := c
    obtain ⟨hx, hm, hw'⟩ := memWf_parts h
    obtain ⟨h1, h2⟩ := key m j hw' hm
    by_cases hp : p (j, x) = true
    · rw [List.filter_cons_of_pos hp]; exact memWf_cons hx h2 h1
    · rw [List.filter_cons_of_neg hp]; exact h1

/-! ## Writes of the machine -/

@[simp] theorem State.conflicts_mem (s : State) (b : Option (Fin 64)) (l : List Nat) : (s.conflicts b l).mem = s.mem := rfl
@[simp] theorem State.conflicts_cur (s : State) (b : Option (Fin 64)) (l : List Nat) : (s.conflicts b l).cur = s.cur := rfl
@[simp] theorem State.conflicts_regions (s : State) (b : Option (Fin 64)) (l : List Nat) :
    (s.conflicts b l).regions = s.regions := rfl
@[simp] theorem State.conflicts_tiles (s : State) (b : Option (Fin 64)) (l : List Nat) : (s.conflicts b l).tiles = s.tiles := rfl
@[simp] theorem State.conflicts_parts (s : State) (b : Option (Fin 64)) (l : List Nat) : (s.conflicts b l).parts = s.parts := rfl
@[simp] theorem State.conflicts_bins (s : State) (b : Option (Fin 64)) (l : List Nat) : (s.conflicts b l).bins = s.bins := rfl

/-- A core's own write never aborts its own region. -/
@[simp] theorem State.conflicts_own (s : State) (l : List Nat) : (s.conflicts (some s.cur) l).core = s.core := by
  simp only [State.conflicts, State.core, mapEach_get]
  split
  · rfl
  · simp

@[simp] theorem State.conflicts_writes (s : State) (b : Option (Fin 64)) (l : List Nat) : (s.conflicts b l).writes = s.writes := rfl
@[simp] theorem State.conflicts_olds (s : State) (b : Option (Fin 64)) (l : List Nat) : (s.conflicts b l).olds = s.olds := rfl

section Writes
variable (s : State) (b : Option (Fin 64)) (near : Option (BitVec 2 × Nat)) (a : Nat) (bs : List Byte)

/-- What a write leaves: memory with its bytes, one more write made, the bytes it replaced kept for loads that may still read them
(R332), and the regions of other cores aborted that had read its lines (R342); all else is as before. -/
theorem State.writeNear_eq : s.writeNear b near a bs = { s with
    mem := memSets s.mem a bs, writes := s.writes + 1, olds := s.replaced b near a bs.length ++ s.olds,
    cores := (s.conflicts b (linesOf a bs.length)).cores } := rfl

@[simp] theorem State.writeNear_cur : (s.writeNear b near a bs).cur = s.cur := rfl
@[simp] theorem State.writeNear_regions : (s.writeNear b near a bs).regions = s.regions := rfl
@[simp] theorem State.writeNear_tiles : (s.writeNear b near a bs).tiles = s.tiles := rfl
@[simp] theorem State.writeNear_parts : (s.writeNear b near a bs).parts = s.parts := rfl
@[simp] theorem State.writeNear_bins : (s.writeNear b near a bs).bins = s.bins := rfl
@[simp] theorem State.writeNear_flight : (s.writeNear b near a bs).flight = s.flight := rfl
@[simp] theorem State.writeNear_larder : (s.writeNear b near a bs).larder = s.larder := rfl
@[simp] theorem State.writeNear_smps : (s.writeNear b near a bs).smps = s.smps := rfl
@[simp] theorem State.writeNear_holds : (s.writeNear b near a bs).holds = s.holds := rfl
@[simp] theorem State.writeNear_ports : (s.writeNear b near a bs).ports = s.ports := rfl
@[simp] theorem State.writeNear_writes : (s.writeNear b near a bs).writes = s.writes + 1 := rfl
@[simp] theorem State.writeNear_mem : (s.writeNear b near a bs).mem = memSets s.mem a bs := rfl

@[simp] theorem State.writeMem_cur : (s.writeMem b a bs).cur = s.cur := rfl
@[simp] theorem State.writeMem_regions : (s.writeMem b a bs).regions = s.regions := rfl
@[simp] theorem State.writeMem_tiles : (s.writeMem b a bs).tiles = s.tiles := rfl
@[simp] theorem State.writeMem_parts : (s.writeMem b a bs).parts = s.parts := rfl
@[simp] theorem State.writeMem_bins : (s.writeMem b a bs).bins = s.bins := rfl
@[simp] theorem State.writeMem_flight : (s.writeMem b a bs).flight = s.flight := rfl
@[simp] theorem State.writeMem_larder : (s.writeMem b a bs).larder = s.larder := rfl
@[simp] theorem State.writeMem_smps : (s.writeMem b a bs).smps = s.smps := rfl
@[simp] theorem State.writeMem_holds : (s.writeMem b a bs).holds = s.holds := rfl
@[simp] theorem State.writeMem_ports : (s.writeMem b a bs).ports = s.ports := rfl
@[simp] theorem State.writeMem_writes : (s.writeMem b a bs).writes = s.writes + 1 := rfl
@[simp] theorem State.writeMem_mem : (s.writeMem b a bs).mem = memSets s.mem a bs := rfl

@[simp] theorem State.writeAs_cur : (s.writeAs b a bs).cur = s.cur := rfl
@[simp] theorem State.writeAs_regions : (s.writeAs b a bs).regions = s.regions := rfl
@[simp] theorem State.writeAs_tiles : (s.writeAs b a bs).tiles = s.tiles := rfl
@[simp] theorem State.writeAs_parts : (s.writeAs b a bs).parts = s.parts := rfl
@[simp] theorem State.writeAs_bins : (s.writeAs b a bs).bins = s.bins := rfl
@[simp] theorem State.writeAs_flight : (s.writeAs b a bs).flight = s.flight := rfl
@[simp] theorem State.writeAs_larder : (s.writeAs b a bs).larder = s.larder := rfl
@[simp] theorem State.writeAs_smps : (s.writeAs b a bs).smps = s.smps := rfl
@[simp] theorem State.writeAs_holds : (s.writeAs b a bs).holds = s.holds := rfl
@[simp] theorem State.writeAs_ports : (s.writeAs b a bs).ports = s.ports := rfl
@[simp] theorem State.writeAs_writes : (s.writeAs b a bs).writes = s.writes + 1 := rfl
@[simp] theorem State.writeAs_mem : (s.writeAs b a bs).mem = memSets s.mem a (keepRos s.mem a bs) := rfl

variable {s}

/-- A write keeps the canonical form of memory. -/
theorem State.writeNear_wf (h : Memory.wf s = true) : Memory.wf (s.writeNear b near a bs) = true := memSets_wf a bs h
theorem State.writeMem_wf (h : Memory.wf s = true) : Memory.wf (s.writeMem b a bs) = true := memSets_wf a bs h
theorem State.writeAs_wf (h : Memory.wf s = true) : Memory.wf (s.writeAs b a bs) = true := memSets_wf a _ h

end Writes

/-! ## What is read only stays (R7) -/

/-- A byte that is written whole becomes what is written. -/
theorem keepRo_plain {a : Nat} (old new : Byte) (h : roBits a = 0) : keepRo a old new = new := by
  simp [keepRo, h]
  exact BitVec.and_allOnes

/-- A byte that is read only stays. -/
theorem keepRo_all {a : Nat} (old new : Byte) (h : roBits a = 255) : keepRo a old new = old := by
  simp [keepRo, h]
  exact BitVec.and_allOnes

/-- Memory at reset has the canonical form. -/
theorem reset_wf : Memory.wf State.reset = true := rfl

end Sys2Proof.Machine
end

