-- ==== Sys2Proof/Laws/Control.lean ====
section
/-! SUPPORT. What the shared operations of control instructions can do: issuing, reading registers, writing one, reserving a
destination, locating an access, and trapping. -/

namespace Sys2Proof.Machine

/-! ## Issuing -/

/-- With no failed store due, an instruction goes ahead (R97). -/
theorem State.issue_clear {s : State} (k : State → State) (h : s.core.sterr = none) : s.issue k = k s := by
  simp [State.issue, h]

/-- With a failed store due and no region open, any instruction traps with STERR (R97). -/
theorem State.issue_sterr {s : State} (k : State → State) {a : Word} {n : Nat} (h : s.core.sterr = some (a, n))
    (ht : s.core.tx = none) : s.issue k = (s.setCore { s.core with sterr := none }).trap tSTERR a := by
  simp [State.issue, h, ht]

/-- Outside a region an instruction that a region may not hold goes ahead (R344). -/
theorem State.unsafeIssue_free {s : State} (k : State → State) (h : s.core.sterr = none) (ht : s.core.tx = none) :
    s.unsafeIssue k = k s := by
  simp [State.unsafeIssue, State.issue_clear _ h, ht]

/-- Inside a region it aborts with UNSAFE (R344). -/
theorem State.unsafeIssue_region {s : State} (k : State → State) {x : TxRegion} (h : s.core.sterr = none)
    (ht : s.core.tx = some x) : s.unsafeIssue k = s.txAbort 5 := by
  simp [State.unsafeIssue, State.issue_clear _ h, ht]

/-! ## Reading registers -/

/-- What a register read that succeeds leaves: the mailboxes of the acting core and the credits on their way may have
changed, and the flits its open region has read; all else is as before. -/
structure ReadFrame (s s1 : State) : Prop where
  rest : { s1 with cores := s.cores, credits := s.credits, sent := s.sent } = s
  core : s1.core = { s.core with mb := s1.core.mb }
  other : ∀ i : Fin 64, i ≠ s.cur → s1.cores[i] = s.cores[i]

theorem ReadFrame.refl (s : State) : ReadFrame s s := ⟨rfl, rfl, fun _ _ => rfl⟩

theorem ReadFrame.cur {s s1 : State} (h : ReadFrame s s1) : s1.cur = s.cur := by
  have := congrArg State.cur h.rest; simpa using this
theorem ReadFrame.mem {s s1 : State} (h : ReadFrame s s1) : s1.mem = s.mem := by
  have := congrArg State.mem h.rest; simpa using this
theorem ReadFrame.regs {s s1 : State} (h : ReadFrame s s1) : s1.core.regs = s.core.regs := by rw [h.core]
theorem ReadFrame.tx {s s1 : State} (h : ReadFrame s s1) : s1.core.tx = s.core.tx := by rw [h.core]
theorem ReadFrame.cmode {s s1 : State} (h : ReadFrame s s1) : s1.core.cmode = s.core.cmode := by rw [h.core]
theorem ReadFrame.loads {s s1 : State} (h : ReadFrame s s1) : s1.core.loads = s.core.loads := by rw [h.core]
theorem ReadFrame.stores {s s1 : State} (h : ReadFrame s s1) : s1.core.stores = s.core.stores := by rw [h.core]
theorem ReadFrame.pc {s s1 : State} (h : ReadFrame s s1) : s1.core.pc = s.core.pc := by rw [h.core]

theorem ReadFrame.trans {s s1 s2 : State} (h : ReadFrame s s1) (h' : ReadFrame s1 s2) : ReadFrame s s2 := by
  refine ⟨?_, ?_, ?_⟩
  · conv => rhs; rw [← h.rest]
    conv => rhs; rw [← h'.rest]
  · rw [h'.core, h.core]
  · intro i hi
    rw [h'.other i (by rw [h.cur]; exact hi), h.other i hi]

/-- Setting only the mailboxes of the acting core. -/
theorem ReadFrame.setMb (s : State) (m : Vector Mailbox 4) : ReadFrame s (s.setCore { s.core with mb := m }) :=
  ⟨rfl, by simp, fun i hi => State.setCore_other s _ i hi⟩

/-- Giving a credit back changes only the credits on their way and what has been sent. -/
theorem ReadFrame.giveCredit (s : State) (n : Fin 4) (d : Word) : ReadFrame s (s.giveCredit n d) := by
  unfold State.giveCredit
  split <;> exact ⟨rfl, rfl, fun _ _ => rfl⟩

theorem State.getReg_frame {s s1 : State} {r : Reg} {w : Word} (h : s.getReg r = .ok w s1) : ReadFrame s s1 := by
  simp only [State.getReg] at h
  split at h
  · cases h; exact .refl s
  · split at h
    · split at h
      · split at h
        · cases h; exact .setMb s _
        · cases h; exact (ReadFrame.setMb s _).trans (.giveCredit _ _ _)
      · split at h <;> cases h
    · split at h
      · cases h
      · split at h
        · cases h
        · cases h; exact .refl s

/-- A plain register reads as the register file holds it (R75). -/
theorem State.getReg_plain {s : State} {r : Reg} (h0 : r ≠ 0) (hm : s.core.isMb r = false) (hb : s.core.busy r = false)
    (hp : s.core.poison[r.toNat]'r.isLt = none) : s.getReg r = .ok (s.core.regs[r.toNat]'r.isLt) s := by
  simp only [State.getReg, h0, hm, hb, if_false, Bool.false_eq_true]
  split
  · rename_i a ha; rw [hp] at ha; cases ha
  · rfl

/-- g0 reads zero (R75). -/
@[simp] theorem State.getReg_zero (s : State) : s.getReg 0 = .ok 0 s := by simp [State.getReg]

/-! ## Writing a register -/

/-- A write to g0 is discarded (R75). -/
@[simp] theorem State.putReg_zero (s : State) (w : Word) : s.putReg 0 w = .ok w s := by simp [State.putReg]

/-- A write to a register that is no mailbox (R75). -/
theorem State.putReg_plain {s : State} {r : Reg} (w : Word) (h0 : r ≠ 0) (hm : s.core.isMb r = false) :
    s.putReg r w = .ok w (s.setCore (s.core.setReg r w)) := by
  unfold State.putReg
  simp only [hm, Bool.false_eq_true, if_false]
  exact if_neg h0

/-- A destination that is no mailbox needs nothing at issue (R106). -/
theorem State.reserve_plain {s : State} {d : Reg} (h : d = 0 ∨ s.core.isMb d = false) : s.reserve d = .ok 0 s := by
  rcases h with h | h <;> simp [State.reserve, h]

/-- What a reservation leaves: at most a credit of a mailbox is gone. -/
theorem State.reserve_frame {s s1 : State} {d : Reg} {w : Word} (h : s.reserve d = .ok w s1) : ReadFrame s s1 := by
  simp only [State.reserve] at h
  split at h
  · split at h
    · cases h
    · split at h
      · cases h
      · cases h; exact .setMb s _
  · cases h; exact .refl s

/-- Finishing with a register or mailbox that takes the value. -/
theorem State.finish_ok {s0 s s2 : State} {d : Reg} {w v : Word} (h : s.putReg d w = .ok v s2) :
    s0.finish s d w = s2.retire := by
  simp [State.finish, h]

/-! ## Locating an access -/

/-- An access that has been located changes at most the TLB of the acting core. -/
theorem State.locate_frame {s s1 : State} {ea : Word} {n home : Nat} {need : Need} (h : s.locate ea n need = .at_ home s1) :
    ∃ tlb, s1 = s.setCore { s.core with tlb } := by
  simp only [State.locate, State.locateAligned] at h
  split at h
  · cases h
  · split at h
    · cases h
    · split at h
      · cases h
      · split at h
        · cases h
        · rename_i e _
          split at h
          · cases h
          · cases e with
            | none => cases h; exact ⟨s.core.tlb, (State.setCore_self s).symm⟩
            | some e => cases h; exact ⟨_, rfl⟩
      · split at h
        · cases h
        · split at h
          · cases h
          · cases h; exact ⟨s.core.tlb, (State.setCore_self s).symm⟩

/-! ## Traps -/

/-- Giving up a waiting instruction touches no memory. -/
@[simp] theorem State.abandon_mem (s : State) (c : Fin 64) : (s.abandon c).mem = s.mem := rfl

@[simp] theorem State.enterTrap_mem (s : State) (pc : Word) (i : Bool) (c : BitVec 6) (a : Word) :
    (s.enterTrap pc i c a).mem = s.mem := by
  simp only [State.enterTrap]; split <;> simp

@[simp] theorem State.trap_mem (s : State) (c : BitVec 6) (a : Word) : (s.trap c a).mem = s.mem := by
  simp only [State.trap]; split <;> simp

@[simp] theorem State.txAbort_mem (s : State) (c : BitVec 4) : (s.txAbort c).mem = s.mem := by
  simp only [State.txAbort, State.fallback]
  split
  · rfl
  · split
    · simp
    · split <;> simp

/-- Giving up a waiting instruction leaves the core not idling, and the rest of it as it was. -/
@[simp] theorem State.abandon_core (s : State) : (s.abandon s.cur).core = { s.core with idling := false } := by
  simp [State.abandon, State.core, State.setCoreAt]
@[simp] theorem State.abandon_cur (s : State) (c : Fin 64) : (s.abandon c).cur = s.cur := rfl
@[simp] theorem State.abandon_parts (s : State) (c : Fin 64) : (s.abandon c).parts = s.parts := rfl
@[simp] theorem State.abandon_tiles (s : State) (c : Fin 64) : (s.abandon c).tiles = s.tiles := rfl
@[simp] theorem State.abandon_bins (s : State) (c : Fin 64) : (s.abandon c).bins = s.bins := rfl
@[simp] theorem State.abandon_doubles (s : State) (c : Fin 64) : (s.abandon c).doubles = s.doubles := rfl

/-- A trap with a handler, outside one, enters it (R372). -/
theorem State.enterTrap_handler {s : State} {pc : Word} {i : Bool} {c : BitVec 6} {a : Word} (h : s.core.inh = false)
    (hv : s.core.trapVec ≠ 0) :
    s.enterTrap pc i c a = (s.abandon s.cur).setCore { s.core with
      trapPc := pc, fcode := c, intr := i, faddr := a, pie := s.core.ie, ie := false, inh := true,
      pc := s.core.trapVec ++ (0 : BitVec 2), idling := false } := by
  simp only [State.enterTrap, State.abandon_core, h, Bool.false_or]
  rw [if_neg (by simpa using hv)]

/-- A trap with no handler, or inside one, halts the core, and the supervisor is told (R372). -/
theorem State.enterTrap_double {s : State} {pc : Word} {i : Bool} {c : BitVec 6} {a : Word}
    (h : s.core.inh = true ∨ s.core.trapVec = 0) :
    s.enterTrap pc i c a =
      { (s.abandon s.cur).setCore { s.core with run := .double, idling := false } with doubles := s.doubles ++ [s.cur] } := by
  simp only [State.enterTrap, State.abandon_core]
  rw [if_pos (by simpa using h)]; rfl

/-- A synchronous trap outside a region is taken at the instruction, inside one at its tbegin (R82, R344). -/
theorem State.trap_free {s : State} {c : BitVec 6} {a : Word} (h : s.core.tx = none) :
    s.trap c a = s.enterTrap s.core.pc false c a := by simp only [State.trap, h]
theorem State.trap_region {s : State} {c : BitVec 6} {a : Word} {x : TxRegion} (h : s.core.tx = some x) :
    s.trap c a = (s.setCore (s.core.abort x 6 true)).enterTrap x.pc false c a := by simp only [State.trap, h]

end Sys2Proof.Machine
end

