-- ==== Sys2Proof/Laws/Schedule.lean ====
section
/-! SUPPORT. What stands before a turn, said once: forming packets and sending flits change the ports and what has left the module
and nothing else, and with nothing waiting the state before a turn is the state itself. -/

namespace Sys2Proof.Machine

/-! ## The hub's packets -/

/-- What the hub's own work may change: the ports, what has been sent and how much of it has been packed. -/
def HubFrame (s s' : State) : Prop := { s' with ports := s.ports, sent := s.sent, packed := s.packed } = s

theorem HubFrame.refl (s : State) : HubFrame s s := rfl

theorem HubFrame.trans {s s1 s2 : State} (h : HubFrame s s1) (h' : HubFrame s1 s2) : HubFrame s s2 := by
  unfold HubFrame at *
  conv => rhs; rw [← h, ← h']

theorem HubFrame.mem {s s' : State} (h : HubFrame s s') : s'.mem = s.mem := by simpa using congrArg State.mem h
theorem HubFrame.cores {s s' : State} (h : HubFrame s s') : s'.cores = s.cores := by simpa using congrArg State.cores h
theorem HubFrame.parts {s s' : State} (h : HubFrame s s') : s'.parts = s.parts := by simpa using congrArg State.parts h
theorem HubFrame.regions {s s' : State} (h : HubFrame s s') : s'.regions = s.regions := by simpa using congrArg State.regions h
theorem HubFrame.tiles {s s' : State} (h : HubFrame s s') : s'.tiles = s.tiles := by simpa using congrArg State.tiles h

/-- A fold of steps that keep the frame keeps it. -/
theorem HubFrame.foldl {α : Type} {f : State → α → State} (hf : ∀ s a, HubFrame s (f s a)) :
    ∀ (l : List α) (s : State), HubFrame s (l.foldl f s)
  | [], s => .refl s
  | a :: l, s => (hf s a).trans (HubFrame.foldl hf l _)

theorem HubFrame.setPort (s : State) (p : Fin 18) (x : Port) : HubFrame s (s.setPort p x) := rfl

theorem HubFrame.setPacked (s : State) (n : Nat) : HubFrame s { s with packed := n } := rfl

theorem State.transmit_frame (s : State) (p : Fin 18) (vc cvc cred : Nat) (pay : List Byte) :
    HubFrame s (s.transmit p vc cvc cred pay) := rfl

theorem State.queuePacket_frame (s : State) (p : Option (Fin 18)) (vc : Nat) (o : Option TileId) (b : List Byte) :
    HubFrame s (s.queuePacket p vc o b) := by
  unfold State.queuePacket
  split
  · exact .refl s
  · split
    · exact .refl s
    · rfl

theorem State.pump_frame (p : Fin 18) (vc : Nat) : ∀ (n : Nat) (s : State), HubFrame s (State.pump p vc n s) := by
  intro n
  induction n with
  | zero => exact .refl
  | succ n ih =>
    intro s
    unfold State.pump
    dsimp only
    split
    · exact .refl s
    · split
      · exact (HubFrame.setPort s p _).trans (ih _)
      · split
        · exact .refl s
        · refine HubFrame.trans ?_ (ih _)
          exact (HubFrame.setPort s p _).trans (State.transmit_frame _ p vc 0 0 _)

theorem State.pack_frame (s : State) (x : Sent) : HubFrame s (s.pack x) := by
  cases x <;> simp only [State.pack] <;>
    first | exact State.queuePacket_frame .. | exact HubFrame.refl s | exact HubFrame.foldl (fun _ _ => State.queuePacket_frame ..) _ _

theorem State.hubWork_frame (s : State) : HubFrame s s.hubWork := by
  unfold State.hubWork
  split
  · exact .refl s
  · refine (HubFrame.foldl State.pack_frame _ s).trans ((HubFrame.foldl (fun s p => ?_) _ _).trans (HubFrame.setPacked _ _))
    split
    · exact .refl s
    · exact HubFrame.foldl (fun _ _ => State.pump_frame ..) _ _

/-- With all that was sent packed and no packet waiting, the hub does nothing. -/
theorem State.hubWork_idle {s : State} (h : s.packed = s.sent.length) (ho : s.ports.toList.all (·.outq.isEmpty) = true) : s.hubWork = s := by
  simp [State.hubWork, h, ho]

/-! ## Before a turn -/

theorem State.vendorWaits_idle {s : State} (h : s.vendorAsk = false) : s.vendorWaits = s := by simp [State.vendorWaits, h]

/-- With no store performed at a narrow scope there is nothing to heed. -/
theorem State.heed_idle {s : State} (me : Option (Fin 64)) (h : (s.cores.any fun c => c.stores.any (·.near.isSome)) = false) :
    s.heed me = s := by
  simp [State.heed, h]

/-- A core that keeps no timestamp, or stands at its tbegin, does not stray. -/
theorem Core.strays_stays {c : Core} (h : c.txKept.any (·.1 ≠ c.pc) = false) : c.strays = c := by
  unfold Core.strays
  split
  · rename_i g; rw [h] at g; simp at g
  · rfl

/-- With no packet, token or store waiting, the state before a turn is the state itself. -/
theorem State.before_idle {s : State} {t : Turn} (h : s.packed = s.sent.length) (ho : s.ports.toList.all (·.outq.isEmpty) = true)
    (hv : s.vendorAsk = false) (hs : (s.cores.any fun c => c.stores.any (·.near.isSome)) = false)
    (hk : ∀ i : Fin 64, s.cores[i].txKept.any (·.1 ≠ s.cores[i].pc) = false) : s.before t = s := by
  simp only [State.before, State.hubWork_idle h ho, State.vendorWaits_idle hv, State.heed_idle _ hs]
  cases t with
  | core c => simp only; rw [Core.strays_stays (hk c)]; simp [State.setCoreAt]
  | _ => rfl

/-- A step runs what there is to do at the state before the turn. -/
theorem step_todo {s s' : State} {i : Instr}
    (h : ((s.tick.before s.nextTurn).at_ s.nextTurn).todo s.nextTurn = some (i, s')) : step s = exec i s' := by
  simp [step, h]

end Sys2Proof.Machine
end

