-- ==== Sys2Proof/Laws/Stations.lean ====
section
/-! SUPPORT. What stands before a firing and before a logit word, said once: when a station may act its meaning acts, a set of
data reaches it whole, and a run that goes on executes its word. -/

namespace Sys2Proof.Machine

/-! ## Firings -/

/-- Nothing stands before the firing of a station: its tile's words hold and it is not aborted, its region is not hung, no
output waits, its partition runs, and no launch-wide ERROR is at it (R35, R41, R387, R389, R391). -/
structure MayAct (s : State) (f : StF) (x : Sta) : Prop where
  sta : s.sta? f = some x
  sound : (s.tileAt s.tile).broken = false
  alive : x.r.hung = false
  clear : s.blocked s.tile s.st = false
  running : (s.part x.r.part).pre = .running
  narrow : (s.tileAt s.tile).wideAt s.st = none
  whole : (s.tileAt s.tile).aborted = false

theorem State.withSta_acts {s : State} {f : StF} {x : Sta} (h : MayAct s f x) (k : Sta → State → State) : s.withSta f k = k x s := by
  simp [State.withSta, h.sta, h.sound, h.alive, h.clear, h.running, h.narrow, h.whole]

theorem State.fireHeads_fires {s : State} {f : StF} {x : Sta} (h : MayAct s f x) (hc : s.outCredit x.r x.t x.st none = true)
    (k : Sta → State → State) : s.fireHeads f k = k x s := by
  simp [State.fireHeads, State.withSta_acts h, hc]

/-- With no credit on some bound output nothing happens (R35). -/
theorem State.fireHeads_waits {s : State} {f : StF} {x : Sta} (h : MayAct s f x) (hc : s.outCredit x.r x.t x.st none = false)
    (k : Sta → State → State) : s.fireHeads f k = s := by
  simp [State.fireHeads, State.withSta_acts h, hc]

theorem State.fireSet_fires {s s1 : State} {f : StF} {x : Sta} {ports : List Nat} {q : List (Nat × Token)} (h : MayAct s f x)
    (hc : s.outCredit x.r x.t x.st none = true) (hq : s.nextSet x ports = some (q, s1)) (acc : Nat → Kind → Bool)
    (stop : Sta → List (Nat × Token) → Nat → State → State) (vals : Sta → List (Nat × Token) → State → State) :
    s.fireSet f ports acc stop vals = s1.rows x q acc (stop x q) (vals x q) := by
  simp [State.fireSet, State.fireNext, State.withSta_acts h, hc, hq]

/-- A set of DATA that is accepted is a set of values (R33). -/
theorem State.rows_data {s : State} {x : Sta} {q : List (Nat × Token)} {acc : Nat → Kind → Bool} (hq : ∀ e ∈ q, e.2.kind = .data)
    (ha : ∀ p, acc p .data = true) (stop : Nat → State → State) (vals : State → State) : s.rows x q acc stop vals = vals s := by
  have h1 : q.find? (·.2.kind = .error) = none := List.find?_eq_none.2 fun e he => by simp [hq e he]
  have h2 : q.any (fun e => e.2.kind.level = 0 ∧ !acc e.1 e.2.kind) = false := List.any_eq_false.2 fun e he => by
    simp [hq e he, ha]
  have h3 : (q.map (·.2.kind.level)).all (· = 0) = true := List.all_eq_true.2 fun n hn => by
    obtain ⟨e, he, rfl⟩ := List.mem_map.1 hn
    simp [hq e he, Kind.level]
  simp only [State.rows, h1, h2, h3]
  rfl

/-! ## Logit words -/

/-- A run executes its next word: its partition is not out, and it has words left (R415, R422). -/
theorem State.logit_runs {s : State} {c : Ctx} (h : s.ctxNow = some c) (hp : ∀ b, s.lbind c.slot = some b → (s.part b.part).pre ≠ .halted)
    (hn : c.count < 4095) (k : Ctx → State → State) : s.logit k = k c s := by
  have h1 : (((s.lbind c.slot).map fun b => (s.part b.part).pre == .halted).getD false) = false := by
    cases hb : s.lbind c.slot with
    | none => rfl
    | some b => simp [hp b hb]
  simp only [State.logit, h, h1]
  rw [if_neg (by simp), if_neg (by omega)]

end Sys2Proof.Machine
end

