-- ==== Sys2Proof/Tests/Slice0.lean ====
section
/-! SUPPORT. Tests: ill-formed terms that are refused, words of the manual decoded, its worked examples, and for each
statement states that meet its hypotheses. -/

open Sys2Proof Sys2Proof.Machine

section
-- One check after another: side by side they ask for more threads than the memory limit allows.
set_option Elab.async false

namespace Sys2Proof.Tests

/-- A powered module whose core 0 runs for partition 0, changed by `f`. -/
def onCore (f : Core → Core) : State :=
  let s := State.reset.setCoreAt 0 (f { State.reset.cores[(0 : Fin 64)] with run := .run, part := some 0 })
  { s with power := .p0, sec := .secure }

/-- Registers set, in order. -/
def withRegs (l : List (Reg × Word)) (c : Core) : Core := l.foldl (fun c q => c.setReg q.1 q.2) c

/-- Whether an outcome is a next state. -/
def goesOn : Host.Outcome State Fault Refusal → Bool
  | .next _ => true
  | _ => false

theorem answers {o : Host.Outcome State Fault Refusal} (h : goesOn o = true) : ∃ t, o = .next t := by
  cases o with
  | next t => exact ⟨t, rfl⟩
  | _ => cases h

/-- A state whose core 0 has some registers set. -/
def regs (l : List (Reg × Word)) : State := onCore (withRegs l)

end Sys2Proof.Tests

/-! ## Well-formedness: one ill-formed term for each check -/

namespace Sys2Proof.Tests

/-- Operation fields that no row but fcvt's admits. -/
def bad : StF := ⟨3, 7, 31, 15, 3, 0xFF⟩

theorem test_ill_formed_scopes : [Instr.atadd 1 2 3 5 0, .atand 1 2 3 5 0, .ator 1 2 3 5 0, .atxor 1 2 3 5 0, .atmin 1 2 3 5 0,
    .atmax 1 2 3 5 0, .atminu 1 2 3 5 0, .atmaxu 1 2 3 5 0, .atxch 1 2 3 5 0, .atcas 1 2 3 5 0, .fence 5 1, .tlbinv 1 5].all
    (fun i => !i.wf) = true := by decide
theorem test_ill_formed_fence_kind : (Instr.fence 4 0).wf = false := by decide
theorem test_ill_formed_ldxu_size : (Instr.ldxu 1 2 3 3 0).wf = false := by decide
theorem test_ill_formed_dataflow : [Instr.steer bad, .merge bad, .cmerge bad, .carry bad, .invar bad, .gate bad, .sink bad, .dup bad,
    .tagnew bad, .tagset bad, .tagrst bad, .stopgen bad, .stopadv bad, .count bad, .intersect bad, .union_ bad, .lim bad].all
    (fun i => !i.wf) = true := by decide
theorem test_ill_formed_integer : [Instr.iadd bad, .isub bad, .imul bad, .iand bad, .ior bad, .ixor bad, .ishl bad, .ishr bad,
    .isar bad, .imin bad, .imax bad, .icmp bad, .isel bad].all (fun i => !i.wf) = true := by decide
theorem test_ill_formed_float : [Instr.fadd bad, .fsub bad, .fmul bad, .fma bad, .fms bad, .fnma bad, .fneg bad, .fabs bad,
    .fmin bad, .fmax bad, .fcmp bad, .fsel bad, .fclass bad, .fscale bad, .frnd bad, .frcp bad, .frsq bad, .fdiv bad, .fsqrt bad,
    .fexp bad, .fexp2 bad, .flog2 bad, .fmaxrun bad].all (fun i => !i.wf) = true := by decide
theorem test_ill_formed_vector : [Instr.vred bad, .vbcast bad, .vshuf bad, .vpack bad, .vunpk bad, .vscan bad, .vdot bad,
    .vext bad, .vins bad, .dsenc bad, .dsdec bad, .dscut bad, .qblk bad, .qbmap bad].all (fun i => !i.wf) = true := by decide
theorem test_ill_formed_matrix : [Instr.mxload bad, .mxdot bad, .mxacc bad, .mxrd bad, .mxclr bad, .mxscale bad, .bar bad,
    .decide bad, .seqc bad, .pipec bad, .strmc bad, .done bad].all (fun i => !i.wf) = true := by decide
theorem test_ill_formed_memory : [Instr.lds bad, .sts bad, .agen bad, .gath bad, .scat bad, .rport bad, .ldcs bad, .stfs bad,
    .pport bad, .ksto bad, .kqry bad, .kmerge bad, .kevict bad, .kmask bad, .kage bad, .rld bad, .rst bad, .ramo bad,
    .rfence bad].all (fun i => !i.wf) = true := by decide

/-! ## Decoding: words that the manual writes out, by family -/

theorem test_decode_integer : decodeControl 0x04642800 = some (.add 3 4 5) ∧ decodeControl 0x20640085 = some (.sari 3 4 5) ∧
    decodeControl 0x05CE7807 = some (.shr 14 14 15) ∧ decodeControl 0x15CE4000 = some (.xori 14 14 0x4000) := by decide
theorem test_decode_memory : decodeControl 0x6CE42B60 = some (.ldx 7 4 5 3 3) ∧ decodeControl 0x6DCA7360 = some (.ldx 14 10 14 3 3) ∧
    decodeControl 0x61ED0004 = some (.sth 15 13 4) := by decide
theorem test_decode_branch : decodeControl 0x90A6FFFD = some (.bltu 5 6 (-3)) := by decide
theorem test_decode_sync : decodeControl 0xC0642931 = some (.atcas 3 4 5 4 1) ∧ decodeControl 0xC0040112 = some (.atxch 0 4 0 4 2) ∧
    decodeControl 0xC4001020 = some (.wait 0 0 2 0) ∧ decodeControl 0xC400000D = some (.fence 3 1) ∧
    decodeControl 0xC4000003 = some (.fence 0 3) ∧ decodeControl 0xC8140000 = some (.tbegin 20) ∧
    decodeControl 0xCA800060 = some (.tstamp 20) := by decide
theorem test_decode_bins : decodeControl 0xCC640000 = some (.ldc 3 4) ∧ decodeControl 0xCC042820 = some (.stf 4 5) ∧
    decodeControl 0xCC040061 = some (.binset 4 1) := by decide
theorem test_decode_mailbox : decodeControl 0xD0090001 = some (.mbbind 9 1) := by decide
theorem test_decode_launch : decodeControl 0xE1050060 = some (.launch 8 5 0) ∧ decodeControl 0xE1690020 = some (.cfgchk 11 9) ∧
    decodeControl 0xE0090040 = some (.cfgcommit 9) ∧ decodeControl 0xE1890101 = some (.cancelGraph 12 9) ∧
    decodeControl 0xE0053880 = some (.param 5 7 0) ∧ decodeControl 0xE00500A2 = some (.selcfg 5 2) ∧
    decodeControl 0xE06400C0 = some (.phase 3 4) ∧ decodeControl 0xE00500E0 = some (.phend 5) ∧
    decodeControl 0xE1280120 = some (.cwait 9 8) ∧ decodeControl 0xE0680140 = some (.cread 3 8) ∧
    decodeControl 0xE06441C0 = some (.cpy 3 4 8) ∧ decodeControl 0xE0060180 = some (.resume 6) ∧
    decodeControl 0xE0630160 = some (.ckpt 3 3) ∧ decodeControl 0xE00501A0 = some (.drain 5) := by decide
theorem test_decode_stitch : decodeControl 0xE4C40020 = some (.stpin 6 4) ∧ decodeControl 0xE4060040 = some (.stunpin 6) ∧
    decodeControl 0xE4E40060 = some (.stver 7 4) ∧ decodeControl 0xE5064880 = some (.stlook 8 6 9) := by decide
theorem test_decode_sequence : decodeControl 0xE8040020 = some (.sequnbind 4) ∧ decodeControl 0xE8C40040 = some (.seqstep 6 4) := by
  decide
theorem test_decode_csr : decodeControl 0xF0800000 = some (.csrrd 4 0) ∧ decodeControl 0xF1600051 = some (.csrrd 11 0x051) ∧
    decodeControl 0xF0662407 = some (.csrset 3 6 0x407) ∧ decodeControl 0xF0663407 = some (.csrclr 3 6 0x407) := by decide
theorem test_decode_system : decodeControl 0xF000F000 = some .syscall ∧ decodeControl 0xF000F022 = some .hvcNotice ∧
    decodeControl 0xF000F040 = some .eret ∧ decodeControl 0xF000F060 = some .idle ∧ decodeControl 0xF004F0AC = some (.tlbinv 4 3) ∧
    decodeControl 0xF005F0C1 = some (.atticRestore 5) := by decide
theorem test_decode_stations : decodeStation 0x23680400 = some (.fma ⟨1, 5, 0, 1, 0, 0⟩) ∧
    decodeStation 0x0F380413 = some (.lim ⟨0, 7, 0, 1, 0, 0x13⟩) := by decide
theorem test_decode_float : decodeStation 0x2A20040A = some (.fcmp ⟨0, 4, 0, 1, 0, 0x0A⟩) ∧
    decodeStation 0x40600400 = some (.vred ⟨1, 4, 0, 1, 0, 0⟩) := by decide
theorem test_decode_matrix : decodeStation 0x61E00440 = some (.mxdot ⟨3, 4, 0, 1, 0, 0x40⟩) ∧
    decodeStation 0x63600400 = some (.mxrd ⟨1, 4, 0, 1, 0, 0⟩) := by decide
theorem test_decode_feeding : decodeStation 0x80480400 = some (.lds ⟨1, 1, 0, 1, 0, 0⟩) ∧
    decodeStation 0x86A48400 = some (.ldcs ⟨2, 4, 18, 1, 0, 0⟩) ∧ decodeStation 0x87A44400 = some (.stfs ⟨2, 4, 17, 1, 0, 0⟩) := by decide
theorem test_decode_recall : decodeStation 0x90600400 = some (.ksto ⟨1, 4, 0, 1, 0, 0⟩) ∧
    decodeStation 0x91600C02 = some (.kqry ⟨1, 4, 0, 3, 0, 2⟩) ∧ decodeStation 0x92700C01 = some (.kmerge ⟨1, 6, 0, 3, 0, 1⟩) ∧
    decodeStation 0x93A00400 = some (.kevict ⟨2, 4, 0, 1, 0, 0⟩) := by decide
theorem test_decode_remote : decodeStation 0xA0A00400 = some (.rld ⟨2, 4, 0, 1, 0, 0⟩) ∧
    decodeStation 0xA1B00400 = some (.rst ⟨2, 6, 0, 1, 0, 0⟩) ∧ decodeStation 0xA3A0040E = some (.rfence ⟨2, 4, 0, 1, 0, 0x0E⟩) := by decide
theorem test_decode_logit : decodeLogit 0x04000000 = some (.lgin 0) ∧ decodeLogit 0x44800001 = some (.slds 1 1) ∧
    decodeLogit 0x0C000000 = some (.pen 0 0 0) ∧ decodeLogit 0x1C040000 = some (.topk 0 0 2) ∧ decodeLogit 0x28800000 = some (.smax 1 0) ∧
    decodeLogit 0x35900000 = some (.draw 3 1) ∧ decodeLogit 0x3C300000 = some (.emit 3) := by decide
theorem test_reserved_words : decodeControl 0x0400001E = none ∧ decodeControl 0x04640817 = none ∧ decodeStation 0x1D800000 = none ∧
    decodeLogit 0x00000000 = none := by decide

end Sys2Proof.Tests

/-! ## Terms of the witnesses -/

namespace Sys2Proof.Tests

/-- The state after an outcome. -/
def after (o : Out) : State := match o with | .next s => s | _ => State.reset

theorem reads1 {s s1 : State} {a : Reg} {x : Word} (h : s.getReg a = .ok x s1) : Says.Reads s [a] [x] s1 :=
  ⟨x, [], s1, rfl, h, rfl, rfl⟩
theorem reads2 {s s1 s2 : State} {a b : Reg} {x y : Word} (h : s.getReg a = .ok x s1) (h' : s1.getReg b = .ok y s2) :
    Says.Reads s [a, b] [x, y] s2 := ⟨x, [y], s1, rfl, h, reads1 h'⟩
theorem reads3 {s s1 s2 s3 : State} {a b c : Reg} {x y z : Word} (h : s.getReg a = .ok x s1) (h' : s1.getReg b = .ok y s2)
    (h'' : s2.getReg c = .ok z s3) : Says.Reads s [a, b, c] [x, y, z] s3 := ⟨x, [y, z], s1, rfl, h, reads2 h' h''⟩

/-! ## Integer instructions -/

/-- The manual's operands of R84 to R86. -/
def ints : State := regs [(4, -7), (5, 2), (6, 0xABCD00), (7, 0x0B08), (8, 0xFFFFFFFFFFFFFFFF), (9, 5), (10, 0x073C)]

theorem meets_IntegerResults : Says.Clear ints ∧ Says.Reads ints [4, 5] [-7, 2] ints ∧ Says.Reads ints [9, 10, 8] [5, 0x073C, -1] ints ∧
    ints.putReg 3 (-5) = .ok (-5) (ints.setCore (ints.core.setReg 3 (-5))) ∧ ints.putReg 0 1 = .ok 1 ints :=
  ⟨rfl, reads2 rfl rfl, reads3 rfl rfl rfl, rfl, rfl⟩
/-- The examples of R86. -/
theorem test_bext : Says.reg (after (exec (.bext 3 6 7) ints)) 3 = 0xBCD := rfl
theorem test_bins : Says.reg (after (exec (.bins 8 9 10) ints)) 8 = 0x5FFFFFFFFFFFFFFF := rfl
/-- The example of R88: sltiu with −1 is 1 for every a but all ones. -/
theorem test_sltiu : Says.reg (after (exec (.sltiu 3 4 (-1)) ints)) 3 = 1 ∧ Says.reg (after (exec (.sltiu 3 8 (-1)) ints)) 3 = 0 :=
  ⟨rfl, rfl⟩
theorem meets_DivisionResults : Says.Clear ints ∧ Says.Reads ints [4, 0] [-7, 0] ints ∧
    (Says.flagged ints true false).putReg 3 (-7) = .ok (-7) ((Says.flagged ints true false).setCore
      ((Says.flagged ints true false).core.setReg 3 (-7))) := ⟨rfl, reads2 rfl rfl, rfl⟩
/-- The examples of R84. -/
theorem test_div : Says.reg (after (exec (.div 3 4 5) ints)) 3 = -3 ∧ (after (exec (.div 3 4 5) ints)).core.dz = false := ⟨rfl, rfl⟩
theorem test_rem : Says.reg (after (exec (.rem 3 4 5) ints)) 3 = -1 := rfl
theorem test_div_by_zero : Says.reg (after (exec (.div 3 4 0) ints)) 3 = 0x8000000000000000 ∧
    Says.reg (after (exec (.rem 3 4 0) ints)) 3 = -7 ∧ (after (exec (.rem 3 4 0) ints)).core.dz = true := ⟨rfl, rfl, rfl⟩
theorem meets_IntegerFrame : Says.Clear ints ∧ Says.Plain ints 4 ∧ Says.Plain ints 5 ∧ Says.Plain ints 3 ∧
    ∃ t, exec (.add 3 4 5) ints = .next t := ⟨rfl, ⟨by decide, rfl, rfl, rfl⟩, ⟨by decide, rfl, rfl, rfl⟩, ⟨by decide, rfl, rfl, rfl⟩, _, rfl⟩

/-! ## Memory instructions -/

/-- The state in which partition 0 is granted the page of physical memory at address 0. -/
def withPage (s : State) : State := s.setPart 0 { s.part 0 with grants := { (s.part 0).grants with phys := [(0, 2 ^ 16)] } }
/-- A page of physical memory at address 0, translated by the core's TLB, with g4 = 8 and g5 = 3. -/
def mem0 : State := withPage (onCore fun c =>
  withRegs [(4, 8), (5, 3), (6, 0xFEDC)] { c with tlb := [⟨0, 2 ^ 16, 0, true, true, false⟩] })
/-- The same with a word stored at address 8. -/
def mem1 : State := { mem0 with mem := memSets [] 8 [0x80, 0xFF, 0x01] }

theorem meets_AccessesIssue : Says.Free mem1 ∧ Says.Reads mem1 [4] [8] mem1 ∧ Says.Reads mem1 [4, 6] [8, 0xFEDC] mem1 ∧
    mem1.reserve 3 = .ok 0 mem1 ∧ mem1.locate (Says.eaImm 0 [8]) 2 .read = .at_ 8 mem1 ∧
    mem1.locate (Says.eaImm 0 [8]) 2 .write = .at_ 8 mem1 ∧
    (mem1.core.cmode = false ∧ mem1.core.loads.length < 16 ∧ mem1.core.stores.length < 32 ∧ mem1.core.acquiring = false ∧
      mem1.core.atomicOn 8 2 = false) :=
  ⟨⟨rfl, rfl⟩, reads1 rfl, reads2 rfl rfl, rfl, rfl, rfl, by decide +kernel⟩
/-- R91: a signed half word is sign-extended when its data comes. -/
theorem test_ldh : let s := after (exec (.ldh 3 4 0) mem1)
    Says.reg (after (exec .loadReply { s with input := { Input.none with load := .data } })) 3 = 0xFFFFFFFFFFFFFF80 := by decide +kernel
theorem test_sth : (after (exec (.sth 6 4 0) mem1)).core.stores.map (·.bytes) = [[0xDC, 0xFE]] := by decide +kernel

/-- A load and a store of this module's memory that have left the core. -/
def ldOp (d : Reg) (a n : Nat) (sx : Bool) : LoadOp :=
  ⟨d, false, none, BitVec.ofNat 64 a, a, n, sx, none, 0, false, false, false, .plain, none, 0, none⟩
def stOp : StoreOp := .plain 16 16 [1, 2] none
/-- A load of g3 and a store outstanding. -/
def inFlight : State := { withPage (onCore fun c => { c with
  loads := [ldOp 3 8 2 true], stores := [stOp] }) with input := { Input.none with load := .data, index := 0 } }
theorem meets_AccessesComplete : inFlight.core.loads[0]? = some (ldOp 3 8 2 true) ∧ inFlight.core.stores[0]? = some stOp ∧
    (∀ l ∈ inFlight.core.loads, l.rmw = none ∧ l.check = false ∧ l.val = none ∧ l.mbx = false ∧ l.isRemote = false) ∧
    (∀ k < 2, let s : State := { inFlight with input := { inFlight.input with load := if k = 0 then .data else .ecc } }
      s.core.loadIndex s.input.index = 0 ∧ s.core.storeIndex s.input.index = 0 ∧ s.core.tx = none ∧ s.haltedCore = false ∧
      s.input.load = if k = 0 then .data else .ecc) ∧
    loadsBefore inFlight.core.loads (fun _ => true) [(8, 2)] 0 = [] ∧ inFlight.homeOk inFlight.pid 8 2 = true ∧
    inFlight.homeGone stOp = false ∧ inFlight.input.near = 0 ∧
    (stOp.isRemote = false ∧ stOp.rmw = none ∧ stOp.via = none ∧ stOp.near = none ∧ stOp.region = false ∧ Memory.wf inFlight = true) := by decide +kernel
theorem test_storePerformed : memGet (after (exec .storePerformed inFlight)).mem 17 = 2 := rfl

/-- A store that has failed. -/
def failed : State := onCore fun c => { c with sterr := some (16, 0) }
theorem meets_StoreFailureTraps : inFlight.core.stores[0]? = some stOp ∧ inFlight.input.index = 0 ∧
    inFlight.core.tx = none ∧ inFlight.core.sterr = none ∧ inFlight.haltedCore = false ∧ stOp.region = false ∧
    (encodeControl (.add 3 4 5)).isSome = true ∧ failed.core.sterr = some (16, 0) ∧ failed.core.tx = none := by decide +kernel

/-- Addresses for each check of R93: bit 57 set, not a multiple of 8, between the windows, in a vault that is not granted, and
in a page that no table maps. -/
def addrs : State := regs [(4, 0x0200000000000000), (5, 9), (6, 0x0140000000000000), (7, 0x0100000000000000), (8, 8)]
theorem meets_AccessChecks : Says.Free addrs ∧ addrs.core.acquiring = false ∧ addrs.core.loads.length < 16 ∧
    addrs.core.stores.length < 32 ∧ (∀ r : Reg, 28 ≤ r.toNat → addrs.core.isMb r = false) ∧
    (∀ r : Reg, r ≠ 0 → Says.Reads addrs [r, r] [Says.reg addrs r, Says.reg addrs r] addrs) ∧
    2 ^ 57 ≤ (Says.eaImm 0 [Says.reg addrs 4]).toNat ∧ (Says.eaImm 0 [Says.reg addrs 5]).toNat % 8 ≠ 0 ∧
    windowOf (Says.eaImm 0 [Says.reg addrs 6]).toNat = none ∧ windowOf (Says.eaImm 0 [Says.reg addrs 7]).toNat = some .vault ∧
    addrs.granted addrs.pid .vault (Says.eaImm 0 [Says.reg addrs 7]).toNat 8 false = false ∧
    windowOf (Says.eaImm 0 [Says.reg addrs 8]).toNat = some .translated ∧
    addrs.translate addrs.pid addrs.core.tlb (Says.eaImm 0 [Says.reg addrs 8]).toNat .read = .error .grant :=
  ⟨⟨rfl, rfl⟩, rfl, by decide, by decide, by decide +kernel,
    fun r h => reads2 (State.getReg_plain h (by revert r; decide +kernel) (by revert r; decide +kernel) (by revert r; decide +kernel))
      (State.getReg_plain h (by revert r; decide +kernel) (by revert r; decide +kernel) (by revert r; decide +kernel)),
    by decide +kernel, by decide +kernel, by decide +kernel, by decide +kernel, by decide +kernel, by decide +kernel, rfl⟩
end Sys2Proof.Tests

/-! ## Atomics, branches, waiting, commit regions -/

namespace Sys2Proof.Tests

theorem meets_AtomicResults : Says.Free mem1 ∧ Says.Reads mem1 [4, 5, 3] [8, 3, 0] mem1 ∧ mem1.reserve 3 = .ok 0 mem1 ∧
    mem1.reserve 0 = .ok 0 mem1 ∧ mem1.locate 8 8 .both = .at_ 8 mem1 ∧
    (∀ o < 4, let i (d : Reg) : Instr := .atadd d 4 5 2 (BitVec.ofNat 2 o)
      let s (d : Reg) : State := { after (exec (i d) mem1) with input := { Input.none with load := .data } }
      let w : Rmw := ⟨0, 3, 0, 2, BitVec.ofNat 2 o⟩
      (s 3).core.loads = [{ ldOp 3 8 8 false with acq := o % 2 == 1, how := .atomic, rmw := some w }] ∧
      (s 0).core.stores = [⟨8, 8, [], false, none, some w, o % 2 == 1, false, none, none⟩] ∧ (s 0).core.loads = [] ∧
      ∀ d ∈ [(0 : Reg), 3], (s d).core.loadIndex 0 = 0 ∧ (s d).core.storeIndex 0 = 0 ∧ (s d).core.tx = none ∧
        (s d).haltedCore = false ∧ Memory.wf (s d) = true) ∧
    (mem1.core.cmode = false ∧ mem1.core.acquiring = false ∧ mem1.core.loads = [] ∧ mem1.core.stores = [] ∧
      mem1.core.pendingOn 8 8 = false) :=
  ⟨⟨rfl, rfl⟩, reads3 rfl rfl rfl, rfl, rfl, rfl, by decide +kernel, by decide +kernel⟩
/-- R337: atadd adds 3 to the dword 0x01FF80 and brings the old one. -/
theorem test_atadd : let t := after (exec .loadReply { after (exec (.atadd 3 4 5 0 0) mem1) with input := { Input.none with load := .data } })
    memGets t.mem 8 3 = [0x83, 0xFF, 0x01] ∧ Says.reg t 3 = 0x01FF80 := by decide +kernel
theorem test_atcas_unequal : let t := after (exec .loadReply { after (exec (.atcas 3 4 5 0 0) mem1) with input := { Input.none with load := .data } })
    t.mem = mem1.mem ∧ Says.reg t 3 = 0x01FF80 := by decide +kernel

theorem meets_BranchResults : Says.Clear ints ∧ Says.Reads ints [4, 5] [-7, 2] ints ∧ Says.branchOf (.blt 4 5 3) ≠ none ∧
    Says.Reads ints [10] [0x073C] ints ∧ (0x073C : Word).toNat % 4 = 0 ∧ Says.Reads ints [9] [5] ints ∧ (5 : Word).toNat % 4 ≠ 0 :=
  ⟨rfl, reads2 rfl rfl, by simp [Says.branchOf], reads1 rfl, by decide, reads1 rfl, by decide⟩
theorem test_blt_signed : (after (exec (.blt 4 5 3) ints)).core.pc = 12 ∧ (after (exec (.bltu 4 5 3) ints)).core.pc = 4 := ⟨rfl, rfl⟩
/-- R99: callr g1 goes to the old return address and leaves the new one. -/
theorem test_callr_g1 : let t := after (exec (.callr 1) (regs [(1, 0x100)]))
    t.core.pc = 0x100 ∧ Says.reg t 1 = 4 := ⟨rfl, rfl⟩

/-- A core with an open region that holds one store to address 16. -/
def txr : TxRegion := ⟨5, 0x40, Vector.replicate 32 9, Vector.replicate 32 none, [], [], [stOp], [], false⟩
def inTx : State := onCore fun c => { c with tx := some txr, txFall := 0x20 }
/-- The same, with an older region open on core 1. -/
def twoTx : State := inTx.setCoreAt 1 { inTx.core with tx := some { txr with ts := 4 } }

theorem meets_WaitsAndFences : Says.Free ints ∧ Says.Free inFlight ∧ Says.Clear inTx ∧ inTx.core.tx = some txr ∧
    ints.core.loads = [] ∧ ints.core.stores = [] ∧ ints.core.copies.length = 0 ∧ ints.core.recs.length = 0 ∧
    inFlight.core.loads ≠ [] ∧ 2 ≤ (3 : BitVec 3).toNat ∧ (0 : BitVec 5).toNat < inFlight.core.loads.length :=
  ⟨⟨rfl, rfl⟩, ⟨rfl, rfl⟩, rfl, rfl, by decide +kernel⟩
theorem test_wait_waits : exec (.wait 0 31 31 31) inFlight = .next inFlight ∧ exec (.fence 3 1) inFlight = .next inFlight := ⟨rfl, rfl⟩
theorem meets_RegionsOpen : Says.Free ints ∧ Says.Reads ints [5] [2] ints ∧ Says.Clear ints ∧
    (ints.setPart ints.pid { ints.part ints.pid with tstamp := (ints.part ints.pid).tstamp + 1 }).putReg 0 (ints.part ints.pid).tstamp =
      .ok (ints.part ints.pid).tstamp (ints.setPart ints.pid { ints.part ints.pid with tstamp := (ints.part ints.pid).tstamp + 1 }) ∧
    (ints.core.loads = [] ∧ ints.core.stores = [] ∧ ints.core.recs = [] ∧ ints.core.txKept = none) :=
  ⟨⟨rfl, rfl⟩, reads1 rfl, rfl, rfl, by decide +kernel⟩
theorem meets_RegionsCommit : Says.Clear inTx ∧ inTx.core.tx = some txr ∧
    (inTx.core.loads = [] ∧ inTx.core.stores = [] ∧ Memory.wf inTx = true ∧ txr.failed = false ∧
      (∀ st ∈ txr.held, st.isRemote = false ∧ st.rmw = none) ∧ (∀ o ∈ inTx.otherRegions, txOrder inTx.cur.val txr ≤ txOrder o.1 o.2) ∧
      ∃ o ∈ twoTx.otherRegions, txOrder o.1 o.2 < txOrder twoTx.cur.val txr) := ⟨rfl, rfl, by decide +kernel⟩
theorem test_tcommit : memGets (after (exec .tcommit inTx)).mem 16 2 = [1, 2] := by decide +kernel
theorem meets_RegionsAbort : Says.Clear inTx ∧ inTx.core.tx = some txr ∧ inTx.core.txFall ≠ 0 ∧ inTx.core.txRemote < 7 ∧
    (encodeControl (.wait 0 0 0 0)).isSome = true ∧
    (encodeControl (.syscall)).map (·.extractLsb' 26 6) = some 0x3C :=
  ⟨rfl, rfl, by decide +kernel, by decide +kernel, rfl, by decide⟩
/-- A region with no fallback, and a handler. -/
def noFall : State := onCore fun c => { c with tx := some txr, trapVec := 0x40, ie := true }
theorem meets_RegionsAbort_traps : Says.Clear noFall ∧ noFall.core.tx = some txr ∧ noFall.core.txFall = 0 ∧ noFall.core.inh = false ∧
    noFall.core.trapVec ≠ 0 := ⟨rfl, rfl, rfl, rfl, by decide +kernel⟩
theorem test_tabort : let t := after (exec (.tabort 3) inTx)
    t.core.pc = 0x80 ∧ t.core.txCode = 3 ∧ t.core.regs[(4 : Fin 32)] = 9 ∧ t.mem = [] := by decide +kernel
theorem test_unsafe : (after (exec (.wait 0 0 0 0) inTx)).core.txCause = 5 := by decide +kernel

/-! ## Bins, mailboxes, registers -/

/-- Partition 0 has MT 0.01.00, whose first scratchpad bin is at offset 2^22; g4 holds its address. -/
def bin0 : State :=
  let s := regs [(4, 0x0110000000400000), (5, 0x77)]
  { s.setPart 0 { s.part 0 with grants := { (s.part 0).grants with tiles := [⟨0, 1, 0⟩] } } with mem := [(0x0110000000400000, 0x55)] }
/-- The same bin full. -/
def binFull : State := bin0.setBin (2 ^ 22 / 256) ⟨true, 0, 32, false, 0, none⟩
theorem meets_BinInstructions : Says.Free binFull ∧ Says.Free bin0 ∧ Says.Reads binFull [4] [0x0110000000400000] binFull ∧
    Says.Reads bin0 [4, 5] [0x0110000000400000, 0x77] bin0 ∧ Says.Reads bin0 [5] [0x77] bin0 ∧ binFull.reserve 3 = .ok 0 binFull ∧
    bin0.reserve 3 = .ok 0 bin0 ∧
    (∀ s ∈ [bin0, binFull], Memory.wf s = true ∧ s.core.cmode = false ∧ s.core.acquiring = false ∧ s.waits = [] ∧ s.core.loads = [] ∧
      s.core.stores = [] ∧ s.granted s.pid .spad 0x0110000000400000 8 false = true ∧
      s.core.atomicOn (spadBase + 2 ^ 22) 8 = false) ∧
    (binFull.bin (2 ^ 22 / 256)).full = true ∧ (bin0.bin (2 ^ 22 / 256)).full = false ∧ windowOf 0x70 ≠ some .spad ∧
    ({ bin0 with waits := [⟨⟨0, 1, 0⟩, 16384, 0, .ldc 1 [] 3 0 false, false⟩] } : State).waits.find? (fun x => !x.sent) =
      some ⟨⟨0, 1, 0⟩, 16384, 0, .ldc 1 [] 3 0 false, false⟩ :=
  ⟨⟨rfl, rfl⟩, ⟨rfl, rfl⟩, reads1 rfl, reads2 rfl rfl, reads1 rfl, rfl, rfl, by decide +kernel⟩
theorem test_ldc_empties : let t := after (exec (.ldc 3 4) binFull)
    (t.bin 16384).full = false ∧ t.core.loads.map (·.val) = [some 0x55] := by decide +kernel
theorem test_stf_fills : let t := after (exec (.stf 4 5) bin0)
    (t.bin 16384).full = true ∧ memGet t.mem 0x0110000000400000 = 0x77 := by decide +kernel

/-- g28 is a mailbox with a flit and a credit, g29 one without either, g30 revoked, g3 awaited, g6 poisoned. -/
def mbs : State := onCore fun c => { c with
  mb := ((c.mb.set 0 ⟨.bound, 0x1, 1, [7], []⟩).set 1 ⟨.bound, 0x2, 0, [], []⟩).set 2 ⟨.revoked, 0x3, 0, [], []⟩,
  loads := [ldOp 3 8 8 false], poison := c.poison.set 6 (some 0x20) }
theorem meets_RegisterAccesses : Says.Free mbs ∧ Says.Plain mbs 5 ∧ mbs.core.isMb 28 = true ∧ mbs.core.mb[(0 : Fin 4)].rxq = 7 :: [] ∧
    mbs.core.isMb 29 = true ∧ mbs.core.mb[(1 : Fin 4)].rxq = [] ∧ mbs.core.mb[(2 : Fin 4)].state = .revoked ∧ mbs.core.isMb 30 = true ∧
    mbs.core.mb[(2 : Fin 4)].rxq = [] ∧
    mbs.core.isMb 3 = false ∧ mbs.core.busy 3 = true ∧ mbs.core.isMb 6 = false ∧ mbs.core.busy 6 = false ∧
    mbs.core.poison[(6 : Fin 32)] = some 0x20 ∧ mbs.core.mb[(0 : Fin 4)].state = .bound ∧ mbs.core.mb[(0 : Fin 4)].cred ≠ 0 ∧
    mbs.core.mb[(1 : Fin 4)].cred = 0 :=
  ⟨⟨rfl, rfl⟩, ⟨by decide, rfl, rfl, rfl⟩, rfl, rfl, rfl, rfl, rfl, rfl, rfl, rfl, by decide +kernel, rfl, by decide +kernel, rfl, rfl,
    by decide +kernel, rfl⟩
theorem test_mailbox_read : Says.reg (after (exec (.addi 5 28 0) mbs)) 5 = 7 := rfl

/-- Cores 0 and 1 of partition 0; g4 names core 1's mailbox 0, g5 one with a reserved bit set; mailbox 0 of core 0 is bound to
core 1's, and a flit and a credit from there are on their way. -/
def mail : State :=
  let s := onCore fun c => { withRegs [(4, 0xFFC1000000000000), (5, 0xFFC1000000000001)] c with
    mb := c.mb.set 0 ⟨.bound, 0xFFC1000000000000, 3, [], []⟩ }
  { s.setCoreAt 1 { s.cores[(1 : Fin 64)] with part := some 0 } with
    flits := [⟨some 0, 0, 0, mbName 0 1 0, 9⟩], credits := [⟨some 0, 0, 0, mbName 0 1 0, 0⟩], input := Input.none }
theorem meets_MailboxEffects : Says.Free mail ∧ Says.Reads mail [4] [0xFFC1000000000000] mail ∧
    Says.Reads mail [5] [0xFFC1000000000001] mail ∧ mail.core.mb[(0 : Fin 4)].state ≠ .unbound ∧
    mail.core.mb[(3 : Fin 4)].state = .unbound ∧ descOk 0xFFC1000000000000 = true ∧ mail.peerOk 0xFFC1000000000000 = true ∧
    descOk 0xFFC1000000000001 = false ∧ mail.input.module = mail.module ∧ mail.input.index = 0 ∧
    mail.flits = [⟨some 0, 0, 0, mbName 0 1 0, 9⟩] ∧ mail.credits = [⟨some 0, 0, 0, mbName 0 1 0, 0⟩] ∧
    mail.cores[(0 : Fin 64)].mb[(0 : Fin 4)].state = .bound ∧ mail.isLocal 0xFFC1000000000000 = true ∧
    mbName mail.module (dCore 0xFFC1000000000000) (dMbx 0xFFC1000000000000) = mbName 0 1 0 ∧
    mail.cores[(0 : Fin 64)].mb[(0 : Fin 4)].taken = [] ∧ mail.cores[(0 : Fin 64)].mb[(0 : Fin 4)].rxq = [] ∧
    mail.cores[(0 : Fin 64)].mb[(0 : Fin 4)].cred < 8 ∧ (mail.part mail.input.p).saved = none ∧ mail.input.core = 0 ∧
    mail.input.k = 0 :=
  ⟨⟨rfl, rfl⟩, reads1 rfl, reads1 rfl, by decide +kernel⟩
theorem test_flit_arrives : (after (exec .mailboxFlitArrival mail)).core.mb[(0 : Fin 4)].rxq = [9] := rfl

end Sys2Proof.Tests

/-! ## Control and status registers -/

namespace Sys2Proof.Tests

theorem meets_CsrReach : Says.Free ints ∧ ints.core.part ≠ none ∧ ints.debugging = false ∧
    [0x00A, 0x7FF, 0x800, 0xBFF, 0xC00, 0xFFF].all (fun n => !csrExists n) = true :=
  ⟨⟨rfl, rfl⟩, by decide +kernel, rfl, by decide +kernel⟩
theorem meets_CsrResults : Says.Free ints ∧ csrExists 0x405 = true ∧ csrExists 0x407 = true ∧ csrExists 0x004 = true ∧
    csrExists 0x077 = true ∧ csrExists 0x017 = true ∧ csrExists 0x411 = true ∧ Says.Reads ints [9] [5] ints ∧
    (∃ s2, ints.putReg 3 (ints.csrRead 0x405) = .ok (ints.csrRead 0x405) s2) ∧
    (∃ s2, (ints.acquire 3).putReg 3 (ints.csrRead 0x077) = .ok (ints.csrRead 0x077) s2) ∧
    (∃ s2, (ints.csrWrite 0x407 5).putReg 3 (ints.csrRead 0x407) = .ok (ints.csrRead 0x407) s2) ∧
    (csrMask 0x407).1 ||| (csrMask 0x407).2 ≠ 0 ∧ (csrMask 0x407).1 ≠ 0 :=
  ⟨⟨rfl, rfl⟩, rfl, rfl, rfl, rfl, rfl, rfl, reads1 rfl, ⟨_, rfl⟩, ⟨_, rfl⟩, ⟨_, rfl⟩, by decide +kernel, by decide +kernel⟩
/-- R377: csrset sets, csrclr clears, and both bring the old value. -/
theorem test_csrset : let s := after (exec (.csrset 3 9 0x407) (after (exec (.csrwr 0 10 0x407) ints)))
    s.core.intEn = 0x3D ∧ Says.reg s 3 = 0x3C := by decide +kernel
theorem test_csrclr : (after (exec (.csrclr 3 9 0x407) (after (exec (.csrwr 0 10 0x407) ints)))).core.intEn = 0x38 := by
  decide +kernel

/-- The edge of a region that leads outside, as a sink of sampler edges (`net` 1) or a channel. -/
def extE (id : BitVec 12) (net : BitVec 2) : Edge :=
  ⟨id, 0, false, net, 0, false, true, false, 0, 0, ⟨0, 0, 0⟩, 0, 0, ⟨0, 0, 0⟩, 0, 0⟩
/-- A module whose core 0 has a region with edges 1 and 2 that lead outside, and grants of port 0, channel 3 and sampler 0; the
value written is `v`. -/
def bound (ends : List (BitVec 12 × ExtEnd)) (v : Word) : State :=
  let s := regs []
  { s.setPart 0 { s.part 0 with grants := { (s.part 0).grants with ports := [0], channels := [(0, 3)], samplers := [0] } } with
    regions := [{ oneTile ⟨0, 0, 0⟩ with edges := [extE 1 1, extE 2 0], ends }], input := { Input.none with val := v } }
theorem meets_BindingWrites : (bound [] 0).anyPinned 0 = false ∧ (5 * 2 ^ 16 : Word).extractLsb' 0 16 = 0 ∧
    (5 * 2 ^ 16 : Word).extractLsb' 16 24 ≠ 0xFFFFFF ∧
    ((bound [] (8 * 2 + 2 ^ 20 * 3)).part 0).grants.ports.contains 0 = true ∧
    ((bound [] 0).part 0).grants.channels.contains (0, 3) = true ∧ (bound [] 0).region 0 0 = some (bound [] 0).regions[0] ∧
    (bound [] 0).regions[0].edges.find? (fun e => e.id == 2 && e.ext) = some (extE 2 0) ∧ (bound [] 0).onChannel 0 3 = [] ∧
    (bound [] 0).regions[0].ends = [] ∧
    (bound [(2, .tarior 0 3 0)] 0).regions[0].ends.find? (·.1 = 2) = some (2, .tarior 0 3 0) ∧
    ((bound [] 0).part 0).grants.samplers.contains 0 = true ∧ (8 : Word).getLsbD 18 = false ∧
    (bound [] 8).extEdge 0 1 false = some ((bound [] 8).regions[0], extE 1 1) ∧ (extE 1 1).net = 1 ∧
    ((bound [] 8).smps[(0 : Fin 8)]).inputs.length < 16 ∧
    ((after (exec .smpBind (bound [] 8))).smps[(0 : Fin 8)]).inputs.contains (0, 0, 1) = true :=
  ⟨rfl, by decide, by decide, by decide +kernel, by decide +kernel, by decide +kernel, by decide +kernel, by decide +kernel, rfl,
    by decide +kernel, by decide +kernel, by decide, by decide +kernel, rfl, by decide +kernel, by decide +kernel⟩
theorem test_tarBind : (after (exec .tarBind (bound [] (8 * 2 + 2 ^ 20 * 3)))).regions.map (·.ends) = [[(2, .tarior 0 3 0)]] := by
  decide +kernel

/-! ## Traps, interrupts, system instructions -/

/-- A core with a handler at 0x100. -/
def handled (f : Core → Core) : State := onCore fun c => f { c with trapVec := 0x40 }
theorem meets_TrapEntry : (handled id).core.tx = none ∧ (handled id).core.inh = false ∧ (handled id).core.trapVec ≠ 0 ∧
    ints.core.trapVec = 0 ∧ ints.core.tx = none := ⟨rfl, rfl, by decide +kernel, rfl, rfl⟩
theorem meets_TrapInRegion : let s := handled fun c => { c with tx := some txr }
    s.core.tx = some txr ∧ s.core.inh = false ∧ s.core.trapVec ≠ 0 := ⟨rfl, rfl, by decide +kernel⟩
theorem meets_TrapInstructions : Says.Free ints ∧ ints.fetch = none ∧ Says.Clear ints ∧
    (let s : State := { onCore (fun c => { c with run := .brk }) with input := { Input.none with ok := true } }
     s.cores[s.input.core].run = .brk ∧ s.input.ok = true) := ⟨⟨rfl, rfl⟩, rfl, rfl, rfl, rfl⟩
theorem test_syscall : let s := after (exec .syscall (handled id))
    s.core.pc = 0x100 ∧ s.core.trapPc = 0 ∧ s.core.fcode = 0x15 ∧ s.core.inh = true := ⟨rfl, rfl, rfl, rfl⟩
theorem meets_Interrupts : let s := handled fun c => { c with ie := true, intEn := 0x44, cpyV := true, timecmp := 0 }
    Says.Free s ∧ s.core.trapPc.toNat % 4 = 0 ∧ (handled fun c => { c with trapPc := 2 }).core.trapPc.toNat % 4 ≠ 0 ∧
    s.core.run = .run ∧ s.core.ie = true ∧ s.core.inh = false ∧ s.core.tx = none ∧ s.core.idling = false ∧ s.core.trapVec ≠ 0 ∧
    s.pending.getLsbD 2 = true ∧ (∀ k < 2, s.pending.getLsbD k = false) ∧ s.cores[(0 : Fin 64)].part = some 0 :=
  ⟨⟨rfl, rfl⟩, rfl, by decide +kernel, rfl, rfl, rfl, rfl, rfl, by decide +kernel, by decide +kernel, by decide +kernel, rfl⟩
theorem test_lowest_interrupt : (after (exec .interruptTaken (handled fun c =>
    { c with ie := true, intEn := 0x44, cpyV := true, timecmp := 0 }))).core.fcode = 0x22 := by decide +kernel

/-- A partition with a notice waiting and a swap map for MT 0.01.00. -/
def called : State :=
  let s := regs [(3, 0x10)]
  s.setPart 0 { s.part 0 with booted := true, notices := [0x33], grants := { (s.part 0).grants with tiles := [⟨0, 1, 0⟩], swapMaps := [(⟨0, 1, 0⟩, 4, 8)] } }
theorem meets_SupervisorCalls : Says.Free called ∧ called.core.part = some 0 ∧ (called.part 0).pre = .running ∧
    ((regs []).part 0).notices = [] ∧ (called.part 0).notices = 0x33 :: [] ∧ Says.Plain called 3 ∧ called.vendor = false ∧
    called.sec ≠ .failed ∧ Says.reg (regs []) 3 = 0 ∧ (Says.reg called 3).toNat < 2 ^ 11 ∧
    TileId.isMT ⟨(Says.reg called 3).extractLsb' 9 2, (Says.reg called 3).extractLsb' 4 5, (Says.reg called 3).extractLsb' 0 4⟩ = true ∧
    called.hasTile 0 ⟨0, 1, 0⟩ = true ∧
    (called.part 0).grants.swapMaps.find? (·.1 = (⟨0, 1, 0⟩ : TileId)) = some (⟨0, 1, 0⟩, 4, 8) ∧
    (State.placeControl State.reset 0xF000F027).fetch.map (fun q => spareHvc (BitVec.ofNat 32 (leNat q.1))) = some true :=
  ⟨⟨rfl, rfl⟩, rfl, by decide +kernel, rfl, by decide +kernel, ⟨by decide, rfl, rfl, rfl⟩, rfl, by decide +kernel, rfl, by decide +kernel,
    by decide +kernel, by decide +kernel, by decide +kernel, by decide +kernel⟩
theorem test_hvcNotice : let s := after (exec .hvcNotice called)
    Says.reg s 3 = 0x33 ∧ (s.part 0).notices = [] := by decide +kernel

/-- A core of the supervisor, with partition 1 halted, and out when `v` says so. -/
def super (v : Option Saved) : State :=
  let s := onCore fun c => withRegs [(4, 1)] { c with part := none }
  s.setPart 1 { s.part 1 with pre := .halted, saved := v }
/-- A saved context that holds nothing. -/
def nothing : Saved := (super none).capture 1
theorem meets_SupervisorInstructions : Says.Free ints ∧ ints.core.part ≠ none ∧ Says.Free (super none) ∧ (super none).core.part = none ∧
    Says.Reads (super none) [4] [1] (super none) ∧ ((super none).part 1).pre = .halted ∧ ((super none).part 1).saved = none ∧
    (super none).atticHeld 1 = false ∧ Says.Reads (super (some nothing)) [4] [1] (super (some nothing)) ∧
    ((super (some nothing)).part 1).saved = some nothing ∧ (super (some nothing)).standing 1 nothing = [] ∧
    ints.core.loads = [] ∧ ints.core.stores = [] ∧ Says.Reads ints [9] [5] ints :=
  ⟨⟨rfl, rfl⟩, by decide +kernel, ⟨rfl, rfl⟩, rfl, reads1 rfl, by decide +kernel, by decide +kernel, by decide +kernel, reads1 rfl,
    by decide +kernel, by decide +kernel, rfl, rfl, reads1 rfl⟩
theorem test_atticSave : ((after (exec (.atticSave 4) (super none))).part 1).saved.isSome = true := by decide +kernel

end Sys2Proof.Tests

/-! ## Pre-emption, power, security -/

namespace Sys2Proof.Tests

/-- A remote load of g3 that has left the core. -/
def remoteLd : LoadOp := { ldOp 3 0x0180000000000000 8 false with isRemote := true }
/-- Partition 0 has been asked to halt, and core 0 has a remote load of g3 outstanding when `r` says so. -/
def asked (r : Bool) : State :=
  let s := onCore fun c => { c with loads := if r then [remoteLd] else [] }
  s.setPart 0 { s.part 0 with pre := .requested }
theorem meets_PreemptAndContain : (called.part called.input.p).pre = .running ∧ (called.part called.input.p).booted = true ∧
    ((asked false).part (asked false).input.p).pre = .requested ∧ (asked false).settled (asked false).input.p = true ∧
    (asked false).powerAsk = none ∧ ((asked true).part (asked true).input.p).pre = .requested ∧ (asked true).input.k = 0 ∧
    (asked true).core.loads[(asked true).input.index]? = some remoteLd ∧ remoteLd.isRemote = true ∧ remoteLd.mbx = false ∧
    (asked true).core.part = some (asked true).input.p ∧ (asked true).core.tx = none ∧ (asked true).core.isMb 3 = false ∧
    State.reset.regionOf State.reset.tile = none ∧ (∀ p : Fin 16, State.reset.parts[p].saved = none) := by decide +kernel
/-- R394: a failure reply poisons the register of a remote load. -/
theorem test_failureReply : (after (exec .preemptFailureReply (asked true))).core.poison[(3 : Fin 32)] = some 0x0180000000000000 := by
  decide +kernel

theorem meets_PreemptAndContain_grants : State.reset.mayGrant State.reset.input.p State.reset.input.grants = true ∧
    called.mayGrant called.input.p called.input.grants = false := by decide +kernel

theorem meets_PowerStates_boot : ed448 Config.vendorKey (shake256 State.reset.input.boot.firmware.1 64) State.reset.input.boot.firmware.2 = false := rfl

/-- A powered module whose supervisor wants power state `w`. -/
def power (p w : Power) (ask : Option Power) : State :=
  { regs [] with power := p, powerAsk := ask, input := { Input.none with pw := w, watts := [150, 150, 150, 150], cap := 600 } }
theorem meets_PowerStates : (power .p0 .p1 none).sec = .secure ∧ (power .p0 .p1 none).input.pw = .p1 ∧ (power .p0 .p1 none).power = .p0 ∧
    (power .p0 .p3 none).input.pw = .p3 ∧ (power .p0 .p3 none).allHalted = true ∧ (power .p2 .p0 none).input.pw = .p0 ∧
    (power .p2 .p0 none).power = .p2 ∧ (power .p0 .p0 (some .p1)).powerAsk = some .p1 ∧ grantsOk [150, 150, 150, 150] 600 = true ∧
    grantsOk [150, 150, 150, 150] 599 = false ∧ grantsOk [149, 150, 150, 151] 600 = false :=
  ⟨rfl, rfl, rfl, rfl, by decide +kernel, rfl, rfl, rfl, by decide, by decide, by decide⟩
theorem test_budgetWindow : let s := after (exec .budgetWindow (power .p0 .p0 (some .p1)))
    s.power = .p1 ∧ s.pwrCap = 600 ∧ s.pwrGrant = Vector.replicate 4 150 := ⟨rfl, rfl, by decide +kernel⟩

/-- Partition 0 booted, its page table at 0x100000 mapping the gigabyte at 0 for reads and writes, with data there. -/
def paged (n : Nat) : State :=
  let s := regs []
  { s.setPart 0 { s.part 0 with booted := true, ptRoot := 0x100, ptLen := 1, grants := { (s.part 0).grants with phys := [(0, 2 ^ 31)] } } with
    mem := [(8, 0x5A), (0x100000, 0x0D)], input := { Input.none with fn := some 0, host := .read n, off := 8 } }
theorem meets_SecurityAndHost : (paged 1).power ≠ .off ∧ (paged 1).sec = .secure ∧ (paged 1).input.fn = some 0 ∧
    ((paged 1).part 0).booted = true ∧ (paged 1).power = .p0 ∧ (paged 1).input.host = .read 1 ∧
    (paged 1).readV 0 [.translated] (paged 1).input.off.toNat 1 = .ok [0x5A] ∧
    (regs []).readV 0 [.translated] 8 1 = .error (8, .grant) ∧ ((paged 1).part 0).notices.length < 64 :=
  ⟨by decide +kernel, rfl, rfl, by decide +kernel, rfl, rfl, by decide +kernel, by decide +kernel, by decide +kernel⟩
theorem test_hostAccess : (after (exec .hostAccess (paged 1))).hostOut = [.data [0x5A]] := by decide +kernel

end Sys2Proof.Tests

/-! ## Configurations and launches -/

namespace Sys2Proof.Tests

/-- A region of core 0 on one tile in binding slot 0, changed by `f`, with g4 its handle and g5 = `w`; partition 0 has the low
2 GB of memory, whose first gigabyte its page table maps at 0, the tile MT 0.01.00, and bytes `m` below 0x100000. -/
def gr (f : Region → Region) (w : Word) (m : List (Nat × Byte) := []) : State :=
  let s := regs [(4, (oneTile ⟨0, 0, 0⟩).handle), (5, w)]
  { s.setPart 0 { s.part 0 with ptRoot := 0x100, ptLen := 1, grants := { (s.part 0).grants with
      phys := [(0, 2 ^ 31)], tiles := [⟨0, 0, 0⟩, ⟨0, 1, 0⟩] } } with
    mem := m ++ [(0x100000, 0x0D)], regions := [f (oneTile ⟨0, 0, 0⟩)] }
/-- The region of `gr`. -/
def rg (f : Region → Region) : Region := f (oneTile ⟨0, 0, 0⟩)

/-- An image of one record: a compute tile with no station, of 320 bytes with its CRC. -/
def image : List (Nat × Byte) := [(0x0, 0x16), (0x1, 0xf), (0x2, 0x7c), (0x3, 0xd), (0x4, 0x1), (0x5, 0x2), (0x6, 0x1), (0x8, 0x1), (0x10, 0xc0), (0x14, 0xc0), (0x19, 0x2), (0xc1, 0x4), (0xc4, 0x40), (0xc5, 0x1), (0x1f8, 0xb8), (0x1f9, 0x5e), (0x1fa, 0x7a), (0x1fb, 0x1f)]
/-- Core 0 holds regions in binding slots 0 to 6, none of them resident. -/
def loading : State := { gr id 0 image with
  regions := (List.range 7).map fun k => { oneTile ⟨0, 31, 15⟩ with bslot := BitVec.ofNat 3 k, resident := false, tiles := [] } }

/-- A staging of one tile, with what is known of its signature, its CRCs and its checks. -/
def staged (sigOk : Option Bool) (passed : Bool) : Staging :=
  ⟨0, [⟨⟨0, 0, 0⟩, 0, 0, 0, 0, []⟩], [], [], [], [], false, sigOk, passed⟩
/-- The region of that image resident, with `g` staged, whose commit waits if there is one. -/
def reloading (g : Option Staging) : State := gr (fun r => { r with w := 2, h := 1, staging := g, commitWait := g.isSome }) 0 image

/-- An answer that is not an error is some value. -/
theorem okOf {ε α : Type} {x : Except ε α} (h : x.toBool = true) : ∃ a, x = .ok a := by
  cases x with
  | ok a => exact ⟨a, rfl⟩
  | error e => exact absurd h (by simp [Except.toBool])
/-- The header and the signature block of `image`. -/
def imgHead : List Byte := memGets loading.mem 0 64
def imgSig : List Byte := List.replicate 114 0
theorem meets_ConfigurationLoads : Says.Free loading ∧ Says.Reads loading [4, 5] [(oneTile ⟨0, 0, 0⟩).handle, 0] loading ∧
    (∃ q, { loading with fresh := loading.fresh + 1 }.loadBody 0 ⟨2, 1, 1, 0, 192, 192, 512⟩ ⟨0, 0, 0⟩ imgHead imgSig [] [] none
      (loading.core.gmodeOf 7) loading.core.gens[(7 : Fin 8)] = .ok q) ∧
    (∃ q, (reloading none).loadBody 0 ⟨2, 1, 1, 0, 192, 192, 512⟩ ⟨0, 0, 0⟩ imgHead imgSig [] [] (some 0)
      ((reloading none).core.gmodeOf 0) 1 = .ok q) ∧
    loading.loadHeader 1 0 = .error (refuse 0x27) ∧
    (∀ s ∈ [loading, reloading none, reloading (some (staged none false))],
      s.loadHeader 0 0 = .ok (⟨2, 1, 1, 0, 192, 192, 512⟩, ⟨0, 0, 0⟩, imgHead, imgSig) ∧
      s.loadEdges ⟨2, 1, 1, 0, 192, 192, 512⟩ ⟨0, 0, 0⟩ 0 = .ok ([], []) ∧ s.originOk ⟨2, 1, 1, 0, 192, 192, 512⟩ ⟨0, 0, 0⟩ 0 = true) ∧
    (loading.regions.find? fun r => r.core == loading.cur && r.origin == ⟨0, 0, 0⟩ && r.w == 2 && r.h == 1) = none ∧
    ((List.range 8).filter fun n => (loading.region loading.cur (BitVec.ofNat 3 n)).isNone) = [7] ∧
    (∀ g ∈ [none, some (staged none false)], ∃ r, ((reloading g).regions.find? fun r =>
        r.core == (reloading g).cur && r.origin == ⟨0, 0, 0⟩ && r.w == 2 && r.h == 1) = some r ∧
      r.commitWait = g.isSome ∧ r.resident = true ∧ r.staging = g) :=
  ⟨⟨rfl, rfl⟩, reads2 rfl rfl, okOf (by decide +kernel), okOf (by decide +kernel), by decide +kernel, by decide +kernel,
    by decide +kernel, by decide +kernel, by simp only [List.forall_mem_cons]; exact ⟨⟨_, rfl, rfl, rfl, rfl⟩, ⟨_, rfl, rfl, rfl, rfl⟩, nofun⟩⟩
/-- R118: an image that is not aligned is refused with HDR, which names no tile. -/
theorem test_cfgld : Says.reg (after (exec (.cfgld 3 5 0) (gr id 1))) 3 = 0x8000000000000027 := by decide +kernel

/-- Regions that have it staged. -/
def staging (q : Option Bool) (p res : Bool) : State := gr (fun r => { r with staging := some (staged q p), resident := res }) 0
def stagingR (q : Option Bool) (p res : Bool) : Region := rg fun r => { r with staging := some (staged q p), resident := res }
/-- The security processor of partition 0 has a request of core 0's region. -/
def asking : State := (staging none false false).setPart 0 { (staging none false false).part 0 with chkq := [(0, 0)] }
theorem meets_ConfigurationLoads_checks : (∀ q p res, Says.Free (staging q p res)) ∧
    (∀ q p res, Says.Reads (staging q p res) [4] [(oneTile ⟨0, 0, 0⟩).handle] (staging q p res)) ∧
    (∀ q ∈ [none, some false, some true], (staging q false false).graphMine (oneTile ⟨0, 0, 0⟩).handle = .ok (stagingR q false false) ∧
      (stagingR q false false).stagingOf (oneTile ⟨0, 0, 0⟩).handle = some (staged q false)) ∧
    (gr id 0).graphMine (oneTile ⟨0, 0, 0⟩).handle = .ok (rg id) ∧ (rg id).stagingOf (oneTile ⟨0, 0, 0⟩).handle = none ∧
    (gr id 5).graphMine 5 ≠ .ok (rg id) ∧ (staged (some true) false).crcBad = [] ∧
    (let g : Staging := { staged (some true) false with crcBad := [⟨0, 0, 0⟩] }
     (rg fun r => { r with staging := some g }).stagingOf (oneTile ⟨0, 0, 0⟩).handle = some g) ∧
    (staged none false).asked = false ∧
    ((staging none false false).part 0).chkq.length < 4 ∧ (asking.part asking.input.p).chkq = (0, 0) :: [] ∧
    (asking.part asking.input.p).saved = none ∧ asking.region 0 0 = some (stagingR none false false) :=
  ⟨fun _ _ _ => ⟨rfl, rfl⟩, fun _ _ _ => reads1 rfl, by decide +kernel⟩

/-- The region waits to apply a commit; its fence stands. -/
def applying : State := gr (fun r => { r with staging := some (staged (some true) true), commitWait := true }) 0
def fencing : State := gr (fun r => { r with fenced := true }) 0
theorem meets_ConfigurationCommits : (∀ q p res, Says.Free (staging q p res)) ∧
    (∀ q p res, Says.Reads (staging q p res) [4] [(oneTile ⟨0, 0, 0⟩).handle] (staging q p res)) ∧
    (∀ p res, (staging (some true) p res).graphMine (oneTile ⟨0, 0, 0⟩).handle = .ok (stagingR (some true) p res) ∧
      (stagingR (some true) p res).stagingOf (oneTile ⟨0, 0, 0⟩).handle = some (staged (some true) p)) ∧
    Says.regionNow applying = some (rg fun r => { r with staging := some (staged (some true) true), commitWait := true }) ∧
    applying.regionEmpty (rg fun r => { r with staging := some (staged (some true) true), commitWait := true }) = true ∧
    Says.regionNow fencing = some (rg fun r => { r with fenced := true }) ∧ (rg id).live = [] ∧ (rg id).decision = none :=
  ⟨fun _ _ _ => ⟨rfl, rfl⟩, fun _ _ _ => reads1 rfl, by decide +kernel⟩

/-- A launch record of a priority. -/
def lrec (p : BitVec 2) : LaunchRec := ⟨Vector.replicate 4 0, 0, 0, 0, 0, p, 0, 0, 0⟩
/-- Launches queued on the region. -/
def queued (l : List LaunchRec) (st : List Nat) (fz : Bool) : State := gr (fun r => { r with queue := l, starve := st, frozen := fz }) 0
theorem meets_Launches_issues : (∀ f w m, Says.Free (gr f w m)) ∧
    (∀ f w m, Says.Reads (gr f w m) [4, 5] [(oneTile ⟨0, 0, 0⟩).handle, w] (gr f w m)) ∧
    (∀ f w m, Says.Reads (gr f w m) [4] [(oneTile ⟨0, 0, 0⟩).handle] (gr f w m) ∧ Says.Reads (gr f w m) [5] [w] (gr f w m)) ∧
    (∃ u, (gr id 9).reserve 3 = .ok 0 u) ∧
    (gr id 9).core.recs.length < 16 ∧ (gr id 9).graphMine (oneTile ⟨0, 0, 0⟩).handle = .ok (rg id) ∧
    (gr id 9).closed (rg id) = false ∧ (rg id).slave = false ∧ (gr id 9).preTaken (gr id 9).core.lpre0h = true ∧
    (gr id 9).preTaken (gr id 9).core.lpre1h = true ∧ (gr id 9).core.isMb 3 = false ∧ (gr id 9).graphMine 9 = .error hBADHANDLE ∧
    (gr (fun r => { r with closing := true }) 9).closed (rg fun r => { r with closing := true }) = true ∧
    (gr (fun r => { r with closing := true }) 9).graphMine (oneTile ⟨0, 0, 0⟩).handle = .ok (rg fun r => { r with closing := true }) ∧
    (gr (fun r => { r with slave := true }) 9).graphMine (oneTile ⟨0, 0, 0⟩).handle = .ok (rg fun r => { r with slave := true }) ∧
    (let s := (gr id 9).setCore { (gr id 9).core with lpre0h := 9, recs := List.replicate 16 ⟨0, 3, false, lrec 1⟩ }
     s.preTaken s.core.lpre0h = false ∧ 16 ≤ s.core.recs.length) ∧
    (let s := (gr id 9).setCore { (gr id 9).core with recs := [⟨0, 3, false, lrec 1⟩] }
     Says.regionNow s = some (rg id) ∧ s.recsOf (rg id) = ⟨0, 3, false, lrec 1⟩ :: [] ∧ (rg id).queue.length < 16) :=
  ⟨fun _ _ _ => ⟨rfl, rfl⟩, fun _ _ _ => reads2 rfl rfl, fun _ _ _ => ⟨reads1 rfl, reads1 rfl⟩, ⟨_, rfl⟩, by decide +kernel⟩
theorem test_param : (after (exec (.param 4 5 2) (gr id 9))).regions.map (·.pending.toList) = [[0, 0, 9, 0]] := by decide +kernel
theorem meets_Launches_starts : (let s := queued [] [0, 5, 0] false
      Says.regionNow s = some (rg fun r => { r with starve := [0, 5, 0] }) ∧ ∀ p < 4, s.eligible (rg fun r => { r with starve := [0, 5, 0] }) p = false) ∧
    (let r := rg fun r => { r with queue := [lrec 1, lrec 3], starve := [0, 63, 0] }
     let s := queued [lrec 1, lrec 3] [0, 63, 0] false
     Says.regionNow s = some r ∧ s.eligible r 3 = true ∧ r.headOf 3 = some (lrec 3) ∧
       (∀ k, k < 3 → r.starve.getD k 0 < 64 ∨ s.eligible r k = false)) ∧
    (let r := rg fun r => { r with queue := [lrec 1, lrec 3], starve := [0, 64, 0] }
     let s := queued [lrec 1, lrec 3] [0, 64, 0] false
     Says.regionNow s = some r ∧ s.eligible r 1 = true ∧ 64 ≤ r.starve.getD 1 0 ∧ r.headOf 1 = some (lrec 1) ∧
       (∀ k, k < 1 → r.starve.getD k 0 < 64 ∨ s.eligible r k = false)) := by decide +kernel
/-- R127: priority 3 starts before 1, whose count goes on; at 64 it starts first. -/
theorem test_launchStart : (after (exec .launchStart (queued [lrec 1, lrec 3] [0, 63, 0] false))).regions.map (fun r => (r.queue, r.starve)) =
      [([lrec 1], [0, 64, 0])] ∧
    (after (exec .launchStart (queued [lrec 1, lrec 3] [0, 64, 0] false))).regions.map (fun r => (r.queue, r.starve)) = [([lrec 3], [0, 0, 0])] := by
  decide +kernel

/-- The region's tile holds configuration 2. -/
def holding (f : Region → Region) : State := { gr f 0 with tiles := [{ Tile.zero ⟨0, 0, 0⟩ with cfgs := [(2, oneWord 0 0)] }] }
theorem meets_ConfigurationSwitches : (holding id).graphMine (oneTile ⟨0, 0, 0⟩).handle = .ok (rg id) ∧
    Says.Reads (holding id) [4] [(oneTile ⟨0, 0, 0⟩).handle] (holding id) ∧ (rg id).resident = true ∧
    (∃ t ∈ (rg id).tiles, ((holding id).tileAt t).cfg 2 ≠ none) ∧ (¬ ∃ t ∈ (rg id).tiles, ((holding id).tileAt t).cfg 1 ≠ none) ∧
    (holding fun r => { r with decision := some 1 }).graphMine (oneTile ⟨0, 0, 0⟩).handle = .ok (rg fun r => { r with decision := some 1 }) ∧
    Says.regionNow (holding fun r => { r with decision := some 2 }) = some (rg fun r => { r with decision := some 2 }) ∧
    (holding fun r => { r with decision := some 2 }).regionEmpty (rg fun r => { r with decision := some 2 }) = true ∧
    rg id ∈ (holding id).regions :=
  ⟨by decide +kernel, reads1 rfl, by decide +kernel⟩
theorem test_decisionSwitch : (after (exec .decisionSwitch (holding fun r => { r with decision := some 2 }))).regions.map
    (fun r => (r.sel, r.decision)) = [(2, none)] := by decide +kernel

end Sys2Proof.Tests

/-! ## Phases, cancellation, counters, copies -/

namespace Sys2Proof.Tests

/-- A phase of partition 0 whose only graph is that of `gr`. -/
def entry : PhaseEntry := ⟨(oneTile ⟨0, 0, 0⟩).handle, 1, 0x3FF, 0, 0, false⟩
def phase (k : Counter) (acks : List Acker) : Phase := ⟨0, 7, [entry], k, acks, false, false, false, false, 0⟩
/-- A partition with that phase; g6 is its handle, g7 the job's; `who` sends an acknowledgement. -/
def inPhase (k : Counter) (acks : List Acker) (who : Acker) (ok : Bool) : State :=
  let s := gr id 1
  let s1 : State := s.setPart 0 { s.part 0 with phases := [phase k acks] }
  { s1.setCore ((s1.core.setReg 6 (phaseHandle 0 7)).setReg 7 0x4000000000000000) with
    input := { Input.none with serial := 7, who, ok } }
/-- Sixteen live phases. -/
def inPhases : State := (gr id 1).setPart 0 { (gr id 1).part 0 with phases := List.replicate 16 (phase Counter.zero []) }
/-- A phase descriptor of that graph at address 0: NG 1, then its handle and a count of 1 on this module. -/
def phased : State := gr id 1 ((0, 1) :: (64 + 7, 0x20) :: (72, 1) :: (76, 0xFF) :: [(77, 0x03)])
theorem meets_PhaseLife :
    Says.Free phased ∧ Says.Reads phased [0] [0] phased ∧ Says.Reads phased [5] [1] phased ∧
    Says.Reads phased [4] [(oneTile ⟨0, 0, 0⟩).handle] phased ∧ phased.phaseDesc 0 = some [entry] ∧
    phased.phaseRefusal [entry] = none ∧ ((phased.part phased.pid).phases.filter (·.pcc.state = .open_)).length < 16 ∧
    phased.phaseDesc 1 = none ∧ phased.phaseRefusal [{ entry with graph := 5, count := 1 }] ≠ none ∧
    16 ≤ ((inPhases.part inPhases.pid).phases.filter (·.pcc.state = .open_)).length ∧ inPhases.phaseRefusal [entry] = none ∧
    hLevel (oneTile ⟨0, 0, 0⟩).handle ≠ 3 ∧ phased.graphMine (oneTile ⟨0, 0, 0⟩).handle = .ok (rg id) ∧
    phased.inLivePhase (rg id) = false ∧ hLevel (phaseHandle 0 7) = 3 ∧
    (inPhase Counter.zero [] (.die 0) true).phaseOf (phaseHandle 0 7) = .ok (phase Counter.zero []) ∧
    (∀ ok, let s := inPhase Counter.zero [.module 5] (.module 5) ok;
      (s.part s.input.p).phases.find? (·.serial = s.input.serial) = some (phase Counter.zero [.module 5]) ∧ s.input.ok = ok ∧
        s.input.hub = none ∧ (phase Counter.zero [.module 5]).acks.contains s.input.who = true) ∧
    (let s := inPhase Counter.zero [.die 0] (.die 0) true;
      (s.part s.input.p).phases.find? (·.serial = s.input.serial) = some (phase Counter.zero [.die 0]) ∧
      (phase Counter.zero [.die 0]).acks.contains s.input.who = true ∧ s.phaseRegions [entry] = [(entry, rg id)] ∧
      ∀ q ∈ s.phaseRegions [entry], dieOf q.2.core = 0 → q.2.resident = true ∧ q.2.handle = q.1.graph ∧
        q.2.commitWait = false ∧ q.2.fenced = false ∧ q.2.decision = none) ∧
    (let s := inPhase Counter.zero [] (.die 0) true;
      (s.part s.input.p).phases.find? (·.serial = s.input.serial) = some (phase Counter.zero []) ∧
      (phase Counter.zero []).pcc.state = .open_ ∧ (phase Counter.zero []).cancelled = false) :=
  ⟨⟨rfl, rfl⟩, reads1 rfl, reads1 rfl, reads1 rfl, by decide +kernel⟩
/-- R132: phase answers the handle of level 3 with the phase's SERIAL. -/
theorem test_phase : let s := after (exec (.phase 3 0) phased)
    Says.reg s 3 = 0x3000000000000000 ∧ (s.part 0).phases.map (·.entries) = [[entry]] := by decide +kernel

/-- A live launch of SERIAL 3, sequence number 9. -/
def launch3 : Live := ⟨9, 3, Vector.replicate 4 0, Counter.zero, 1, 0, none, [], [], none, false⟩
/-- A counter as a launch ended with it. -/
def ended : Counter := ⟨.complete, 0, 0x3FF, 0, 1⟩
/-- Launches of the region: SERIAL 3 live, 4 queued, 2 ended; g5 names that of SERIAL `n`. -/
def launches (n : BitVec 32) : State :=
  gr (fun r => { r with live := [launch3], queue := [{ lrec 1 with serial := 4 }], history := [(8, 2, ended)], epochOpen := true })
    ((oneTile ⟨0, 0, 0⟩).launchHandle 0 n)
def launchesR : Region :=
  rg fun r => { r with live := [launch3], queue := [{ lrec 1 with serial := 4 }], history := [(8, 2, ended)], epochOpen := true }
/-- A phase and a job that have ended. -/
def jobEnded : State :=
  let s := inPhase ended [] (.die 0) true
  s.setPart 0 { s.part 0 with jcc := ended }
theorem meets_CancelsAndFailures_cancels : (∀ n, Says.Free (launches n)) ∧
    (∀ n, Says.Reads (launches n) [5] [(oneTile ⟨0, 0, 0⟩).launchHandle 0 n] (launches n)) ∧
    Says.Reads (inPhase Counter.zero [] (.die 0) true) [6] [phaseHandle 0 7] (inPhase Counter.zero [] (.die 0) true) ∧
    Says.Reads jobEnded [7] [0x4000000000000000] jobEnded ∧
    ((launches 2).launchMine ((oneTile ⟨0, 0, 0⟩).launchHandle 0 2) = .ok (launchesR, .ended ended) ∧
    (launches 3).launchMine ((oneTile ⟨0, 0, 0⟩).launchHandle 0 3) = .ok (launchesR, .live launch3) ∧
    (launches 4).launchMine ((oneTile ⟨0, 0, 0⟩).launchHandle 0 4) = .ok (launchesR, .queued { lrec 1 with serial := 4 }) ∧
    (launches 2).launchMine 5 = .error hBADHANDLE ∧ (launches 2).graphMine 5 = .error hBADHANDLE ∧
    (launches 2).phaseOf 5 = .error hBADHANDLE ∧ (launches 2).jobOk 5 = false) ∧
    (launches 2).graphMine (oneTile ⟨0, 0, 0⟩).handle = .ok launchesR ∧ launchesR.stagingOf (oneTile ⟨0, 0, 0⟩).handle = none ∧
    launchesR.epochOpen = true ∧ (stagingR none false false).stagingOf (oneTile ⟨0, 0, 0⟩).handle = some (staged none false) ∧
    (gr id 0).graphMine (oneTile ⟨0, 0, 0⟩).handle = .ok (rg id) ∧
    ((rg id).stagingOf (oneTile ⟨0, 0, 0⟩).handle = none ∧ (rg id).epochOpen = false ∧ (rg id).live = [] ∧ (rg id).queue = [] ∧
      (gr id 0).recsOf (rg id) = []) ∧
    (inPhase Counter.zero [] (.die 0) true).phaseOf (phaseHandle 0 7) = .ok (phase Counter.zero []) ∧
    jobEnded.phaseOf (phaseHandle 0 7) = .ok (phase ended []) ∧ (phase ended []).pcc.state ≠ .open_ ∧
    ({ phase Counter.zero [] with cancelled := true } : Phase).pcc.state = .open_ ∧
    jobEnded.jobOk 0x4000000000000000 = true ∧
    (jobEnded.part jobEnded.pid).jcc.state ≠ .open_ ∧ ((gr id 0).part 0).jcc.state = .open_ ∧ ((gr id 0).part 0).jcc.cause = 0 ∧
    (∀ ph ∈ ((gr id 0).part 0).phases, ph.pcc.state ≠ .open_) :=
  ⟨fun _ => ⟨rfl, rfl⟩, fun _ => reads1 rfl, reads1 rfl, reads1 rfl, by decide +kernel, by decide +kernel⟩
theorem test_cancel_queued : let s := after (exec (.cancelLaunch 3 5) (launches 4))
    Says.reg s 3 = 0 ∧ s.regions.map (fun r => (r.queue, r.gcc.cncl)) = [([], 1)] := by decide +kernel

theorem meets_CounterReads : (launches 2).counterOf ((oneTile ⟨0, 0, 0⟩).launchHandle 0 2) = .ok ended ∧
    (launches 3).counterOf ((oneTile ⟨0, 0, 0⟩).launchHandle 0 3) = .ok { launch3.lcc with state := .open_ } ∧
    (launches 5).counterOf ((oneTile ⟨0, 0, 0⟩).launchHandle 0 5) = .error hSTALE ∧
    (let s := inPhase ⟨.cancelled, 1, 0, 1, 0⟩ [] (.die 0) true
     s.counterOf (phaseHandle 0 7) = .ok ⟨.cancelled, 1, 0, 1, 0⟩) := by decide +kernel
/-- R38: the word of a counter that completed with COUNT 1 and no cancellation. -/
theorem test_cread : Says.reg (after (exec (.cread 3 5) (launches 2))) 3 = ended.word ∧
    Says.reg (after (exec (.cwait 3 5) (launches 2))) 3 = 0 ∧ (after (exec (.cwait 3 5) (launches 3))).core.pc = 0 := by decide +kernel

/-- A copy of 16 bytes from 0x1000 to 0x2000, its control block at 0; g5 names the live launch. -/
def copying (cs : List CopyOp) (k : CopyRes) : State :=
  let s := gr (fun r => { r with live := [launch3] }) ((oneTile ⟨0, 0, 0⟩).launchHandle 0 3) [(1, 0x10), (9, 0x20), (16, 0x10), (0x1008, 0x77)]
  { s.setCore { s.core with copies := cs } with input := { Input.none with copy := k } }
def copyOp : CopyOp := ⟨0, 0x1000, 0x2000, 16, none, none, none, none, 0, false, 0, 0, [], none⟩
/-- The control block as read. -/
def copyBlk : List Byte := memGets (copying [] .landed).mem 0 64
theorem meets_CopyLife : Says.Free (copying [] .landed) ∧ Says.Reads (copying [] .landed) [0, 0] [0, 0] (copying [] .landed) ∧
    Says.Reads (copying [] .landed) [0, 5] [0, (oneTile ⟨0, 0, 0⟩).launchHandle 0 3] (copying [] .landed) ∧
    Says.Reads (copying [] .landed) [5, 0] [(oneTile ⟨0, 0, 0⟩).launchHandle 0 3, 0] (copying [] .landed) ∧
    ((copying [] .landed).core.copies.length < 64 ∧ 64 ≤ (copying (List.replicate 64 copyOp) .landed).core.copies.length ∧
    (copying [] .landed).readCore 0 64 = .ok copyBlk ∧
    copyOf copyBlk (copying [] .landed).core.copySerial none = some copyOp ∧ copyOf (List.replicate 64 0xFF) 0 none = none ∧
    (copying [] .landed).chargeOf ((oneTile ⟨0, 0, 0⟩).launchHandle 0 3) = .ok (some (0, 9, 3)) ∧
    (copying [] .landed).chargeOf 5 = .error hBADHANDLE ∧
    ((oneTile ⟨0, 0, 0⟩).launchHandle 0 3).toNat % 64 ≠ 0 ∧ ((regs []).readCore 0 64).toBool = false) ∧
    (∀ k ∈ [CopyRes.landed, .failed 7], ((copying [copyOp] k).core.copies.filter (·.ended.isNone))[(copying [copyOp] k).input.index]? =
        some copyOp ∧ (copying [copyOp] k).copyStalled (copying [copyOp] k).cur copyOp = false) ∧
    (copyOp.charge = none ∧ copyOp.chan = none ∧ copyOp.acq = none ∧ copyOp.rel = none ∧ copyOp.check = false ∧ copyOp.after = 0 ∧
      copyOp.len ≠ 0) ∧
    (copying [copyOp] .landed).peerEnd copyOp.src = false ∧ (copying [copyOp] .landed).peerEnd copyOp.dst = false ∧
    (copying [copyOp] .landed).check 0 copyWindows .read (chunks 0x1000 16) = .ok [(0x1000, 0x1000, 16)] ∧
    (copying [copyOp] .landed).check 0 copyWindows .write (chunks 0x2000 16) = .ok [(0x2000, 0x2000, 16)] ∧
    (copying [copyOp] (.failed 7)).core.cpyV = false :=
  ⟨⟨rfl, rfl⟩, reads2 rfl rfl, reads2 rfl rfl, reads2 rfl rfl, by decide +kernel, by decide +kernel⟩
theorem test_copy : memGet (after (exec .copyComplete (copying [copyOp] .landed))).mem 0x2008 = 0x77 := by decide +kernel
theorem test_cpystat : let s := after (exec .copyComplete (copying [copyOp] (.failed 7)))
    s.core.cpyV = true ∧ s.core.cpyCause = 7 ∧ s.core.cpyAddr = 0x2000 := by decide +kernel

end Sys2Proof.Tests

/-! ## Stitched tensors, sequences, checkpoints -/

namespace Sys2Proof.Tests

/-- The pieces of the example after R309: a borrowed prefix of 48 rows and 13 rows of its own, and the draft piece. -/
def p0 : Piece := ⟨0x4000000000, 48, 512, true, false, 0⟩
def p1 : Piece := ⟨0x5000000000, 13, 512, false, false, 0⟩
def pD : Piece := ⟨0x5000001A00, 4, 512, false, false, 0⟩
/-- A partition with an arena of 6 lists and `n` blocks; list 5 holds version 7 of 61 rows in slot 0, pinned `pins` times. The
pieces are `ps`; g4 is its handle, g5 = 61, g6 a pin token of it, g8 = 6. -/
def arena (pins n : Nat) (v len : Nat) (ps : List Piece) (m : List (Nat × Byte) := []) : State :=
  let s := (gr id 61 m).setPart 0 { (gr id 61 m).part 0 with staBase := 0x10000000000, nlist := 6, nblk := BitVec.ofNat 24 n, slotVer := [((5, 0), 7)] }
  let x := s.part 0
  let h : ListHdr := ⟨BitVec.ofNat 32 v, len, 0, ⟨0, pins, true⟩ :: List.replicate 7 ⟨noSpine, 0, false⟩⟩
  { s.setCore (withRegs [(4, 5), (6, 0x4000002800000007), (8, 6), (9, 62)] s.core) with
    mem := memSets (memSets (memSets s.mem (x.hdrAt 5) h.bytes) (x.blkAt 0) (spineBytes (BitVec.ofNat 32 v) [(1, ps)]))
      (x.blkAt 1) (ps.flatMap Piece.bytes) }
def list7 (pins : Nat) : State := arena pins 8 7 61 [p0, p1]
/-- No arena. -/
def noArena : State := regs [(4, 5), (5, 61)]

theorem meets_StitchInstructions_reads : (∀ n, Says.Free (list7 n)) ∧ (∀ n, Says.Reads (list7 n) [4] [5] (list7 n)) ∧
    Says.Reads (list7 1) [6] [0x4000002800000007] (list7 1) ∧ Says.Reads (list7 1) [6, 5] [0x4000002800000007, 61] (list7 1) ∧
    Says.Reads (list7 1) [4, 5] [5, 61] (list7 1) ∧
    Memory.wf (list7 0) = true ∧ Memory.wf (list7 1) = true ∧
    (noArena.listOf noArena.pid 5 = .error (-16) ∧ (list7 0).listOf (list7 0).pid 6 = .error (-17) ∧
      (list7 0).listOf (list7 0).pid 5 = .ok 5 ∧ (noArena.part noArena.pid).nlist = 0 ∧ ((list7 1).part 0).nlist ≠ 0) ∧
    (((list7 0).listHdr 0 5).slot 0).pins < 49151 ∧
    49151 ≤ (((list7 49151).listHdr 0 5).slot ((list7 49151).listHdr 0 5).cur).pins ∧
    (list7 1).tokenOf 0 0x4000002800000007 = some (5, 0) ∧ (list7 0).tokenOf 0 0x4000002800000007 = none ∧
    (list7 1).listRow 0 5 0 61 = none ∧ (list7 1).listRow 0 5 0 60 = some (0x5000001800, false) ∧
    (0x4000002800000007 : Word).getLsbD 62 = true ∧ (5 : Word).getLsbD 62 = false :=
  ⟨fun _ => ⟨rfl, rfl⟩, fun _ => reads1 rfl, reads1 rfl, reads2 rfl rfl, reads2 rfl rfl, by decide +kernel⟩
/-- The example after R309, step 1. -/
theorem test_stpin : let s := after (exec (.stpin 3 4) (list7 0))
    Says.reg s 3 = 0x4000002800000007 ∧ (s.listHdr 0 5).word = 0x0000003D00000007 ∧ ((s.listHdr 0 5).slot 0).pins = 1 := by decide +kernel
/-- Steps 4 and 6: row 62 of version 8 is D's row 1; version 7 ends at row 60. -/
theorem test_stlook : Says.reg (after (exec (.stlook 3 4 9) (arena 0 8 8 65 [p0, p1, pD]))) 3 = 0x5000001C00 ∧
    Says.reg (after (exec (.stlook 3 6 9) (list7 1))) 3 = -23 := by decide +kernel

/-- A request block at address 0: it appends D at row 61. -/
def appendD : List (Nat × Byte) := [(0, 61), (8, 1)] ++ ((memSets [] 32 pD.bytes))
/-- The list with that block there, g5 = 0, and `n` blocks in the arena. -/
def splicing (n : Nat) (m : List (Nat × Byte)) : State :=
  let s := arena 1 n 7 61 [p0, p1] m
  s.setCore (s.core.setReg 5 0)
def reqD : SpliceReq := ⟨61, 0, 0, false, 0, [pD]⟩
/-- A piece that no live version holds, posted to the queue of core 0 at 0x3000. -/
def gone : Retired := ⟨0, 5, 9, 0x5000001E00, 2, 0x200, false, false, 0, true⟩
def reclaiming : State :=
  let s := gr id 0
  let s1 : State := s.setPart 0 { s.part 0 with retired := [gone] }
  s1.setCore { s1.core with rclq := ⟨0x3000, 4, 0, 1⟩ }
theorem meets_StitchInstructions_splices : Says.Free (splicing 8 appendD) ∧ Says.Reads (splicing 8 appendD) [4, 5] [5, 0] (splicing 8 appendD) ∧
    Says.Reads (splicing 8 []) [4, 8] [5, 6] (splicing 8 []) ∧
    (splicing 8 appendD).listOf 0 5 = .ok 5 ∧ (splicing 8 []).spliceReq 8 = none ∧ (splicing 8 appendD).spliceReq 0 = some reqD ∧
    (splicing 8 []).spliceReq 6 = none ∧ noArena.listOf 0 5 = .error (-16) ∧
    ((splicing 8 appendD).core.loads = [] ∧ (splicing 8 appendD).core.stores = []) ∧
    (let s := splicing 8 ((0, 61) :: (8, 0x61) :: memSets [] 32 pD.bytes)
     s.spliceReq 0 = some { reqD with scope := 3 } ∧ 2 ≤ (3 : BitVec 3).toNat ∧ (s.setCore { s.core with stores := [stOp] }).core.stores ≠ []) ∧
    (let s := splicing 8 ((0, 61) :: (8, 1) :: (9, 1) :: (12, 6) :: memSets [] 32 pD.bytes)
     s.spliceReq 0 = some ⟨61, 0, 0, true, 6, [pD]⟩ ∧ (s.listHdr 0 5).ver ≠ 6) ∧
    (let s := splicing 8 ((0, 62) :: (8, 1) :: memSets [] 32 pD.bytes)
     s.spliceReq 0 = some { reqD with index := 62 } ∧ (s.listHdr 0 5).len < 62 + 0) ∧
    (reqD.chk = true → ((splicing 8 appendD).listHdr 0 5).ver = reqD.expv) ∧ 61 + 0 ≤ ((splicing 8 appendD).listHdr 0 5).len ∧
    ((splicing 8 appendD).listHdr 0 5).newSlot = some 1 ∧ Memory.wf (splicing 8 appendD) = true ∧
    (⟨7, 61, 0, List.replicate 8 ⟨0, 1, true⟩⟩ : ListHdr).newSlot = none ∧
    reclaiming.nextReclaim reclaiming.input.p = some gone :=
  ⟨⟨rfl, rfl⟩, reads2 rfl rfl, reads2 rfl rfl, by decide +kernel, by decide +kernel, by decide +kernel, by decide +kernel, by decide +kernel,
    ⟨rfl, rfl⟩, by decide +kernel, by decide +kernel, by decide +kernel, by decide +kernel⟩
theorem meets_StitchInstructions_posts : ∃ s2 q, (reclaiming.setPart 0 { reclaiming.part 0 with retired := [] }).post 0
    ((reclaiming.rclqOf 0 gone.core).getD Ring.zero) gone.record = .posted s2 q := ⟨_, _, rfl⟩
/-- Step 10: the reclaim record's piece, and MARK 9. -/
theorem test_reclaim : let m := (after (exec .reclaimRecordPost reclaiming)).mem
    (memDword m 0x3020, memDword m 0x3028, memDword m 0x3030, memDword m 0x3038) =
      (0x0000005000001E00, 0x0000020000000002, 5, 9) := by decide +kernel
end Sys2Proof.Tests

namespace Sys2Proof.Tests

/-- A partition with larder slot 2, sampler 1 and its program slot 3; slot 2 has a header of STEP 9, HLEN 4 and VOCAB 8; a bind block
at address 0 names a program of one word, `w`, at 0x40; g4 = 2, g5 = 0, g6 = 3. -/
def seqs (w : Word32) (l : List LBind) : State :=
  let s := gr id 0 ((0, 0x40) :: (8, 0x01) :: (9, 0x32) :: memSets [] 0x40 (leBytes 4 w.toNat))
  let s1 : State := s.setPart 0 { s.part 0 with grants := { (s.part 0).grants with larder := [2], samplers := [1], pslots := [(1, 3)] } }
  { s1.setCore (withRegs [(4, 2), (6, 3)] s1.core) with
    larder := l, mem := memSets (memSets (memSets s1.mem (larderAt 2 + 8) [9]) (larderAt 2 + 16) [4]) (larderAt 2 + 24) [8] }
/-- The slot's binding, and a run of it at sampler 1. -/
def bindA : LBind := ⟨2, 0, 1, 3⟩
def running : State :=
  { seqs 0x58000000 [bindA] with smps := (seqs 0 []).smps.set 1 { Sampler.zero with items := [⟨0, 0, 0, 0, 0, 2, 1, [], some 0, none⟩] } }
theorem meets_SequenceBindings : Says.Free (seqs 0x58000000 []) ∧ Says.Reads (seqs 0x58000000 []) [4, 5] [2, 0] (seqs 0x58000000 []) ∧
    Says.Reads (seqs 0x58000000 []) [6, 5] [3, 0] (seqs 0x58000000 []) ∧ Says.Reads (seqs 0x58000000 []) [4] [2] (seqs 0x58000000 []) ∧
    Says.Reads addrs [4] [0x0200000000000000] addrs ∧ 2 ^ 57 ≤ (0x0200000000000000 : Word).toNat ∧
    ((seqs 0x58000000 []).larderSlot 3 = none ∧ (seqs 0x58000000 []).larderSlot 2 = some 2 ∧ (seqs 0x58000000 [bindA]).lbind 2 ≠ none ∧
      (seqs 0x58000000 []).lbind 2 = none ∧ ∀ o ∈ (seqs 0x58000000 []).larder, ¬ (o.smp = 1 ∧ o.pslot = 3)) ∧
    (let blk := memGets (seqs 0x58000000 []).mem 0 32
     (seqs 0x58000000 []).readCore 0 32 = .ok blk ∧ ((dwordAt blk 1).extractLsb' 0 9).toNat = 1 ∧ (dwordAt blk 0).toNat < 2 ^ 57 ∧
     (dwordAt blk 0).toNat % 4 = 0 ∧ (dwordAt blk 1).toNat < 2 ^ 18 ∧ dwordAt blk 2 = 0 ∧ dwordAt blk 3 = 0 ∧
     (seqs 0x58000000 []).readCore (dwordAt blk 0).toNat 4 = .ok [0, 0, 0, 0x58]) ∧
    (let g := ((seqs 0x58000000 []).part 0).grants
     g.samplers.contains 1 = true ∧ g.pslots.contains (1, 3) = true) ∧
    headerOk ((seqs 0x58000000 []).viewBytes (larderAt 2) 64) = true ∧ logitExamine [0x58000000] = none ∧
    logitExamine [0] = some (1, 0) ∧ running.smps.any (·.uses 2 true) = true ∧ running.smps.any (·.uses 2 false) = true ∧
    ((seqs 0x58000000 [bindA]).smps.any (·.uses 2 false) = false ∧ (∀ c ∈ (seqs 0 []).cores.toList, c.stores = []) ∧
      (seqs 0 []).core.tx = none) :=
  ⟨⟨rfl, rfl⟩, reads2 rfl rfl, reads2 rfl rfl, reads1 rfl, reads1 rfl, by decide +kernel, by decide +kernel, by decide +kernel, by decide +kernel⟩
/-- R414: the state word of a bound slot. -/
theorem test_seqstep : Says.reg (after (exec (.seqstep 3 4) (seqs 0x58000000 [bindA]))) 3 = 0x0330000400000009 := by decide +kernel
/-- R413: a program whose word 0 holds a reserved opcode. -/
theorem test_seqbind : Says.reg (after (exec (.seqbind 3 4 5) (seqs 0 []))) 3 = 0xC000000000000001 ∧
    Says.reg (after (exec (.seqbind 3 4 5) (seqs 0x58000000 []))) 3 = 0 := by decide +kernel

/-- The region's checkpoints go to vault 0, when the partition has it. -/
def ckpting (v : Bool) (f : Region → Region) : State :=
  let s := gr f 0
  let s1 : State := s.setPart 0 { s.part 0 with grants := { (s.part 0).grants with vaults := if v then [0] else [] } }
  s1.setCore { s1.core with ckptBase := 0x10000000 }
/-- A copy of core 1 that is withheld, and the same hold posted and named by g5. -/
def hold1 (stuck : Bool) : Hold := ⟨.copy 1 0, 1, 0, 0x2000, true, .unmapped, 0, true, stuck, 87500⟩
def holding1 : State :=
  let s := gr id (hold1 true).word
  { s.setCoreAt 1 { s.cores[(1 : Fin 64)] with part := some 0, copies := [copyOp] } with holds := [hold1 true] }
/-- A watched region with a token queued. -/
def stalled : State :=
  let s := gr (fun r => { r with quiet := 256 }) 0
  { s.setCore { s.core with hangEn := 1, hangIval := 1 } with
    tiles := [{ Tile.zero ⟨0, 0, 0⟩ with cfgs := [(0, oneWord 0 0)], slots := [{ Slot.zero 0 0 with phase := 1 }] }] }
theorem meets_CheckpointsAndHolds : (∀ v, Says.Free (ckpting v id)) ∧
    (∀ v, Says.Reads (ckpting v id) [4] [(oneTile ⟨0, 0, 0⟩).handle] (ckpting v id)) ∧
    Says.Reads holding1 [5] [(hold1 true).word] holding1 ∧
    (let r := rg fun r => { r with live := [{ launch3 with copies := 1 }] }
     let s := gr (fun r => { r with live := [{ launch3 with copies := 1 }] }) 0
     s.graphMine (oneTile ⟨0, 0, 0⟩).handle = .ok r ∧ ∃ x, (s.drainStart r 0x01).region 0 0 = some x ∧ x.live ≠ []) ∧
    ((ckpting true id).graphMine (oneTile ⟨0, 0, 0⟩).handle = .ok (rg id) ∧ (ckpting true id).mayPut 3 = true ∧
      (rg id).live = [] ∧ (rg id).draining = false ∧
      (launches 3).graphMine (oneTile ⟨0, 0, 0⟩).handle = .ok launchesR ∧ (launches 3).mayPut 3 = true ∧ launchesR.live ≠ [] ∧
      (ckpting false id).mayPut 3 = true ∧ ((ckpting false id).checkpoint (rg id)).1 = none ∧
      (gr id 9).graphMine 9 = .error hBADHANDLE) ∧
    (holding1.holderOk (hold1 true).word = true ∧ holding1.refuses (hold1 true) = false ∧
      (holding1.holds.filter fun x => x.word == (hold1 true).word && x.stuck && !holding1.holdDrains x) = [hold1 true]) ∧
    ((gr id 9).holderOk 0xFFFFFFFF = false ∧ (∀ r ∈ holding1.regions, r.draining = false) ∧
      (holding1.holds.filter (·.stuck))[holding1.input.index]? = some (hold1 true) ∧ holding1.cores[(1 : Fin 64)].part = some 0 ∧
      (holding1.part 0).pre ≠ .halted ∧ holding1.cores[(1 : Fin 64)].copies.find? (·.serial = 0) = some copyOp) ∧
    Says.regionNow stalled = some (rg fun r => { r with quiet := 256 }) ∧ stalled.hangable (rg fun r => { r with quiet := 256 }) = true :=
  ⟨fun _ => ⟨rfl, rfl⟩, fun _ => reads1 rfl, reads1 rfl, ⟨by decide +kernel, ⟨_, rfl, by decide +kernel⟩⟩, by decide +kernel,
    by decide +kernel, by decide +kernel, by decide +kernel⟩
theorem test_resume : (after (exec (.resume 5) holding1)).holds = [] := by decide +kernel
theorem test_hang : let s := after (exec .hangDeclared stalled)
    s.core.hung = 1 ∧ s.regions.map (fun r => (r.frozen, r.hung)) = [(true, true)] := by decide +kernel

end Sys2Proof.Tests

namespace Sys2Proof.Tests

/-- Partition 0 has vault 0 alone, and no arena. -/
def VaultOwner (s : State) : Prop := (s.part 0).grants.vaults = [0] ∧ (s.part 0).arena = none

theorem vault_granted {s : State} (h : VaultOwner s) {a n : Nat} (lo : vaultBase ≤ a) (hi : a < vaultBase + 2 ^ 25) :
    s.granted 0 .vault a n true = true := by
  have h1 : (a - vaultBase) / 2 ^ 25 = 0 := by omega
  simp only [State.granted, State.inArena, h.1, h.2, h1]; simp

theorem vault_resolve {s : State} (h : VaultOwner s) {a n : Nat} (lo : vaultBase ≤ a) (hi : a < vaultBase + 2 ^ 25) :
    s.resolve 0 areaWindows a n .write = .ok a := by
  have h2 : a < vaultBase + 2 ^ 32 := Nat.lt_of_lt_of_le hi (Nat.add_le_add_left (Nat.pow_le_pow_right (by decide) (by decide)) _)
  have w : windowOf a = some .vault := (if_neg (Nat.not_lt.2 lo)).trans (if_pos h2)
  have g := vault_granted h lo hi (n := n)
  have b : (areaWindows.contains .vault && (Window.vault != .peer) && s.granted 0 .vault a n (Need.write != .read)) = true := by
    rw [show (Need.write != .read) = true from rfl, g]; rfl
  simp only [State.resolve, w]
  exact if_pos b

theorem vault_check {s : State} (h : VaultOwner s) : ∀ (l : List (Nat × Nat)), (∀ q ∈ l, vaultBase ≤ q.1 ∧ q.1 < vaultBase + 2 ^ 25) →
    ∃ hs, s.check 0 areaWindows .write l = .ok hs := by
  intro l
  induction l with
  | nil => intro _; exact ⟨[], rfl⟩
  | cons q l ih =>
    intro hq
    obtain ⟨hs, e⟩ := ih fun x hx => hq x (by simp [hx])
    have r := vault_resolve h (hq q (by simp)).1 (hq q (by simp)).2 (n := q.2)
    exact ⟨(q.1, q.1, q.2) :: hs, by simp only [State.check, r, e]⟩

theorem chunks_within : ∀ (fuel va n : Nat), ∀ q ∈ chunksFrom va fuel n, va ≤ q.1 ∧ q.1 < va + n ∧ q.1 + q.2 ≤ va + n := by
  intro fuel
  induction fuel with
  | zero => intro va n q hq; simp [chunksFrom] at hq
  | succ k ih =>
    intro va n q hq
    cases n with
    | zero => simp [chunksFrom] at hq
    | succ n =>
      have m : Nat.min (n + 1) (64 - va % 64) ≤ n + 1 := Nat.min_le_left _ _
      rw [chunksFrom] at hq
      · generalize Nat.min (n + 1) (64 - va % 64) = j at m hq
        rcases List.mem_cons.1 hq with rfl | hq
        · exact ⟨Nat.le_refl _, by simp only; omega, by simp only; omega⟩
        · have := ih _ _ q hq; omega
      · simp

theorem pieces_owner : ∀ (l : List (Nat × Nat × Nat)) (s : State) base bytes, VaultOwner s →
    VaultOwner (s.writePieces none base bytes l) := by
  intro l
  induction l with
  | nil => intro s _ _ h; exact h
  | cons q l ih => intro s b bs h; exact ih _ b bs (by unfold VaultOwner State.part at *; rwa [State.writeAs_parts])

theorem vault_write {base : Nat} {bytes : List Byte} : ∀ (l : List (Nat × Nat)) (s : State), VaultOwner s →
    (∀ q ∈ l, vaultBase ≤ q.1 ∧ q.1 + q.2 ≤ vaultBase + 2 ^ 25) →
    ∃ s1, s.writeUntil 0 l base bytes = (s1, true) ∧ VaultOwner s1 := by
  intro l
  induction l with
  | nil => intro s h _; exact ⟨s, rfl, h⟩
  | cons q l ih =>
    obtain ⟨va, n⟩ := q
    intro s h hq
    have b := hq (va, n) (by simp)
    have len : ((bytes.drop (va - base)).take n).length ≤ n := by simp
    obtain ⟨hs, e⟩ := vault_check h (chunks va ((bytes.drop (va - base)).take n).length) fun x hx => by
      have := chunks_within _ _ _ x hx; simp only at b; omega
    obtain ⟨s1, e1, h1⟩ := ih _ (pieces_owner hs s va ((bytes.drop (va - base)).take n) h) fun q hq' => hq q (by simp [hq'])
    exact ⟨s1, by simp only [State.writeUntil, State.writeV, e]; exact e1, h1⟩

theorem area_write {s : State} (h : VaultOwner s) {va : Nat} {bytes : List Byte} (lo : vaultBase ≤ va)
    (hi : va + bytes.length ≤ vaultBase + 2 ^ 25) : ∃ s1, s.writeArea 0 va bytes = (s1, true) ∧ VaultOwner s1 :=
  vault_write _ s h fun q hq => by have := chunks_within _ _ _ q hq; omega

theorem areas_written : ∀ (l : List (Nat × List Byte)) (s : State), VaultOwner s →
    (∀ q ∈ l, vaultBase ≤ q.1 ∧ q.1 + q.2.length ≤ vaultBase + 2 ^ 25) → (s.writeAreas 0 l).2 = true := by
  intro l
  induction l with
  | nil => intro s _ _; rfl
  | cons q l ih =>
    intro s h hq
    obtain ⟨s1, e, h1⟩ := area_write h (hq q (by simp)).1 (hq q (by simp)).2
    simp only [State.writeAreas, e, if_true]
    exact ih s1 h1 fun x hx => hq x (by simp [hx])

theorem checkpoint_written {s : State} {r : Region} (h : VaultOwner s) (p : r.part = 0) (a : s.ckptAddr r = vaultBase)
    (u : r.ckptUnits = 1) : (s.checkpoint r).1 = some (r.ckGen + 1) := by
  have hl : ∀ g s c n, (ckptHeader g s c n).length ≤ 64 := by intro g s c n; simp [ckptHeader, leBytes]
  have la : (s.ckptArea r).length ≤ 0x10000 := by simp only [State.ckptArea, List.length_map, List.length_range, u]; omega
  have w := areas_written (s.ckptWrites r) { s with fresh := s.fresh + 1 } h (by
    intro q hq
    simp only [State.ckptWrites, List.mem_cons, List.not_mem_nil, or_false, a] at hq
    rcases hq with rfl | rfl | rfl | rfl <;> simp only [Nat.le_refl, true_and, Nat.le_add_right]
    · have := hl 0 r.serial 0 r.ckptUnits; omega
    · omega
    · have := hl 0 r.serial (crc32c (s.ckptArea r)) r.ckptUnits; omega
    · have := hl (r.ckGen + 1) r.serial (crc32c (s.ckptArea r)) r.ckptUnits; omega)
  simp only [State.checkpoint, p, w, if_true]

/-- A checkpoint whose area lies in the partition's vault is written. -/
theorem meets_CheckpointsAndHolds_saves : ((ckpting true id).checkpoint (rg id)).1 = some 1 :=
  checkpoint_written ⟨by decide +kernel, by decide +kernel⟩ rfl (by decide +kernel) (by decide +kernel)

end Sys2Proof.Tests

/-! ## Stations -/

namespace Sys2Proof.Tests

/-- The tile that receives what a station under test sends, and its edges: output `o` to port `o` of `far`. -/
def far : TileId := ⟨0, 2, 0⟩
def stEdges (t : TileId) (st : Nat) (net : BitVec 2) : List Edge :=
  (List.range 4).map fun o => ⟨BitVec.ofNat 12 o, 0, false, net, 1, false, false, false, 0, 0, t, st, o, far, o, 0⟩
def stReg (t : TileId) (st : Nat) (net : BitVec 2) : Region := { oneTile t with tiles := [t, far], edges := stEdges t st net }
/-- Four stations of `far` that take port a. -/
def farWords : CfgBlock := { oneWord 0 0 with used := 15, ops := List.replicate 4 ((encodeStation (.vbcast ⟨0, 4, 0, 1, 0, 0⟩)).getD 0) }
/-- Station `st` of tile `t` holds the word of `i`, with its outputs on a network; the tile is changed by `g`. -/
def onSta (i : Instr) (t : TileId) (st : Nat) (net : BitVec 2) (g : Tile → Tile) : State :=
  { regs [] with
    regions := [stReg t st net]
    tiles := [g { Tile.zero t with cfgs := [(0, oneWord st ((encodeStation i).getD 0))] }, { Tile.zero far with cfgs := [(0, farWords)] }]
    tile := t
    st := st }
/-- The same station as acting. -/
def acting (i : Instr) (f : StF) (t : TileId) (st : Nat) (net : BitVec 2) : Sta :=
  ⟨stReg t st net, t, st, f, oneWord st ((encodeStation i).getD 0)⟩
/-- What the receiving tile gets: station and token. -/
def outs (o : Out) : List (Nat × Token) := (after o).flight.map fun q => (q.st, q.tok)
/-- Station 0 of MT-free tile 0.00.00, with its tokens by port, or a ready set of them. -/
def t0 : TileId := ⟨0, 0, 0⟩
def heads (l : List (Nat × Token)) (x : Tile) : Tile := { x with queue := l.map fun e => ⟨0, e.1, e.2⟩ }
def set (l : List (Nat × Token)) (x : Tile) : Tile := { x with ready := [⟨0, l⟩] }
/-- A word on port `p`, of launch 0 and iteration `k`. -/
def dat (k : BitVec 24) (w : Word) : Token := tokS 0 k .data w
def vec (l : List W48) : Token := tokV 0 0 .data l

/-- Station fields with one to three token ports and every output, by AUX. -/
def two (aux : BitVec 8) : StF := ⟨0, 6, 0, 15, 0, aux⟩
def one (aux : BitVec 8) : StF := ⟨0, 4, 0, 15, 0, aux⟩
def three (aux : BitVec 8) : StF := ⟨0, 7, 0, 15, 0, aux⟩

def iaddS (l : List (Nat × Token)) : State := onSta (.iadd (two 0)) t0 0 0 (set l)
def iaddX : Sta := acting (.iadd (two 0)) (two 0) t0 0 0
theorem ready_iadd (l : List (Nat × Token)) : Says.Ready (iaddS l) (two 0) iaddX := ⟨rfl, rfl, rfl, rfl, rfl, rfl, rfl⟩
theorem meets_StationResults : (∃ s1, Says.Takes (iaddS [(0, dat 3 5), (1, dat 3 7)]) (two 0) iaddX [(0, dat 3 5), (1, dat 3 7)] s1) ∧
    (∀ e ∈ [(0, dat 3 5), (1, dat 3 7)], e.2.kind = .data) ∧
    (∃ s1, Says.Takes (onSta (.fadd (two 0)) t0 0 0 (set [(0, dat 3 5), (1, dat 3 7)])) (two 0) (acting (.fadd (two 0)) (two 0) t0 0 0)
      [(0, dat 3 5), (1, dat 3 7)] s1) ∧
    (∃ s1, Says.Takes (onSta (.vred (one 0)) t0 0 0 (heads [(0, vec (List.replicate 16 0))])) (one 0)
      (acting (.vred (one 0)) (one 0) t0 0 0) [(0, vec (List.replicate 16 0))] s1) ∧ (∀ e ∈ [(0, vec (List.replicate 16 0))], e.2.kind = .data) :=
  ⟨⟨_, ⟨ready_iadd _, by decide +kernel⟩, rfl⟩, by decide, ⟨_, ⟨⟨rfl, rfl, rfl, rfl, rfl, rfl, rfl⟩, by decide +kernel⟩, rfl⟩,
    ⟨_, ⟨⟨rfl, rfl, rfl, rfl, rfl, rfl, rfl⟩, by decide +kernel⟩, rfl⟩, by decide⟩
theorem test_iadd : outs (exec (.iadd (two 0)) (iaddS [(0, dat 3 5), (1, dat 3 7)])) = [(0, dat 3 12), (1, dat 3 12), (2, dat 3 12), (3, dat 3 12)] := by
  decide +kernel

/-- An ERROR, and a station whose receiver is full. -/
def err0 : ErrInfo := ⟨7, ⟨1, 2, 3⟩, 0x0E⟩
def fullS : State :=
  let s := iaddS [(0, dat 3 5), (1, dat 3 7)]
  { s with flight := List.replicate 4 ⟨0, none, far, 0, 0, dat 0 0, [], none, 0⟩ }
theorem meets_StationRows : Says.Ready fullS (two 0) iaddX ∧ fullS.outCredit iaddX.r iaddX.t iaddX.st none = false ∧
    (let s := onSta (.iadd (two 0)) t0 0 0 id
     Says.Ready s (two 0) iaddX ∧ s.nextSet iaddX (portsOf (two 0)) = none) ∧
    (∀ q, (iaddS q).outCredit iaddX.r iaddX.t iaddX.st none = true) ∧
    (∃ s1, (iaddS [(0, dat 3 5), (1, tokE 0 3 err0)]).nextSet iaddX (portsOf (two 0)) = some ([(0, dat 3 5), (1, tokE 0 3 err0)], s1)) ∧
    (∃ s1, (iaddS [(0, dat 3 5), (1, tokS 0 3 .key 0)]).nextSet iaddX (portsOf (two 0)) = some ([(0, dat 3 5), (1, tokS 0 3 .key 0)], s1)) ∧
    (∃ s1, (iaddS [(0, tokStop 0 3 2), (1, tokStop 0 3 2)]).nextSet iaddX (portsOf (two 0)) = some ([(0, tokStop 0 3 2), (1, tokStop 0 3 2)], s1)) ∧
    (∃ s1, (iaddS [(0, dat 3 5), (1, tokStop 0 3 2)]).nextSet iaddX (portsOf (two 0)) = some ([(0, dat 3 5), (1, tokStop 0 3 2)], s1)) ∧
    (∀ n, ∃ e ∈ [(0, dat 3 5), (1, tokStop 0 3 2)], e.2.kind.level ≠ n) :=
  ⟨⟨rfl, rfl, rfl, rfl, rfl, rfl, rfl⟩, by decide +kernel, ⟨⟨rfl, rfl, rfl, rfl, rfl, rfl, rfl⟩, rfl⟩, fun _ => by rfl, ⟨_, rfl⟩, ⟨_, rfl⟩, ⟨_, rfl⟩,
    ⟨_, rfl⟩, fun n => by
      by_cases h : n = 0
      · exact ⟨(1, tokStop 0 3 2), by simp, by subst h; decide⟩
      · exact ⟨(0, dat 3 5), by simp, fun e => h (by simpa [dat, tokS, Kind.level] using e.symm)⟩⟩
/-- R33: a mixture of DATA and STOP gives ERROR STOPMIS of this tile; two STOPs of a level give one. -/
theorem test_stopmis : (outs (exec (.iadd (two 0)) (iaddS [(0, dat 3 5), (1, tokStop 0 3 2)]))).head? = some (0, tokE 0 3 ⟨0, t0, 0x03⟩) ∧
    (outs (exec (.iadd (two 0)) (iaddS [(0, tokStop 0 3 2), (1, tokStop 0 3 2)]))).head? = some (0, tokStop 0 3 2) := by decide +kernel
end Sys2Proof.Tests

namespace Sys2Proof.Tests

/-- The conditions of a firing on tile 0.00.00, which hold by computation. -/
theorem fires {s : State} {f : StF} {x : Sta} (h : s.sta? f = some x) (h1 : (s.tileAt s.tile).broken = false) (h2 : x.r.hung = false)
    (h3 : s.blocked s.tile s.st = false) (h4 : (s.part x.r.part).pre = .running) (h5 : (s.tileAt s.tile).wideAt s.st = none)
    (h6 : (s.tileAt s.tile).aborted = false) (h7 : s.outCredit x.r x.t x.st none = true) : Says.Fires s f x :=
  ⟨⟨h, h1, h2, h3, h4, h5, h6⟩, h7⟩

/-- A station with heads, and slots of launch 0. -/
def routeS (i : Instr) (l : List (Nat × Token)) (sl : List Slot) : State := onSta i t0 0 0 fun x => { heads l x with slots := sl }
/-- A station's slot for launch 0 in a phase, with a held token and a count. -/
def slot0 (ph : Nat) (h : Option Token) (c : Nat) : Slot := { Slot.zero 0 0 with phase := ph, held := h, cnt := c }
theorem meets_RoutingStations_sets :
    (∃ s1, Says.Takes (onSta (.steer (two 0)) t0 0 0 (set [(0, dat 3 5), (1, dat 3 7)])) (two 0) (acting (.steer (two 0)) (two 0) t0 0 0)
      [(0, dat 3 5), (1, dat 3 7)] s1) ∧
    (∃ s1, Says.Takes (onSta (.tagnew ⟨0, 4, 3, 15, 0, 0⟩) t0 0 0 (heads [(0, dat 3 5)])) ⟨0, 4, 3, 15, 0, 0⟩
      (acting (.tagnew ⟨0, 4, 3, 15, 0, 0⟩) ⟨0, 4, 3, 15, 0, 0⟩ t0 0 0) [(0, dat 3 5)] s1 ∧
      (⟨0, 4, 3, 15, 0, 0⟩ : StF).k.toNat + (s1.slot t0 0 0).tagc < 0xFFFFFE) :=
  ⟨⟨_, fires rfl rfl rfl rfl rfl rfl rfl (by decide +kernel), rfl⟩,
    ⟨_, ⟨fires rfl rfl rfl rfl rfl rfl rfl (by decide +kernel), rfl⟩, by decide +kernel⟩⟩
/-- One tag overflows exactly at 0xFFFFFE (R212). -/
theorem test_tagset : outs (exec (.tagset (two 0)) (onSta (.tagset (two 0)) t0 0 0 (set [(0, dat 3 5), (1, dat 3 0xFFFFFD)]))) =
      (List.range 4).map (fun o => (o, dat 0xFFFFFD 5)) ∧
    outs (exec (.tagset (two 0)) (onSta (.tagset (two 0)) t0 0 0 (set [(0, dat 3 5), (1, dat 3 0xFFFFFE)]))) =
      (List.range 4).map (fun o => (o, tokE 0 3 ⟨0, t0, 0x05⟩)) := by decide +kernel
theorem meets_RoutingStations_heads :
    (let s := routeS (.merge (two 0)) [(1, dat 3 5)] []
     let x := acting (.merge (two 0)) (two 0) t0 0 0
     Says.HasHead s (two 0) x 1 (dat 3 5) ∧ 1 ∈ portsOf (two 0) ∧ (∀ k ∈ portsOf (two 0), k ≠ 1 → s.hd x k = none)) ∧
    (let s := routeS (.cmerge (three 0)) [(2, dat 3 0), (0, dat 3 5)] []
     let x := acting (.cmerge (three 0)) (three 0) t0 0 0
     Says.HasHead s (three 0) x 2 (dat 3 0) ∧ s.hd x (if (dat 3 0).pay.word ≠ 0 then 1 else 0) = some (dat 3 5)) ∧
    (let s := routeS (.carry (three 0)) [(0, dat 3 5)] []
     let x := acting (.carry (three 0)) (three 0) t0 0 0
     Says.HasHead s (three 0) x 0 (dat 3 5) ∧ s.hd x 2 = none ∧ (s.slot x.t x.st 0).phase = 0) ∧
    (∀ w, let s := routeS (.carry (three 0)) [(2, dat 3 w), (1, dat 3 5)] [slot0 1 none 0]
     let x := acting (.carry (three 0)) (three 0) t0 0 0
     Says.HasHead s (three 0) x 2 (dat 3 w) ∧ (s.slot x.t x.st 0).phase = 1 ∧ s.hd x 0 = none ∧ s.hd x 1 = some (dat 3 5)) ∧
    (let s := routeS (.invar (two 0)) [(0, dat 3 5)] []
     let x := acting (.invar (two 0)) (two 0) t0 0 0
     Says.HasHead s (two 0) x 0 (dat 3 5) ∧ s.hd x 1 = none ∧ (s.slot x.t x.st 0).phase = 0) ∧
    (∀ w, let s := routeS (.invar (two 0)) [(1, dat 4 w)] [slot0 1 (some (dat 3 5)) 0]
     let x := acting (.invar (two 0)) (two 0) t0 0 0
     Says.HasHead s (two 0) x 1 (dat 4 w) ∧ s.hd x 0 = none ∧ (s.slot x.t x.st 0).phase = 1 ∧ (s.slot x.t x.st 0).held = some (dat 3 5)) :=
  ⟨⟨⟨fires rfl rfl rfl rfl rfl rfl rfl (by decide +kernel), rfl⟩, by decide, by decide +kernel⟩,
    ⟨⟨fires rfl rfl rfl rfl rfl rfl rfl (by decide +kernel), rfl⟩, rfl⟩,
    ⟨⟨fires rfl rfl rfl rfl rfl rfl rfl (by decide +kernel), rfl⟩, rfl, rfl⟩,
    fun _ => ⟨⟨fires rfl rfl rfl rfl rfl rfl rfl rfl, rfl⟩, rfl, rfl, rfl⟩,
    ⟨⟨fires rfl rfl rfl rfl rfl rfl rfl (by decide +kernel), rfl⟩, rfl, rfl⟩,
    fun _ => ⟨⟨fires rfl rfl rfl rfl rfl rfl rfl rfl, rfl⟩, rfl, rfl, rfl⟩⟩
theorem test_carry : let i := Instr.carry (three 0)
    (outs (exec i (routeS i [(2, dat 3 1), (1, dat 3 5)] [slot0 1 none 0]))).head? = some (0, dat 3 5) ∧
    outs (exec i (routeS i [(2, dat 3 0), (1, dat 3 5)] [slot0 1 none 0])) = [] := by decide +kernel

/-- A sink of two events with launch 0 live, which has counted `k`. -/
def live0 : Live := ⟨0, 3, Vector.replicate 4 0, Counter.zero, 4, 0, none, [], [], none, false⟩
def sinkS (k : Nat) (t : Token) : State :=
  { onSta (.sink (one 2)) t0 0 0 (fun x => { heads [(0, t)] x with slots := [slot0 0 none k] }) with
    regions := [{ stReg t0 0 0 with live := [live0] }] }
def sinkX : Sta := { acting (.sink (one 2)) (one 2) t0 0 0 with r := { stReg t0 0 0 with live := [live0] } }
theorem meets_RoutingStations_counts :
    (let s := routeS (.lim (three 1)) [(1, dat 3 5)] []
     let x := acting (.lim (three 1)) (three 1) t0 0 0
     Says.Fires s (three 1) x ∧ s.hd x 2 = none ∧ s.hd x 1 = some (dat 3 5)) ∧
    (∀ c < 2, let s := routeS (.lim (three 1)) [(0, dat 3 5)] [slot0 0 none c]
     let x := acting (.lim (three 1)) (three 1) t0 0 0
     Says.Fires s (three 1) x ∧ s.hd x 2 = none ∧ s.hd x 1 = none ∧ s.hd x 0 = some (dat 3 5) ∧ s.limOcc x = c) ∧
    (∀ k, Says.Ready (sinkS k (dat 3 5)) (one 2) sinkX ∧ (sinkS k (dat 3 5)).hd sinkX 0 = some (dat 3 5) ∧
      ((sinkS k (dat 3 5)).slot sinkX.t sinkX.st 0).cnt = k) ∧
    (sinkS 0 (tokStop 0 3 1)).hd sinkX 0 = some (tokStop 0 3 1) ∧ (∃ l ∈ sinkX.r.live, l.seq = 0) ∧
    (let s := onSta (.dup ⟨0, 4, 3, 15, 0, 0⟩) t0 0 0 fun x => { x with slots := [slot0 0 (some (dat 3 5)) 2] }
     Says.Fires s ⟨0, 4, 3, 15, 0, 0⟩ (acting (.dup ⟨0, 4, 3, 15, 0, 0⟩) ⟨0, 4, 3, 15, 0, 0⟩ t0 0 0) ∧
     (s.tileAt t0).slots.find? (fun z => z.st == 0 && z.held.isSome) = some (slot0 0 (some (dat 3 5)) 2)) ∧
    (∃ s, Says.HasHead s ⟨0, 4, 3, 15, 0, 0⟩ (acting (.tagrst ⟨0, 4, 3, 15, 0, 0⟩) ⟨0, 4, 3, 15, 0, 0⟩ t0 0 0) 0 (dat 9 5)) :=
  ⟨⟨fires rfl rfl rfl rfl rfl rfl rfl (by decide +kernel), rfl, rfl⟩,
    fun _ _ => ⟨fires rfl rfl rfl rfl rfl rfl rfl rfl, rfl, rfl, rfl, rfl⟩, fun _ => ⟨⟨rfl, rfl, rfl, rfl, rfl, rfl, rfl⟩, rfl, rfl⟩, rfl, ⟨live0, by simp [sinkX], rfl⟩,
    ⟨fires rfl rfl rfl rfl rfl rfl rfl (by decide +kernel), by decide +kernel⟩,
    ⟨routeS (.tagrst ⟨0, 4, 3, 15, 0, 0⟩) [(0, dat 9 5)] [], fires rfl rfl rfl rfl rfl rfl rfl (by decide +kernel), rfl⟩⟩
/-- R210: a sink counts up to its declared count. -/
theorem test_sink : (after (exec (.sink (one 2)) (sinkS 1 (dat 3 5)))).regions.map (fun r => r.live.map (·.lcc.count)) = [[1]] ∧
    (after (exec (.sink (one 2)) (sinkS 2 (dat 3 5)))).regions.map (fun r => r.live.map (·.lcc.count)) = [[0]] := by decide +kernel

theorem meets_StreamStations :
    (∃ s1, Says.Takes (onSta (.stopgen (two 1)) t0 0 0 (set [(0, dat 3 5), (1, dat 3 7)])) (two 1) (acting (.stopgen (two 1)) (two 1) t0 0 0)
      [(0, dat 3 5), (1, dat 3 7)] s1) ∧
    (∃ s1, Says.Takes (onSta (.stopadv (one 1)) t0 0 0 (heads [(0, tokStop 0 3 7)])) (one 1) (acting (.stopadv (one 1)) (one 1) t0 0 0)
      [(0, tokStop 0 3 7)] s1) ∧ (one 1).aux.toNat % 8 ≤ 7 ∧
    (∀ a b, let s := routeS (.intersect (two 0)) [(0, dat 3 a), (1, dat 4 b)] []
      let x := acting (.intersect (two 0)) (two 0) t0 0 0
      Says.HasHead s (two 0) x 0 (dat 3 a) ∧ s.hd x 1 = some (dat 4 b) ∧ (s.slot x.t x.st 0).tagc < 0xFFFFFE) :=
  ⟨⟨_, fires rfl rfl rfl rfl rfl rfl rfl (by decide +kernel), rfl⟩, ⟨_, fires rfl rfl rfl rfl rfl rfl rfl (by decide +kernel), rfl⟩, by decide,
    fun _ _ => ⟨⟨fires rfl rfl rfl rfl rfl rfl rfl rfl, rfl⟩, rfl, (by show (0 : Nat) < 0xFFFFFE; decide)⟩⟩
/-- The example of R216: a = 2, 5, 9, STOP1 and b = 5, 7, 9, 11, STOP1, one firing: 2 is passed over by intersect, and union
gives it with no b. -/
theorem test_union : let h := [(0, dat 0 2), (0, dat 1 5), (0, dat 2 9), (0, tokStop 0 3 1), (1, dat 0 5), (1, dat 1 7), (1, dat 2 9), (1, dat 3 11), (1, tokStop 0 4 1)]
    outs (exec (.intersect (two 0)) (routeS (.intersect (two 0)) h [])) = [] ∧
    outs (exec (.union_ (two 0)) (routeS (.union_ (two 0)) h [])) = [(0, dat 0 2), (1, dat 0 0), (2, dat 0 (-1))] := by decide +kernel
end Sys2Proof.Tests

namespace Sys2Proof.Tests

/-! ### Conversion -/

/-- An sd token of three digits, exponent −3 and a payload. -/
def sdTok (w : Word) : Token := ⟨0, 3, .data, .scalar w, (-3, 2)⟩
/-- A station of one port with its heads. -/
def sd (i : Instr) (_ : StF) (l : List (Nat × Token)) : State := onSta i t0 0 0 (heads l)
theorem meets_ConversionStations_sets :
    (∃ s1, Says.Takes (sd (.fcvt (one 0)) (one 0) [(0, dat 3 5)]) (one 0) (acting (.fcvt (one 0)) (one 0) t0 0 0) [(0, dat 3 5)] s1) ∧
    (∃ s1, Says.Takes (sd (.dsdec (one 0)) (one 0) [(0, sdTok 0x580000)]) (one 0) (acting (.dsdec (one 0)) (one 0) t0 0 0) [(0, sdTok 0x580000)] s1) ∧
    (∃ l, allSome (tokElems (sdTok 0x580000)) (fun w => sdDecode 3 (-3) (w.toNat % 2 ^ 24)) = some l) ∧
    allSome (tokElems (sdTok 0x800000)) (fun w => sdDecode 3 (-3) (w.toNat % 2 ^ 24)) = none :=
  ⟨⟨_, fires rfl rfl rfl rfl rfl rfl rfl (by decide +kernel), rfl⟩, ⟨_, fires rfl rfl rfl rfl rfl rfl rfl (by decide +kernel), rfl⟩,
    ⟨_, rfl⟩, by decide +kernel⟩
/-- The example of R231: 3, −0.75, 0.1875 and 0 under three digits have e = −3; dsdec gives 3 back. -/
def w3 : W48 := roundW48 (fvInt 3 0 false) 0
def dsS : State :=
  let s := routeS (.dsenc ⟨0, 4, 3, 15, 0, 0⟩) [(0, dat 3 ((wZero false).setWidth 64))] [{ Slot.zero 0 0 with buf :=
    [dat 0 (w3.setWidth 64), dat 1 ((roundW48 (fvInt (-3) (-2) false) 0).setWidth 64), dat 2 ((roundW48 (fvInt 3 (-4) false) 0).setWidth 64)] }]
  { s with regions := s.regions.map fun r => { r with edges := (stEdges t0 0 0).take 1 |>.map fun e => { e with blk := 4 } } }
theorem test_dsenc : (outs (exec (.dsenc ⟨0, 4, 3, 15, 0, 0⟩) dsS)).map (fun q => (q.2.pay.word, q.2.hdr)) =
    [(0x580000, (-3, 2)), (0x1F0000, (-3, 2)), (0x070000, (-3, 2)), (0, (-3, 2))] := by decide +kernel
theorem test_dsdec : ((outs (exec (.dsdec (one 0)) (sd (.dsdec (one 0)) (one 0) [(0, sdTok 0x580000)]))).head?.map (·.2.pay.word)) = some (w3.setWidth 64) := by
  decide +kernel
theorem meets_ConversionStations_heads :
    Says.HasHead (sd (.dsenc (one 0)) (one 0) [(0, dat 3 5)]) (one 0) (acting (.dsenc (one 0)) (one 0) t0 0 0) 0 (dat 3 5) ∧
    (let s := onSta (.vunpk (one 0)) t0 0 0 (heads [(0, vec (List.replicate 16 0))])
     Says.HasHead s (one 0) (acting (.vunpk (one 0)) (one 0) t0 0 0) 0 (vec (List.replicate 16 0)) ∧
       16 * (vec (List.replicate 16 0)).iter.toNat + 15 < 0xFFFFFE ∧ (∀ z ∈ (s.tileAt t0).slots, z.st = 0 → z.held = none)) ∧
    (let z := slot0 0 (some (vec (List.replicate 16 0))) 3
     let s := onSta (.vunpk (one 0)) t0 0 0 fun x => { x with slots := [z] }
     Says.Fires s (one 0) (acting (.vunpk (one 0)) (one 0) t0 0 0) ∧
       (s.tileAt t0).slots.find? (fun z => z.st == 0 && z.held.isSome) = some z) ∧
    (let s := sd (.qbmap (one 0)) (one 0) [(0, dat 3 5)]
     Says.HasHead s (one 0) (acting (.qbmap (one 0)) (one 0) t0 0 0) 0 (dat 3 5) ∧ (one 0).inp.getLsbD 1 = false ∧ (dat 3 5).iter.toNat < 0xFFFFFE) :=
  ⟨⟨fires rfl rfl rfl rfl rfl rfl rfl (by decide +kernel), rfl⟩,
    ⟨⟨fires rfl rfl rfl rfl rfl rfl rfl (by decide +kernel), rfl⟩, by decide +kernel⟩,
    ⟨fires rfl rfl rfl rfl rfl rfl rfl (by decide +kernel), by decide +kernel⟩,
    ⟨⟨fires rfl rfl rfl rfl rfl rfl rfl (by decide +kernel), rfl⟩, by decide, by decide⟩⟩

/-! ### Matrix engine -/

/-- A full slot of one row group for station 0: a token's element 2 of two digits at position 0. -/
def aslot (e : Option ErrInfo) (full : Bool) : ASlot := ⟨0, 0, 0, 0, 8, [⟨[2], 1, 0⟩], e, full⟩
/-- The tile with the matrix engine changed. -/
def mxS (i : Instr) (l : List (Nat × Token)) (g : Matrix → Matrix) : State := onSta i t0 0 0 fun x => { heads l x with mx := g x.mx }
/-- The head's bank holds a request, with others in the queues. -/
def banked (q : List BankReq) (po : Bool) (m : Matrix) : Matrix := m.setBank 0 { Bank.zero with q, poison := po }
def dotR : BankReq := .dot (aslot none true) 0 1 1 0 true false
def mx0 (q : List BankReq) : State := { mxS (.mxdot (one 0)) [] (banked q false) with input := { Input.none with k := 0 } }
theorem meets_MatrixStations_loads :
    Says.HasHead (mxS (.mxload (one 0)) [(0, dat 3 5)] id) (one 0) (acting (.mxload (one 0)) (one 0) t0 0 0) 0 (dat 3 5) ∧
    ((mxS (.mxload (one 0)) [(0, dat 3 5)] id).tileAt t0).mx.issued = [] ∧
    (let s := mxS (.mxdot (one 0)) [(0, sdTok 0)] fun m => { m with abuf := [aslot none false] }
     s.sequences s.tile = true ∧ ∃ w, s.wordAt s.tile s.st = some w ∧ opOf w = 0x61 ∧ ((s.tileAt s.tile).head s.st 0).map (Token.plain 0x61) = some (sdTok 0) ∧
       (s.tileAt s.tile).mx.abuf.find? (fun b => b.st = s.st ∧ !b.full) = some (aslot none false)) :=
  ⟨⟨fires rfl rfl rfl rfl rfl rfl rfl (by decide +kernel), rfl⟩, rfl, rfl, _, rfl, by decide, rfl, by rfl⟩
def dotX : Sta := acting (.mxdot (one 0)) (one 0) t0 0 0
theorem meets_MatrixStations_dots :
    (∀ e ∈ [none, some err0], let s := mxS (.mxdot (one 0)) [] fun m => { m with abuf := [aslot e true] }
     Says.Fires s (one 0) dotX ∧ (s.tileAt dotX.t).mx.abuf.find? (fun b => b.st = dotX.st ∧ b.full) = some (aslot e true) ∧
       (∀ k ∈ maskBanks (dotShape (one 0)).mask, ((s.tileAt dotX.t).mx.bank k).poison = false) ∧
       (∀ k ∈ maskBanks (dotShape (one 0)).mask, ((s.tileAt dotX.t).mx.bank k).q.length < 8)) ∧
    (let s := mxS (.mxdot (one 0)) [] fun m => banked [] true { m with abuf := [aslot none true] }
     Says.Fires s (one 0) dotX ∧ (∃ k ∈ maskBanks (dotShape (one 0)).mask, ((s.tileAt dotX.t).mx.bank k).poison = true)) ∧
    (let s := mxS (.mxdot (one 0)) [] fun m => banked (List.replicate 8 dotR) false { m with abuf := [aslot none true] }
     Says.Fires s (one 0) dotX ∧ (∀ k ∈ maskBanks (dotShape (one 0)).mask, ((s.tileAt dotX.t).mx.bank k).poison = false) ∧
       (∃ k ∈ maskBanks (dotShape (one 0)).mask, 8 ≤ ((s.tileAt dotX.t).mx.bank k).q.length)) ∧
    (mx0 [dotR]).sequences (mx0 [dotR]).tile = true ∧
    (((mx0 [dotR]).tileAt (mx0 [dotR]).tile).mx.bank (mx0 [dotR]).input.k.toNat).q = dotR :: [] :=
  ⟨fun e _ => ⟨fires rfl rfl rfl rfl rfl rfl rfl rfl, by rfl, by revert e; decide +kernel, by revert e; decide +kernel⟩,
    ⟨fires rfl rfl rfl rfl rfl rfl rfl rfl, by decide +kernel⟩,
    ⟨fires rfl rfl rfl rfl rfl rfl rfl rfl, by decide +kernel, by decide +kernel⟩, by decide +kernel, by decide +kernel⟩
def readR : BankReq := .read 0 (dat 3 5) 0 1 0
def clearR : BankReq := .clear 0 0 (dat 3 5)
theorem meets_MatrixStations_banks :
    (let s := mxS (.mxrd (one 0)) [(0, dat 3 5)] id
     Says.HasHead s (one 0) (acting (.mxrd (one 0)) (one 0) t0 0 0) 0 (dat 3 5) ∧ ((s.tileAt t0).mx.bank ((one 0).k.toNat % 4)).q.length < 8) ∧
    (let f : StF := ⟨0, 4, 3, 15, 0, 0⟩
     let s := mxS (.mxclr f) [(0, dat 3 5)] id
     Says.HasHead s f (acting (.mxclr f) f t0 0 0) 0 (dat 3 5) ∧ (∀ k ∈ maskBanks f.k.toNat, ((s.tileAt t0).mx.bank k).q.length < 8)) ∧
    ((mx0 [readR]).tileAt (mx0 [readR]).tile).mx.bank (mx0 [readR]).input.k.toNat = ⟨[], [], false, readR :: []⟩ ∧ 1 * (dat 3 5).iter.toNat + 1 ≤ 0xFFFFFE ∧
    (mx0 [readR]).sequences (mx0 [readR]).tile = true ∧ (mx0 [clearR]).sequences (mx0 [clearR]).tile = true ∧
    (((mx0 [clearR]).tileAt (mx0 [clearR]).tile).mx.bank (mx0 [clearR]).input.k.toNat).q = clearR :: [] ∧
    (let s := mxS (.mxacc (one 0)) [(0, tokStop 0 3 1)] id
     let x := acting (.mxacc (one 0)) (one 0) t0 0 0
     Says.HasHead s (one 0) x 0 (tokStop 0 3 1) ∧ (one 0).aux.toNat / 4 % 8 ≤ 1 ∧ ((s.take x [0]).slot x.t x.st 0).err = none) :=
  ⟨⟨⟨fires rfl rfl rfl rfl rfl rfl rfl (by decide +kernel), rfl⟩, by decide +kernel⟩,
    ⟨⟨fires rfl rfl rfl rfl rfl rfl rfl (by decide +kernel), rfl⟩, by decide +kernel⟩, by decide +kernel, by decide, by decide +kernel, by decide +kernel, by decide +kernel,
    ⟨⟨fires rfl rfl rfl rfl rfl rfl rfl (by decide +kernel), rfl⟩, by decide, rfl⟩⟩
/-- The example after R247: cells 3, −5, 7 of column 0 and 1, 1, 1 of column 1 over 3, −0.75 and 0.25 in three digits. -/
def r247 : State :=
  let a : ASlot := ⟨0, 0, 0, 0, 8, [⟨[2, -2, 0], 3, -3⟩, ⟨[0, -1, -2], 3, -3⟩, ⟨[0, 1, -2], 3, -3⟩], none, true⟩
  { mxS (.mxrd (one 0)) [] (fun m => (banked [.dot a 0 1 1 0 true false, readR] false m).setRg (0, 0)
      ⟨[(0, 3), (128, -5), (256, 7), (1, 1), (129, 1), (257, 1)], false, []⟩) with input := { Input.none with k := 0 } }
theorem test_mxdot : ((outs (exec .mxrdReadApply (after (exec .mxSequencerApply r247)))).head?.map fun q => (tokElems q.2).take 3) =
    some [0x003E80000000, 0x001A00000000, 0x400000000000] := by decide +kernel

/-! ### Control network -/

def barS (bad : List (Nat × BitVec 8)) (l : List (Nat × Token)) : State := onSta (.bar (two 0)) t0 0 2 fun x => { set l x with barBad := bad }
def barX : Sta := acting (.bar (two 0)) (two 0) t0 0 2
def decS (d : Option (BitVec 2)) : State :=
  { sd (.decide (one 0)) (one 0) [(0, dat 3 2)] with regions := [{ stReg t0 0 0 with decision := d }] }
def decX (d : Option (BitVec 2)) : Sta := { acting (.decide (one 0)) (one 0) t0 0 0 with r := { stReg t0 0 0 with decision := d } }
theorem meets_ControlStations_sets :
    (∀ b ∈ [[], [((0 : Nat), (0 : BitVec 8))]], ∃ s1, Says.Takes (barS b [(0, dat 3 5), (1, dat 3 7)]) (two 0) barX [(0, dat 3 5), (1, dat 3 7)] s1) ∧
    ((barS [] []).tileAt t0).barBad.contains (barX.st, 0) = false ∧ ((barS [(0, 0)] []).tileAt t0).barBad.contains (barX.st, 0) = true ∧
    (∃ s1, Says.Takes (barS [] [(0, dat 3 5), (1, tokE 0 3 err0)]) (two 0) barX [(0, dat 3 5), (1, tokE 0 3 err0)] s1) ∧
    (∀ d, ∃ s1, Says.Takes (decS d) (one 0) (decX d) [(0, dat 3 2)] s1) :=
  ⟨fun b hb => by
      rcases List.mem_cons.1 hb with rfl | hb
      · exact ⟨_, fires rfl rfl rfl rfl rfl rfl rfl (by decide +kernel), rfl⟩
      · rcases List.mem_cons.1 hb with rfl | hb
        · exact ⟨_, fires rfl rfl rfl rfl rfl rfl rfl (by decide +kernel), rfl⟩
        · exact absurd hb (by simp),
    by decide +kernel, by decide +kernel, ⟨_, fires rfl rfl rfl rfl rfl rfl rfl (by decide +kernel), rfl⟩,
    fun _ => ⟨_, fires rfl rfl rfl rfl rfl rfl rfl rfl, rfl⟩⟩
/-- Settings of two iterations of child 0, in constant 0: NIT 2, one LUT entry that enables child 0. -/
def ctlW : Word := 0x0001000001000002
def ctlS (l : List (Nat × Token)) (sl : List Slot) (lv : List Live) : State :=
  let s := routeS (.seqc (three 0)) l sl
  { s with regions := [{ stReg t0 0 0 with live := lv }],
           tiles := s.tiles.map fun (x : Tile) => { x with cfgs := x.cfgs.map fun q => (q.1, { q.2 with consts := [ctlW] }) } }
def ctlX (lv : List Live) : Sta :=
  let x := acting (.seqc (three 0)) (three 0) t0 0 0
  { x with r := { stReg t0 0 0 with live := lv }, b := { x.b with consts := [ctlW] } }
theorem meets_ControlStations_heads :
    Says.HasHead (ctlS [(1, dat 3 5)] [] []) (three 0) (ctlX []) 1 (dat 3 5) ∧ ((ctlS [(1, dat 3 5)] [] []).slot t0 0 0).phase ≠ 2 ∧
    (let s := ctlS [(0, dat 3 5)] [] []
     Says.HasHead s (three 0) (ctlX []) 0 (dat 3 5) ∧ s.hd (ctlX []) 1 = none ∧ s.hd (ctlX []) 2 = none ∧
       (∀ sl ∈ (s.tileAt t0).slots, sl.st = 0 → sl.phase ≠ 1) ∧ (s.slot t0 0 0).phase = 0) ∧
    (let s := ctlS [] [slot0 1 none 0] [live0]
     let x := ctlX [live0]
     Says.Fires s (three 0) x ∧ s.hd x 1 = none ∧ s.hd x 2 = none ∧ x.r.live = [live0] ∧ (s.tileAt x.t).slots = [slot0 1 none 0] ∧
       0 < (ctlSet (s.kWord x)).nit ∧ (ctlSet (s.kWord x)).on 0 0 = true ∧ Ctl.seqc.may (ctlSet (s.kWord x)) (slot0 1 none 0) 0 0 = true) ∧
    Says.HasHead (sd (.done (one 1)) (one 1) [(0, tokStop 0 3 1)]) (one 1) (acting (.done (one 1)) (one 1) t0 0 0) 0 (tokStop 0 3 1) :=
  ⟨⟨fires rfl rfl rfl rfl rfl rfl rfl (by decide +kernel), rfl⟩, by decide +kernel,
    ⟨⟨fires rfl rfl rfl rfl rfl rfl rfl (by decide +kernel), rfl⟩, rfl, rfl, by decide +kernel, rfl⟩,
    ⟨fires rfl rfl rfl rfl rfl rfl rfl (by decide +kernel), rfl, rfl, rfl, rfl, by decide +kernel, by decide +kernel, by decide +kernel⟩,
    ⟨fires rfl rfl rfl rfl rfl rfl rfl (by decide +kernel), rfl⟩⟩
/-- R256: seqc enables child 0 for iteration 0, and iteration 1 waits for its done. -/
theorem test_seqc : let i := Instr.seqc (three 0)
    (outs (exec i (ctlS [] [slot0 1 none 0] [live0]))).map (fun q => (q.1, q.2.iter)) = [(0, 0)] ∧
    outs (exec i (ctlS [] [{ slot0 1 none 0 with pa := 1 }] [live0])) = [] := by decide +kernel
end Sys2Proof.Tests

/-! ## Feeding stations -/

namespace Sys2Proof.Tests

/-- An integer shape of two rows of two doublewords from 8, 64 bytes apart. -/
def sh22 : Shape := ⟨8, 0x12, 0, 2, 0, none, none, 0, false, false, 0, [(2, 8), (2, 64)]⟩
/-- A shape whose second extent is 0. -/
def sh20 : Shape := { sh22 with dims := [(2, 8), (0, 64)] }
/-- Slot 0 of memory tile 0.01.00 with a shape and tokens; the tile's TLB maps the page at 0, whose dword k holds k at 8 × k for
k = 1 and 2. -/
def mt : TileId := ⟨0, 1, 0⟩
def agBlock (i : Instr) (sh : Shape) : CfgBlock := { oneWord 0 ((encodeStation i).getD 0) with shapes := [(0, sh)] }
def agS (i : Instr) (sh : Shape) (l : List (Nat × Token)) (sl : List Slot) (live : List Live := []) : State :=
  let s := onSta i mt 0 0 fun x => { x with
    cfgs := [(0, agBlock i sh)], queue := l.map (fun e => ⟨0, e.1, e.2⟩),
    slots := sl, tlb := [⟨0, 2 ^ 16, 0, true, true, false⟩] }
  { s with mem := [(8, 1), (16, 2)], regions := [{ stReg mt 0 0 with live := live }] }
def agX (i : Instr) (f : StF) (sh : Shape) (live : List Live := []) : Sta := ⟨{ stReg mt 0 0 with live := live }, mt, 0, f, agBlock i sh⟩
/-- An integer station of one port, and of none. -/
def ag1 (aux : BitVec 8) : StF := ⟨2, 4, 0, 15, 0, aux⟩
def ag2 : StF := ⟨2, 6, 0, 15, 0, 0⟩
/-- A slot with a walk of `sh` at group k. -/
def walking (sh : Shape) (k : Nat) (e : List (Option Word)) : Slot := { Slot.zero 0 0 with walk := some ⟨sh, k, sh.groups, 0, e, true⟩ }
def wk (sh : Shape) (k : Nat) (e : List (Option Word)) : Walk := ⟨sh, k, sh.groups, 0, e, true⟩

/-- An agen, an lds and a source, an sts, a scat with its ready set, and a gath. -/
def ag : Instr := .agen (ag1 0)
def ld : Instr := .lds (ag1 0)
def ag0 : StF := ⟨2, 0, 0, 15, 0, 0⟩
def src : Instr := .agen ag0
def st : Instr := .sts (ag1 0)
def sc : Instr := .scat ag2
def scatS (l : List (Nat × Token)) (sl : List Slot) : State :=
  (agS sc sh22 [] sl).onTile mt fun x => { x with ready := if l = [] then [] else [⟨0, l⟩] }
def ga : Instr := .gath (ag1 1)
/-- A gath whose stream of two indexes at 8 is served, at row j and group g. -/
def strm (j g : Nat) : Stream := ⟨mt, 0, 0, 0, dat 3 8, sh22, 8, 1, j, g⟩
def quarryS (j g : Nat) : State :=
  { agS ga sh22 [] [walking sh22 (2 * j + g) []] with
    streams := [strm j g], qtlb := [(0, [(0, ⟨0, 2 ^ 16, 0, true, false, false⟩)])] }
/-- What is reached of one access of 8 bytes in the page at 0. -/
def at8 (a : Nat) : List (Nat × Nat × Nat) := [(a, a, 8)]

theorem meets_AddressGenerators_rounds :
    (∀ k < 4, Says.Fires (agS ag sh22 [] [walking sh22 k []]) (ag1 0) (agX ag (ag1 0) sh22) ∧
      Says.Fires (agS ld sh22 [] [walking sh22 k []]) (ag1 0) (agX ld (ag1 0) sh22)) ∧
    (∀ k < 4, (agS ld sh22 [] [walking sh22 k []]).openWalk (agX ld (ag1 0) sh22) (.ag mt 0) = some (walking sh22 k [], wk sh22 k []) ∧
      (agS ld sh22 [] [walking sh22 k []]).groupAddr (agX ld (ag1 0) sh22) sh22 0 k false = .ok (8 + k % 2 * 8 + k / 2 * 64) ∧
      Says.Reached (agS ld sh22 [] [walking sh22 k []]) (agX ld (ag1 0) sh22) 0 (8 + k % 2 * 8 + k / 2 * 64) 8 false
        (at8 (8 + k % 2 * 8 + k / 2 * 64))) ∧
    (∀ sh ∈ [sh22, sh20], (let s := agS ld sh [(0, dat 3 5)] []
      let x := agX ld (ag1 0) sh
      Says.HasHead s (ag1 0) x 0 (dat 3 5) ∧ s.openWalk x (.ag x.t x.st) = none ∧ (s.slot x.t x.st 0).walk = none ∧
        Says.PlainRound x sh)) ∧
    sh22.groups ≠ 0 ∧ sh20.groups = 0 ∧
    (let s := agS src sh22 [] [] [live0]
     let x := agX src ag0 sh22 [live0]
     s.regionOf s.tile = some x.r ∧ (s.wordAt s.tile s.st).map StF.of = some ag0 ∧ (s.wordAt s.tile s.st).map opOf = some 0x82 ∧
      Says.Fires s ag0 x ∧ Says.PlainRound x sh22 ∧
      x.r.live.find? (fun l => !l.started.contains (s.tile, s.st) && l.cancelled.isNone) = some live0 ∧
      (s.flight.any fun q => x.r.tiles.contains q.dst && q.tok.seq == live0.seq && q.tok.kind == .param) = false) := by
  refine ⟨?_, ?_, ?_, by decide, by decide, ?_⟩
  · exact fun _ _ => ⟨fires rfl rfl rfl rfl rfl rfl rfl rfl, fires rfl rfl rfl rfl rfl rfl rfl rfl⟩
  · intro k h
    rcases k with _ | _ | _ | _ | k
    · exact ⟨by decide +kernel, by decide +kernel, rfl, by rfl, rfl⟩
    · exact ⟨by decide +kernel, by decide +kernel, rfl, by rfl, rfl⟩
    · exact ⟨by decide +kernel, by decide +kernel, rfl, by rfl, rfl⟩
    · exact ⟨by decide +kernel, by decide +kernel, rfl, by rfl, rfl⟩
    · omega
  · intro sh h
    rcases List.mem_cons.mp h with rfl | h
    · exact ⟨⟨fires rfl rfl rfl rfl rfl rfl rfl (by decide +kernel), rfl⟩, by decide +kernel, rfl, ⟨by decide +kernel, rfl, rfl, rfl⟩⟩
    · obtain rfl := List.mem_singleton.mp h
      exact ⟨⟨fires rfl rfl rfl rfl rfl rfl rfl (by decide +kernel), rfl⟩, by decide +kernel, rfl, ⟨by decide +kernel, rfl, rfl, rfl⟩⟩
  · exact ⟨rfl, by decide +kernel, by decide +kernel, fires rfl rfl rfl rfl rfl rfl rfl (by decide +kernel), ⟨by decide +kernel, rfl, rfl, rfl⟩, by decide +kernel, by decide +kernel⟩
theorem meets_AddressGenerators_stores :
    (∀ t ∈ [dat 3 5, vec [1, 2]], let s := agS st sh22 [(0, t)] [walking sh22 0 []]
      let x := agX st (ag1 0) sh22
      Says.HasHead s (ag1 0) x 0 t ∧ t.kind = .data ∧ s.storeDue x = none ∧ s.stalled (.ag x.t x.st) t.seq = false ∧
        (s.slot x.t x.st t.seq).walk = some (wk sh22 0 [])) ∧
    (let s := scatS [(0, dat 3 5), (1, dat 3 7)] [walking sh22 0 []]
     let x := agX sc ag2 sh22
     Says.Fires s ag2 x ∧ s.storeDue x = none ∧ s.stalled (.ag x.t x.st) 0 = false ∧
      ∃ s1, s.nextSet x [0, 1] = some ([(0, dat 3 5), (1, dat 3 7)], s1) ∧ (s1.slot x.t x.st 0).walk = some (wk sh22 0 [])) ∧
    (let s := agS st sh22 [] [walking sh22 2 [some 77]]
     let x := agX st (ag1 0) sh22
     Says.Fires s (ag1 0) x ∧ s.storeDue x = some (walking sh22 2 [some 77]) ∧
      s.storeAddr x (walking sh22 2 [some 77]) (wk sh22 2 [some 77]) false = .ok 72 ∧ Says.Reached s x 0 72 8 true (at8 72)) ∧
    (let s := scatS [] [{ walking sh22 1 [some 77] with pa := 3 }]
     let x := agX sc ag2 sh22
     Says.Fires s ag2 x ∧ s.storeDue x = some { walking sh22 1 [some 77] with pa := 3 } ∧
      s.storeAddr x { walking sh22 1 [some 77] with pa := 3 } (wk sh22 1 [some 77]) true = .ok 208 ∧ Says.Reached s x 0 208 8 true (at8 208)) ∧
    (let s := agS st sh22 [] [walking sh22 2 [none]]
     Says.Fires s (ag1 0) (agX st (ag1 0) sh22) ∧ s.storeDue (agX st (ag1 0) sh22) = some (walking sh22 2 [none]) ∧
      (groupShape sh22.fmt.toNat).2 = 1 ∧ (([none] : List (Option Word)).filterMap id).length = 0) :=
  ⟨fun t h => by
      rcases List.mem_cons.mp h with rfl | h
      · exact ⟨⟨fires rfl rfl rfl rfl rfl rfl rfl (by decide +kernel), rfl⟩, rfl, by decide +kernel, rfl, rfl⟩
      · obtain rfl := List.mem_singleton.mp h
        exact ⟨⟨fires rfl rfl rfl rfl rfl rfl rfl (by decide +kernel), rfl⟩, rfl, by decide +kernel, rfl, rfl⟩,
    ⟨fires rfl rfl rfl rfl rfl rfl rfl (by decide +kernel), by decide +kernel, rfl, _, rfl, rfl⟩,
    ⟨fires rfl rfl rfl rfl rfl rfl rfl (by decide +kernel), by decide +kernel, by decide +kernel, rfl, by rfl, rfl⟩,
    ⟨fires rfl rfl rfl rfl rfl rfl rfl (by decide +kernel), by decide +kernel, by decide +kernel, rfl, by rfl, rfl⟩,
    ⟨fires rfl rfl rfl rfl rfl rfl rfl (by decide +kernel), by decide +kernel⟩⟩
theorem meets_AddressGenerators_gathers :
    (let s := agS ga sh22 [(0, dat 3 8)] []
     let x := agX ga (ag1 1) sh22
     Says.HasHead s (ag1 1) x 0 (dat 3 8) ∧ s.streams = [] ∧ Says.PlainRound x sh22) ∧
    (∀ j < 2, ∀ g < 2, let s := quarryS j g
      let s0 := { s with tile := mt, st := 0 }
      let x := agX ga (ag1 1) sh22
      s.served s.input.index = some (strm j g) ∧ s.wordAt mt 0 = encodeStation ga ∧ (encodeStation ga).map StF.of = some (ag1 1) ∧
      Says.Fires s0 (ag1 1) x ∧ (s0.slot mt 0 0).walk = some (wk sh22 (2 * j + g) []) ∧ s0.stalled (.quarry mt 0 0) 0 = false ∧
      s0.stPieces (s.holderTlb x.r.part (.quarry mt 0 0)) x.r.part [.translated] false (chunks (8 + 8 * j) 8) = .ok (at8 (8 + 8 * j)) ∧
      s0.stPieces (s.holderTlb x.r.part (.quarry mt 0 0)) x.r.part [.translated] false (chunks (8 + 64 * (j + 1) + 8 * g) 8) =
        .ok (at8 (8 + 64 * (j + 1) + 8 * g))) := by
  refine ⟨⟨⟨fires rfl rfl rfl rfl rfl rfl rfl (by decide +kernel), rfl⟩, rfl, ⟨by decide +kernel, rfl, rfl, rfl⟩⟩, fun j hj g hg => ?_⟩
  obtain ⟨rfl⟩ | ⟨rfl⟩ : j = 0 ∨ j = 1 := by omega
  all_goals obtain ⟨rfl⟩ | ⟨rfl⟩ : g = 0 ∨ g = 1 := by omega
  all_goals exact ⟨by decide +kernel, by decide +kernel, by decide +kernel, fires rfl rfl rfl rfl rfl rfl rfl (by decide +kernel), rfl, rfl,
    by rfl, by rfl⟩
/-- R276: the second row of a store of this shape is 64 bytes on. -/
theorem test_sts : (after (exec st (agS st sh22 [] [walking sh22 2 [some 77]]))).mem = [(8, 1), (16, 2), (72, 77)] := by decide +kernel
/-- R273: the last group of a round of two dimensions ends with a STOP of level 2. -/
theorem test_agen : ((outs (exec ag (agS ag sh22 [] [walking sh22 3 []]))).filter (·.1 = 0)) = [(0, dat 0 80), (0, tokStop 0 1 2)] := by decide +kernel
end Sys2Proof.Tests

namespace Sys2Proof.Tests

/-- A station of slot `n` of memory tile 0.01.00 with the manual's buffer descriptor (R280) in q0 and tokens by port: two slots
of two dwords from bin 0x14010. -/
def memB (i : Instr) (n : Nat) : CfgBlock := oneWord n ((encodeStation i).getD 0)
/-- A memory station's field: port a and q0. -/
def reg0 (ty : BitVec 2) (aux : BitVec 8) : StF := ⟨ty, 4, 16, 15, 0, aux⟩
def memS0 (i : Instr) (n : Nat) (l : List (Nat × Token)) (sl : List Slot) (bins : List (Nat × Bin) := []) (w : List WaitEntry := []) : State :=
  { onSta i mt n 0 (fun x => { x with cfgs := [(0, memB i n)], queue := l.map (fun e => ⟨n, e.1, e.2⟩), slots := sl, q := x.q.set 0 0x0000008021401000 }) with
    bins := bins, waits := w, mem := [(spadBase + 0x1401000, 6), (spadBase + 0x1401008, 7)] }
/-- The same in a partition that holds the tiles of the descriptor's bins and of the station. -/
def memS (i : Instr) (n : Nat) (l : List (Nat × Token)) (sl : List Slot) (bins : List (Nat × Bin) := []) (w : List WaitEntry := []) : State :=
  let s := memS0 i n l sl bins w
  s.setPart 0 { s.part 0 with grants := { (s.part 0).grants with tiles := [binTile 0x14010, mt] } }
def memX (i : Instr) (f : StF) (n : Nat) : Sta := ⟨stReg mt n 0, mt, n, f, memB i n⟩
/-- Bins as they stand: full with a number, and declared with a count of 0. -/
def fullBin (q : BitVec 16) : Bin := { Bin.zero with full := true, decl := 2, seq := q }
def s4 (ph : Nat) (b : List Token) (c : Nat) : Slot := { Slot.zero 4 0 with phase := ph, buf := b, cnt := c }
def fs : Instr := .stfs (reg0 2 0)
def ls : Instr := .ldcs (reg0 2 0)

/-- A reduction port, a parameter port of AG slot 1, a port at which a token arrives, a walk, a fault, and a fault record that
waits. -/
def rp : Instr := .rport (reg0 2 1)
def ppf : StF := ⟨2, 4, 1, 0, 0, 0⟩
def pp (t : Token) (n : Nat) : State :=
  (memS (.pport ppf) 0 [(0, t)] []).onTile mt fun y => { y with queue := y.queue ++ List.replicate n ⟨1, 3, dat 0 0⟩ }
def arriving : Flight := ⟨0, none, t0, 0, 1, dat 3 5, [], none, 0⟩
def arr (i : Instr) (p : List (Nat × BitVec 8)) : State :=
  { (onSta i t0 0 0 fun x => { x with purged := p }) with flight := [arriving], input := { Input.none with k := 1 } }
def walkOf (f : Option XReason) (va : BitVec 57) : WalkReq := ⟨.ag mt 0, 0, 0, 3, 0, va, false, f⟩
def walked (w : WalkReq) : State := { gr id 0 with walks := [w], tiles := [Tile.zero mt] }
def hold0 : Hold := ⟨.ag mt 0, 0, 0, 8, false, .perm, 3, false, true, 0⟩
def held : State :=
  let s := { gr id 0 with holds := [hold0] }
  s.setCore { s.core with fq := ⟨0x200, 4, 0, 0⟩ }
/-- A post that is made leaves some state. -/
theorem postedOf {x : Post} (h : (match x with | .posted _ _ => true | _ => false) = true) : ∃ s q, x = .posted s q := by
  cases x with
  | posted s q => exact ⟨s, q, rfl⟩
  | _ => exact absurd h (by simp)

theorem meets_FeedingStations_tokens :
    ((arr (.iadd (two 0)) []).regionOf t0 = some (stReg t0 0 0) ∧ (stReg t0 0 0).ingress = []) ∧
    ((arr (.iadd (two 0)) [(0, 0)]).tileAt t0).purged.contains (0, arriving.tok.seq) = true ∧
    ((arr (.merge (two 0)) []).tileAt t0).purged.contains (0, arriving.tok.seq) = false ∧
    ((arr (.merge (two 0)) []).wordAt t0 0).map pairs = some false ∧
    (∀ n ≤ 8, ∀ t ∈ [dat 3 5, tokStop 0 3 1], Says.Ready (pp t n) ppf (memX (.pport ppf) ppf 0) ∧
      (pp t n).hd (memX (.pport ppf) ppf 0) 0 = some t ∧
      (((pp t n).tileAt mt).queue.filter fun q => q.st = ppf.k.toNat ∧ q.port = 3).length = n) := by
  refine ⟨⟨by decide +kernel, rfl⟩, by decide +kernel, by decide +kernel, by decide +kernel, fun n hn t ht => ?_⟩
  have hl : (((pp t n).tileAt mt).queue.filter fun q => q.st = ppf.k.toNat ∧ q.port = 3).length = n := by
    interval_cases n <;> rfl
  have hw : ((pp t n).tileAt mt).wideAt 0 = none ∧ (pp t n).hd (memX (.pport ppf) ppf 0) 0 = some t := by
    rcases List.mem_cons.mp ht with rfl | ht
    · interval_cases n <;> exact ⟨rfl, rfl⟩
    · obtain rfl := List.mem_singleton.mp ht
      interval_cases n <;> exact ⟨rfl, rfl⟩
  exact ⟨⟨rfl, rfl, rfl, rfl, rfl, hw.1, rfl⟩, hw.2, hl⟩
/-- A token on its way: at the port, at its last buffer or at the one before, and at a reorder buffer. -/
theorem meets_FeedingStations_hops : (∀ q ∈ [arriving, { arriving with hops := [(t0, 0)] }, { arriving with hops := [(far, 1), (t0, 0)] },
      { arriving with dst := mt, ord := some 0, hops := [(mt, 0)] }],
    let s : State := { regs [] with flight := [q] }
    s.nextFlight q.dst 0 1 = some q ∧ s.mayMove q = true ∧ q.copy = none ∧ q.reorders = q.ord.isSome) := by
  intro q h
  simp only [List.mem_cons, List.not_mem_nil, or_false] at h
  rcases h with rfl | rfl | rfl | rfl <;> exact ⟨rfl, rfl, rfl, rfl⟩
theorem meets_FeedingStations_walks :
    (walked (walkOf none 8)).walks.filter (·.fault.isNone) = [walkOf none 8] ∧
    (∀ w : Bool, let e : TlbEntry := ⟨0, 2 ^ 30, 0, true, w, false⟩
     ({ walked (walkOf none 8) with mem := [(0x100000, if w then 0x0D else 0x05)] } : State).walk 0 8 = .ok e ∧
       e.gives .read = true ∧ e.gives .write = w) ∧
    (walked (walkOf none (2 ^ 31))).walk 0 (2 ^ 31) = .error .unmapped ∧
    (walked (walkOf (some .perm) 8)).walks.filter (·.fault.isSome) = [walkOf (some .perm) 8] ∧
    held.holds.find? (fun h => h.core == held.cur && !h.posted) = some hold0 ∧
    (∃ s1 q, held.post (held.core.part.getD 0) held.core.fq [field 0 57 8 ||| bit 57 false ||| field 58 3 1, hold0.word, field 0 32 3, 0] =
      .posted s1 q) :=
  ⟨by decide +kernel, by decide +kernel, by decide +kernel, by decide +kernel,
    by decide +kernel, postedOf (by decide +kernel)⟩
theorem meets_FeedingStations_buffers :
    (∀ b : Bool, let s := memS fs 4 [(0, dat 3 5)] (if b then [s4 0 [dat 2 6] 3] else [])
     let x := memX fs (reg0 2 0) 4
     Says.HasHead s (reg0 2 0) x 0 (dat 3 5) ∧ (s.slot mt 4 0).phase ≠ 1 ∧
       (s.slot mt 4 0).buf.length + 1 = (if b then ((s.kWord x).toNat / 2 ^ 39 % 32) + 1 else (s.kWord x).toNat / 2 ^ 39 % 32)) ∧
    (∀ n < 2, let s := memS fs 4 [(0, tokStop 0 3 1)] [s4 0 (List.replicate n (dat 2 6)) 3]
     let x := memX fs (reg0 2 0) 4
     Says.HasHead s (reg0 2 0) x 0 (tokStop 0 3 1) ∧ (s.slot mt 4 0).phase ≠ 1 ∧ (s.slot mt 4 0).buf = List.replicate n (dat 2 6)) ∧
    (∀ q, Says.HasHead (memS ls 4 [(0, dat 3 q)] [] [(0x14010, fullBin 0)]) (reg0 2 0) (memX ls (reg0 2 0) 4) 0 (dat 3 q) ∧
      Says.HasHead (memS0 ls 4 [(0, dat 3 q)] [] [(0x14010, fullBin 0)]) (reg0 2 0) (memX ls (reg0 2 0) 4) 0 (dat 3 q)) ∧
    (∀ t ∈ [dat 3 5, tokStop 0 3 1], let s := memS rp 4 [(0, t)] [{ s4 0 [] 3 with pa := 2 }]
     let x := memX rp (reg0 2 1) 4
     Says.HasHead s (reg0 2 1) x 0 t ∧ ((x.r.liveOf t.seq).map (·.race)).getD false = false) ∧
    Says.HasHead (memS0 rp 4 [(0, dat 3 5)] []) (reg0 2 1) (memX rp (reg0 2 1) 4) 0 (dat 3 5) ∧
    (let e : WaitEntry := ⟨binTile 0x14010, 0x14010, 0, .ldcs mt 4 (dat 3 0) false, true⟩
     let s := memS ls 4 [] [] [(0x14010, fullBin 0)] [e]
     s.servable[s.input.index]? = some e) ∧
    (let e : WaitEntry := ⟨binTile 0x14010, 0x14010, 0, .stfs mt 4 0 [5, 6] (dat 3 0) none, true⟩
     let s := memS fs 4 [] [] [] [e]
     s.servable[s.input.index]? = some e ∧ Memory.wf s = true) ∧
    (∀ wr, (∀ bin ∈ [0x14010, 0x14011], (memS fs 4 [] []).granted 0 .spad (spadBase + bin * 256) 8 wr = true ∧
        (memS0 fs 4 [] []).granted 0 .spad (spadBase + bin * 256) 8 wr = false) ∧
      (memS rp 4 [] []).granted 0 .spad (spadBase + tileOff mt + 8 * 0x1000) 8 wr = true ∧
      (memS0 rp 4 [] []).granted 0 .spad (spadBase + tileOff mt + 8 * 0x1000) 8 wr = false) ∧
    ((memS0 fs 4 [] []).stalled (.mem mt 4) 0 = false ∧ (memS fs 4 [] []).regionOf mt = some (stReg mt 4 0) ∧
      ((memS fs 4 [] [s4 0 [dat 2 6, dat 3 5] 3]).slot mt 4 0).buf.getLast? = some (dat 3 5)) :=
  ⟨fun b => by cases b <;> exact ⟨⟨fires rfl rfl rfl rfl rfl rfl rfl (by decide +kernel), rfl⟩, by decide +kernel⟩,
    fun n _ => ⟨⟨fires rfl rfl rfl rfl rfl rfl rfl rfl, rfl⟩, by show (0 : Nat) ≠ 1; decide, rfl⟩,
    fun _ => ⟨⟨fires rfl rfl rfl rfl rfl rfl rfl rfl, rfl⟩, ⟨fires rfl rfl rfl rfl rfl rfl rfl rfl, rfl⟩⟩, fun t h => by
      rcases List.mem_cons.mp h with rfl | h
      · exact ⟨⟨fires rfl rfl rfl rfl rfl rfl rfl (by decide +kernel), rfl⟩, rfl⟩
      · obtain rfl := List.mem_singleton.mp h
        exact ⟨⟨fires rfl rfl rfl rfl rfl rfl rfl (by decide +kernel), rfl⟩, rfl⟩,
    ⟨fires rfl rfl rfl rfl rfl rfl rfl (by decide +kernel), rfl⟩, by decide +kernel⟩
/-- The example of R282: 6 and 5 with number 3 fill bin 0x14011, which takes the last token's tag. -/
theorem test_stfs : let s := memS fs 4 [(0, dat 3 5)] [s4 0 [dat 2 6] 3]
    (after (exec fs s)).bins = [(0x14011, { Bin.zero with full := true, seq := 3 })] ∧
    (outs (exec fs s)).head? = some (0, dat 3 3) := by decide +kernel
/-- The example of R283: a request of tag 3 for number 0 leaves with tags 96 and 97. -/
theorem test_ldcs : (outs (exec ls (memS ls 4 [(0, dat 3 0)] [] [(0x14010, fullBin 0)]))).filter (·.1 = 0) = [(0, dat 96 6), (0, dat 97 7)] := by
  decide +kernel
/-- R284: the integer sum at offset 2. -/
theorem test_rport : memDword (after (exec rp (memS rp 4 [(0, dat 3 5)] [{ s4 0 [] 3 with pa := 0 }]))).mem (spadBase + tileOff mt + 8 * 0x1000) = 5 := by
  decide +kernel
end Sys2Proof.Tests

/-! ## Recall stations -/

namespace Sys2Proof.Tests

/-- The W48 of m × 2^e, and a token of lanes that begin with some. -/
def w48 (m e : Int) : W48 := roundW48 (fvInt m e false) 0
def lanesOf (k : BitVec 24) (kd : Kind) (l : List W48) : Token := tokV 0 k kd (l ++ List.replicate (16 - l.length) (wZero false))
/-- A recall station at slot 6 of memory tile 0.01.00 with q15, a scale of 1 in c0, tokens by port and its unit. -/
def rclB (i : Instr) : CfgBlock := { oneWord 6 ((encodeStation i).getD 0) with consts := (w48 1 0).setWidth 64 :: List.replicate 15 0 }
def rclS (i : Instr) (q15 : Word) (l : List (Nat × Token)) (r : Recall) : State :=
  onSta i mt 6 1 fun x => { x with
    cfgs := [(0, rclB i)], queue := l.map (fun e => ⟨6, e.1, e.2⟩), q := x.q.set 15 q15, rcl := r }
def rclX (i : Instr) (f : StF) : Sta := ⟨stReg mt 6 1, mt, 6, f, rclB i⟩
/-- The single store of the manual's example (R326): q15 and its four entries. -/
def q15 : Word := 0x1E0100
def rentry (a b : W48) (n : BitVec 32) : REntry := ⟨recallWrite 0 0 false [a, b], recallWrite 0 0 false [a], n, none, 0, 0, 0⟩
def four : Recall := { Recall.zero with seqn := some 4, entries :=
  [rentry (w48 1 0) 0 0, rentry 0 (w48 1 0) 1, rentry (w48 1 (-1)) (w48 1 (-1)) 2, rentry (w48 1 0) (w48 1 0) 3] }
def ksf : StF := ⟨1, 4, 0, 1, 0, 0⟩
def kqf : StF := ⟨1, 6, 0, 1, 0, 0x21⟩
def kmf : StF := ⟨1, 6, 0, 1, 0, 0x21⟩
def kcf : StF := ⟨2, 4, 0, 1, 0, 0⟩
def ksc : StF := { ksf with inp := 5 }
def ks : Instr := .ksto ksc
def kq : Instr := .kqry kqf
def key1 : Token := lanesOf 3 .key [w48 1 0, 0]
def val1 : Token := lanesOf 3 .data [w48 1 1]
def qry1 : Token := lanesOf 5 .query [w48 1 0, w48 1 0]
/-- A header of a raw burst of two, and the two shards' bursts of the example, whose last tokens come. -/
def hdr (sc : W48) (n sh i : Nat) : Token :=
  tokV 0 5 .data ([sc, BitVec.ofNat 48 n, BitVec.ofNat 48 sh, BitVec.ofNat 48 i, 1, 0] ++ List.replicate 10 0)
def burstA : List Token := [hdr (w48 1 0) 0 0 0, lanesOf 5 .data [w48 1 0], hdr (w48 1 0) 2 0 1]
def burstB : List Token := [hdr (w48 1 1) 3 1 0, lanesOf 5 .data [w48 1 0], hdr (w48 1 0) 1 1 1]
def lasts : List (Nat × Token) := [(0, lanesOf 5 .data [w48 1 (-1)]), (1, lanesOf 5 .data [0])]
def kmS (n : Nat) : State :=
  (rclS (.kmerge kmf) q15 [] { Recall.zero with gather := [(0, burstA.take n), (1, burstB.take n)] }).onTile mt fun x =>
    { x with ready := [⟨6, lasts⟩] }
/-- What a station of R317 offers first. -/
def offer (i : Instr) (f : StF) (b : Bool) (s : State) : Option (Nat × Token) :=
  let s1 := ((portsOf f).filter (· ≠ 2)).foldl (fun (s : State) p => s.gatherPort (rclX i f) b p) s
  oldestOffer (rclX i f).r (([2, 1, 0].filter ((portsOf f).contains ·)).filterMap fun p => (s1.offers (rclX i f) b p).map fun t => (p, t))
def cmd1 : Token := tokV 0 1 .data (0 :: 0x1400 :: List.replicate 14 0)
def stop9 : Token := tokStop 0 9 1
/-- The unit with a key token gathered at a port. -/
def gath1 (p : Nat) : Recall := { four with gather := [(p, [key1])] }
theorem fires_rcl {i : Instr} {f : StF} {s : State} (h : s.sta? f = some (rclX i f)) (h1 : (s.tileAt s.tile).broken = false)
    (h3 : s.blocked s.tile s.st = false) (h4 : (s.part 0).pre = .running) (h5 : (s.tileAt s.tile).wideAt s.st = none)
    (h6 : (s.tileAt s.tile).aborted = false) (h7 : s.outCredit (stReg mt 6 1) mt 6 none = true) : Says.Fires s f (rclX i f) :=
  ⟨⟨h, h1, rfl, h3, h4, h5, h6⟩, h7⟩

theorem meets_RecallStations_runs :
    (Says.Fires (rclS ks q15 [(0, key1)] four) ksc (rclX ks ksc) ∧ offer ks ksc false (rclS ks q15 [(0, key1)] four) = none) ∧
    (Says.Fires (rclS ks q15 [(0, val1), (2, cmd1)] (gath1 0)) ksc (rclX ks ksc) ∧
      offer ks ksc false (rclS ks q15 [(0, val1), (2, cmd1)] (gath1 0)) = some (2, cmd1)) ∧
    (Says.Fires (rclS ks q15 [(0, val1)] (gath1 0)) ksc (rclX ks ksc) ∧
      offer ks ksc false (rclS ks q15 [(0, val1)] (gath1 0)) = some (0, key1) ∧ key1.kind.level = 0) ∧
    (Says.Fires (rclS kq q15 [(0, qry1)] four) kqf (rclX kq kqf) ∧
      offer kq kqf true (rclS kq q15 [(0, qry1)] four) = some (0, qry1) ∧ qry1.kind.level = 0) ∧
    (Says.Fires (rclS kq q15 [(0, stop9)] four) kqf (rclX kq kqf) ∧
      offer kq kqf true (rclS kq q15 [(0, stop9)] four) = some (0, stop9) ∧ stop9.kind.level ≠ 0) ∧
    (Says.Fires (rclS kq q15 [(0, stop9)] (gath1 1)) kqf (rclX kq kqf) ∧
      offer kq kqf true (rclS kq q15 [(0, stop9)] (gath1 1)) = some (0, stop9) ∧
      ((rclS kq q15 [(0, stop9)] (gath1 1)).gathered (rclX kq kqf) 1).head? = some key1 ∧
      (rclX kq kqf).r.age key1 < (rclX kq kqf).r.age stop9) ∧
    (∀ y ∈ [key1, val1], y.kind ≠ .error) ∧
    (∀ n ≤ 256, ({ four with entries := List.replicate n (rentry 0 0 0) } : Recall).entries.length = n) ∧
    four.seqn.getD 0 ≠ 0xFFFFFFFF ∧ ((rclS ks q15 [] four).rdesc (rclX ks ksc)).fifo = false ∧
    ((rclS ks q15 [] four).tileAt mt).rcl = four :=
  ⟨⟨fires_rcl rfl rfl rfl rfl rfl rfl (by decide +kernel), by decide +kernel⟩,
    ⟨fires_rcl rfl rfl rfl rfl rfl rfl (by decide +kernel), by decide +kernel⟩,
    ⟨fires_rcl rfl rfl rfl rfl rfl rfl (by decide +kernel), by decide +kernel, rfl⟩,
    ⟨fires_rcl rfl rfl rfl rfl rfl rfl (by decide +kernel), by decide +kernel, rfl⟩,
    ⟨fires_rcl rfl rfl rfl rfl rfl rfl (by decide +kernel), by decide +kernel⟩,
    ⟨fires_rcl rfl rfl rfl rfl rfl rfl (by decide +kernel), by decide +kernel⟩,
    by decide +kernel, fun _ _ => List.length_replicate, by decide +kernel, by decide +kernel, rfl⟩
theorem meets_RecallStations_commands :
    (∀ i ∈ [Instr.kevict kcf, .kmask kcf, .kage kcf], ∀ w, Says.Fires (rclS i q15 [(0, tokS 0 3 .data w)] four) kcf (rclX i kcf) ∧
      (rclS i q15 [(0, tokS 0 3 .data w)] four).rawHead (rclX i kcf) 0 = some (tokS 0 3 .data w)) ∧
    (∀ q ∈ [(1, 0x1400000000000000), (2, 0x2000000000000000), (3, 0x3400000000000001)],
      ((rclS ks q15 [] four).command (rclX ks ksc) (some q.1) q.2).isSome = true) ∧
    (rclS ks q15 [] four).command (rclX ks ksc) (some 1) 0x1800000100000002 = none ∧
    ([(0x1000000000000002 : Word), 0x1400000000000002, 0x1C00000000000002].map fun w =>
      (w.toNat / 2 ^ 60, w.toNat / 2 ^ 32 % 2 ^ 26, w.toNat / 2 ^ 58 % 4)) = [(1, 0, 0), (1, 0, 1), (1, 0, 3)] := by
  refine ⟨fun i h w => ?_, by decide +kernel, by decide +kernel, by decide +kernel⟩
  rcases List.mem_cons.mp h with rfl | h
  · exact ⟨fires_rcl rfl rfl rfl rfl rfl rfl rfl, rfl⟩
  · rcases List.mem_cons.mp h with rfl | h
    · exact ⟨fires_rcl rfl rfl rfl rfl rfl rfl rfl, rfl⟩
    · obtain rfl := List.mem_singleton.mp h
      exact ⟨fires_rcl rfl rfl rfl rfl rfl rfl rfl, rfl⟩
theorem meets_RecallStations_merges : ∀ n ≤ 3, (∃ s1, Says.Takes (kmS n) kmf (rclX (.kmerge kmf) kmf) lasts s1 ∧
      (s1.rdesc (rclX (.kmerge kmf) kmf)).v = 16) ∧ (∀ e ∈ lasts, e.2.kind = .data) ∧
    (∀ b ∈ [burstA.take n ++ [lanesOf 5 .data [w48 1 (-1)]], burstB.take n ++ [lanesOf 5 .data [0]]], b.length = n + 1 ∧
      (∀ t ∈ b, t.kind ≠ .error) ∧ (n = 3 → headersOk 2 16 b = true)) := by
  intro n h
  refine ⟨?_, by decide, ?_⟩
  · interval_cases n <;> exact ⟨_, ⟨fires_rcl rfl rfl rfl rfl rfl rfl (by decide +kernel), rfl⟩, by decide +kernel⟩
  · interval_cases n <;> decide +kernel
/-- The lanes of a token. -/
def laneNats (n : Nat) (t : Token) : List Nat := match t.pay with
  | .vector l => (l.take n).map (·.toNat)
  | _ => []
/-- The manual's example (R326): the single store ranks 3, then 0, and so do the shards merged, with shard 1 kept. -/
theorem test_kqry : (outs (exec kq (rclS kq q15 [(0, qry1)] four))).map (fun q => laneNats 3 q.2) =
    [[(w48 1 1).toNat, 3, 0], [(w48 1 0).toNat, 0x400000000000, 0x400000000000], [(w48 1 0).toNat, 0, 0],
      [(w48 1 0).toNat, 0x400000000000, 0x400000000000]] := by decide +kernel
theorem test_kmerge : ((outs (exec (.kmerge kmf) (kmS 3))).map fun q => laneNats 3 q.2) =
    [[(w48 1 1).toNat, 3, 1], [(w48 1 0).toNat, 0x400000000000, 0x400000000000], [(w48 1 0).toNat, 0, 0],
      [(w48 1 0).toNat, 0x400000000000, 0x400000000000]] := by decide +kernel
end Sys2Proof.Tests

/-! ## Beyond the module -/

namespace Sys2Proof.Tests

/-- A remote station at slot 4 of memory tile 0.01.00 with operations that await replies; an address of module 1. -/
def remS (i : Instr) (l : List (Nat × Token)) (o : List ROp) : State :=
  onSta i mt 4 0 fun x => { x with
    ready := if l.length < 2 then [] else [⟨4, l⟩], queue := (if l.length < 2 then l else []).map (fun e => ⟨4, e.1, e.2⟩), remote := o }
def remX (i : Instr) (f : StF) : Sta := acting i f mt 4 0
def peerA : Word := BitVec.ofNat 64 (peerBase + 2 ^ 45 + 8)
def awaits (n : Nat) : List ROp := List.replicate n ⟨4, dat 1 peerA, .read 0 8 8, none, false⟩
def rldf : StF := ⟨0, 4, 0, 1, 0, 0⟩
def rstf : StF := ⟨0, 6, 0, 1, 0, 0⟩
def ramf (aux : BitVec 8) : StF := ⟨2, 7, 0, 1, 0, aux⟩
def rfnf (aux : BitVec 8) : StF := ⟨0, 4, 0, 1, 0, aux⟩
/-- A reply to the one operation that awaits one, and a request of another module for partition 0, whose number is 7. -/
def replyS (op : RemoteReq) (r : RemoteRes) (via : Option (Fin 18) := none) (dead : Bool := false) : State :=
  { remS (.rld rldf) [] [⟨4, dat 3 peerA, op, via, dead⟩] with input := { Input.none with reply := r } }
def serveS (q : RemoteReq) : State :=
  let s := { gr id 0 [(8, 5), (9, 6)] with input := { Input.none with req := q } }
  s.setPart 0 { s.part 0 with booted := true, dpn := 7 }
theorem meets_RemoteStations_sends :
    (∀ a, ∀ n ≤ 32, (∃ s1, Says.Takes (remS (.rld rldf) [(0, dat 3 a)] (awaits n)) rldf (remX (.rld rldf) rldf) [(0, dat 3 a)] s1) ∧
      ((remS (.rld rldf) [(0, dat 3 a)] (awaits n)).awaiting (remX (.rld rldf) rldf)).length = n) ∧
    (∀ a, ∃ s1, Says.Takes (remS (.rst rstf) [(0, dat 3 a), (1, dat 3 7)] []) rstf (remX (.rst rstf) rstf) [(0, dat 3 a), (1, dat 3 7)] s1) ∧
    (∀ aux ∈ [0, 0x10, 0x20, 0x30], ∀ n < 2, let s := remS (.ramo (ramf aux)) [(0, dat 3 peerA), (1, dat 3 7), (2, dat 3 9)] (awaits n)
      let x := remX (.ramo (ramf aux)) (ramf aux)
      (∃ s1, Says.Takes s (ramf aux) x [(0, dat 3 peerA), (1, dat 3 7), (2, dat 3 9)] s1) ∧ s.awaitingOf x 0 = awaits n ∧
        s.awaiting x = awaits n) ∧
    (remS (.rld rldf) [] []).remoteOk 0 peerA 8 = true ∧ (remS (.rld rldf) [] []).remoteOk 0 8 8 = false ∧
    (∀ aux ∈ [0, 1, 2, 3], ∀ n < 2, let s := remS (.rfence (rfnf aux)) [(0, dat 3 5)] (awaits n)
      Says.HasHead s (rfnf aux) (remX (.rfence (rfnf aux)) (rfnf aux)) 0 (dat 3 5) ∧
      s.awaitingOf (remX (.rfence (rfnf aux)) (rfnf aux)) 0 = awaits n) := by
  refine ⟨fun a n hn => ⟨⟨_, fires rfl rfl rfl rfl rfl rfl rfl rfl, rfl⟩, ?_⟩, fun _ => ⟨_, fires rfl rfl rfl rfl rfl rfl rfl rfl, rfl⟩,
    fun aux h n hn => ?_, by decide +kernel, by decide +kernel, fun aux h n hn => ?_⟩
  · interval_cases n <;> rfl
  · simp only [List.mem_cons, List.not_mem_nil, or_false] at h
    rcases h with rfl | rfl | rfl | rfl <;> interval_cases n <;>
      exact ⟨⟨_, fires rfl rfl rfl rfl rfl rfl rfl (by decide +kernel), rfl⟩, rfl, rfl⟩
  · simp only [List.mem_cons, List.not_mem_nil, or_false] at h
    rcases h with rfl | rfl | rfl | rfl <;> interval_cases n <;>
      exact ⟨⟨fires rfl rfl rfl rfl rfl rfl rfl (by decide +kernel), rfl⟩, rfl⟩
theorem meets_RemoteStations_replies :
    (∀ op r via dead, ((replyS op r via dead).tileAt mt).remote = [⟨4, dat 3 peerA, op, via, dead⟩] ∧
      (replyS op r via dead).input.reply = r ∧ (replyS op r none dead).viaLost none = false) ∧
    ((replyS (.read 7 8 8) .done (some 0)).setPort 0 { Port.zero with state := .failed, peer := 1 }).viaLost (some 0) = true ∧
    ((replyS (.atomic 7 8 0 1 0) .done).wordAt mt 4).map (·.getLsbD 4) = some false ∧
    (∀ q, (serveS q).input.req = q ∧ Memory.wf (serveS q) = true) ∧
    (∃ q, (serveS (.read 7 8 8)).hubTranslate 7 8 .read = some q ∧ q.1 = 8) ∧
    (∃ q, (serveS (.write 7 8 [9, 8, 7] none)).hubTranslate 7 8 .write = some q ∧
      (q.1, q.2.mem) = (8, (serveS (.write 7 8 [9, 8, 7] none)).mem)) ∧
    (serveS (.read 7 (2 ^ 40) 8)).hubTranslate 7 (2 ^ 40) .read = none :=
  ⟨fun _ _ _ _ => ⟨rfl, rfl, rfl⟩, by decide +kernel, by decide +kernel, fun _ => ⟨rfl, rfl⟩, Option.map_eq_some_iff.mp (by decide +kernel),
    Option.map_eq_some_iff.mp (by decide +kernel), by decide +kernel⟩
/-- R360: a store is answered by DONE with its count of dwords. -/
theorem test_reply : (outs (exec .remoteReply (replyS (.write 7 8 [1, 2, 3, 4, 5, 6, 7, 8] none) .done))).head? = some (0, tokS 0 3 .done 1) := by
  decide +kernel
theorem test_serve : (after (exec .remoteRequestServe (serveS (.read 7 8 8)))).sent = [.remoteAns 0 (.value [0x605])] := by decide +kernel

/-- A flit of 80 bytes with header d, no payload and its CRC (R355); a port that is up, after n replays. -/
def flitB (d : Word) : List Byte :=
  let b := leBytes 8 d.toNat ++ List.replicate 64 0
  b ++ leBytes 4 (crc32c b).toNat ++ List.replicate 4 0
def flitD (vc : Nat) (seq : Nat := 5) : Word := BitVec.ofNat 64 (vc + seq * 2 ^ 8 + 3 * 2 ^ 32 + 2 * 2 ^ 38)
def up (n : Nat) : Port := { Port.zero with state := .up, fseq := 5, tries := n, partPay := [(3, [1])], creds := [(3, 15)] }
def portS (x : Port) (b : List Byte) : State :=
  State.setPort { regs [] with input := { Input.none with bytes := b, port := 0, ok := true, module := 9 } } 0 x
def badFlit : List Byte := (flitB (flitD 62)).set 9 1
theorem meets_TariorPorts :
    (∀ b ∈ [flitB (flitD 62), flitB (flitD 63), badFlit], b.length = 80) ∧
    (∀ x b, (portS x b).ports[(portS x b).input.port] = x ∧ (portS x b).input.bytes = b) ∧
    (∀ b ∈ [flitB (flitD 62), flitB (flitD 63)], crc32c (b.take 72) = wAt b 72 ∧ flitBad b 5 0 = false) ∧
    (∀ x b vc, 32 ≤ vc → (portS x b).scalarsIn 0 vc = 0) ∧
    (let b := flitB (flitD 62 6)
     crc32c (b.take 72) = wAt b 72 ∧ flitBad b 5 0 = true ∧ b.length = 80 ∧ (dwAt b 0).toNat / 2 ^ 8 % 2 ^ 12 ≠ 5) ∧
    (let x := { up 0 with buffer := [(3, badFlit, 0), (4, badFlit, 1)] }
     let s := portS x []
     x.buffer.findIdx? (·.1 == 4) = some 1 ∧ x.buffer.findIdx? (·.1 == BitVec.ofNat 12 s.input.index) = none ∧
       ({ up 0 with buffer := [(0, badFlit, 0)] } : Port).buffer.findIdx? (·.1 == BitVec.ofNat 12 s.input.index) = some 0 ∧
       ∀ q ∈ x.buffer.drop 1, q.2.2 < 8) ∧
    ((portS (up 0) []).ports[(0 : Fin 18)].state = .up ∧ (portS (up 0) []).input.index = 0) ∧
    crc32c (badFlit.take 72) ≠ wAt badFlit 72 ∧ (dwAt (flitB (flitD 62)) 0).toNat % 64 = 62 ∧
    (dwAt (flitB (flitD 62)) 0).toNat / 2 ^ 38 % 256 ≠ 0 ∧ (dwAt (flitB (flitD 63)) 0).toNat % 64 = 63 :=
  ⟨by decide +kernel, fun _ _ => ⟨rfl, rfl⟩, by decide +kernel, fun _ _ _ h => if_neg fun c => absurd c.1 (Nat.not_lt.2 h),
    by decide +kernel⟩
/-- R355: two credits join 15, to the limit of 16. R356: the eighth replay is the last. -/
theorem test_credits : (after (exec .tariorFlitReceive (portS (up 0) (flitB (flitD 62))))).ports[0].creds = [(3, 16)] := by decide +kernel
theorem test_replay : ((after (exec .tariorFlitReceive (portS (up 7) badFlit))).ports[0].state = .up ∧
    (after (exec .tariorFlitReceive (portS (up 8) badFlit))).ports[0].state = .failed) := by decide +kernel

/-- Station 0 of tile 0.00.00 with a launch-wide ERROR of launch 0, or with a failure of it. -/
def failing : State :=
  { onSta (.iadd (two 0)) t0 0 0 (heads [(0, tokE 0 0xFFFFFF err0)]) with regions := [{ stReg t0 0 0 with live := [live0] }] }
/-- A core that samples, and a region that has a move. -/
def balancing (m : Option (TileId × Nat)) : State :=
  let s := { onSta (.iadd (two 0)) t0 0 0 id with regions := [{ stReg t0 0 0 with move := m, serving := [(t0, 1)] }] }
  s.setCore { s.core with balEn := true, balTh := 5 }
theorem meets_CancelsAndFailures_failures :
    failing.regionOf t0 = some { stReg t0 0 0 with live := [live0] } ∧ (failing.tileAt t0).wideAt 0 = some (tokE 0 0xFFFFFF err0) ∧
    failing.outCredit { stReg t0 0 0 with live := [live0] } t0 0 none = true ∧
    Says.regionNow failing = some { stReg t0 0 0 with live := [live0] } ∧
    (balancing none).core.balEn = true ∧ State.reset.core.balEn = false ∧ 5 ≤ (balancing none).core.balTh.toNat ∧
    (let r := { stReg t0 0 0 with serving := [(t0, 1)], occ := [600, 0], occTime := 256 }
     (balancing none).chooseMove r 5 = some (t0, 0)) ∧
    (∀ u, ∃ r, Says.regionNow (balancing (some (t0, u))) = some r ∧ r.move = some (t0, u) ∧
      (balancing (some (t0, u))).stageEmpty r t0 (lookupD r.serving t0 0) = true) ∧
    (let s := (balancing (some (t0, 1))).onTile t0 fun x => { heads [(0, dat 0 1)] x with cfgs := [(0, { oneWord 0 0 with stage := [1] })] }
     ∃ r, Says.regionNow s = some r ∧ s.stageEmpty r t0 (lookupD r.serving t0 0) = false) :=
  ⟨by decide +kernel, by decide +kernel, by decide +kernel, by decide +kernel, rfl, by decide +kernel, by decide +kernel, by decide +kernel,
    fun _ => ⟨_, rfl, rfl, rfl⟩, ⟨_, rfl, by decide +kernel⟩⟩
end Sys2Proof.Tests

/-! ## The logit machine -/

namespace Sys2Proof.Tests

/-- A W48 as n halves, and the manual's run (R422's example) in larder slot 9: its memory, its context with v0 and v1. -/
def halves (n : Int) : W48 := w48 n (-1)
def dwordAt (a : Nat) (w : Word) : List (Nat × Byte) :=
  ((List.range 8).map fun i => (a + i, BitVec.ofNat 8 (w.toNat / 256 ^ i))).filter (·.2 ≠ 0)
def larder9 : Nat := larderAt 9
def lmem : List (Nat × Byte) :=
  dwordAt larder9 77 ++ dwordAt (larder9 + 24) 8 ++ dwordAt (larder9 + 0x200) ((halves 4).setWidth 64) ++ dwordAt (larder9 + 0x208) ((halves 1).setWidth 64) ++
    dwordAt (larder9 + 0x4000 + 8 * 966) 0x100000002 ++ dwordAt (larder9 + 0x4000 + 8 * 1933) 0xFFFFFFFF
def logits9 : List W48 := [4, 2, 6, 1, 6, -2, 0, 5].map halves
def ctx9 (v0 v1 : List W48) (s : List W48) : Ctx :=
  ⟨0, 0, 0, 3, 9, 0, logits9, ((Vector.replicate 8 (List.replicate 8 (wZero false))).set 0 v0).set 1 v1,
    ((((Vector.replicate 8 (wZero false)).set 0 (s.getD 0 0)).set 1 (s.getD 1 0)).set 2 (s.getD 2 0)).set 3 (s.getD 3 0), 0, ⟨[], [], none, none, false⟩, none, 0⟩
def runS (c : Ctx) : State :=
  let s := { gr id 0 lmem with larder := [⟨9, 0, 0, 0⟩] }
  { s.onSmp 0 (fun x => { x with ctx := x.ctx.set 0 (some c) }) with mem := lmem }
def run9 : Ctx := ctx9 logits9 ([1, 1, 1, 1, 0, 0, 0, 0].map halves) [halves 4, halves 1, halves 6, halves 8]
/-- The same with a dense bias table in vault 0. -/
def denseS : State :=
  let m := memSets (memSets lmem (larder9 + 26) [8]) (larder9 + 39) [1]
  let s := { runS run9 with mem := memSets m vaultBase [0x80, 0x3F] }
  s.setPart 0 { s.part 0 with grants := { (s.part 0).grants with vaults := [0] } }
/-- A run whose tokens are whole, and no context in use. -/
def item9 : SmpItem := ⟨0, 0, 0, 0, 3, 9, 2, [lanesOf 3 .data [9], tokV 0 3 .data (logits9 ++ logits9)], none, none⟩
def startS : State :=
  let s := { gr id 0 lmem with larder := [⟨9, 0, 0, 0⟩], mem := lmem }
  s.onSmp 0 (fun x => { x with items := [item9] })
/-- A run that has drawn nothing but holds a step. -/
def stepped : Ctx := { run9 with held := { run9.held with step := some 5 } }
theorem runs (c : Ctx) (h : c.slot = 9) (h' : c.count < 4095) : Says.Runs (runS c) c :=
  ⟨rfl, fun b e => by
    rw [h] at e
    obtain rfl := Option.some.inj ((show (runS c).lbind 9 = some ⟨9, 0, 0, 0⟩ from rfl).symm.trans e)
    exact (show ((runS c).part 0).pre = .running from rfl) ▸ (by decide : PreState.running ≠ .halted), h'⟩

theorem meets_LogitInstructions_words : (∃ g, Says.vectorLogit (.lgin 2) = some (2, g)) ∧ (∃ g, Says.scalarLogit (.vmax 4 0) = some (4, g)) ∧
    Says.Runs (runS run9) run9 ∧ (memDword (runS run9).mem (larderAt run9.slot + 24)).getLsbD 19 = false ∧ Says.Runs denseS run9 ∧
    (memDword denseS.mem (larderAt run9.slot + 24)).getLsbD 19 = true ∧
    (∃ bs, denseS.readV ((denseS.cores[run9.core].part).getD 0) [.vault] ((memDword denseS.mem (larderAt run9.slot + 32)).toNat % 2 ^ 57)
      (2 * (Says.vreg run9 0).length) = .ok bs) :=
  ⟨⟨_, rfl⟩, ⟨_, rfl⟩, runs _ rfl (by decide), by decide +kernel,
    ⟨rfl, fun b e => by
      obtain rfl := Option.some.inj ((show denseS.lbind run9.slot = some ⟨9, 0, 0, 0⟩ from rfl).symm.trans e)
      decide +kernel, by decide⟩, by decide +kernel, okOf (by decide +kernel)⟩
theorem meets_LogitInstructions_ends : Memory.wf (runS stepped) = true ∧ stepped.held.last = none ∧ stepped.held.counts = [] ∧
    stepped.held.params = [] ∧ stepped.held.step = some 5 ∧ Says.Runs (runS stepped) stepped :=
  ⟨by decide +kernel, rfl, rfl, rfl, rfl, runs _ rfl (by decide)⟩
theorem meets_LogitInstructions_starts :
    (let s1 := State.smpFlush startS.smp startS.smps[startS.smp].items.length startS
     let x := s1.smps[startS.smp]
     nextRun x.items = some item9 ∧ (List.finRange 2).find? (fun i => x.ctx[i].isNone && x.parked[i].isNone) = some 0 ∧
      s1.lbind item9.slot = some ⟨9, 0, 0, 0⟩ ∧ item9.need ≤ item9.toks.length ∧ (∀ j : Fin 2, x.ctx[j] = none) ∧
      (s1.part 0).pre = .running ∧ s1.smpBusy startS.smp 0 = false) := by decide +kernel
/-- The vector register that an instruction leaves. -/
def vAfter (i : Instr) (c : Ctx) (d : Fin 8) : Option (List W48) := ((after (exec i (runS c))).smps[0].ctx[0]).map fun c => c.v[d]
/-- The manual's run (R422): id 2 is recorded once and id 4 not; scl by 0.5, topk with 3. -/
theorem test_count : (runS run9).countOf run9 2 = some 1 ∧ (runS run9).countOf run9 4 = none := by decide +kernel
theorem test_scl : vAfter (.scl 0 0 1) (ctx9 ([4, 2, 3, 1, 6, -2, 0, 5].map halves) [] [halves 4, halves 1]) 0 =
    some ([4, 2, 3, 1, 6, -2, 0, 5].map fun n => w48 n (-2)) := by decide +kernel
theorem test_topk : vAfter (.topk 0 0 2) (ctx9 ([4, 2, 3, 1, 6, -2, 0, 5].map halves) [] [halves 4, halves 1, halves 6]) 0 =
    some [halves 4, wInf true, wInf true, wInf true, halves 6, wInf true, wInf true, halves 5] := by decide +kernel
theorem test_h : countsHome 2 = 966 ∧ countsHome 4 = 1933 := by decide
end Sys2Proof.Tests

/-! ## Where instructions that may also wait complete -/

namespace Sys2Proof.Tests

theorem meets_WaitingInstructionsComplete_waits : Says.Free ints ∧ (∀ s ∈ [bin0, binFull], Says.Free s ∧
      Says.Reads s [4] [0x0110000000400000] s ∧ Says.Reads s [4, 5] [0x0110000000400000, 0x77] s ∧ Says.Plain s 3) ∧
    (ints.core.loads = [] ∧ ints.core.stores = [] ∧ ints.core.copies = [] ∧ ints.core.recs = []) ∧
    (∀ s ∈ [bin0, binFull], Memory.wf s = true ∧ s.core.cmode = false ∧ s.core.loads = [] ∧ s.core.stores = [] ∧ s.waits = [] ∧
      s.granted s.pid .spad 0x0110000000400000 8 false = true) ∧
    ((0x0110000000400000 : Word).toNat = spadBase + 2 ^ 22 ∧ (bin0.bin (2 ^ 22 / 256)).full = false ∧
      (binFull.bin (2 ^ 22 / 256)).full = true) :=
  ⟨⟨rfl, rfl⟩, fun s h => by
      simp only [List.mem_cons, List.not_mem_nil, or_false] at h
      rcases h with rfl | rfl <;> exact ⟨⟨rfl, rfl⟩, reads1 rfl, reads2 rfl rfl, by decide, rfl, rfl, rfl⟩,
    by decide +kernel, by decide +kernel, by decide +kernel⟩

/-- A core with no region, whose cfgld takes any binding slot. -/
def unbound : State := { loading with regions := [] }
theorem meets_WaitingInstructionsComplete_loads : Says.Free unbound ∧ Says.Reads unbound [4, 5] [(oneTile ⟨0, 0, 0⟩).handle, 0] unbound ∧
    (unbound.loadHeader 0 0 = .ok (⟨2, 1, 1, 0, 192, 192, 512⟩, ⟨0, 0, 0⟩, imgHead, imgSig) ∧
      unbound.loadEdges ⟨2, 1, 1, 0, 192, 192, 512⟩ ⟨0, 0, 0⟩ 0 = .ok ([], []) ∧
      unbound.originOk ⟨2, 1, 1, 0, 192, 192, 512⟩ ⟨0, 0, 0⟩ 0 = true ∧ unbound.regions = []) ∧
    ∀ k : BitVec 3, ∃ q, { unbound with fresh := unbound.fresh + 1 }.loadBody 0 ⟨2, 1, 1, 0, 192, 192, 512⟩ ⟨0, 0, 0⟩ imgHead imgSig [] []
      none (unbound.core.gmodeOf k) (unbound.core.gens[k.toNat]'k.isLt) = .ok q :=
  ⟨⟨rfl, rfl⟩, reads2 rfl rfl, by decide +kernel, fun k => by
    rw [show unbound.core.gmodeOf k = unbound.core.gmodeOf 0 by revert k; decide +kernel,
      show unbound.core.gens[k.toNat]'k.isLt = unbound.core.gens[(0 : Fin 8)] by revert k; decide +kernel]
    exact okOf (by decide +kernel)⟩

theorem meets_WaitingInstructionsComplete_launches :
    (∀ f w m, Says.Free (gr f w m) ∧ Says.Reads (gr f w m) [4] [(oneTile ⟨0, 0, 0⟩).handle] (gr f w m) ∧ Says.Reads (gr f w m) [5] [w] (gr f w m) ∧
      Says.Plain (gr f w m) 3 ∧ Says.Reads (gr f w m) [4, 5] [(oneTile ⟨0, 0, 0⟩).handle, w] (gr f w m) ∧ (gr f w m).core.recs = []) ∧
    ((staging (some true) false false).graphMine (oneTile ⟨0, 0, 0⟩).handle = .ok (stagingR (some true) false false) ∧
      (stagingR (some true) false false).stagingOf (oneTile ⟨0, 0, 0⟩).handle = some (staged (some true) false) ∧
      (gr id 9).graphMine (oneTile ⟨0, 0, 0⟩).handle = .ok (rg id) ∧ (gr id 9).closed (rg id) = false ∧ (rg id).slave = false ∧
      (gr id 9).preTaken (gr id 9).core.lpre0h = true ∧ (gr id 9).preTaken (gr id 9).core.lpre1h = true ∧
      (gr id 9).inLivePhase (rg id) = false ∧ hLevel (oneTile ⟨0, 0, 0⟩).handle ≠ 3) ∧
    ((launches 2).graphMine (oneTile ⟨0, 0, 0⟩).handle = .ok launchesR ∧ launchesR.stagingOf (oneTile ⟨0, 0, 0⟩).handle = none ∧
      launchesR.live ≠ [] ∧ phased.phaseDesc 0 = some [entry] ∧ phased.phaseRefusal [entry] = none ∧
      (phased.part phased.pid).phases = []) ∧
    ((launches 3).launchMine ((oneTile ⟨0, 0, 0⟩).launchHandle 0 3) = .ok (launchesR, .live launch3) ∧
      (inPhase Counter.zero [] (.die 0) true).phaseOf (phaseHandle 0 7) = .ok (phase Counter.zero []) ∧
      (gr id 0x4000000000000000).jobOk 0x4000000000000000 = true ∧ ((gr id 0x4000000000000000).part 0).jcc.state = .open_ ∧
      (launches 2).counterOf ((oneTile ⟨0, 0, 0⟩).launchHandle 0 2) = .ok ended ∧ ended.state = .complete) ∧
    ((copying [] .landed).core.copies = [] ∧ (copying [] .landed).readCore 0 64 = .ok copyBlk ∧
      copyOf copyBlk (copying [] .landed).core.copySerial none = some copyOp) :=
  ⟨fun _ _ _ => ⟨⟨rfl, rfl⟩, reads1 rfl, reads1 rfl, ⟨by decide, rfl, rfl, rfl⟩, reads2 rfl rfl, rfl⟩, by decide +kernel, by decide +kernel,
    by decide +kernel, by decide +kernel⟩

theorem meets_WaitingInstructionsComplete_steps :
    ((asking.part (asking.verified + 1)).chkq = (0, 0) :: [] ∧ (asking.part (asking.verified + 1)).saved = none) ∧
    (let s := (gr id 9).setCore { (gr id 9).core with recs := [⟨0, 3, false, lrec 1⟩] }
     Says.regionNow s = some (rg id) ∧ s.recsOf (rg id) = ⟨0, 3, false, lrec 1⟩ :: [] ∧ (rg id).queue = []) ∧
    (let r := rg fun r => { r with queue := [lrec 3] }
     let s := queued [lrec 3] r.starve false
     Says.regionNow s = some r ∧ s.eligible r 3 = true ∧ r.headOf 3 = some (lrec 3) ∧ ∀ k, k < 3 → s.eligible r k = false) ∧
    ((inPhase Counter.zero [.die 1] (.die 1) true).phaseRegions [entry] = [(entry, rg id)] ∧ dieOf (rg id).core ≠ 1 ∧
      (phase Counter.zero [.die 1]).acks.contains (.die 1) = true ∧
      (gr id 9).phaseRegions [{ entry with module := 5 }] = []) ∧
    ((failing.tileAt failing.tile).wideAt failing.st = some (tokE 0 0xFFFFFF err0) ∧ (balancing none).core.balEn = true ∧
      (copying [copyOp] (.failed 7)).copyStalled (copying [copyOp] (.failed 7)).cur copyOp = false) := by decide +kernel

end Sys2Proof.Tests

/-! ## Encodings, the step, memory -/

namespace Sys2Proof.Tests

/-- R53: a word with a field that no instruction has. -/
theorem meets_DecodeEncode : (Instr.add 3 4 5).wf = true ∧ encodeControl (.add 3 4 5) = some 0x04642800 ∧ (Instr.steer (two 0)).wf = true ∧
    (encodeStation (.steer (two 0))).isSome = true ∧ (Instr.lgin 2).wf = true ∧ (encodeLogit (.lgin 2)).isSome = true := by decide
theorem meets_EncodeDecode : decodeControl 0x04642800 = some (.add 3 4 5) ∧ decodeStation 0x00300C00 = some (.steer ⟨0, 6, 0, 3, 0, 0⟩) ∧
    decodeLogit 0x10940000 = some (.scl 1 1 2) := by decide

/-- add, an illegal word, a station's word and a logit word placed where the next step takes them. -/
def addS : State := State.reset.withFetchWord 32 0x04642800
def zeroS : State := State.reset.placeControl 0
def steerS : State := State.reset.placeStation 0x00300C00
def sclS : State := State.reset.placeLogit 0x10940000
/-- Nothing maps the program counter. -/
def lostS : State := addS.setCoreAt 0 { addS.cores[(0 : Fin 64)] with tlb := [] }
theorem meets_StepRunsDecoded_control :
    (∀ s ∈ [addS, zeroS], let s0 := (s.tick.before (.core 0)).at_ (.core 0)
     s.nextTurn = .core 0 ∧ s0.powered = true ∧ s0.core.run = .run ∧ s0.interrupted = false ∧ s0.core.pc.toNat < 2 ^ 57 ∧
      windowOf s0.core.pc.toNat = some .translated ∧ s0.translate s0.pid s0.core.tlb s0.core.pc.toNat .exec = .ok (0, none) ∧ 0 < spadBase) ∧
    (let s0 := (addS.tick.before (.core 0)).at_ (.core 0)
     decodeControl (BitVec.ofNat 32 (Says.littleEndian (fun k => memGet s0.mem (0 + k)) 4)) = some (.add 3 4 5)) ∧
    (let s0 := (zeroS.tick.before (.core 0)).at_ (.core 0)
     decodeControl (BitVec.ofNat 32 (Says.littleEndian (fun k => memGet s0.mem (0 + k)) 4)) = none) ∧
    (let s0 := (lostS.tick.before (.core 0)).at_ (.core 0)
     lostS.nextTurn = .core 0 ∧ s0.powered = true ∧ s0.core.run = .run ∧ s0.interrupted = false ∧ s0.fetch = none) :=
  ⟨by decide +kernel, by decide +kernel, by decide +kernel,
    by decide +kernel⟩
theorem meets_StepRunsDecoded_stations :
    (let s0 := (steerS.tick.before (.fire ⟨0, 0, 0⟩ 0)).at_ (.fire ⟨0, 0, 0⟩ 0)
     steerS.nextTurn = .fire ⟨0, 0, 0⟩ 0 ∧ s0.powered = true ∧ s0.wins ⟨0, 0, 0⟩ 0 = true ∧ s0.wordAt ⟨0, 0, 0⟩ 0 = some 0x00300C00) ∧
    (let s0 := (sclS.tick.before (.logit 0 0)).at_ (.logit 0 0)
     sclS.nextTurn = .logit 0 0 ∧ s0.powered = true ∧ (s0.smps[0].ctx[0]).map (·.pc) = some 0 ∧ lookupD s0.smps[0].progs 0 [] = [0x10940000]) := by
  decide +kernel
theorem meets_MemoryStaysCanonical : Memory.wf addS = true ∧ ∃ t, step addS = .next t :=
  ⟨by decide +kernel, answers (by decide +kernel)⟩
/-- A step of add from reset: the program counter moves on. -/
theorem test_step : (after (step addS)).cores[(0 : Fin 64)].pc = addS.cores[(0 : Fin 64)].pc + 4 := by decide +kernel
end Sys2Proof.Tests

/-! ## More of the conditions that the statements name -/

namespace Sys2Proof.Tests

theorem meets_MailboxEffects_parts : (∀ f ∈ mail.flits, mail.cores[f.core].part = f.part) ∧
    ∀ f ∈ mail.credits, mail.cores[f.core].part = f.part := by decide +kernel

/-- A state of bound EXT edges with the register value `v`, and grants of nothing. -/
def ungranted (v : Word) : State := { (bound [] v).setPart 0 { (bound [] v).part 0 with grants := Grants.none } with input := (bound [] v).input }
/-- A sampler with `n` inputs of another core. -/
def smpFull (n : Nat) (v : Word) : State := (bound [] v).onSmp 0 fun x => { x with inputs := (List.range n).map fun _ => (1, 0, 1) }
/-- An EXT edge into the region on the data net, for a sampler's output. -/
def intoE : Edge := { extE 3 0 with xin := true }
def intoR (ends : List (BitVec 12 × ExtEnd)) : Region := { oneTile ⟨0, 0, 0⟩ with edges := [intoE], ends }
def smpInto (outs : List (Fin 64 × BitVec 3 × BitVec 12)) (ends : List (BitVec 12 × ExtEnd)) : State :=
  let s := bound ends 0x40018
  { s.onSmp 0 (fun x => { x with outputs := outs }) with regions := [intoR ends] }
theorem meets_BindingWrites_refused :
    ((bound [(5, .tarior 0 3 0)] 0x300010).onChannel 0 3 ≠ [] ∧ (bound [(2, .smpIn 0)] 0x300010).onChannel 0 3 = [] ∧
      (bound [(2, .smpIn 0)] 0x300010).regions.map (·.ends) = [[(2, .smpIn 0)]]) ∧
    ((∀ n : Fin 18, ((ungranted 0x300010).part 0).grants.ports.contains n.val = false) ∧ ¬ ((0x390010 : Word).extractLsb' 15 5).toNat < 18) ∧
    (bound [] 0x300038).region 0 0 = some { oneTile ⟨0, 0, 0⟩ with edges := [extE 1 1, extE 2 0] } ∧
    ((smpFull 15 8).smps[(0 : Fin 8)].inputs.length < 16 ∧ 16 ≤ (smpFull 16 8).smps[(0 : Fin 8)].inputs.length) ∧
    ((smpInto [] []).extEdge 0 3 true = some (intoR [], intoE) ∧ intoE.net = 0 ∧ (smpInto [] []).input.val.getLsbD 18 = true ∧
      (smpInto [] []).smps[(0 : Fin 8)].outputs = [] ∧ (intoR []).ends = []) ∧
    ((smpInto [(0, 0, 3)] []).smps[(0 : Fin 8)].outputs = [(0, 0, 3)] ∧
      (smpInto [(0, 0, 3)] []).smps[(0 : Fin 8)].outputs.contains (0, 0, 3) = true ∧ (intoR [(3, .smpOut 0)]).ends = [(3, .smpOut 0)]) ∧
    ((ungranted 8).part 0).grants.samplers.contains 0 = false ∧
    ((bound [] 0x10).extEdge 0 2 false).map (·.2.net) = some 0 := by decide +kernel
/-- STA_GEOM: a list pinned, and an arena of two lists and three blocks where it fits, and where it does not. -/
theorem meets_BindingWrites_geometry :
    (let s : State := { splicing 8 [] with input := { Input.none with val := 0x30002 } }
     s.anyPinned s.pid = true) ∧
    (let s (b : BitVec 41) := (bound [] 0x30002).setPart 0 { (bound [] 0).part 0 with
       staBase := b, grants := { ((bound [] 0).part 0).grants with vaults := [0] } }
     (s 0x10000000000).anyPinned 0 = false ∧ (s 0x10000000000).arenaFits 0 2 3 = true ∧ Memory.wf (s 0x10000000000) = true ∧
       (s 0).anyPinned 0 = false ∧ (s 0).arenaFits 0 2 3 = false) := by decide +kernel

/-- A DEBUG token for partition 0 at 0 in memory, with the nonce 5, unsigned, and g3 its address `a`. -/
def debugS (a : Word) (f : Partition → Partition) : State :=
  let s := gr id 0 [(0, 5)]
  (s.setPart 0 (f (s.part 0))).setCore (s.core.setReg 3 a)
theorem errorOf {ε α : Type} {x : Except ε α} (h : x.toBool = false) : ∃ e, x = .error e := by
  cases x with
  | error e => exact ⟨e, rfl⟩
  | ok a => cases h

theorem meets_SupervisorCalls_debug :
    (Says.Free (debugS 8 id) ∧ (debugS 8 id).core.part = some 0 ∧ Says.Plain (debugS 8 id) 3 ∧ Says.reg (debugS 8 id) 3 = 8 ∧
      (debugS 8 id).vendor = false ∧ (debugS 8 id).sec ≠ .failed) ∧ (∃ b, (debugS 8 id).readCore 8 192 = .ok b) ∧
    (∃ e, (regs [(3, 8)]).readCore 8 192 = .error e) ∧ Says.reg (regs [(3, 4)]) 3 = 4 ∧
    (∃ b, (gr id 0).readCore 0 4096 = .ok b) ∧ (∃ e, (regs []).readCore 0 4096 = .error e) ∧
    ((gr id 0 [(8, 1)]).readCore 0 192).toOption.map (dwAt · 8) = some 1 ∧
    ((called.hasTile 0 ⟨0, 0, 0⟩ = false ∧ TileId.isMT ⟨0, 0, 0⟩ = false) ∧
      (∀ q ∈ (called.setPart 0 { called.part 0 with grants := { (called.part 0).grants with swapMaps := [] } } |>.part 0).grants.swapMaps,
        q.1 ≠ (⟨0, 1, 0⟩ : TileId))) :=
  ⟨⟨⟨rfl, rfl⟩, rfl, ⟨by decide, rfl, rfl, rfl⟩, rfl, rfl, by decide +kernel⟩, okOf (by decide +kernel), errorOf (by decide +kernel), rfl,
    okOf (by decide +kernel), errorOf (by decide +kernel), by decide +kernel⟩
theorem meets_SupervisorInstructions_waits :
    (let s := ints.setCore { ints.core with loads := [ldOp 3 8 8 false] }
     Says.Free s ∧ Says.Reads s [9] [5] s ∧ s.core.loads ≠ []) ∧
    (∀ c : BitVec 3, let s := ints.setCore { ints.core with stores := [stOp] }
     c.toNat < 5 → ∃ st ∈ s.core.stores, ((st.near.map Prod.fst).getD 0).toNat < if c = 0 then 3 else c.toNat) :=
  ⟨⟨⟨rfl, rfl⟩, reads1 rfl, by decide +kernel⟩, by decide +kernel⟩

theorem meets_PreemptAndContain_grants_kept : (called.part called.input.p).saved = none ∧ (called.larder = []) ∧
    State.reset.input.grants ≠ (called.part 0).grants := by decide +kernel

/-- Partition 0's host writes two bytes at offset 8 of BAR0. -/
def doorS : State := { paged 1 with input := { (paged 1).input with bar0 := true, host := .write [1, 2] } }
theorem meets_SecurityAndHost_more :
    (doorS.input.fn = some 0 ∧ doorS.sec = .secure ∧ (doorS.part 0).booted = true ∧ doorS.power = .p0 ∧ doorS.input.bar0 = true ∧
      doorS.input.host = .write [1, 2] ∧ doorS.input.off.toNat = 8 ∧ 8 + [1, 2].length ≤ 2 ^ 16) ∧
    ((paged 1).input.bar0 = false ∧ (paged 1).input.off.toNat + 1 ≤ 2 ^ 36) ∧
    ed448 Config.vendorKey (shake256 (paged 1).input.bytes 64) (paged 1).input.sig = false ∧
    (∃ p : Fin 16, (asked false).parts[p].pre = .requested) ∧ (∀ p : Fin 16, (paged 1).parts[p].pre ≠ .requested) :=
  ⟨by decide +kernel, by decide +kernel, rfl, by decide +kernel, by decide +kernel⟩

end Sys2Proof.Tests
namespace Sys2Proof.Tests

/-- R300's conditions one after another: no row too many, no block short, and each of the two refused (R428 sets the limits). -/
theorem meets_StitchInstructions_limits :
    (let s := splicing 8 appendD
     let g := s.listHdr 0 5
     let new := spliceRuns (s.runsOf 0 (g.slot g.cur).spine) reqD.index (reqD.index + reqD.nrem) reqD.ins
     let len := g.len - reqD.nrem + (reqD.ins.map Piece.plen).sum
     let need := if len = 0 then 0 else (new.filter fun r => r.1.isNone).length + 1
     ¬(2 ^ 24 - 1 < len) ∧ ¬(1792 < (new.map fun r => r.2.length).sum) ∧ ¬(112 < new.length) ∧ need ≤ (s.freeBlocks 0).length ∧
       (s.part 0).retired.length + (cutOut reqD.index (reqD.index + reqD.nrem) 0 ((s.runsOf 0 (g.slot g.cur).spine).flatMap Prod.snd)).length ≤ 4096 ∧
       ((splicing 2 appendD).freeBlocks 0).length < need) ∧
    (let s := splicing 8 ((0, 61) :: (8, 1) :: memSets [] 32 ({ pD with plen := 2 ^ 24 - 4 } : Piece).bytes)
     let q := { reqD with ins := [{ pD with plen := 2 ^ 24 - 4 }] }
     s.spliceReq 0 = some q ∧ s.listOf 0 5 = .ok 5 ∧ (s.listHdr 0 5).newSlot = some 1 ∧
       2 ^ 24 - 1 < (s.listHdr 0 5).len - q.nrem + (q.ins.map Piece.plen).sum) := by decide +kernel

/-- seqbind: a malformed block, a program slot that is not granted or holds another program, a header that is refused, and CLR. -/
theorem meets_SequenceBindings_checks :
    (let blk := memGets (seqs 0x58000000 []).mem 0 32
     (seqs 0x58000000 []).readCore 0 32 = .ok blk ∧ (0 : Word).toNat % 32 = 0 ∧ (Machine.dwordAt blk 1).toNat < 2 ^ 19 ∧
       (Machine.dwordAt blk 1).getLsbD 18 = false ∧ ((Machine.dwordAt blk 1).extractLsb' 12 6).toNat = 3 ∧ ((Machine.dwordAt blk 1).extractLsb' 9 3).toNat = 1) ∧
    (9 : Word).toNat % 32 ≠ 0 ∧ (∃ e, (regs []).readCore 9 32 = .error e) ∧
    ((seqs 0x58000000 []).setPart 0 Partition.reset |>.part 0).grants.samplers.contains 1 = false ∧
    headerOk ((gr id 0).viewBytes (larderAt 2) 64) = false ∧
    (let s := seqs 0x58000000 [⟨7, 0, 1, 3⟩]
     s.lbind 2 = none ∧ (∃ o ∈ s.larder, o.smp = 1 ∧ o.pslot = 3) ∧ lookupD s.smps[(1 : Fin 8)].progs 3 [] ≠ [0x58000000]) ∧
    (let s := { seqs 0x58000000 [] with mem := memSet (seqs 0x58000000 []).mem 10 4 }
     (s.readCore 0 32).toOption.map (fun b => (Machine.dwordAt b 1).getLsbD 18) = some true ∧ Memory.wf s = true ∧ s.lbind 2 = none) :=
  ⟨by decide +kernel, by decide, errorOf (by decide +kernel), by decide +kernel, by decide +kernel, by decide +kernel, by decide +kernel⟩

/-- Elements of a BVB segment stand to be written, the second of them the first present one. -/
def shBvb : Shape := { sh22 with base := 0, fmt := 0x13 }
def bvbSl : Slot := { walking shBvb 0 [none, some 77] with held := some (dat 3 0) }
theorem meets_AddressGenerators_bvb :
    let s := agS st shBvb [] [bvbSl]
    let x := agX st (ag1 0) shBvb
    let hs := [(0, 0, 64), (64, 64, 64), (128, 128, 64), (192, 192, 64), (256, 256, 16)]
    Says.Fires s (ag1 0) x ∧ s.storeDue x = some bvbSl ∧ keepsOld shBvb.fmt.toNat = true ∧
      s.storeAddr x bvbSl (wk shBvb 0 [none, some 77]) false = .ok 0 ∧
      Says.Reached s x 0 0 272 true hs ∧ Says.Reached s x 0 0 272 false hs ∧ (([none, some 77] : List (Option Word)).filterMap id).length ≠ 0 :=
  ⟨fires rfl rfl rfl rfl rfl rfl rfl (by decide +kernel), by decide +kernel, by decide +kernel, by decide +kernel,
    ⟨rfl, by rfl, rfl⟩, ⟨rfl, by rfl, rfl⟩, by decide +kernel⟩

end Sys2Proof.Tests
namespace Sys2Proof.Tests

/-- A region whose ingress EXT edge 3 brings to port 1 of station 0, with `h` held there and the decision `d`. -/
def letE : Edge := { intoE with dst := t0, dstSt := 0, dport := 1 }
def letR (h : List Held) (d : Option (BitVec 2)) : Region := { stReg t0 0 0 with edges := letE :: stEdges t0 0 0, ingress := h, decision := d }
def letS (h : List Held) (d : Option (BitVec 2)) : State := { arr (.iadd (two 0)) [] with flight := [], regions := [letR h d] }
def heldIn : Held := ⟨3, dat 3 5, none, 0, none⟩
def goalIn : Held := { heldIn with goal := some letE.end_ }
theorem meets_FeedingStations_enters :
    ((letS [heldIn] none).regionOf t0 = some (letR [heldIn] none) ∧ (letS [heldIn] none).spread (letR [heldIn] none) = [goalIn] ∧
      (letS [goalIn] none).entries (letR [goalIn] none) 3 = [letE] ∧ (letR [goalIn] none).holding letE = false ∧
      (letS [goalIn] none).edgeRoom letE = true ∧ (letS [goalIn] none).pathOpen (letR [goalIn] none) letE = true) ∧
    ((letS [goalIn] (some 1)).spread (letR [goalIn] (some 1)) = [goalIn] ∧ (letS [goalIn] (some 1)).entries (letR [goalIn] (some 1)) 3 = [letE] ∧
      (letR [goalIn] (some 1)).holding letE = true) ∧
    State.reset.regionOf t0 = none := by decide +kernel

/-- A token of the egress edge 9 that has come to side 0 of its boundary tile, its edge bound to a sampler or to nothing. -/
def leaving9 (hops : List (TileId × Nat)) : Flight := ⟨9, none, t0, 0, 4, dat 3 5, hops, none, 0⟩
def egR (ends : List (BitVec 12 × ExtEnd)) : Region := { stReg t0 0 0 with edges := extE 9 1 :: stEdges t0 0 0, ends }
def egS (hops : List (TileId × Nat)) (ends : List (BitVec 12 × ExtEnd)) : State :=
  { arr (.iadd (two 0)) [] with flight := [leaving9 hops], regions := [egR ends], input := Input.none }
theorem meets_FeedingStations_leaves :
    (∀ hops ∈ [[], [(t0, 0)], [(far, 1), (t0, 0)]], let s := egS hops [(9, .smpIn 0)]
     s.nextFlight t0 0 0 = none ∧ s.nextEgress t0 0 = some (leaving9 hops) ∧ (leaving9 hops).reorders = false ∧
       s.regionOf t0 = some (egR [(9, .smpIn 0)]) ∧ s.letIn t0 0 0 = s ∧ s.endRoom (egR [(9, .smpIn 0)]) (extE 9 1) 0 = true) ∧
    ((egS [] []).nextEgress t0 0 = none ∧ (egR []).edges.find? (fun e => e.id == 9 && e.ext && !e.xin) = some (extE 9 1)) := by
  refine ⟨fun hops h => ?_, by decide +kernel⟩
  simp only [List.mem_cons, List.not_mem_nil, or_false] at h
  rcases h with rfl | rfl | rfl <;> decide +kernel

/-- A bin's server finds its tile standing still, or not. -/
theorem meets_FeedingStations_still : (memS ls 4 [] [] [(0x14010, fullBin 0)]).still mt = false ∧
    ({ memS ls 4 [] [] [(0x14010, fullBin 0)] with regions := [{ stReg mt 4 0 with hung := true }] } : State).still mt = true := by decide +kernel

/-- Operations of rfence's launch that are awaited: a read, or a write. -/
def awaitW : ROp := ⟨4, dat 1 peerA, .write 0 8 [1] none, none, false⟩
theorem meets_RemoteStations_orders : (∀ aux ∈ [0, 1, 2, 3], ∀ l ∈ [[awaitW], awaits 1],
    let s := remS (.rfence (rfnf aux)) [(0, dat 3 5)] l
    Says.HasHead s (rfnf aux) (remX (.rfence (rfnf aux)) (rfnf aux)) 0 (dat 3 5) ∧
      s.awaitingOf (remX (.rfence (rfnf aux)) (rfnf aux)) 0 = l) ∧ (awaits 1).map (·.op) = [.read 0 8 8] ∧ awaitW.op = .write 0 8 [1] none := by
  refine ⟨fun aux h l hl => ?_, rfl, rfl⟩
  simp only [List.mem_cons, List.not_mem_nil, or_false] at h hl
  rcases h with rfl | rfl | rfl | rfl <;> rcases hl with rfl | rfl <;>
    exact ⟨⟨fires rfl rfl rfl rfl rfl rfl rfl (by decide +kernel), rfl⟩, rfl⟩

/-- A flit of class channel `vc` that returns no credits, number 5. -/
def classD (vc : Nat) : Word := BitVec.ofNat 64 (vc + 5 * 2 ^ 8)
theorem meets_TariorPorts_classes :
    (∀ vc ∈ [32, 33, 34, 35], let b := flitB (classD vc)
     b.length = 80 ∧ crc32c (b.take 72) = wAt b 72 ∧ flitBad b 5 0 = false ∧ (dwAt b 0).toNat % 64 = vc ∧ (dwAt b 0).toNat / 2 ^ 38 % 256 = 0) ∧
    (let b := flitB (classD 40)
     crc32c (b.take 72) = wAt b 72 ∧ flitBad b 5 0 = true ∧ (dwAt b 0).toNat / 2 ^ 8 % 2 ^ 12 = 5) ∧
    (portS (up 8) []).input.module ≠ (portS (up 8) []).module ∧ 8 ≤ (up 8).tries ∧ (up 7).tries < 8 ∧
    (let s : State := { portS (up 0) (flitB (classD 35)) with input := { Input.none with bytes := flitB (classD 35), hub := some (.unbound 3) } }
     s.input.module = s.module ∧ s.input.hub = some (.unbound 3) ∧ s.input.ok = true) ∧
    (∃ q ∈ (up 0).partPay, q.1 = 3) := by
  refine ⟨fun vc h => ?_, by decide +kernel, by decide +kernel, by decide, by decide, by decide +kernel, ⟨(3, [1]), List.mem_cons_self, rfl⟩⟩
  simp only [List.mem_cons, List.not_mem_nil, or_false] at h
  rcases h with rfl | rfl | rfl | rfl <;> decide +kernel

theorem meets_CancelsAndFailures_waits :
    (let s : State := { runS run9 with input := { Input.none with k := 1 } }
     s.input.k ≠ 0 ∧ ({ s with ctx := 0 } : State).ctxNow = some run9 ∧ ({ s with ctx := 1 } : State).ctxNow = none) ∧
    (failing.input.k = 0 ∧ (failing.lead { stReg t0 0 0 with live := [live0] }).live = [live0] ∧ live0.cancelled = none) ∧
    (let r : Region := { stReg t0 0 0 with live := [live0], hung := true }
     ({ failing with regions := [r] } : State).regionOf t0 = some r ∧ r.hung = true) := by decide +kernel

/-- A token waits to leave a sampler, whose region has an output edge there or not. -/
def outItem : SmpItem := ⟨0, 0, 0, 0, 3, 9, 2, [], none, some (dat 3 5)⟩
def flushS (b : Bool) : State :=
  let s := smpInto (if b then [(0, 0, 3)] else []) []
  s.onSmp 0 fun x => { x with items := [outItem] }
theorem meets_LogitInstructions_leaves :
    (∀ b : Bool, (flushS b).smpLeaves 0 [] (flushS b).smps[(0 : Fin 8)].items = some outItem) ∧
    (flushS false).smpOutEdge 0 0 0 = none ∧ (flushS true).smpOutEdge 0 0 0 = some (intoR [], intoE) ∧
    (let s := (startS.setPart 1 { startS.part 1 with grants := { (startS.part 1).grants with samplers := [0] } }).onSmp 0 fun x =>
       { x with ctx := x.ctx.set 1 (some { run9 with slot := 8 }) }
     s.smpBusy 0 0 = true ∧ startS.smpBusy 0 0 = false) := by decide +kernel

/-- An enabled interrupt is pending before the word at the program counter: an add, or one that is illegal. -/
def pendingS (w : BitVec 32) : State :=
  let s := State.reset.placeControl w
  s.setCoreAt 0 { s.cores[(0 : Fin 64)] with ie := true, intEn := 0x7F, timecmp := 0 }
theorem meets_StepRunsDecoded_interrupts :
    (∀ w ∈ [(0x04642800 : BitVec 32), 0], let s0 := ((pendingS w).tick.before (.core 0)).at_ (.core 0)
     (pendingS w).nextTurn = .core 0 ∧ s0.powered = true ∧ s0.core.run = .run ∧ s0.interrupted = true) ∧
    (let s0 := ((pendingS 0x04642800).tick.before (.core 0)).at_ (.core 0)
     s0.nextWord.2.traps s0.nextWord.1 = false) ∧
    (let s0 := ((pendingS 0).tick.before (.core 0)).at_ (.core 0)
     s0.nextWord.2.traps s0.nextWord.1 = true) := by
  refine ⟨fun w h => ?_, by decide +kernel, by decide +kernel⟩
  simp only [List.mem_cons, List.not_mem_nil, or_false] at h
  rcases h with rfl | rfl <;> decide +kernel

/-- A phase of module 5 holds a graph here. -/
def guestS : State :=
  let s : State := { gr id 1 with input := { Input.none with serial := 7, who := .module 5 } }
  s.setPart 0 { s.part 0 with guests := [{ phase Counter.zero [] with owner := 5 }] }
theorem meets_PhaseLife_guests : guestS.phaseAt 0 (5, 7) = some { phase Counter.zero [] with owner := 5 } ∧ (5 : BitVec 10) ≠ guestS.module ∧
    guestS.input.who = .module 5 ∧ (guestS.part guestS.input.p).saved = none := by decide +kernel

end Sys2Proof.Tests

end
end

section
/-! SUPPORT and the proof of O59: no step leaves the canonical form of the memory (log 1). -/

namespace Sys2Proof.Machine

variable {s s0 t : State}

/-! The lemmas follow the model's files and come in three forms.

* `State.f_mem`: the operation `f` leaves the memory alone. These are the frame rules, tagged for `simp`, or, when `f`
  may fail, stated of the outcome `f … = some t`.
* `State.Ok.f`: the operation `f` keeps the invariant. An operation that runs a continuation keeps it when the
  continuation does.
* `execX_ok`: the instruction `X` keeps it. -/

/-! ## The invariant -/

/-- The invariant speaks of the memory alone, so a change elsewhere in the state keeps it. -/
theorem State.Ok.of_mem (h : s.Ok) (e : t.mem = s.mem) : t.Ok := ⟨by rw [Memory.wf, e]; exact h.mem⟩

theorem State.Ok.ite {c : Prop} [Decidable c] (hs : s.Ok) (ht : t.Ok) : (if c then s else t).Ok := by
  split
  · exact hs
  · exact ht

theorem State.Ok.foldl {α : Type} {f : State → α → State} {l : List α} (h : s.Ok) (hf : ∀ s a, s.Ok → (f s a).Ok) :
    (l.foldl f s).Ok := by
  induction l generalizing s with
  | nil => exact h
  | cons a l ih => exact ih (hf s a h)

theorem State.Ok.of_some_snd {α : Type} {p : α × State} {a : α} (h : p.2.Ok) (e : some p = some (a, t)) : t.Ok := by
  obtain rfl := Option.some.inj e
  exact h

theorem foldl_mem {α : Type} {f : State → α → State} {l : List α} (hf : ∀ s a, (f s a).mem = s.mem) :
    (l.foldl f s).mem = s.mem := by
  induction l generalizing s with
  | nil => rfl
  | cons a l ih => rw [List.foldl_cons, ih, hf]

/-- What an outcome keeps: the state after it, when there is one, is well formed. -/
def Out.Ok : Out → Prop
  | .next t => t.Ok
  | _ => True

theorem Out.Ok.next {o : Out} (h : o.Ok) (e : o = .next t) : t.Ok := by
  subst e
  exact h

theorem Out.ok_ite {c : Prop} [Decidable c] {o p : Out} (ho : o.Ok) (hp : p.Ok) : (if c then o else p).Ok := by
  split
  · exact ho
  · exact hp

/-! ## What the laws of the state say of the memory -/

theorem State.getReg_mem {r w} (e : s.getReg r = .ok w t) : t.mem = s.mem := (State.getReg_frame e).mem
theorem State.reserve_mem {r w} (e : s.reserve r = .ok w t) : t.mem = s.mem := (State.reserve_frame e).mem

theorem State.locate_mem {ea n home need} (e : s.locate ea n need = .at_ home t) : t.mem = s.mem := by
  obtain ⟨tlb, rfl⟩ := State.locate_frame e
  rfl

/-! ## Registers, near writes and issue -/

@[simp] theorem State.leaveTrap_mem : s.leaveTrap.mem = s.mem := by
  unfold State.leaveTrap
  dsimp only
  split <;> simp

theorem State.Ok.writeNear {b near a bs} (h : s.Ok) :
    (s.writeNear b near a bs).Ok := ⟨State.writeNear_wf b near a bs h.mem⟩

theorem State.Ok.writeMem {b a bs} (h : s.Ok) : (s.writeMem b a bs).Ok := ⟨State.writeMem_wf b a bs h.mem⟩
theorem State.Ok.writeAs {b a bs} (h : s.Ok) : (s.writeAs b a bs).Ok := ⟨State.writeAs_wf b a bs h.mem⟩
@[simp] theorem State.request_mem {m tile q} : (s.request m tile q).mem = s.mem := rfl

@[simp] theorem State.giveCredit_mem {n desc} : (s.giveCredit n desc).mem = s.mem := by
  unfold State.giveCredit
  split <;> rfl

@[simp] theorem State.sendFlit_mem {n desc v} : (s.sendFlit n desc v).mem = s.mem := by
  unfold State.sendFlit
  split <;> rfl

theorem State.Ok.withRegs_go {k rs ws} (h0 : s0.Ok) (h : s.Ok) (hk : ∀ ws s, s.Ok → (k ws s).Ok) :
    (State.withRegs.go s0 k rs ws s).Ok := by
  induction rs generalizing ws s with
  | nil => exact hk ws s h
  | cons r rs ih =>
    unfold State.withRegs.go
    split
    · next e => exact ih (h.of_mem (State.getReg_mem e))
    · exact h0
    · exact h0.of_mem (by simp)

theorem State.Ok.withRegs {rs k} (h : s.Ok) (hk : ∀ ws s, s.Ok → (k ws s).Ok) :
    (s.withRegs rs k).Ok := h.withRegs_go h hk

@[simp] theorem State.retire_mem : s.retire.mem = s.mem := rfl

theorem State.putReg_mem {r w v} (e : s.putReg r w = .ok v t) : t.mem = s.mem := by
  unfold State.putReg at e
  split at e
  · cases e; rfl
  · dsimp only at e
    split at e
    · split at e
      · cases e
      · split at e
        · cases e
        · split at e <;> cases e <;> simp
    · cases e; rfl

theorem State.Ok.finish {d w} (h0 : s0.Ok) (h : s.Ok) : (State.finish s0 s d w).Ok := by
  unfold State.finish
  split
  · next e1 => exact (h.of_mem (State.putReg_mem e1)).of_mem (by simp)
  · exact h0
  · exact h0.of_mem (by simp)

theorem State.Ok.issue {k} (h : s.Ok) (hk : ∀ s, s.Ok → (k s).Ok) : (s.issue k).Ok := by
  unfold State.issue
  split
  · exact hk _ h
  · exact .ite (h.of_mem (by simp)) (h.of_mem (by simp))

theorem State.Ok.compute {rs d f} (h : s.Ok) : (s.compute rs d f).Ok :=
  h.issue fun _ h => h.withRegs fun _ _ h' => h.finish h'

theorem State.Ok.unsafeIssue {k} (h : s.Ok) (hk : ∀ s, s.Ok → (k s).Ok) : (s.unsafeIssue k).Ok :=
  h.issue fun _ h1 => .ite (h1.of_mem (by simp)) (hk _ h1)

/-! ## Flags and division -/

theorem State.Ok.divide {a b d f} (h : s.Ok) : (s.divide a b d f).Ok :=
  h.issue fun _ h1 => h1.withRegs fun _ _ h2 => h1.finish (h2.of_mem (by simp))

/-! ## Virtual writes in pieces -/

theorem State.Ok.writePieces {b base bytes l} (h : s.Ok) : (s.writePieces b base bytes l).Ok := by
  induction l generalizing s with
  | nil => exact h
  | cons p ps ih => exact ih h.writeAs

theorem State.Ok.writeV {p ws va bytes} (h : s.Ok) (e : s.writeV p ws va bytes = .ok t) : t.Ok := by
  unfold State.writeV at e
  cases hc : s.check p ws .write (chunks va bytes.length) with
  | error _ => simp [hc, Except.map] at e
  | ok hs =>
    simp only [hc, Except.map, Except.ok.injEq] at e
    exact e ▸ h.writePieces

@[simp] theorem State.noteCopyAt_mem {i cause addr} : (s.noteCopyAt i cause addr).mem = s.mem := rfl

/-! ## The race detector -/

@[simp] theorem State.setClock_mem {k} : (s.setClock k).mem = s.mem := rfl
@[simp] theorem State.raceReleaseVia_mem {a scope via launch} : (s.raceReleaseVia a scope via launch).mem = s.mem := rfl
@[simp] theorem State.raceRelease_mem {a scope} : (s.raceRelease a scope).mem = s.mem := rfl
@[simp] theorem State.raceAcquire_mem {a scope} : (s.raceAcquire a scope).mem = s.mem := rfl
@[simp] theorem State.raceJoin_mem {a b scope ok} : (s.raceJoin a b scope ok).mem = s.mem := rfl
@[simp] theorem State.acquire_mem {scope} : (s.acquire scope).mem = s.mem := rfl
@[simp] theorem State.raceTake_mem {a scope home n} : (s.raceTake a scope home n).mem = s.mem := rfl
@[simp] theorem State.raceLeave_mem {home n sh} : (s.raceLeave home n sh).mem = s.mem := rfl

@[simp] theorem State.raceMark_mem {a home n write atom cp launch} : (s.raceMark a home n write atom cp launch).mem =
    s.mem := by
  unfold State.raceMark
  split <;> rfl

@[simp] theorem State.raceLanded_mem : s.raceLanded.mem = s.mem := by
  unfold State.raceLanded
  dsimp only
  split <;> rfl

theorem State.Ok.post {p r r' l} (h : s.Ok) (e : s.post p r l = .posted t r') : t.Ok := by
  unfold State.post at e
  split at e
  · cases e
  · dsimp only at e
    split at e
    · cases e
    · next ew => cases e; exact h.writeV ew

theorem State.Ok.raceLog {i dwords} (h : s.Ok) : (s.raceLog i dwords).Ok := by
  unfold State.raceLog
  dsimp only
  split
  · next e1 => exact (h.post e1).of_mem (by simp)
  · exact .ite h (h.of_mem (by simp))
  · exact h.of_mem (by simp)

theorem State.Ok.raceSays {owner a va home n write atom cp} (h : s.Ok)
    (e : s.raceSays owner a va home n write atom cp = some t) : t.Ok := by
  unfold State.raceSays at e
  dsimp only at e
  split at e
  · cases e; exact h
  · split at e
    · cases e; exact h
    · split at e
      · cases e
      · cases e; exact h.raceLog

theorem State.Ok.raceCheck {owner a va home n write atom cp launch} (h : s.Ok)
    (e : s.raceCheck owner a va home n write atom cp launch = some t) : t.Ok := by
  obtain ⟨s1, e1, rfl⟩ := Option.map_eq_some_iff.1 e
  exact .ite ((h.raceSays e1).of_mem State.raceMark_mem) (h.raceSays e1)

/-! ## Loads, stores and atomics -/

@[simp] theorem State.abortLater_mem {me lines} : (s.abortLater me lines).mem = s.mem := rfl

theorem State.Ok.txTouch {lines rd wr k} (h0 : s0.Ok) (h : s.Ok) (hk : ∀ s, s.Ok → (k s).Ok) :
    (State.txTouch s0 s lines rd wr k).Ok := by
  unfold State.txTouch
  split
  · exact hk _ h
  · exact .ite (h0.of_mem (by simp)) (.ite (h0.of_mem (by simp))
        (hk _ (.ite (h.of_mem (by simp)) (h.of_mem (by simp)))))

@[simp] theorem State.deliver_mem {d mbx place w} : (s.deliver d mbx place w).mem = s.mem := by
  unfold State.deliver
  dsimp only
  split
  · rfl
  · split
    · split
      · simp
      · split <;> simp
    · simp

@[simp] theorem State.poisonReg_mem {l} : (s.poisonReg l).mem = s.mem := by
  unfold State.poisonReg
  split
  · simp
  · split <;> simp

theorem State.Ok.coreCheck {ea home n write atom} (h : s.Ok) (e : s.coreCheck ea home n write atom = some t) :
    t.Ok := by
  unfold State.coreCheck at e
  split at e
  · exact h.raceSays e
  · cases e; exact h

@[simp] theorem State.coreSee_mem {on home n} : (s.coreSee on home n).mem = s.mem := by
  unfold State.coreSee
  split <;> rfl

@[simp] theorem State.reads_mem {home} : (s.reads home).mem = s.mem := rfl

theorem State.Ok.load {rs eaOf d size sext} (h : s.Ok) : (s.load rs eaOf d size sext).Ok :=
  h.issue fun s h => h.withRegs fun ws s' h' => by
    refine .ite h ?_
    split
    · exact h
    · exact h.of_mem (by simp)
    · next er =>
      have h1 := h'.of_mem (State.reserve_mem er)
      split
      · exact h.of_mem (by simp)
      · exact h1.of_mem (by simp)
      · next el =>
        refine .ite h ?_
        split
        · exact h.of_mem (by simp)
        · next ec =>
          exact h.txTouch ((h1.of_mem (State.locate_mem el)).coreCheck ec) fun s4 h4 =>
            .ite (h4.of_mem (by simp)) (h4.of_mem (by simp))

theorem State.Ok.loadRI {d a i size sext} (h : s.Ok) : (s.loadRI d a i size sext).Ok := h.load

theorem State.Ok.store {rs eaOf size} (h : s.Ok) : (s.store rs eaOf size).Ok :=
  h.issue fun s h => h.withRegs fun ws s' h' => by
    refine .ite h ?_
    split
    · exact h.of_mem (by simp)
    · exact .ite (h.of_mem (by simp)) (.ite (h'.of_mem (by simp)) (h'.of_mem (by simp)))
    · next el =>
      refine .ite h ?_
      split
      · exact h.of_mem (by simp)
      · next ec => exact h.txTouch ((h'.of_mem (State.locate_mem el)).coreCheck ec) fun s4 h4 => h4.of_mem (by simp)

theorem State.Ok.storeRI {d a i size} (h : s.Ok) : (s.storeRI d a i size).Ok := h.store

@[simp] theorem State.rmwAcquires_mem {home q check} : (s.rmwAcquires home q check).mem = s.mem := by
  unfold State.rmwAcquires
  split
  · simp
  · split <;> simp

theorem State.Ok.performRmw {home q check mark} (h : s.Ok) : (s.performRmw home q check mark).2.Ok := by
  unfold State.performRmw
  dsimp only
  split
  · exact h.of_mem (by simp)
  · split
    · exact State.Ok.of_mem (State.Ok.writeAs (h.of_mem (by simp))) State.raceLeave_mem
    · exact State.Ok.writeAs (h.of_mem (by simp))

theorem State.Ok.performLoad {i} (h : s.Ok) : (s.performLoad i).Ok := by
  unfold State.performLoad
  split
  · exact h
  · refine .ite h (State.Ok.of_mem ?_ (State.setCore_mem ..))
    split
    · exact h.performRmw
    · exact h.of_mem (by simp)

theorem State.Ok.performBefore {p i home n} (h : s.Ok) :
    (s.performBefore p i home n).Ok := h.foldl fun _ _ h => h.performLoad

theorem State.Ok.performTo {i} (h : s.Ok) : (s.performTo i).Ok := by
  unfold State.performTo
  split
  · exact h
  · exact h.performBefore.performLoad

theorem State.performOld_mem {i x} (e : s.performOld i x = some t) : t.mem = s.mem := by
  unfold State.performOld at e
  split at e
  · cases e
  · dsimp only at e
    split at e
    · cases e
    · cases e; simp

@[simp] theorem State.failLoad_mem {i cause} : (s.failLoad i cause).mem = s.mem := by
  unfold State.failLoad
  split
  · simp
  · split <;> simp

theorem execLoadReply_ok (h : s.Ok) : Out.Ok (execLoadReply s) := by
  unfold execLoadReply
  extract_lets i
  split
  · exact h
  · extract_lets done value
    have hd : ∀ s w, s.Ok → (done s w).Ok := fun s w h => h.of_mem (by simp [done])
    have hf : ∀ cause, (s.failLoad i cause).Ok := fun _ => h.of_mem State.failLoad_mem
    split
    · exact h
    · split
      · exact hf 8
      · split
        · exact .ite h (hd _ _ h.performTo)
        · next o _ =>
          cases eo : s.performOld i o with
          | none => exact h
          | some s1 => exact hd _ _ (h.of_mem (State.performOld_mem eo))
        · exact .ite h (.ite (hf 4) (hd _ _ h))
        · exact hf _
        · exact .ite (hf 4) h

theorem State.Ok.performStore {i st} (h : s.Ok) : (s.performStore i st).Ok := by
  unfold State.performStore
  extract_lets s1 s2
  have h1 : s1.Ok := .ite h h.performBefore
  have h2 : s2.Ok := h1.of_mem (State.setCore_mem ..)
  refine .ite h2 ?_
  split
  · exact h2.performRmw
  · split
    · exact h2.writeNear.of_mem State.raceLeave_mem
    · exact h2.writeNear

theorem State.Ok.performOwn {home n} (h : s.Ok) : (s.performOwn home n).Ok :=
  h.performBefore.foldl fun _ _ h => by
    split
    · exact h
    · split
      · exact h
      · exact h.performStore

@[simp] theorem State.performNear_mem {i k} : (s.performNear i k).mem = s.mem := rfl

@[simp] theorem State.failStore_mem {i} : (s.failStore i).mem = s.mem := by
  unfold State.failStore
  repeat' split
  all_goals simp

theorem execStorePerformed_ok (h : s.Ok) : Out.Ok (execStorePerformed s) := by
  unfold execStorePerformed
  dsimp only
  split
  · exact h
  · exact .ite h (.ite (h.of_mem (by simp)) (.ite (h.of_mem (by simp)) h.performStore))

theorem execStoreFailure_ok (h : s.Ok) : Out.Ok (execStoreFailure s) := .ite h (h.of_mem (by simp))

theorem State.Ok.performSeen {c sees} (h : s.Ok) : (s.performSeen c sees).Ok := by
  unfold State.performSeen
  extract_lets go
  have hg : ∀ s, s.Ok → (go s).Ok := fun s h => by
    simp only [go]
    split
    · exact h
    · split
      · exact h
      · exact h.performStore
  exact (State.Ok.foldl (h.of_mem (t := { s with cur := c }) rfl) (l := List.range s.cores[c].stores.length) fun s _
      h => hg s h).of_mem rfl

theorem State.Ok.heed {me} (h : s.Ok) : (s.heed me).Ok :=
  .ite (h.foldl fun _ _ h => by
    split
    · exact h.performSeen
    · exact .ite h h.performSeen) h

/-! ## Full-empty bins -/

@[simp] theorem State.setBin_mem {k b} : (s.setBin k b).mem = s.mem := rfl

@[simp] theorem State.raceFill_mem {home} : (s.raceFill home).mem = s.mem := by
  unfold State.raceFill
  split <;> rfl

@[simp] theorem State.fillEvent_mem {k was now} : (s.fillEvent k was now).mem = s.mem := by
  unfold State.fillEvent
  split <;> simp

@[simp] theorem State.fillBin_mem {k w phase} : (s.fillBin k w phase).mem = s.mem := State.fillEvent_mem

@[simp] theorem State.fillTags_mem {off n phase} : (s.fillTags off n phase).mem = s.mem :=
  foldl_mem fun _ _ => State.fillBin_mem

@[simp] theorem State.fillCount_mem {home n phase} : (s.fillCount home n phase).mem = s.mem := by
  unfold State.fillCount
  split <;> simp

theorem State.Ok.fillWrite {home bytes phase} (h : s.Ok) : (s.fillWrite home bytes phase).Ok :=
  h.writeAs.of_mem State.fillCount_mem

theorem State.Ok.fillPart {home bytes w phase} (h : s.Ok) : (s.fillPart home bytes w phase).Ok :=
  .ite h (.ite (h.writeMem.of_mem State.fillBin_mem) h.writeMem)

@[simp] theorem State.enqueueWait_mem {y} : (s.enqueueWait y).mem = s.mem := rfl

theorem execWaitEntryResend_ok (h : s.Ok) : Out.Ok (execWaitEntryResend s) := by
  unfold execWaitEntryResend
  split
  · exact h
  · exact h.of_mem (by simp)

theorem State.Ok.ldcTake {d off peek} (h : s.Ok) : (s.ldcTake d off peek).Ok := by
  unfold State.ldcTake
  split
  · next s1 er =>
    extract_lets home ea on s2 s3
    have h2 : s2.Ok := ((h.of_mem (State.reserve_mem er)).performBefore (p := fun _ => true) (i := s1.core.loads.length)
      (home := home) (n := 8)).of_mem State.reads_mem
    have h3 : s3.Ok := .ite (h2.of_mem State.raceTake_mem) h2
    split
    · exact h.of_mem (by simp)
    · next s4 ec =>
      extract_lets src l s5
      have h5 : s5.Ok := (h3.coreCheck ec).of_mem (by simp [s5])
      split
      · exact h5.of_mem (by simp)
      · exact h5.of_mem (by simp)
  · exact h

theorem State.Ok.stfPut {off v} (h : s.Ok) : (s.stfPut off v).Ok := by
  unfold State.stfPut
  extract_lets home ea b b'
  split
  · exact h.of_mem (by simp)
  · next s1 e =>
    extract_lets s2 s3
    have h2 : s2.Ok := (h.coreCheck e).of_mem (by simp only [s2]; split <;> simp)
    exact (h2.writeMem (b := some s.cur) (a := home) (bs := leBytes 8 v.toNat)).of_mem (by simp [s3])

theorem execLdc_ok {d a} (h : s.Ok) : Out.Ok (execLdc d a s) := by
  unfold execLdc
  refine h.unsafeIssue fun _ h1 => .ite h1 (h1.withRegs fun _ _ h2 => ?_)
  dsimp only
  split
  · exact h1.of_mem (by simp)
  · split
    · exact h1.of_mem (by simp)
    · exact h1
    · exact .ite h1 (.ite h2.ldcTake (h1.of_mem (by simp)))

theorem execStf_ok {a b} (h : s.Ok) : Out.Ok (execStf a b s) := by
  unfold execStf
  refine h.unsafeIssue fun _ h1 => .ite h1 (h1.withRegs fun _ _ h2 => ?_)
  dsimp only
  split
  · exact h1.of_mem (by simp)
  · exact .ite h2.stfPut (h1.of_mem (by simp))

theorem execBinq_ok {d a} (h : s.Ok) : Out.Ok (execBinq d a s) := by
  unfold execBinq
  refine h.unsafeIssue fun _ h1 => .ite h1 (h1.withRegs fun _ _ h2 => ?_)
  dsimp only
  split
  · exact h1.of_mem (by simp)
  · exact h1.finish h2

theorem execBinset_ok {a v} (h : s.Ok) : Out.Ok (execBinset a v s) := by
  unfold execBinset
  refine h.unsafeIssue fun _ h1 => .ite h1 (h1.withRegs fun _ _ h2 => ?_)
  dsimp only
  split
  · exact h1.of_mem (by simp)
  · exact h2.of_mem (by simp)

/-! ## Branches -/

theorem State.Ok.branch {a b i f} (h : s.Ok) : (s.branch a b i f).Ok :=
  h.issue fun _ h1 => h1.withRegs fun _ _ h2 => h2.of_mem (by simp)

@[simp] theorem State.link_mem : s.link.mem = s.mem := rfl
theorem execJmp_ok {i} (h : s.Ok) : Out.Ok (execJmp i s) := h.issue fun _ h1 => h1.of_mem (by simp)
theorem execCall_ok {i} (h : s.Ok) : Out.Ok (execCall i s) := h.issue fun _ h1 => h1.of_mem (by simp)

theorem State.Ok.jumpReg {a links} (h : s.Ok) : (s.jumpReg a links).Ok :=
  h.issue fun _ h1 => h1.withRegs fun _ _ h2 => .ite (h1.of_mem (by simp))
      (State.Ok.of_mem (.ite (h2.of_mem (by simp)) h2) (State.retireAt_mem ..))

/-! ## Mailboxes -/

@[simp] theorem State.setMb_mem {i n m} : (s.setMb i n m).mem = s.mem := rfl

@[simp] theorem State.pair_mem {c n} : (s.pair c n).mem = s.mem := by
  unfold State.pair
  dsimp only
  split
  · rfl
  · split <;> simp

theorem execMbbind_ok {a n} (h : s.Ok) : Out.Ok (execMbbind a n s) :=
  h.unsafeIssue fun _ h1 => h1.withRegs fun _ _ h2 => .ite (h1.of_mem (by simp)) (.ite (h1.of_mem (by simp))
      (h2.of_mem (by simp)))

theorem execMbfree_ok {n} (h : s.Ok) : Out.Ok (execMbfree n s) := by
  unfold execMbfree
  refine h.unsafeIssue fun _ h1 => ?_
  dsimp only
  split
  · exact h1.of_mem (by simp)
  · exact State.Ok.of_mem (State.Ok.of_mem (State.Ok.of_mem (h1.foldl fun _ _ h2 => h2.of_mem (by simp))
        State.setMb_mem) (State.setCore_mem ..)) State.retire_mem

@[simp] theorem State.onBound_mem {a from_ f} : (s.onBound a from_ f).mem = s.mem := by
  unfold State.onBound
  split
  · rfl
  · split
    · simp
    · split <;> simp

@[simp] theorem State.takeFlit_mem {a from_ v} : (s.takeFlit a from_ v).mem = s.mem := State.onBound_mem

@[simp] theorem State.landFlit_mem {i} : (s.landFlit i).mem = s.mem := by
  unfold State.landFlit
  split
  · simp
  · split <;> simp

theorem execMailboxFlitArrival_ok (h : s.Ok) : Out.Ok (execMailboxFlitArrival s) := by
  unfold execMailboxFlitArrival
  split
  · exact .ite h (h.of_mem (by simp))
  · split
    · exact h
    · exact h.of_mem (by simp)

@[simp] theorem State.takeCredit_mem {a from_ k} : (s.takeCredit a from_ k).mem = s.mem := State.onBound_mem

theorem execMailboxCreditReturn_ok (h : s.Ok) : Out.Ok (execMailboxCreditReturn s) := by
  unfold execMailboxCreditReturn
  split
  · exact h.of_mem (by simp)
  · split
    · exact h
    · exact h.of_mem (by simp)

@[simp] theorem State.notice_mem {p w} : (s.notice p w).mem = s.mem := rfl

theorem execMailboxRevoke_ok (h : s.Ok) : Out.Ok (execMailboxRevoke s) := by
  unfold execMailboxRevoke
  dsimp only
  split
  · split
    · exact h.of_mem (by simp)
    · exact h
  · split
    · exact h.of_mem (by simp)
    · exact h

/-! ## Fences, waits and commit regions -/

theorem execWait_ok {l x n k} (h : s.Ok) : Out.Ok (execWait l x n k s) :=
  h.unsafeIssue fun _ h1 => .ite (State.Ok.of_mem (.ite (h1.of_mem (by simp)) h1) State.retire_mem) h1

theorem execFence_ok {c k} (h : s.Ok) : Out.Ok (execFence c k s) := by
  unfold execFence
  refine h.issue fun _ h1 => .ite (h1.of_mem (by simp)) (.ite h1 (State.Ok.of_mem ?_ State.retire_mem))
  split
  · exact State.Ok.of_mem (State.Ok.of_mem (.ite (h1.of_mem (by simp)) h1) (State.setCore_mem ..)) State.raceAcquire_mem
  · exact State.Ok.of_mem (.ite (h1.of_mem (by simp)) h1) (State.setCore_mem ..)

theorem State.Ok.atomic {op d a b c o} (h : s.Ok) : (s.atomic op d a b c o).Ok :=
  h.issue fun s h => h.withRegs fun ws s' h' => by
    refine .ite h ?_
    split
    · exact h
    · exact h.of_mem (by simp)
    · next er =>
      have h1 := h'.of_mem (State.reserve_mem er)
      split
      · exact h.of_mem (by simp)
      · exact .ite (h.of_mem (by simp)) (.ite h (h1.of_mem (by simp)))
      · next s2 el =>
        have h2 := h1.of_mem (State.locate_mem el)
        have h3 : (if ordRel o then s2.raceRelease (.core s2.cur) c else s2).Ok := .ite (h2.of_mem (by simp)) h2
        revert h3
        generalize (if ordRel o then s2.raceRelease (.core s2.cur) c else s2) = s3
        intro h3
        split
        · split
          · exact h.of_mem (by simp)
          · next ec => exact h.txTouch (h3.coreCheck ec) fun s4 h4 => h4.of_mem (by simp)
        · refine .ite h ?_
          extract_lets
          split
          · exact h.of_mem (by simp)
          · next ec => exact (h3.coreCheck ec).of_mem (by simp)

@[simp] theorem State.openRegion_mem {ts} : (s.openRegion ts).mem = s.mem := rfl

theorem execTbegin_ok {a} (h : s.Ok) : Out.Ok (execTbegin a s) := by
  unfold execTbegin
  refine h.unsafeIssue fun _ h1 => .ite h1 ?_
  split
  · exact h1.of_mem (by simp)
  · exact h1.withRegs fun _ _ h2 => h2.of_mem (by simp)

theorem State.Ok.commitStores {l} (h : s.Ok) : (s.commitStores l).Ok := by
  induction l generalizing s with
  | nil => exact h
  | cons st l ih =>
    unfold State.commitStores
    refine ih (State.Ok.writeAs ?_)
    split
    · exact h.of_mem rfl
    · exact h

@[simp] theorem State.sendHeld_mem {l} : (s.sendHeld l).mem = s.mem := by
  induction l generalizing s with
  | nil => rfl
  | cons p l ih =>
    obtain ⟨n, _ | w⟩ := p
    · exact ih
    · exact ih.trans State.sendFlit_mem

@[simp] theorem State.creditTaken_mem {l} : (s.creditTaken l).mem = s.mem := by
  induction l generalizing s with
  | nil => rfl
  | cons n l ih => exact ih.trans (foldl_mem fun _ _ => State.giveCredit_mem)

@[simp] theorem State.sendFar_mem {x} : (s.sendFar x).mem = s.mem :=
  foldl_mem fun _ _ => State.request_mem

theorem execTcommit_ok (h : s.Ok) : Out.Ok (execTcommit s) := by
  unfold execTcommit
  refine h.issue fun _ h1 => ?_
  split
  · exact h1.of_mem (by simp)
  · next x _ =>
    refine .ite h1 (.ite (h1.of_mem (by simp)) (.ite h1 (.ite (h1.of_mem (by simp)) ?_)))
    extract_lets _ s1 s2
    have h1' : s1.Ok := h1.of_mem (by simp [s1])
    have h2 : s2.Ok := (h1'.commitStores.of_mem State.sendHeld_mem).of_mem State.creditTaken_mem
    exact ((h2.of_mem State.raceRelease_mem).of_mem State.acquire_mem).of_mem State.retire_mem

theorem execTabort_ok {code} (h : s.Ok) : Out.Ok (execTabort code s) :=
  h.issue fun _ h1 => .ite (h1.of_mem (by simp)) (h1.of_mem (by simp))

theorem execTstamp_ok {d} (h : s.Ok) : Out.Ok (execTstamp d s) := h.issue fun _ h1 => h1.finish (h1.of_mem (by simp))

/-! ## Stitches -/

theorem State.Ok.putHdr {p n x} (h : s.Ok) : (s.putHdr p n x).Ok := h.writeMem

theorem State.Ok.pinList {p n limit v0 v1} (h : s.Ok) (e : s.pinList p n limit = some (v0, v1, t)) : t.Ok := by
  unfold State.pinList at e
  dsimp only at e
  split at e
  · cases e
  · exact (show _ = t from congrArg (·.2.2) (Option.some.inj e)) ▸ h.putHdr

theorem State.Ok.unpinList {p n i} (h : s.Ok) : (s.unpinList p n i).Ok := .ite h h.putHdr

theorem State.Ok.stitch {rs k} (h : s.Ok) (hk : ∀ a s s', s.Ok → s'.Ok → (k a s s').Ok) : (s.stitch rs k).Ok :=
  h.unsafeIssue fun _ h1 => h1.withRegs fun _ _ h2 => hk _ _ _ h1 h2

@[simp] theorem State.readHdrWord_mem {a p n} : (s.readHdrWord a p n).mem = s.mem := by
  unfold State.readHdrWord
  cases a <;> dsimp only <;> split <;> rfl

@[simp] theorem State.publishHdr_mem {p n scope} : (s.publishHdr p n scope).mem = s.mem := rfl

theorem execStver_ok {d a} (h : s.Ok) : Out.Ok (execStver d a s) := by
  unfold execStver
  refine h.stitch fun _ _ _ h1 h2 => ?_
  split
  · exact h1.finish h2
  · exact h1.finish (h2.of_mem (by simp))

theorem execStpin_ok {d a} (h : s.Ok) : Out.Ok (execStpin d a s) := by
  unfold execStpin
  refine h.stitch fun _ _ _ h1 h2 => ?_
  split
  · exact h1.finish h2
  · split
    · exact h1.finish h2
    · next e2 =>
        have h3 := h2.pinList e2
        exact h1.finish (h3.of_mem (by simp))

theorem execStunpin_ok {a} (h : s.Ok) : Out.Ok (execStunpin a s) := by
  unfold execStunpin
  refine h.stitch fun _ _ _ h1 h2 => ?_
  split
  · exact h1.of_mem (by simp)
  · exact h2.unpinList.of_mem State.retire_mem

theorem execStlook_ok {d a b} (h : s.Ok) : Out.Ok (execStlook d a b s) := by
  unfold execStlook
  refine h.stitch fun _ _ _ h1 h2 => .ite (h1.finish h2) ?_
  split
  · split
    · exact h1.finish h2
    · exact h1.finish h2
  · split
    · exact h1.finish h2
    · exact h1.finish (h2.of_mem (by simp))

theorem State.Ok.splice {p n q} (h : s.Ok) : (s.splice p n q).2.Ok := by
  rw [State.splice]
  obtain ⟨⟨k0, s0⟩, hd⟩ : ∃ w, s.draw = w := ⟨_, rfl⟩
  have h0 : s0.Ok := h.of_mem (by cases hd; rfl)
  rw [hd]
  extract_lets +lift hdr x runs hi
  split
  · exact h
  · split
    · exact h
    · split
      · exact h
      · split
        · exact h
        · split
          · exact h
          · have h1 : ∀ (f : _ → Nat) l, (List.foldl (fun s (r : (Option Nat × List Piece) × Nat × List Piece) =>
                s.writeMem none (f r) (r.2.2.flatMap Piece.bytes)) s0 l).Ok :=
              fun _ _ => h0.foldl fun _ _ h => h.writeMem
            refine State.Ok.of_mem (State.Ok.putHdr (State.Ok.of_mem ?_ State.publishHdr_mem)) (State.setPart_mem ..)
            exact .ite (h1 ..) (h1 ..).writeMem

theorem execSplice_ok {d a b} (h : s.Ok) : Out.Ok (execSplice d a b s) := by
  unfold execSplice
  refine h.stitch fun _ _ _ h1 h2 => ?_
  split
  · exact h1.finish h2
  · split
    · exact h1.finish h2
    · exact .ite h1 (h1.finish h2.splice)

@[simp] theorem State.setRclq_mem {p c r} : (s.setRclq p c r).mem = s.mem := by
  unfold State.setRclq
  split <;> rfl

@[simp] theorem State.noteReclaim_mem {p c addr} : (s.noteReclaim p c addr).mem = s.mem := by
  unfold State.noteReclaim
  split <;> rfl

theorem execReclaimRecordPost_ok (h : s.Ok) : Out.Ok (execReclaimRecordPost s) := by
  unfold execReclaimRecordPost
  dsimp only
  split
  · exact h
  · split
    · next e2 => exact (State.Ok.post (h.of_mem (by simp)) e2).of_mem (by simp)
    · exact h.of_mem (by simp)
    · exact h

theorem State.Ok.writeStaGeom {p v} (h : s.Ok) : (s.writeStaGeom p v).Ok :=
  .ite h (.ite (h.of_mem (by simp)) (State.Ok.foldl (h.of_mem (by simp)) fun _ _ h1 => h1.writeMem))

/-! ## The fabric: tokens, regions and errors -/

@[simp] theorem State.onTile_mem {x f} : (s.onTile x f).mem = s.mem := rfl
@[simp] theorem State.setRegion_mem {r} : (s.setRegion r).mem = s.mem := rfl
@[simp] theorem State.onRegion_mem {c b f} : (s.onRegion c b f).mem = s.mem := rfl

@[simp] theorem State.jobEnd_mem {p} : (s.jobEnd p).mem = s.mem := by
  unfold State.jobEnd
  dsimp only
  split
  · rfl
  · split
    · split <;> simp
    · split <;> simp

@[simp] theorem State.jobCount_mem {p bad} : (s.jobCount p bad).mem = s.mem := State.jobEnd_mem

@[simp] theorem State.endStaging_mem {q committed} : (s.endStaging q committed).mem = s.mem :=
  foldl_mem fun _ _ => State.fillEvent_mem

@[simp] theorem State.publish_mem {p ph committed} : (s.publish p ph committed).mem = s.mem := by
  unfold State.publish
  split <;> simp

@[simp] theorem State.phaseCount_mem {p serial which bad} : (s.phaseCount p serial which bad).mem = s.mem := by
  unfold State.phaseCount
  extract_lets x
  split
  · rfl
  · extract_lets entries pcc done pcc' s1
    split <;> simp [s1]

@[simp] theorem State.guestEnded_mem {p k which bad} : (s.guestEnded p k which bad).mem = s.mem := by
  unfold State.guestEnded
  split <;> rfl

@[simp] theorem State.entryEnded_mem {p k which bad} : (s.entryEnded p k which bad).mem = s.mem := by
  unfold State.entryEnded
  split <;> simp

@[simp] theorem State.endEpoch_mem {r cancelled} : (s.endEpoch r cancelled).mem = s.mem := by
  unfold State.endEpoch
  split <;> simp

@[simp] theorem State.epochCheck_mem {c b} : (s.epochCheck c b).mem = s.mem := by
  unfold State.epochCheck
  repeat' split
  all_goals simp

@[simp] theorem State.tellPieces_mem {r m} : (s.tellPieces r m).mem = s.mem := by
  unfold State.tellPieces
  split <;> rfl

theorem State.Ok.endPiece {r l lcc bad} (h : s.Ok) : (s.endPiece r l lcc bad).Ok := by
  unfold State.endPiece
  extract_lets r1 src s1 s2
  have h2 : s2.Ok := (h.of_mem rfl : s1.Ok).foldl fun _ _ h => h.unpinList
  exact h2.of_mem State.epochCheck_mem

theorem State.Ok.endLaunch {r l} (h : s.Ok) : (s.endLaunch r l).Ok := by
  unfold State.endLaunch
  refine State.Ok.foldl (h.of_mem (by simp)) fun _ _ h1 => ?_
  split
  · exact h1
  · split
    · exact h1
    · exact h1.endPiece

theorem State.Ok.launchCheck {c b seq} (h : s.Ok) : (s.launchCheck c b seq).Ok := by
  unfold State.launchCheck
  split
  · exact h
  · dsimp only
    split
    · exact h
    · exact .ite h.endLaunch h

@[simp] theorem State.onLive_mem {c b seq f} : (s.onLive c b seq f).mem = s.mem := rfl

theorem State.Ok.drained {q} (h : s.Ok) : (s.drained q).Ok := by
  unfold State.drained
  split
  · exact h
  · split
    · exact h
    · extract_lets core k mine s0 s1
      have h1 : s1.Ok := State.Ok.of_mem (.ite (h.of_mem State.setClock_mem) h : s0.Ok) (State.setCoreAt_mem ..)
      split
      · exact h1
      · split
        · exact h1.of_mem (by simp)
        · exact State.Ok.launchCheck (h1.of_mem (by simp))

@[simp] theorem State.transmit_mem {p vc cvc cred pay} : (s.transmit p vc cvc cred pay).mem = s.mem := rfl

@[simp] theorem State.toChannel_mem {p vc x} : (s.toChannel p vc x).mem = s.mem :=
  foldl_mem fun _ _ => State.transmit_mem

@[simp] theorem State.channelTaken_mem {r id} : (s.channelTaken r id).mem = s.mem := by
  unfold State.channelTaken
  split
  · split
    · dsimp only
      split
      · rfl
      · split <;> simp
    · rfl
  · rfl

@[simp] theorem State.leftHeld_mem {r q} : (s.leftHeld r q).mem = s.mem := by
  unfold State.leftHeld
  split <;> simp

theorem State.Ok.dropHeld {r q} (h : s.Ok) : (s.dropHeld r q).Ok := State.Ok.drained (h.of_mem (by simp))

@[simp] theorem State.letIn_mem {x st p} : (s.letIn x st p).mem = s.mem := by
  unfold State.letIn
  split
  · rfl
  · dsimp only
    split
    · exact State.setRegion_mem
    · split
      · exact State.setRegion_mem
      · simp

@[simp] theorem State.enter_mem {r q} : (s.enter r q).mem = s.mem :=
  (foldl_mem fun _ _ => State.letIn_mem).trans State.onRegion_mem

theorem State.Ok.injectC {r id x copy} (h : s.Ok) : (s.injectC r id x copy).Ok := by
  unfold State.injectC
  dsimp only
  split
  · exact State.Ok.dropHeld (h.of_mem rfl)
  · exact h.of_mem (by simp)

theorem State.Ok.inject {r id x} (h : s.Ok) : (s.inject r id x).Ok := h.injectC
@[simp] theorem State.onSmp_mem {n f} : (s.onSmp n f).mem = s.mem := rfl

theorem State.Ok.smpFlush {n k} (h : s.Ok) : (State.smpFlush n k s).Ok := by
  induction k generalizing s with
  | zero => exact h
  | succ k ih =>
    unfold State.smpFlush
    split
    · exact h
    · refine ih ?_
      split
      · exact State.Ok.inject (h.of_mem State.onSmp_mem)
      · exact h.of_mem State.onSmp_mem

@[simp] theorem State.smpPush_mem {n c b y x} : (s.smpPush n c b y x).mem = s.mem := rfl
@[simp] theorem State.smpSkip_mem {n r y seq iter} : (s.smpSkip n r y seq iter).mem = s.mem := rfl

@[simp] theorem State.smpBetween_mem {n r y x} : (s.smpBetween n r y x).mem = s.mem := by
  unfold State.smpBetween
  extract_lets lanes slot clean bound
  clear_value bound lanes
  split
  · rfl
  · split
    · simp
    · split
      · simp
      · split <;> simp

theorem State.Ok.smpRecv {n r y x} (h : s.Ok) : (s.smpRecv n r y x).Ok := by
  unfold State.smpRecv
  refine State.Ok.smpFlush (.ite (h.of_mem (by simp)) (.ite h ?_))
  dsimp only
  split
  · exact .ite (h.of_mem (by simp)) (.ite (h.of_mem (by simp)) (.ite (h.of_mem (by simp)) (h.of_mem (by simp))))
  · exact h.of_mem (by simp)

theorem State.Ok.leaveBy {r id x} (h : s.Ok) : (s.leaveBy r id x).Ok := by
  unfold State.leaveBy
  split
  · split
    · exact h.of_mem (by simp)
    · exact h
  · split
    · exact h.smpRecv
    · exact h
  · split
    · exact h
    · exact h.inject
  · exact h

@[simp] theorem State.sendEdge_mem {r y ord no x} : (s.sendEdge r y ord no x).mem = s.mem := by
  unfold State.sendEdge
  split <;> rfl

@[simp] theorem State.sendOut_mem {r0 y st o x} : (s.sendOut r0 y st o x).mem = s.mem := by
  unfold State.sendOut
  extract_lets es s1
  have e1 : s1.mem = s.mem := foldl_mem fun _ _ => State.sendEdge_mem
  split
  · exact e1
  · exact State.onRegion_mem.trans e1

@[simp] theorem State.sendTok_mem {r x q} : (s.sendTok r x q).mem = s.mem := by
  unfold State.sendTok
  split
  · simp
  · exact foldl_mem fun _ _ => State.sendOut_mem

@[simp] theorem State.flushN_mem {x st n} : (State.flushN x st n s).mem = s.mem := by
  induction n generalizing s with
  | zero => rfl
  | succ n ih =>
    unfold State.flushN
    split
    · split
      · exact ih.trans (State.sendTok_mem.trans State.onTile_mem)
      · rfl
    · rfl

@[simp] theorem State.emits_mem {x st es} : (s.emits x st es).mem = s.mem := State.flushN_mem
@[simp] theorem State.setSlot_mem {y x} : (s.setSlot y x).mem = s.mem := rfl

@[simp] theorem State.examineAt_mem {x st} : (s.examineAt x st).mem = s.mem := by
  unfold State.examineAt
  split
  · simp
  · split
    · simp
    · split
      · simp
      · split <;> simp

theorem State.Ok.lccCount {r seq n bad} (h : s.Ok) : (s.lccCount r seq n bad).Ok := by
  unfold State.lccCount
  split
  · exact h.of_mem rfl
  · exact State.Ok.launchCheck (h.of_mem (by simp))

theorem State.Ok.sinkCount {r x st seq n bad} (h : s.Ok) : (s.sinkCount r x st seq n bad).Ok :=
  State.Ok.lccCount (h.of_mem (by simp))

theorem State.Ok.purgeAt {r x st seq y} (h : s.Ok) : (s.purgeAt r x st seq y).Ok := by
  unfold State.purgeAt
  refine .ite (h.of_mem (by simp)) ?_
  split
  · exact h.of_mem (by simp)
  · exact .ite (.ite (State.Ok.lccCount (h.of_mem rfl)) (h.of_mem rfl)) (h.of_mem (by simp))

theorem State.Ok.purge {r x st seq y} (h : s.Ok) : (s.purge r x st seq y).Ok := h.purgeAt.of_mem State.examineAt_mem

theorem State.Ok.cancelPiece {c b seq y} (h : s.Ok) : (s.cancelPiece c b seq y).Ok := by
  unfold State.cancelPiece
  split
  · exact h
  · refine State.Ok.foldl ?_ fun _ _ h => h.dropHeld
    refine State.Ok.of_mem ?_ State.onRegion_mem
    exact ((h.of_mem State.onLive_mem).foldl fun _ _ h => h.purge).foldl fun _ _ h => h.of_mem State.sendEdge_mem

theorem State.Ok.cancelLive {c b seq y} (h : s.Ok) : (s.cancelLive c b seq y).Ok := by
  simp only [State.cancelLive]
  split
  · exact h
  · split
    · exact h
    · refine .ite h (State.Ok.launchCheck (State.Ok.foldl ?_ fun _ _ h => h.cancelPiece))
      exact h.of_mem (by simp)

theorem State.Ok.failLive {c b seq y} (h : s.Ok) : (s.failLive c b seq y).Ok := by
  unfold State.failLive
  split
  · exact h
  · exact .ite (State.Ok.cancelLive (h.of_mem (by simp))) h

theorem State.Ok.cancelAll {c b y} (h : s.Ok) : (s.cancelAll c b y).Ok := by
  unfold State.cancelAll
  split
  · exact h
  · exact h.foldl fun _ _ h1 => h1.cancelLive

@[simp] theorem State.arrive_mem {x st p tok} : (s.arrive x st p tok).mem = s.mem := by
  unfold State.arrive
  split <;> simp

theorem State.Ok.ends_ {q} (h : s.Ok) : (s.ends_ q).Ok := by
  unfold State.ends_
  refine .ite ?_ (State.Ok.drained (h.of_mem (by simp)))
  split
  · exact h
  · exact h.leaveBy

theorem State.Ok.advance {q} (h : s.Ok) : (s.advance q).Ok := by
  unfold State.advance
  dsimp only
  split
  · exact h.of_mem rfl
  · exact .ite (h.of_mem rfl) (State.Ok.ends_ (h.of_mem rfl))
  · exact State.Ok.ends_ (h.of_mem rfl)

theorem execTokenArrival_ok (h : s.Ok) : Out.Ok (execTokenArrival s) := by
  unfold execTokenArrival
  dsimp only
  split
  · exact h.of_mem (by simp)
  · exact State.Ok.advance (h.of_mem (by simp))

theorem execLaunchWideErrorPurge_ok (h : s.Ok) : Out.Ok (execLaunchWideErrorPurge s) := by
  unfold execLaunchWideErrorPurge
  split
  · split
    · exact h
    · split
      · exact h.purge
      · exact h
  · exact h

/-! ## How a station fires -/

theorem State.Ok.withSta {f k} (h : s.Ok) (hk : ∀ a s, s.Ok → (k a s).Ok) : (s.withSta f k).Ok := by
  unfold State.withSta
  split
  · exact h
  · refine .ite h (.ite (h.of_mem (by simp)) (.ite h ?_))
    split
    · exact .ite h.purge h
    · exact .ite h (hk _ _ h)

theorem State.nextSet_mem {x ports q} (e : s.nextSet x ports = some (q, t)) : t.mem = s.mem := by
  unfold State.nextSet at e
  dsimp only at e
  split at e
  · obtain ⟨_, _, e⟩ := Option.map_eq_some_iff.1 e
    cases e
    exact State.onTile_mem
  · obtain ⟨_, _, e⟩ := Option.map_eq_some_iff.1 e
    cases e
    exact State.onTile_mem

@[simp] theorem State.errFire_mem {x seq iter y} : (s.errFire x seq iter y).mem = s.mem := State.emits_mem

theorem State.Ok.rows {x q acc stop vals} (h : s.Ok) (hk_stop : ∀ a s, s.Ok → (stop a s).Ok)
    (hk_vals : ∀ s, s.Ok → (vals s).Ok) :
    (s.rows x q acc stop vals).Ok := by
  unfold State.rows
  dsimp only
  split
  · exact h.of_mem (by simp)
  · exact .ite (h.of_mem (by simp)) (.ite (hk_vals _ h) (.ite (hk_stop _ _ h) (h.of_mem (by simp))))

theorem State.Ok.fireNext {x ports acc stop vals} (h : s.Ok) (hk_stop : ∀ a b s, s.Ok → (stop a b s).Ok)
    (hk_vals : ∀ a s, s.Ok → (vals a s).Ok) :
    (s.fireNext x ports acc stop vals).Ok := by
  unfold State.fireNext
  refine .ite h ?_
  split
  · exact h
  · next e1 =>
      exact (h.of_mem (State.nextSet_mem e1)).rows (fun _ _ h2 => hk_stop _ _ _ h2) fun _ h2 => hk_vals _ _ h2

theorem State.Ok.fireSet {f ports acc stop vals} (h : s.Ok) (hk_stop : ∀ a b c s, s.Ok → (stop a b c s).Ok)
    (hk_vals : ∀ a b s, s.Ok → (vals a b s).Ok) :
    (s.fireSet f ports acc stop vals).Ok :=
  h.withSta fun _ _ h1 => h1.fireNext (fun _ _ _ h2 => hk_stop _ _ _ _ h2) fun _ _ h2 => hk_vals _ _ _ h2

theorem State.Ok.fireOwing {f part k} (h : s.Ok) (hk_part : ∀ a b c s, s.Ok → (part a b c s).Ok)
    (hk : ∀ a s, s.Ok → (k a s).Ok) :
    (s.fireOwing f part k).Ok := by
  unfold State.fireOwing
  refine h.withSta fun _ _ h1 => .ite h1 ?_
  split
  · exact hk_part _ _ _ _ h1
  · exact hk _ _ h1

@[simp] theorem passStop_mem {x q n} : (passStop x q n s).mem = s.mem := State.emits_mem
@[simp] theorem State.fireV_mem {x q v} : (s.fireV x q v).mem = s.mem := State.emits_mem

theorem State.Ok.fireFn {f g} (h : s.Ok) : (s.fireFn f g).Ok :=
  h.fireSet (fun _ _ _ _ h1 => h1.of_mem (by simp)) fun _ _ _ h1 => h1.of_mem (by simp)

@[simp] theorem State.take_mem {x ps} : (s.take x ps).mem = s.mem := rfl

theorem State.Ok.fireHeads {f k} (h : s.Ok) (hk : ∀ a s, s.Ok → (k a s).Ok) : (s.fireHeads f k).Ok :=
  h.withSta fun _ _ h1 => .ite (hk _ _ h1) h1

@[simp] theorem State.stirred_mem {x} : (s.stirred x).mem = s.mem := rfl

@[simp] theorem State.won_mem {x st} : (s.won x st).mem = s.mem := by
  unfold State.won
  split
  · simp
  · split <;> simp

/-! ## Stations that feed from and to memory -/

@[simp] theorem State.park_mem {r x seq iter va write fault} : (s.park r x seq iter va write fault).mem = s.mem := rfl

theorem State.Ok.stRace {r launch write l} (h : s.Ok) (e : s.stRace r launch write l = some t) : t.Ok := by
  induction l generalizing s with
  | nil => cases e; exact h
  | cons p l ih =>
    unfold State.stRace at e
    split at e
    · cases e
    · next ec => exact ih (h.raceCheck ec) e

theorem State.Ok.stLogs {r write hs} (h : s.Ok) : (s.stLogs r write hs).Ok :=
  h.foldl fun s q h => by
    cases e : s.raceSays r.core (.region r.core r.bslot) q.2.1 q.1 q.2.2 write none none with
    | none => simpa [e] using h
    | some t => simpa [e] using h.raceSays e

@[simp] theorem State.stRelease_mem {r seq scope} : (s.stRelease r seq scope).mem = s.mem := rfl

theorem State.Ok.raceFire {r x st seq iter} (h : s.Ok) : (s.raceFire r x st seq iter).Ok :=
  State.Ok.failLive (h.of_mem (by simp))

@[simp] theorem State.dropWork_mem {x st seq} : (s.dropWork x st seq).mem = s.mem := rfl

theorem State.Ok.stChecked {r x st seq iter write hs k} (h : s.Ok) (hk : ∀ s, s.Ok → (k s).Ok) :
    (s.stChecked r x st seq iter write hs k).Ok := by
  unfold State.stChecked
  split
  · exact hk _ h
  · refine .ite (hk _ h) (.ite (h.stLogs.of_mem State.dropWork_mem) ?_)
    split
    · exact h.raceFire
    · next e2 =>
        have h1 := h.stRace e2
        exact hk _ h1

theorem State.Ok.mapped {x holder ws seq iter ps write k} (h : s.Ok) (hk : ∀ l, (k l).Ok) :
    (s.mapped x holder ws seq iter ps write k).Ok := by
  unfold State.mapped
  refine .ite h ?_
  split
  · exact h.of_mem (by simp)
  · exact hk _

theorem State.Ok.access {x y ws seq iter va n write k} (h : s.Ok) (hk : ∀ l s, s.Ok → (k l s).Ok) :
    (s.access x y ws seq iter va n write k).Ok :=
  h.mapped fun l => h.stChecked (hk l)

theorem State.Ok.fillPieces {base bytes on phase l} (h : s.Ok) : (s.fillPieces base bytes on phase l).Ok := by
  induction l generalizing s with
  | nil => exact h
  | cons p a ih =>
    unfold State.fillPieces
    refine ih ?_
    split
    · exact h.fillWrite
    · exact h.fillPart

theorem execTlbWalkComplete_ok (h : s.Ok) : Out.Ok (execTlbWalkComplete s) := by
  unfold execTlbWalkComplete
  split
  · exact h
  · split
    · exact h.of_mem rfl
    · extract_lets s1
      have h1 : s1.Ok := h.of_mem rfl
      refine Out.ok_ite (h.of_mem rfl) ?_
      split
      · exact h1.of_mem State.onTile_mem
      · exact h1.of_mem State.onTile_mem
      · exact h1.of_mem rfl
      · exact h1

theorem execFaultWithhold_ok (h : s.Ok) : Out.Ok (execFaultWithhold s) := by
  unfold execFaultWithhold
  split
  · exact h
  · exact h.of_mem rfl

theorem execFaultRecordPost_ok (h : s.Ok) : Out.Ok (execFaultRecordPost s) := by
  unfold execFaultRecordPost
  split
  · exact h
  · split
    · next e2 => exact (h.post e2).of_mem (by simp)
    · exact h

@[simp] theorem State.emitRound_mem {x sl toks} : (s.emitRound x sl toks).mem = s.mem := State.emits_mem

@[simp] theorem State.roundRel_mem {x seq sh} : (s.roundRel x seq sh).mem = s.mem := by
  unfold State.roundRel
  split <;> rfl

@[simp] theorem State.errRound_mem {x seq y} : (s.errRound x seq y).mem = s.mem := by
  unfold State.errRound
  split <;> simp

@[simp] theorem State.openRound_mem {x seq sh} : (s.openRound x seq sh).mem = s.mem := by
  unfold State.openRound
  split <;> simp

@[simp] theorem State.pushGroup_mem {x sl w vals} : (s.pushGroup x sl w vals).mem = s.mem := by
  unfold State.pushGroup
  dsimp only
  split <;> simp

theorem State.Ok.walkGroup {x sl w agen} (h : s.Ok) : (s.walkGroup x sl w agen).Ok := by
  unfold State.walkGroup
  dsimp only
  split
  · exact h.of_mem (by simp)
  · exact .ite (h.of_mem (by simp)) (h.access fun _ _ h1 => h1.of_mem (by simp))

theorem State.Ok.trigger {x begin_} (h : s.Ok) (hk_begin_ : ∀ a s, s.Ok → (begin_ a s).Ok) :
    (s.trigger x begin_).Ok := by
  unfold State.trigger
  split
  · exact h
  · dsimp only
    split
    · exact h.of_mem (by simp)
    · exact h.of_mem (by simp)
    · exact hk_begin_ _ _ (h.of_mem (by simp))
    · exact h.of_mem (by simp)

theorem State.beginRound_err {x seq k} (h : s.beginRound x seq = .err k t) : t.mem = s.mem := by
  unfold State.beginRound at h
  split at h
  · cases h
  · extract_lets kind pinned at h
    have hp : ∀ sh s1, pinned sh s1 = .err k t → t.mem = s1.mem := fun sh s1 h => by
      simp only [pinned] at h
      split at h
      · exact (Begin.err.inj h).2 ▸ rfl
      · cases h
    split at h
    · exact hp _ _ h
    · split at h
      · cases h
      · extract_lets s1 at h
        have h1 : s1.mem = s.mem := State.onTile_mem
        split at h
        · exact (Begin.err.inj h).2 ▸ h1
        · split at h
          · exact (Begin.err.inj h).2 ▸ h1
          · exact (hp _ _ h).trans h1
        · split at h
          · exact (Begin.err.inj h).2 ▸ h1
          · exact (hp _ _ h).trans h1
        · exact (Begin.err.inj h).2 ▸ h1

theorem State.beginRound_go {x seq sh} (h : s.beginRound x seq = .go sh t) : t.mem = s.mem := by
  unfold State.beginRound at h
  split at h
  · cases h
  · extract_lets kind pinned at h
    have hp : ∀ sh1 s1, pinned sh1 s1 = .go sh t → t.mem = s1.mem := fun sh1 s1 h => by
      simp only [pinned] at h
      split at h
      · cases h
      · cases h; split <;> simp
    split at h
    · exact hp _ _ h
    · split at h
      · cases h
      · extract_lets s1 at h
        split at h
        · cases h
        · split at h
          · cases h
          · exact (hp _ _ h).trans State.onTile_mem
        · split at h
          · cases h
          · exact (hp _ _ h).trans State.onTile_mem
        · cases h

theorem State.Ok.fireWalk {f agen} (h : s.Ok) : (s.fireWalk f agen).Ok := by
  unfold State.fireWalk
  refine h.fireHeads fun _ _ h1 => ?_
  split
  · exact h1.walkGroup
  · refine .ite (h1.trigger fun _ _ h2 => ?_) h1
    split
    · exact h1
    · next e2 => exact (h2.of_mem (State.beginRound_err e2)).of_mem (by simp)
    · next e2 => exact (h2.of_mem (State.beginRound_go e2)).of_mem (by simp)

theorem execSourceRoundStart_ok (h : s.Ok) : Out.Ok (execSourceRoundStart s) := by
  unfold execSourceRoundStart
  split
  · dsimp only
    split
    · exact h
    · split
      · exact h
      · split
        · exact h
        · refine h.fireHeads fun _ _ h1 => ?_
          split
          · exact h1
          · next e4 => exact (h1.of_mem (State.beginRound_err e4)).of_mem (by simp)
          · next e4 => exact (h1.of_mem (State.beginRound_go e4)).of_mem (by simp)
  · exact h

theorem State.storeBegin_mem {x seq} (e : s.storeBegin x seq = some t) : t.mem = s.mem := by
  unfold State.storeBegin at e
  dsimp only at e
  split at e
  · cases e; rfl
  · split at e
    · cases e
    · next eb => cases e; exact State.setSlot_mem.trans (State.beginRound_err eb)
    · next eb => cases e; exact State.setSlot_mem.trans (State.beginRound_go eb)

@[simp] theorem State.storeTok_mem {x y index} : (s.storeTok x y index).mem = s.mem := by
  unfold State.storeTok
  extract_lets sl add
  have ha : ∀ es s, (add es s).mem = s.mem := fun es s => by
    simp only [add]
    split <;> simp
  split
  · split
    · rfl
    · split <;> simp
  · exact State.emits_mem.trans (ha _ _)
  · exact ha _ _

@[simp] theorem State.storeEnd_mem {x sl stop} : (s.storeEnd x sl stop).mem = s.mem := by
  unfold State.storeEnd
  split <;> simp

theorem State.Ok.storeSegment {x seq it sh els va after} (h : s.Ok) (hk : ∀ s, s.Ok → (after s).Ok) :
    (s.storeSegment x seq it sh els va after).Ok :=
  h.mapped fun _ => h.mapped fun _ => h.mapped fun _ => h.stChecked fun _ h => hk _ h.fillPieces

theorem State.Ok.storeGroup {x sl w scat} (h : s.Ok) : (s.storeGroup x sl w scat).Ok := by
  unfold State.storeGroup
  refine .ite (h.of_mem (by simp)) ?_
  split
  · exact h.of_mem (by simp)
  · exact .ite (h.storeSegment fun _ h1 => h1.of_mem (by simp)) (h.access fun _ _ h1 => h1.fillPieces.of_mem
        State.setSlot_mem)

theorem State.Ok.storeWork {x sl scat} (h : s.Ok) : (s.storeWork x sl scat).Ok := by
  unfold State.storeWork
  split
  · refine .ite h.storeGroup ?_
    split
    · exact h.of_mem (by simp)
    · exact h
  · exact h.of_mem (by simp)
  · exact h

theorem execSts_ok {f} (h : s.Ok) : Out.Ok (execSts f s) := by
  refine h.fireHeads fun x s h => ?_
  split
  · exact h.storeWork
  · split
    · exact h
    · refine .ite h (.ite ?_ (h.of_mem (by simp)))
      split
      · exact h
      · next eb => exact (h.of_mem (State.storeBegin_mem eb)).of_mem (by simp)

theorem execScat_ok {f} (h : s.Ok) : Out.Ok (execScat f s) := by
  refine h.fireHeads fun x s h => ?_
  split
  · exact h.storeWork
  · split
    · exact h
    · next en =>
      refine .ite h ?_
      split
      · exact h
      · next eb =>
        have h2 := (h.of_mem (State.nextSet_mem en)).of_mem (State.storeBegin_mem eb)
        split
        · exact h2.of_mem (by simp)
        · refine h2.rows (fun _ _ h => h.of_mem (by simp)) fun _ h => ?_
          split
          · exact h
          · exact h.of_mem (by simp)

theorem execGath_ok {f} (h : s.Ok) : Out.Ok (execGath f s) := by
  unfold execGath
  refine h.fireHeads fun _ _ h1 => .ite h1 (h1.trigger fun _ _ h2 => ?_)
  split
  · exact h1
  · next e1 => exact (h2.of_mem (State.beginRound_err e1)).of_mem (by simp)
  · next e1 =>
      have h3 := h2.of_mem (State.beginRound_go e1)
      exact .ite (h3.of_mem (by simp)) (h3.of_mem (by simp))

theorem execQuarryRowReturn_ok (h : s.Ok) : Out.Ok (execQuarryRowReturn s) := by
  unfold execQuarryRowReturn
  split
  · exact h
  · split
    · exact h
    · refine State.Ok.fireHeads (h.of_mem rfl) fun _ _ h1 => ?_
      dsimp only
      split
      · exact h1
      · refine h1.access fun _ _ h2 => ?_
        split
        · exact h2.of_mem (by simp)
        · exact h2.access fun _ _ h3 => h3.of_mem (by simp)

/-- Callers name `s.spadDenied` (`obtain ⟨denied, hd⟩`) before they split on it, so that Lean never evaluates it. -/
theorem State.spadDenied_mem {r x st seq iter homes write} (e : s.spadDenied r x st seq iter homes write = some t) :
    t.mem = s.mem := by
  obtain ⟨a, _, rfl⟩ := Option.map_eq_some_iff.1 e
  split <;> simp

theorem State.Ok.binAccess {x st bin seq iter n write k} (h0 : s0.Ok) (h : s.Ok) (hk : ∀ s, s.Ok → (k s).Ok) :
    (State.binAccess s0 s x st bin seq iter n write k).Ok := by
  unfold State.binAccess
  obtain ⟨denied, hd⟩ : ∃ f, s0.spadDenied = f := ⟨_, rfl⟩
  rw [hd]
  extract_lets home
  split
  · exact hk s h
  · split
    · next ed => exact h0.of_mem (State.spadDenied_mem (hd ▸ ed))
    · exact State.Ok.stChecked (.ite (h.of_mem State.raceTake_mem) h) hk

theorem State.Ok.stfsDone {x st bin seq words last stop} (h0 : s0.Ok) (h : s.Ok) :
    (State.stfsDone s0 s x st bin seq words last stop).Ok := by
  refine h0.binAccess h fun s h => ?_
  extract_lets q b b' s1 sl
  have h1 : s1.Ok := State.Ok.of_mem (State.Ok.writeMem h) (State.fillEvent_mem.trans State.setBin_mem)
  exact h1.of_mem (by simp)

theorem State.Ok.ldcsDone {x st bin req} (h0 : s0.Ok) (h : s.Ok) : (State.ldcsDone s0 s x st bin req).Ok := by
  unfold State.ldcsDone
  exact h0.binAccess h fun s h => h.of_mem (State.emits_mem.trans State.setBin_mem)

theorem State.Ok.stfsAsk {x seq stop} (h0 : s0.Ok) (h : s.Ok) : (State.stfsAsk s0 s x seq stop).Ok := by
  unfold State.stfsAsk
  obtain ⟨denied, hd⟩ : ∃ f, s0.spadDenied = f := ⟨_, rfl⟩
  rw [hd]
  dsimp only
  split
  · exact h
  · split
    · next e => exact h0.of_mem (State.spadDenied_mem (hd ▸ e))
    · exact .ite (h0.stfsDone (h.of_mem State.setSlot_mem)) (h.of_mem (by simp))

theorem execStfs_ok {f} (h : s.Ok) : Out.Ok (execStfs f s) := by
  unfold execStfs
  refine h.fireHeads fun _ _ h1 => ?_
  split
  · exact h1
  · refine .ite h1 ?_
    split
    · exact .ite (h1.stfsAsk (h1.of_mem (by simp))) (h1.of_mem (by simp))
    · exact .ite (h1.of_mem (by simp)) (h1.stfsAsk (h1.of_mem (by simp)))
    · exact h1.of_mem (by simp)
    · exact h1.of_mem (by simp)

theorem execLdcs_ok {f} (h : s.Ok) : Out.Ok (execLdcs f s) := by
  unfold execLdcs
  refine h.fireHeads fun x s h => ?_
  obtain ⟨denied, hd⟩ : ∃ f, s.spadDenied = f := ⟨_, rfl⟩
  rw [hd]
  split
  · exact h
  · dsimp only
    split
    · split
      · next e => exact h.of_mem (State.spadDenied_mem (hd ▸ e))
      · exact .ite (h.ldcsDone (h.of_mem State.take_mem)) (h.of_mem (by simp))
    · exact h.of_mem (by simp)
    · exact h.of_mem (by simp)
    · exact h.of_mem (by simp)

theorem State.Ok.grantCore {c srcs off k} (h : s.Ok) (hk : ∀ s, s.Ok → (k s).Ok) : (s.grantCore c srcs off k).Ok := by
  unfold State.grantCore
  refine State.Ok.withRegs (h.of_mem rfl) fun ws s2 h2 => .ite (hk _ h2) (h.of_mem ?_)
  exact State.trap_mem ..

theorem execBinWaitGrant_ok (h : s.Ok) : Out.Ok (execBinWaitGrant s) := by
  unfold execBinWaitGrant
  split
  · exact h
  · extract_lets s1
    have h1 : s1.Ok := h.of_mem rfl
    refine Out.ok_ite h ?_
    split
    · exact h.ldcsDone h1
    · exact h.stfsDone h1
    · exact h1.grantCore fun _ h2 => h2.ldcTake
    · exact h1.grantCore fun _ h2 => h2.stfPut

theorem State.Ok.rportPut {x first len phase off ws} (h : s.Ok) : (s.rportPut x first len phase off ws).Ok := by
  induction ws generalizing s off with
  | nil => exact h
  | cons w ws ih => exact ih h.fillWrite

theorem execRport_ok {f} (h : s.Ok) : Out.Ok (execRport f s) := by
  refine h.fireHeads fun x s h => ?_
  split
  · exact h
  · dsimp only
    split
    · split
      · next ed => exact h.of_mem (State.spadDenied_mem ed)
      · exact State.Ok.stChecked (h.of_mem (by simp)) fun s h => (State.Ok.rportPut h).of_mem State.setSlot_mem
    · exact h.of_mem (by simp)
    · exact h.of_mem (by simp)
    · exact h.of_mem (by simp)

theorem execPport_ok {f} (h : s.Ok) : Out.Ok (execPport f s) := by
  unfold execPport
  refine h.withSta fun _ _ h1 => ?_
  split
  · exact h1
  · dsimp only
    split
    · exact h1.of_mem (by simp)
    · exact .ite (h1.of_mem (by simp)) h1
    · exact .ite (h1.of_mem (by simp)) h1
    · exact .ite (h1.of_mem (by simp)) h1

/-! ## The loader -/

@[simp] theorem State.dropStaging_mem {r} : (s.dropStaging r).mem = s.mem := by
  unfold State.dropStaging
  split <;> rfl

@[simp] theorem State.cancelStaging_mem {r} : (s.cancelStaging r).mem = s.mem := State.dropStaging_mem
theorem State.Ok.logPairs {ps} (h : s.Ok) : (s.logPairs ps).Ok := h.foldl fun _ _ h1 => State.Ok.raceLog (h1.of_mem rfl)

theorem State.Ok.stageFresh {a x org hdr sig es eb b gen} (h : s.Ok) :
    (s.stageFresh a x org hdr sig es eb b gen).2.Ok := by
  unfold State.stageFresh
  split
  · exact h
  · exact State.Ok.logPairs (h.of_mem rfl)

theorem State.Ok.stageOn {a x org hdr sig es eb same} (h : s.Ok) : (s.stageOn a x org hdr sig es eb same).2.Ok := by
  unfold State.stageOn
  split
  · next r =>
    have h1 : (if r.staging.isSome then s.dropStaging r else s).Ok := .ite (h.of_mem (by simp)) h
    dsimp only
    split
    · split
      · exact h1
      · exact State.Ok.logPairs (h1.of_mem (by simp))
    · exact h1.stageFresh
  · dsimp only
    split
    · exact h
    · exact State.Ok.stageFresh (h.of_mem rfl)

theorem State.Ok.stage {a o v0} (h : s.Ok) (e : s.stage a o = some (v0, t)) : t.Ok := by
  unfold State.stage at e
  split at e
  · cases e; exact h
  · split at e
    · cases e; exact h
    · split at e
      · cases e; exact h
      · dsimp only at e
        split at e
        · cases e
        · exact State.Ok.of_some_snd h.stageOn e

theorem execCfgld_ok {d a b} (h : s.Ok) : Out.Ok (execCfgld d a b s) := by
  unfold execCfgld
  refine h.unsafeIssue fun _ h1 => h1.withRegs fun _ _ h2 => ?_
  split
  · exact h1
  · next e1 =>
      have h3 := h2.stage e1
      exact h1.finish h3

theorem execCfgchk_ok {d a} (h : s.Ok) : Out.Ok (execCfgchk d a s) := by
  refine h.unsafeIssue fun s h => h.withRegs fun ws s1 h1 => ?_
  dsimp only
  split
  · exact h.finish h1
  · split
    · exact h.finish h1
    · split
      · refine .ite (h.finish h1) ?_
        split
        · exact h.finish h1
        · exact h.finish (h1.of_mem (by simp))
      · exact .ite (h.of_mem (by simp)) h

theorem execSecurityProcessorVerify_ok (h : s.Ok) : Out.Ok (execSecurityProcessorVerify s) := by
  unfold execSecurityProcessorVerify
  dsimp only
  split
  · exact h
  · split
    · exact h.of_mem (by simp)
    · exact h.of_mem (by simp)

@[simp] theorem State.loadWeights_mem {r} : (s.loadWeights r).mem = s.mem := rfl

@[simp] theorem State.initCbuf_mem {p sh} : (s.initCbuf p sh).mem = s.mem := by
  unfold State.initCbuf
  exact foldl_mem fun _ _ => by split <;> simp

@[simp] theorem State.initCbufs_mem {p r} : (s.initCbufs p r).mem = s.mem :=
  foldl_mem fun _ _ => foldl_mem fun _ _ => by split <;> simp

@[simp] theorem State.install_mem {r g} : (s.install r g).mem = s.mem := by
  unfold State.install
  extract_lets tiles s1 s2 r1
  have e1 : s1.mem = s.mem := foldl_mem fun _ _ => State.onTile_mem
  have e2 : s2.mem = s1.mem := foldl_mem fun _ _ => by simp
  exact State.setRegion_mem.trans (e2.trans e1)

theorem execCfgcommit_ok {a} (h : s.Ok) : Out.Ok (execCfgcommit a s) := by
  unfold execCfgcommit
  refine h.unsafeIssue fun _ h1 => h1.withRegs fun _ _ h2 => ?_
  dsimp only
  split
  · exact h1.of_mem (by simp)
  · split
    · exact h1.of_mem (by simp)
    · exact .ite (h1.of_mem (by simp)) (.ite (h2.of_mem (by simp)) (h2.of_mem (by simp)))

theorem execCommitApply_ok (h : s.Ok) : Out.Ok (execCommitApply s) := by
  unfold execCommitApply
  split
  · exact h
  · split
    · exact h
    · split
      · exact .ite (h.of_mem (by simp)) (h.of_mem (by simp))
      · exact h

theorem State.Ok.releaseOne {c b q} (h : s.Ok) : (s.releaseOne c b q).Ok := by
  unfold State.releaseOne
  split
  · exact h
  · exact .ite (State.Ok.failLive (State.Ok.dropHeld (h.of_mem (by simp))))
        (.ite h (.ite (h.of_mem (by simp)) (h.of_mem (by simp))))

theorem State.Ok.releaseIngress {c b} (h : s.Ok) : (s.releaseIngress c b).Ok := by
  unfold State.releaseIngress
  split
  · exact h
  · exact State.Ok.foldl (h.foldl fun _ _ h1 => h1.releaseOne) fun _ _ h1 => h1.of_mem (by simp)

theorem execReconfigFenceLift_ok (h : s.Ok) : Out.Ok (execReconfigFenceLift s) := by
  unfold execReconfigFenceLift
  split
  · exact h
  · split
    · exact State.Ok.releaseIngress (h.of_mem (by simp))
    · exact h

/-! ## Launches, phases and cancels -/

theorem State.Ok.settleWaiting {c b} (h : s.Ok) : (s.settleWaiting c b).Ok := by
  unfold State.settleWaiting
  split
  · exact h
  · exact State.Ok.of_mem (State.Ok.foldl (h.of_mem (by simp)) fun _ _ h1 => h1.drained) State.epochCheck_mem

theorem State.Ok.reserving {d k} (h0 : s0.Ok) (h : s.Ok) (hk : ∀ s, s.Ok → (k s).Ok) :
    (State.reserving s0 s d k).Ok := by
  unfold State.reserving
  split
  · next e1 =>
      have h1 := h.of_mem (State.reserve_mem e1)
      exact hk _ h1
  · exact h0
  · exact h0.of_mem (by simp)

theorem execLaunch_ok {d a p} (h : s.Ok) : Out.Ok (execLaunch d a p s) := by
  unfold execLaunch
  refine h.unsafeIssue fun _ h1 => h1.withRegs fun _ _ h2 => .ite h1 ?_
  dsimp only
  split
  · exact h1.finish (h2.of_mem (by simp))
  · split
    · exact h1.finish (h2.of_mem (by simp))
    · exact .ite (h1.finish (h2.of_mem (by simp))) (.ite (h1.finish (h2.of_mem (by simp)))
          (h1.reserving (h2.of_mem (by simp)) fun _ h3 => h3.of_mem (by simp)))

theorem execParam_ok {a b n} (h : s.Ok) : Out.Ok (execParam a b n s) := by
  unfold execParam
  refine h.unsafeIssue fun _ h1 => h1.withRegs fun _ _ h2 => ?_
  split
  · exact h1.of_mem (by simp)
  · exact .ite (h1.of_mem (by simp)) (h2.of_mem (by simp))

@[simp] theorem State.enqueueRec_mem {r} : (s.enqueueRec r).mem = s.mem := by
  unfold State.enqueueRec
  split <;> simp

theorem execLaunchRecordEnqueue_ok (h : s.Ok) : Out.Ok (execLaunchRecordEnqueue s) := by
  unfold execLaunchRecordEnqueue
  split
  · exact h
  · split
    · exact h.of_mem (by simp)
    · exact h

theorem State.Ok.takePins {r seq} (h : s.Ok) : (s.takePins r seq).Ok :=
  h.foldl fun s q h => by
    split
    · exact h
    · next e => exact (h.pinList e).of_mem (by simp)

theorem State.Ok.beginPiece {r l} (h : s.Ok) : (s.beginPiece r l).Ok := by
  unfold State.beginPiece
  extract_lets s0 s1 s2 s3
  have h1 : s1.Ok := h.of_mem (by simp [s1, s0])
  have h3 : s3.Ok := h1.takePins.foldl fun _ _ h => h.of_mem (by simp)
  refine h3.foldl fun s q h => ?_
  split
  · exact h.injectC
  · exact h.drained

@[simp] theorem State.startIn_mem {r seq} : (s.startIn r seq).mem = s.mem :=
  (foldl_mem fun _ _ => State.onTile_mem).trans State.onRegion_mem

theorem State.Ok.startRec {r q} (h : s.Ok) : (s.startRec r q).Ok := by
  unfold State.startRec
  extract_lets ps target src live r1 r2 s0 s1 s2
  have h1 : s1.Ok := State.Ok.foldl (h.of_mem (by simp [s0]) : s0.Ok) fun _ _ h => h.of_mem (by simp)
  have h2 : s2.Ok := h1.foldl fun _ _ h => h.of_mem (by simp)
  refine .ite h2.launchCheck (State.Ok.launchCheck (h1.foldl fun s x h => ?_))
  split
  · exact h
  · exact h.beginPiece

theorem execLaunchStart_ok (h : s.Ok) : Out.Ok (execLaunchStart s) := by
  unfold execLaunchStart
  split
  · exact h
  · dsimp only
    split
    · exact h.of_mem (by simp)
    · exact State.Ok.startRec (h.of_mem (by simp))

theorem execSelcfg_ok {a n} (h : s.Ok) : Out.Ok (execSelcfg a n s) := by
  unfold execSelcfg
  refine h.unsafeIssue fun _ h1 => h1.withRegs fun _ _ h2 => ?_
  split
  · exact h1.of_mem (by simp)
  · exact .ite (h1.of_mem (by simp)) (.ite h1 (h2.of_mem (by simp)))

@[simp] theorem State.selectCfg_mem {r n} : (s.selectCfg r n).mem = s.mem :=
  State.setRegion_mem.trans (foldl_mem fun _ _ => State.onTile_mem)

theorem execDecisionSwitch_ok (h : s.Ok) : Out.Ok (execDecisionSwitch s) := by
  unfold execDecisionSwitch
  split
  · exact h
  · split
    · exact h
    · split
      · exact State.Ok.releaseIngress (h.of_mem (by simp))
      · exact h

@[simp] theorem State.joinAll_mem {k es} : (s.joinAll k es).mem = s.mem :=
  foldl_mem fun _ _ => State.onRegion_mem

@[simp] theorem State.tellAway_mem {p ser es m} : (s.tellAway p ser es m).mem = s.mem := rfl

theorem execPhase_ok {d a} (h : s.Ok) : Out.Ok (execPhase d a s) := by
  unfold execPhase
  refine h.unsafeIssue fun _ h1 => h1.withRegs fun _ _ h2 => ?_
  split
  · exact h1.finish h2
  · split
    · exact h1.finish h2
    · exact .ite (h1.finish h2) (h1.finish (h2.of_mem (by simp)))

@[simp] theorem State.onPhase_mem {p ser f} : (s.onPhase p ser f).mem = s.mem := rfl
@[simp] theorem State.onGuest_mem {p k f} : (s.onGuest p k f).mem = s.mem := rfl
@[simp] theorem State.leavePhase_mem {p k} : (s.leavePhase p k).mem = s.mem := rfl
@[simp] theorem State.failPhase_mem {p ph y} : (s.failPhase p ph y).mem = s.mem := rfl
@[simp] theorem State.bindCut_mem {r} : (s.bindCut r).mem = s.mem := rfl

@[simp] theorem State.beginPhase_mem {ph} : (s.beginPhase ph).mem = s.mem := by
  unfold State.beginPhase
  extract_lets s1
  have e1 : s1.mem = s.mem := foldl_mem fun _ _ => State.bindCut_mem.trans State.onRegion_mem
  exact (foldl_mem fun _ _ => State.epochCheck_mem).trans e1

@[simp] theorem State.closeEpoch_mem {r} : (s.closeEpoch r).mem = s.mem := by
  unfold State.closeEpoch
  split <;> simp

@[simp] theorem State.closePhase_mem {ph} : (s.closePhase ph).mem = s.mem :=
  foldl_mem fun _ _ => by
    split
    · split <;> simp
    · rfl

theorem State.Ok.hubTold {p ph m msg} (h : s.Ok) : (s.hubTold p ph m msg).Ok := by
  cases msg with
  | ended i bad =>
    simp only [State.hubTold]
    split
    · exact h
    · exact .ite h (h.of_mem (by simp))
  | sinks i seq n bad =>
    simp only [State.hubTold]
    split
    · exact h
    · exact h.lccCount
  | start i seq params =>
    simp only [State.hubTold]
    split
    · exact h
    · exact .ite h (State.Ok.beginPiece (h.of_mem State.startIn_mem))
  | finish i seq n bad =>
    simp only [State.hubTold]
    split
    · exact h
    · split
      · exact h
      · exact .ite h h.endPiece
  | cancel i seq err =>
    simp only [State.hubTold]
    split
    · exact h
    · exact h.cancelLive
  | begin_ staging => exact .ite h (h.of_mem (by simp))
  | close => exact .ite h (.ite (h.of_mem (by simp)) (h.of_mem (by simp)))
  | leave => exact .ite h (h.of_mem (by simp))
  | _ => exact h

@[simp] theorem State.joinPhase_mem {p k es} : (s.joinPhase p k es).mem = s.mem := by
  unfold State.joinPhase
  split
  · rfl
  · split
    · simp
    · split <;> simp

@[simp] theorem State.meetGuest_mem {p k} : (s.meetGuest p k).mem = s.mem := by
  unfold State.meetGuest
  split <;> rfl

@[simp] theorem State.guestPublished_mem {p k ok} : (s.guestPublished p k ok).mem = s.mem := by
  unfold State.guestPublished
  split <;> simp

theorem execPhaseAck_ok (h : s.Ok) : Out.Ok (execPhaseAck s) := by
  unfold execPhaseAck
  dsimp only
  split
  · split
    · exact h.of_mem (by simp)
    · exact h.of_mem (by simp)
    · split
      · exact h
      · exact .ite h.hubTold h
  · split
    · exact h
    · split
      · exact h
      · split
        · exact .ite (h.of_mem (by simp)) h
        · exact .ite (h.of_mem (by simp)) (h.of_mem (by simp))

theorem execPhaseStart_ok (h : s.Ok) : Out.Ok (execPhaseStart s) := by
  unfold execPhaseStart
  split
  · exact h
  · split
    · exact h
    · exact h.of_mem (by simp)

theorem execPhend_ok {a} (h : s.Ok) : Out.Ok (execPhend a s) := by
  unfold execPhend
  refine h.unsafeIssue fun _ h1 => h1.withRegs fun _ _ h2 => ?_
  dsimp only
  split
  · split
    · exact h1.of_mem (by simp)
    · exact State.Ok.of_mem (State.Ok.of_mem (.ite (h2.of_mem (by simp)) (h2.of_mem (by simp))) State.tellAway_mem)
          State.retire_mem
  · split
    · exact h1.of_mem (by simp)
    · exact .ite (h1.of_mem (by simp)) (h2.of_mem (by simp))

theorem execCancelLaunch_ok {d a} (h : s.Ok) : Out.Ok (execCancelLaunch d a s) := by
  refine h.unsafeIssue fun s h => h.withRegs fun ws s1 h1 => ?_
  split
  · exact h.finish h1
  · dsimp only
    split
    · exact h.finish h1
    · exact h.finish (State.Ok.settleWaiting (h1.of_mem (by simp)))
    · exact h.finish (State.Ok.cancelLive (h1.of_mem (by simp)))

@[simp] theorem State.flushRecs_mem {c b n} : (State.flushRecs c b n s).mem = s.mem := by
  induction n generalizing s with
  | zero => rfl
  | succ n ih =>
    unfold State.flushRecs
    split
    · rfl
    · exact ih.trans State.enqueueRec_mem

theorem State.Ok.cancelGraph {c b origin} (h : s.Ok) : (s.cancelGraph c b origin).Ok := by
  unfold State.cancelGraph
  dsimp only
  split
  · exact h.of_mem (by simp)
  · exact State.Ok.settleWaiting (State.Ok.cancelAll (h.of_mem (by simp)))

theorem execCancelGraph_ok {d a} (h : s.Ok) : Out.Ok (execCancelGraph d a s) := by
  refine h.unsafeIssue fun s h => h.withRegs fun ws s1 h1 => ?_
  split
  · exact h.finish h1
  · split
    · exact h.finish (h1.of_mem (by simp))
    · exact .ite (h.finish h1) (h.finish h1.cancelGraph)

@[simp] theorem State.tellCancel_mem {p ph} : (s.tellCancel p ph).mem = s.mem := rfl

theorem State.Ok.cancelEntry {p k origin y} (h : s.Ok) : (s.cancelEntry p k origin y).Ok := by
  unfold State.cancelEntry
  split
  · exact h.of_mem (by simp)
  · exact State.Ok.cancelGraph (h.of_mem (by simp))

theorem State.Ok.cancelEntries {p ph origin} (h : s.Ok) : (s.cancelEntries p ph origin).Ok :=
  h.foldl fun _ _ h1 => h1.cancelEntry

theorem State.Ok.cancelPhase {p ph origin} (h : s.Ok) : (s.cancelPhase p ph origin).Ok :=
  State.Ok.cancelEntries (h.of_mem (by simp))

theorem State.Ok.cancelGuest {p k origin} (h : s.Ok) : (s.cancelGuest p k origin).Ok := by
  unfold State.cancelGuest
  dsimp only
  split
  · exact h
  · exact .ite h (State.Ok.cancelEntries (h.of_mem (by simp)))

@[simp] theorem State.discardPhase_mem {p ph} : (s.discardPhase p ph).mem = s.mem := rfl

theorem execCancelPhase_ok {d a} (h : s.Ok) : Out.Ok (execCancelPhase d a s) := by
  unfold execCancelPhase
  refine h.unsafeIssue fun _ h1 => h1.withRegs fun _ _ h2 => ?_
  split
  · exact h1.finish h2
  · exact .ite (h1.finish h2) (.ite (h1.finish h2) (h1.finish h2.cancelPhase))

theorem execCancelJob_ok {d a} (h : s.Ok) : Out.Ok (execCancelJob d a s) := by
  unfold execCancelJob
  refine h.unsafeIssue fun _ h1 => h1.withRegs fun _ _ h2 => .ite (h1.finish h2) ?_
  split
  · exact h1.finish h2
  · exact h1.finish (State.Ok.of_mem (State.Ok.foldl (h2.of_mem (by simp)) fun _ _ h3 => .ite (h3.of_mem (by simp))
        (.ite h3 h3.cancelPhase)) State.jobEnd_mem)

theorem execRemotePhaseCancel_ok (h : s.Ok) : Out.Ok (execRemotePhaseCancel s) := by
  unfold execRemotePhaseCancel
  refine .ite h ?_
  split
  · refine .ite ?_ h.cancelGuest
    split
    · exact h
    · exact .ite h h.cancelPhase
  · split
    · exact h
    · exact .ite h h.cancelPhase

@[simp] theorem State.cwaitAcquire_mem {w} : (s.cwaitAcquire w).mem = s.mem :=
  (foldl_mem fun _ _ => State.raceJoin_mem.trans State.raceJoin_mem).trans State.acquire_mem

theorem execCwait_ok {d a} (h : s.Ok) : Out.Ok (execCwait d a s) := by
  unfold execCwait
  refine h.unsafeIssue fun _ h1 => h1.withRegs fun _ _ h2 => ?_
  split
  · exact h1.finish h2
  · split
    · exact h1
    · exact h1.finish (h2.of_mem (by simp))
    · exact h1.finish (h2.of_mem (by simp))

theorem execCread_ok {d a} (h : s.Ok) : Out.Ok (execCread d a s) := by
  unfold execCread
  refine h.unsafeIssue fun _ h1 => h1.withRegs fun _ _ h2 => ?_
  split
  · exact h1.finish h2
  · exact h1.finish h2

@[simp] theorem State.writeJccTarget_mem {v} : (s.writeJccTarget v).mem = s.mem := rfl
theorem execJccTargetWrite_ok (h : s.Ok) : Out.Ok (execJccTargetWrite s) := h.of_mem (by simp)
@[simp] theorem State.writeLqState_mem {v} : (s.writeLqState v).mem = s.mem := rfl
theorem execLqStateWrite_ok (h : s.Ok) : Out.Ok (execLqStateWrite s) := h.of_mem (by simp)

theorem execBalancerSample_ok (h : s.Ok) : Out.Ok (execBalancerSample s) := by
  unfold execBalancerSample
  dsimp only
  split
  · exact h
  · exact h.of_mem rfl

theorem execBalancerMove_ok (h : s.Ok) : Out.Ok (execBalancerMove s) := by
  unfold execBalancerMove
  split
  · exact h
  · split
    · exact h
    · split
      · exact h.of_mem (by simp)
      · exact h

/-! ## Copies -/

theorem execCpy_ok {d a b} (h : s.Ok) : Out.Ok (execCpy d a b s) := by
  refine h.unsafeIssue fun s h => h.withRegs fun ws s1 h1 => .ite h ?_
  split
  · exact h.finish h1
  · split
    · exact h.finish h1
    · split
      · exact h.finish h1
      · refine h.finish ?_
        split
        · exact h1.of_mem (by simp)
        · exact h1.of_mem (by simp)

theorem State.Ok.copyWrite {op bytes kept ph l} (h : s.Ok) : (s.copyWrite op bytes kept ph l).Ok := by
  induction l generalizing s with
  | nil => exact h
  | cons q l ih => exact ih (.ite (h.of_mem (by simp)) h.fillWrite)

theorem State.Ok.copyRace {c op write l} (h : s.Ok) (e : s.copyRace c op write l = some t) : t.Ok := by
  induction l generalizing s with
  | nil => cases e; exact h
  | cons q l ih =>
    unfold State.copyRace at e
    split at e
    · cases e; exact h
    · split at e
      · cases e
      · next ec => exact ih (h.raceCheck ec) e

theorem State.Ok.copyLogs {c op write hs} (h : s.Ok) : (s.copyLogs c op write hs).Ok :=
  .ite h <| h.foldl fun s q h => by
    cases e : s.raceSays c (.copies c) q.2.1 q.1 q.2.2 write none (some op) with
    | none => simpa [e] using h
    | some t => simpa [e] using h.raceSays e

theorem State.Ok.failQueued {r q y} (h : s.Ok) : (s.failQueued r q y).Ok := State.Ok.settleWaiting (h.of_mem (by simp))

theorem State.Ok.endCopy {c op bad} (h : s.Ok) : (s.endCopy c op bad).Ok := by
  unfold State.endCopy
  extract_lets info core s1 me tok await
  have h1 : s1.Ok := h.of_mem (State.setCoreAt_mem ..)
  split
  · extract_lets s2
    have h2 : s2.Ok := by
      simp only [s2]
      split
      · exact h1.drained
      · exact h1.injectC
    split
    · exact h2
    · exact h2.cancelLive
  · exact State.Ok.drained h1.cancelLive
  · exact State.Ok.failQueued h1.drained
  · exact h1.of_mem State.onRegion_mem
  · refine .ite h1.drained (State.Ok.of_mem ?_ State.onRegion_mem)
    split
    · exact h1.of_mem State.noteCopyAt_mem
    · exact h1
  · exact State.Ok.drained (.ite (h1.of_mem State.noteCopyAt_mem) h1)
  · exact h1.drained

@[simp] theorem State.parkCopy_mem {c op va write r} : (s.parkCopy c op va write r).mem = s.mem := rfl

@[simp] theorem State.copyAcq_mem {c op} : (s.copyAcq c op).mem = s.mem := by
  unfold State.copyAcq
  split <;> rfl

@[simp] theorem State.copyRel_mem {c op} : (s.copyRel c op).mem = s.mem := by
  unfold State.copyRel
  split <;> rfl

@[simp] theorem State.copyLaid_mem {c op} : (s.copyLaid c op).mem = s.mem := State.copyRel_mem

theorem State.Ok.voidCopy {c op} (h : s.Ok) : (s.voidCopy c op).Ok := by
  unfold State.voidCopy
  extract_lets logs
  have hl : ∀ write q s, s.Ok → (logs write q s).Ok := fun write q s h => by
    cases q with
    | error _ => exact h
    | ok hs => exact h.copyLogs
  exact (hl _ _ _ (hl _ _ _ h)).endCopy

theorem State.Ok.landCopy {op far} (h : s.Ok) : (s.landCopy op far).Ok := by
  unfold State.landCopy
  extract_lets c s1 ph
  refine .ite h (.ite h.voidCopy (.ite (State.Ok.endCopy (h.of_mem (by simp))) (.ite h.endCopy (.ite h ?_))))
  split
  · exact h.of_mem (by simp)
  · split
    · exact h.of_mem (by simp)
    · have h1 : s1.Ok := h.of_mem (by simp [s1])
      split
      · exact h1.endCopy
      · next e2 =>
        have h2 := h1.copyRace e2
        split
        · exact h2.endCopy
        · next e3 =>
          have h3 := h2.copyRace e3
          extract_lets bytes req rivals kept src s4
          have h4 : s4.Ok := State.Ok.of_mem (State.Ok.copyWrite h3) rfl
          exact .ite (State.Ok.endCopy (h3.of_mem (by simp))) (State.Ok.endCopy (h4.of_mem (by simp)))

theorem execCopyComplete_ok (h : s.Ok) : Out.Ok (execCopyComplete s) := by
  unfold execCopyComplete
  split
  · exact h
  · split
    · exact h
    · split
      · exact h.landCopy
      · exact h.endCopy

/-! ## The logit stations -/

@[simp] theorem State.setCtx_mem {c} : (s.setCtx c).mem = s.mem := rfl

theorem State.Ok.halted {c} (h : s.Ok) : (s.halted c).Ok := by
  unfold State.halted
  extract_lets at_ s1 s2 s3 d2 s4
  have h2 : s2.Ok := (h.foldl fun _ _ h => h.writeMem).foldl fun _ _ h => h.writeMem
  have h3 : s3.Ok := by
    simp only [s3]
    split
    · exact h2
    · exact h2.writeMem
  have h4 : s4.Ok := by
    simp only [s4]
    split
    · exact h3
    · exact h3.writeMem
  exact h4.of_mem State.raceReleaseVia_mem

theorem State.Ok.endRun {c} (h : s.Ok) : (s.endRun c).Ok :=
  State.Ok.smpFlush (State.Ok.of_mem (h.halted.of_mem State.setCtx_mem) State.onSmp_mem)

theorem State.Ok.abandonRun {c} (h : s.Ok) : (s.abandonRun c).Ok := State.Ok.smpFlush (h.of_mem (by simp))

theorem State.Ok.logit {k} (h : s.Ok) (hk : ∀ a s, s.Ok → (k a s).Ok) : (s.logit k).Ok := by
  unfold State.logit
  split
  · exact h
  · exact .ite h (.ite h.endRun (hk _ _ h))

theorem State.Ok.logitV {d f} (h : s.Ok) : (s.logitV d f).Ok := h.logit fun _ _ h1 => h1.of_mem (by simp)
theorem State.Ok.logitS {d f} (h : s.Ok) : (s.logitS d f).Ok := h.logit fun _ _ h1 => h1.of_mem (by simp)

theorem execSamplerRunStart_ok (h : s.Ok) : Out.Ok (execSamplerRunStart s) := by
  unfold execSamplerRunStart
  dsimp only
  split
  · split
    · exact h.smpFlush
    · split
      · exact h.smpFlush
      · exact h.smpFlush.of_mem State.onSmp_mem
  · exact h.smpFlush

theorem execEccUncorrectable_ok (h : s.Ok) : Out.Ok (execEccUncorrectable s) := by
  unfold execEccUncorrectable
  split
  · split
    · exact h
    · exact h.failLive
  · extract_lets s1
    have h1 : s1.Ok := h.of_mem rfl
    split
    · exact h
    · next c _ => exact (h1.abandonRun (c := c)).of_mem rfl

theorem execBias_ok {d a} (h : s.Ok) : Out.Ok (execBias d a s) := by
  unfold execBias
  refine h.logit fun _ _ h1 => .ite ?_ (h1.of_mem (by simp))
  split
  · exact h1.abandonRun
  · exact h1.of_mem (by simp)

theorem execDraw_ok {d a} (h : s.Ok) : Out.Ok (execDraw d a s) := h.logit fun _ _ h1 => h1.of_mem (by simp)
theorem execEmit_ok {a} (h : s.Ok) : Out.Ok (execEmit a s) := h.logit fun _ _ h1 => h1.of_mem (by simp)
theorem execSsts_ok {a i} (h : s.Ok) : Out.Ok (execSsts a i s) := h.logit fun _ _ h1 => h1.of_mem (by simp)
theorem execBr_ok {i} (h : s.Ok) : Out.Ok (execBr i s) := h.logit fun _ _ h1 => h1.of_mem (by simp)
theorem execBrz_ok {a i} (h : s.Ok) : Out.Ok (execBrz a i s) := h.logit fun _ _ h1 => h1.of_mem (by simp)
theorem execBrnz_ok {a i} (h : s.Ok) : Out.Ok (execBrnz a i s) := h.logit fun _ _ h1 => h1.of_mem (by simp)
theorem execHalt_ok (h : s.Ok) : Out.Ok (execHalt s) := h.logit fun _ _ h1 => h1.endRun

/-! ## Sequences and the larder -/

theorem State.Ok.clearLarder {slot} (h : s.Ok) : (s.clearLarder slot).Ok := by
  refine State.Ok.writeMem (State.Ok.writeMem (State.Ok.foldl ?_ fun _ _ h => h.writeMem))
  exact h.performOwn.of_mem rfl

theorem State.Ok.seqbind {a b} (h : s.Ok) : (s.seqbind a b).2.Ok := by
  unfold State.seqbind
  split
  · exact h
  · split
    · exact h
    · split
      · exact h
      · extract_lets +lift d0 d1 nw smp ps g
        split
        · exact h
        · split
          · exact h
          · split
            · exact h
            · split
              · exact h
              · extract_lets +lift ws s1 s2
                have h2 : s2.Ok := h.of_mem (by simp [s2, s1])
                split
                · exact h
                · split
                  · exact h
                  · exact .ite h2.clearLarder h2

theorem execSeqbind_ok {d a b} (h : s.Ok) : Out.Ok (execSeqbind d a b s) :=
  h.unsafeIssue fun _ h1 => h1.withRegs fun _ _ h2 => h1.finish h2.seqbind

theorem execSequnbind_ok {a} (h : s.Ok) : Out.Ok (execSequnbind a s) := by
  unfold execSequnbind
  refine h.unsafeIssue fun _ h1 => h1.withRegs fun _ _ h2 => ?_
  split
  · exact h1.of_mem (by simp)
  · exact .ite h1 (h2.of_mem (by simp))

theorem execSeqstep_ok {d a} (h : s.Ok) : Out.Ok (execSeqstep d a s) := by
  unfold execSeqstep
  refine h.unsafeIssue fun _ h1 => h1.withRegs fun _ _ h2 => ?_
  split
  · exact h1.finish h2
  · exact .ite h1 (h1.finish (h2.of_mem (by simp)))

theorem State.Ok.cutLaunches {r seqs} (h : s.Ok) : (s.cutLaunches r seqs).Ok := h.foldl fun _ _ h1 => h1.failLive

theorem State.Ok.dropIngress {r id} (h : s.Ok) : (s.dropIngress r id).2.Ok :=
  State.Ok.foldl (h.of_mem (by simp)) fun _ _ h1 => h1.drained

theorem State.Ok.smpBind {v} (h : s.Ok) : (s.smpBind v).2.Ok := by
  unfold State.smpBind
  dsimp only
  split
  · exact h
  · split
    · exact h
    · split
      · split
        · exact h
        · split
          · split
            · exact h
            · exact State.Ok.cutLaunches (State.Ok.dropIngress (h.of_mem (by simp)))
          · split
            · exact h
            · split
              · exact h
              · exact h.of_mem (by simp)
      · split
        · exact h
        · split
          · split
            · exact h
            · exact State.Ok.cutLaunches (h.of_mem (by simp))
          · split
            · exact h
            · split
              · exact h
              · exact h.of_mem (by simp)

theorem State.Ok.writeSmpBind {v} (h : s.Ok) : (s.writeSmpBind v).Ok := h.smpBind.of_mem (State.setCore_mem ..)

/-! ## Remote modules -/

@[simp] theorem State.sendRemote_mem {x q a req} : (s.sendRemote x q a req).mem = s.mem := rfl

theorem State.Ok.fireRemote {f go} (h : s.Ok) (hk_go : ∀ a b c s, s.Ok → (go a b c s).Ok) : (s.fireRemote f go).Ok := by
  unfold State.fireRemote
  refine h.fireHeads fun _ _ h1 => ?_
  split
  · exact h1
  · next e1 =>
      exact (h1.of_mem (State.nextSet_mem e1)).rows (fun _ _ h3 => .ite h1 (h3.of_mem (by simp))) fun _ h3 => .ite h1
          (.ite (hk_go _ _ _ _ h3) (h3.of_mem (by simp)))

theorem execRld_ok {f} (h : s.Ok) : Out.Ok (execRld f s) := h.fireRemote fun _ _ _ _ h1 => h1.of_mem (by simp)
theorem execRst_ok {f} (h : s.Ok) : Out.Ok (execRst f s) := h.fireRemote fun _ _ _ _ h1 => h1.of_mem (by simp)

theorem execRamo_ok {f} (h : s.Ok) : Out.Ok (execRamo f s) :=
  h.fireRemote fun _ _ _ _ h1 => .ite h (State.Ok.of_mem (.ite (h1.of_mem (by simp)) h1) State.sendRemote_mem)

theorem execRfence_ok {f} (h : s.Ok) : Out.Ok (execRfence f s) := by
  unfold execRfence
  refine h.fireHeads fun _ _ h1 => ?_
  split
  · exact h1
  · dsimp only
    split
    · split
      · exact h1
      · exact State.Ok.of_mem (.ite (State.Ok.of_mem (.ite (h1.of_mem (by simp)) (h1.of_mem (by simp)))
            State.raceAcquire_mem) (.ite (h1.of_mem (by simp)) (h1.of_mem (by simp)))) State.emits_mem
    · exact h1.of_mem (by simp)
    · exact h1.of_mem (by simp)
    · exact h1.of_mem (by simp)

@[simp] theorem State.replyAcquire_mem {x q} : (s.replyAcquire x q).mem = s.mem := by
  unfold State.replyAcquire
  split
  · split <;> simp
  · simp

@[simp] theorem State.remoteReply_mem {x i r} : (s.remoteReply x i r).mem = s.mem := by
  unfold State.remoteReply
  split
  · rfl
  · split
    · simp
    · split <;> simp

theorem execRemoteReply_ok (h : s.Ok) : Out.Ok (execRemoteReply s) := h.of_mem (by simp)

@[simp] theorem State.tlbinvFrom_mem {dpn all page} : (s.tlbinvFrom dpn all page).mem = s.mem := by
  unfold State.tlbinvFrom
  split <;> rfl

theorem State.hubTranslate_mem {d off need v} (e : s.hubTranslate d off need = some (v, t)) : t.mem = s.mem := by
  unfold State.hubTranslate at e
  split at e
  · cases e
  · dsimp only at e
    split at e <;> cases e <;> rfl

theorem State.Ok.serveRemote {q} (h : s.Ok) : (s.serveRemote q).2.Ok := by
  cases q <;> simp only [State.serveRemote]
  · split
    · exact h
    · next e => exact h.of_mem (State.hubTranslate_mem e)
  · split
    · exact h
    · split
      · exact h
      · next e => exact (h.of_mem (State.hubTranslate_mem e)).fillWrite
  · split
    · exact h
    · next e =>
      have h1 := h.of_mem (State.hubTranslate_mem e)
      split
      · exact h1
      · exact h1.writeAs

theorem execRemoteRequestServe_ok (h : s.Ok) : Out.Ok (execRemoteRequestServe s) :=
  (h.serveRemote (q := s.input.req)).of_mem rfl

@[simp] theorem State.queuePacket_mem {p vc owner b} : (s.queuePacket p vc owner b).mem = s.mem :=
  (s.queuePacket_frame p vc owner b).mem

@[simp] theorem State.hubWork_mem : s.hubWork.mem = s.mem := s.hubWork_frame.mem

@[simp] theorem State.abortPackets_mem {x} : (s.abortPackets x).mem = s.mem := by
  unfold State.abortPackets
  refine foldl_mem fun s p => ?_
  extract_lets mine src s1
  have e1 : s1.mem = s.mem := State.setPort_mem ..
  rw [← e1]
  refine foldl_mem fun s k => ?_
  extract_lets s2
  have e2 : s2.mem = s.mem := State.transmit_mem
  exact e2

@[simp] theorem State.offerChannel_mem {p vc} : (s.offerChannel p vc).mem = s.mem := by
  unfold State.offerChannel
  split <;> rfl

@[simp] theorem State.offerChannels_mem {p} : (s.offerChannels p).mem = s.mem := by
  unfold State.offerChannels
  exact foldl_mem fun _ _ => by split <;> simp

theorem State.Ok.dropChannel {r id p vc} (h : s.Ok) : (s.dropChannel r id p vc).Ok :=
  State.Ok.cutLaunches (State.Ok.dropIngress (h.of_mem (by simp)))

theorem State.Ok.unbindChannel {r id p vc} (h : s.Ok) :
    (s.unbindChannel r id p vc).Ok := State.Ok.dropChannel (h.of_mem rfl)

@[simp] theorem State.onSaved_mem {r f cut} : (s.onSaved r f cut).mem = s.mem := rfl
@[simp] theorem State.dropSaved_mem {r id p vc unbind} : (s.dropSaved r id p vc unbind).mem = s.mem := rfl

theorem State.Ok.farUnbound {p vc} (h : s.Ok) : (s.farUnbound p vc).Ok := by
  unfold State.farUnbound
  extract_lets on out s1 s2
  have h2 : s2.Ok := (h.foldl fun _ _ h => h.dropChannel).foldl fun _ _ h => h.of_mem (by simp)
  exact .ite (h2.of_mem State.offerChannel_mem) h2

theorem State.Ok.tarBind {v} (h : s.Ok) : (s.tarBind v).2.Ok := by
  unfold State.tarBind
  dsimp only
  split
  · split
    · exact h
    · split
      · exact h
      · split
        · split
          · split
            · exact h.unbindChannel
            · exact h
          · exact h
        · split
          · exact h
          · split
            · exact h
            · exact .ite (h.of_mem (by simp)) (h.of_mem (by simp))
  · exact h

theorem State.Ok.writeTarBind {v} (h : s.Ok) : (s.writeTarBind v).Ok := h.tarBind.of_mem (State.setCore_mem ..)

@[simp] theorem State.cutTile_mem {p x} : (s.cutTile p x).mem = s.mem :=
  foldl_mem fun _ _ => State.remoteReply_mem

theorem State.Ok.cutCore {p c} (h : s.Ok) : (s.cutCore p c).Ok := by
  unfold State.cutCore
  extract_lets k lost at0 s1 s2 gone
  have h2 : s2.Ok := ((h.of_mem rfl : at0.Ok).foldl fun _ _ h => h.of_mem State.failLoad_mem).foldl fun _ _ h =>
      h.of_mem State.failStore_mem
  exact (h2.foldl (l := k.copies.filter gone) fun s o h => h.endCopy (c := c) (op := o) (bad := some eLINK)).of_mem rfl

theorem State.Ok.cutRequests {p} (h : s.Ok) : (s.cutRequests p).Ok :=
  State.Ok.foldl (h.foldl fun _ _ h1 => h1.of_mem (by simp)) fun _ _ h1 => h1.cutCore

theorem State.Ok.failPort {p} (h : s.Ok) : (s.failPort p).Ok := by
  unfold State.failPort
  extract_lets s0 s1 src s2
  have h1 : s1.Ok := h.cutRequests.foldl fun _ _ h => (h.foldl fun _ _ h => h.unbindChannel).foldl fun _ _ h => h.of_mem
      State.dropSaved_mem
  have h2 : s2.Ok := h1.of_mem (State.setPort_mem ..)
  exact h2.foldl fun _ _ h => .ite (h.of_mem State.notice_mem) h

theorem State.Ok.refuseFlit {p x own} (h : s.Ok) : (s.refuseFlit p x own).Ok :=
  .ite (State.Ok.failPort (h.of_mem (by simp))) (h.of_mem rfl)

theorem State.Ok.replayFrom {p fseq} (h : s.Ok) : (s.replayFrom p fseq).Ok := by
  unfold State.replayFrom
  dsimp only
  split
  · exact h
  · exact .ite h.failPort (h.of_mem rfl)

theorem State.Ok.fromChannel {p vc x} (h : s.Ok) : (s.fromChannel p vc x).Ok := by
  unfold State.fromChannel
  split
  · exact h.inject
  · split
    · exact h
    · exact h.of_mem (by simp)
  · exact h

theorem State.Ok.receive {p vc flits l} (h : s.Ok) : (s.receive p vc flits l).Ok :=
  .ite h (.ite (h.of_mem (by simp)) (State.Ok.foldl (h.of_mem (by simp)) fun _ _ h1 => h1.fromChannel))

theorem State.Ok.packetIn {p vc b} (h : s.Ok) : (s.packetIn p vc b).Ok := by
  unfold State.packetIn
  extract_lets s1
  have h1 : s1.Ok := h.of_mem State.transmit_mem
  refine .ite (h1.of_mem State.queuePacket_mem) ?_
  split
  · exact .ite h1.farUnbound h1
  · exact .ite (h1.of_mem State.tlbinvFrom_mem) h1
  · exact h1

theorem State.Ok.deliverFlit {p vc pay} (h : s.Ok) : (s.deliverFlit p vc pay).Ok := by
  unfold State.deliverFlit
  dsimp only
  split
  · exact .ite (State.Ok.packetIn (h.of_mem (by simp))) (h.of_mem (by simp))
  · exact .ite (.ite (h.of_mem (by simp)) (State.Ok.receive (h.of_mem (by simp)))) h.receive

theorem State.Ok.abortChannel {p vc} (h : s.Ok) : (s.abortChannel p vc).Ok := by
  refine .ite h (State.Ok.foldl (State.Ok.foldl ?_ fun _ _ h => h.cutLaunches) fun _ _ h => h.of_mem (by simp))
  exact h.of_mem (by simp)

theorem execTariorFlitReceive_ok (h : s.Ok) : Out.Ok (execTariorFlitReceive s) := by
  unfold execTariorFlitReceive
  dsimp only
  split
  · exact h.replayFrom
  · split
    · exact h
    · split
      · exact h.refuseFlit
      · split
        · exact h.refuseFlit
        · split
          · exact State.Ok.abortChannel (h.of_mem (by simp))
          · exact .ite (h.of_mem (by simp)) (State.Ok.deliverFlit (h.of_mem (by simp)))

theorem execTariorReroute_ok (h : s.Ok) : Out.Ok (execTariorReroute s) := by
  unfold execTariorReroute
  extract_lets x s1
  have h1 : s1.Ok := by
    simp only [s1]
    split
    · exact .ite (h.of_mem rfl) h
    · exact h
  exact .ite (h1.of_mem (State.setPort_mem ..)) h1

theorem execTariorPortRetrain_ok (h : s.Ok) : Out.Ok (execTariorPortRetrain s) := by
  unfold execTariorPortRetrain
  dsimp only
  split
  · exact h
  · exact .ite (h.of_mem (by simp)) (h.of_mem (by simp))
  · exact h.of_mem (by simp)

/-! ## Traps -/

theorem execInterruptTaken_ok (h : s.Ok) : Out.Ok (execInterruptTaken s) := .ite (h.of_mem (by simp)) h
theorem execTimer_ok (h : s.Ok) : Out.Ok (execTimer s) := h.of_mem (by simp)

theorem State.fetch_mem {bytes} (e : s.fetch = some (bytes, t)) : t.mem = s.mem := by
  unfold State.fetch at e
  dsimp only at e
  split at e
  · cases e
  · split at e
    · cases e
    · split at e
      · cases e
      · cases e
        split <;> simp

theorem execFetchfault_ok (h : s.Ok) : Out.Ok (execFetchfault s) := h.issue fun _ h1 => h1.of_mem (by simp)

theorem execIllegalInstruction_ok (h : s.Ok) : Out.Ok (execIllegalInstruction s) := by
  unfold execIllegalInstruction
  split
  · exact .ite (h.unsafeIssue fun _ h2 => h2.of_mem (by simp)) (h.issue fun _ h2 => h2.of_mem (by simp))
  · exact h.issue fun _ h1 => h1.of_mem (by simp)

theorem execSyscall_ok (h : s.Ok) : Out.Ok (execSyscall s) := h.unsafeIssue fun _ h1 => h1.of_mem (by simp)

theorem execBrk_ok {code} (h : s.Ok) : Out.Ok (execBrk code s) :=
  h.unsafeIssue fun _ h1 => .ite (h1.of_mem (by simp)) (h1.of_mem (by simp))

theorem execDebuggerCommand_ok (h : s.Ok) : Out.Ok (execDebuggerCommand s) := .ite (h.of_mem (by simp)) h
theorem execEret_ok (h : s.Ok) : Out.Ok (execEret s) := h.unsafeIssue fun _ h1 => h1.of_mem (by simp)

theorem execIdle_ok (h : s.Ok) : Out.Ok (execIdle s) :=
  h.unsafeIssue fun _ h1 => .ite (h1.of_mem (by simp)) (h1.of_mem (by simp))

/-! ## Control registers -/

theorem State.Ok.csrWrite {n v} (h : s.Ok) : (s.csrWrite n v).Ok := by
  unfold State.csrWrite
  split
  · exact h.of_mem (by simp)
  · exact h.of_mem (by simp)
  · exact h.of_mem (by simp)
  · exact h.of_mem (by simp)
  · exact h.of_mem (by simp)
  · exact h.writeStaGeom
  · exact h.writeTarBind
  · exact h.writeSmpBind
  · exact h.of_mem (by simp)

@[simp] theorem State.csrAcquire_mem {n} : (s.csrAcquire n).mem = s.mem := by
  unfold State.csrAcquire
  split <;> rfl

theorem execCsrrd_ok {d c} (h : s.Ok) : Out.Ok (execCsrrd d c s) := by
  unfold execCsrrd
  refine h.issue fun _ h1 => ?_
  split
  · exact h1.of_mem (by simp)
  · exact h1.finish (h1.of_mem (by simp))

theorem State.Ok.csrStep {d a n f} (h : s.Ok) (hk_f : ∀ a b s, s.Ok → (f a b s).Ok) : (s.csrStep d a n f).Ok := by
  unfold State.csrStep
  refine h.unsafeIssue fun _ h1 => ?_
  split
  · exact h1.of_mem (by simp)
  · exact h1.withRegs fun _ _ h2 => h1.finish (hk_f _ _ _ h2)

theorem execCsrwr_ok {d a c} (h : s.Ok) : Out.Ok (execCsrwr d a c s) := h.csrStep fun _ _ _ h1 => h1.csrWrite
theorem execCsrset_ok {d a c} (h : s.Ok) : Out.Ok (execCsrset d a c s) := h.csrStep fun _ _ _ h1 => .ite h1 h1.csrWrite
theorem execCsrclr_ok {d a c} (h : s.Ok) : Out.Ok (execCsrclr d a c s) := h.csrStep fun _ _ _ h1 => .ite h1 h1.csrWrite

/-! ## Checkpoints, drain and resume -/

@[simp] theorem State.setBinRun_mem {first n l} : (s.setBinRun first n l).mem = s.mem := rfl

theorem State.Ok.restoreBlock {x b} (h : s.Ok) : (s.restoreBlock x b).Ok :=
  .ite (State.Ok.writeMem (h.of_mem (by simp))) (h.of_mem (by simp))

theorem State.Ok.writeUntil {p l base bytes} (h : s.Ok) : (s.writeUntil p l base bytes).1.Ok := by
  induction l generalizing s with
  | nil => exact h
  | cons q l ih =>
    unfold State.writeUntil
    split
    · exact h
    · next e => exact ih (h.writeV e)

theorem State.Ok.writeArea {p va bytes} (h : s.Ok) : (s.writeArea p va bytes).1.Ok := h.writeUntil

theorem State.Ok.writeAreas {p l} (h : s.Ok) : (s.writeAreas p l).1.Ok := by
  induction l generalizing s with
  | nil => exact h
  | cons q l ih =>
    simp only [State.writeAreas]
    split
    · exact ih h.writeArea
    · exact h.writeArea

theorem State.Ok.checkpoint {r} (h : s.Ok) : (s.checkpoint r).2.Ok := by
  have h1 := State.Ok.writeAreas (p := r.part) (l := s.ckptWrites r) (h.of_mem (t := { s with fresh := s.fresh + 1 })
      rfl)
  rw [State.checkpoint]
  obtain ⟨⟨s1, done⟩, hw⟩ : ∃ w, State.writeAreas { s with fresh := s.fresh + 1 } r.part (s.ckptWrites r) = w :=
      ⟨_, rfl⟩
  rw [hw] at h1 ⊢
  cases done
  · exact h1
  · exact h1.of_mem (by simp)

theorem execCkpt_ok {d a} (h : s.Ok) : Out.Ok (execCkpt d a s) := by
  refine h.unsafeIssue fun s h => h.withRegs fun ws s1 h1 => ?_
  split
  · exact h.finish h1
  · next r _ =>
    have hc := h1.checkpoint (r := r)
    refine .ite h (.ite (h.of_mem (by simp)) ?_)
    split
    · next e => rw [e] at hc; exact h.finish (hc.of_mem (by simp))
    · next e => rw [e] at hc; exact h.finish (hc.of_mem (by simp))

theorem State.Ok.drainStart {r cause} (h : s.Ok) : (s.drainStart r cause).Ok := State.Ok.cancelAll (h.of_mem (by simp))

theorem State.Ok.drainEnd {r} (h : s.Ok) : (s.drainEnd r).Ok := by
  unfold State.drainEnd
  refine State.Ok.of_mem ?_ (State.setCoreAt_mem ..)
  refine State.Ok.of_mem ?_ State.onRegion_mem
  split
  · exact h
  · exact h.foldl fun _ _ h1 => h1.restoreBlock

theorem execDrain_ok {a} (h : s.Ok) : Out.Ok (execDrain a s) := by
  refine h.unsafeIssue fun s h => h.withRegs fun ws s1 h1 => ?_
  split
  · exact h.of_mem (by simp)
  · extract_lets go
    have hg : (go s1).Ok := h1.drainStart
    split
    · next x _ => exact .ite h.drainStart (hg.drainEnd.of_mem (t := ((go s1).drainEnd x).retire) State.retire_mem)
    · exact h

@[simp] theorem State.walkAgain_mem {x} : (s.walkAgain x).mem = s.mem := by
  unfold State.walkAgain
  split <;> rfl

theorem State.Ok.resumeHold {x} (h : s.Ok) : (s.resumeHold x).Ok := by
  unfold State.resumeHold
  refine .ite (h.of_mem (by simp)) ?_
  split
  · split
    · exact h.of_mem (by simp)
    · exact State.Ok.endCopy (h.of_mem (by simp))
  · split
    · exact h.of_mem (by simp)
    · exact State.Ok.failLive (h.of_mem (by simp))
  · split
    · exact h.of_mem (by simp)
    · exact State.Ok.failLive (h.of_mem (by simp))
  · split
    · exact h.of_mem (by simp)
    · exact State.Ok.failLive (h.of_mem (by simp))

theorem execResume_ok {a} (h : s.Ok) : Out.Ok (execResume a s) :=
  h.unsafeIssue fun _ h1 => h1.withRegs fun _ _ h2 => .ite (h1.of_mem (by simp))
      (State.Ok.of_mem (h2.foldl fun _ _ h3 => h3.resumeHold) State.retire_mem)

theorem State.Ok.holdExpires {x} (h : s.Ok) : (s.holdExpires x).Ok := by
  unfold State.holdExpires
  split
  · dsimp only
    split
    · exact h.of_mem rfl
    · exact State.Ok.endCopy (h.of_mem rfl)
  · split
    · exact h
    · exact h.drainStart
  · split
    · exact h
    · exact h.drainStart
  · split
    · exact h
    · exact h.drainStart

theorem execHoldLimitExpiry_ok (h : s.Ok) : Out.Ok (execHoldLimitExpiry s) := by
  unfold execHoldLimitExpiry
  split
  · exact h.drainEnd
  · split
    · exact h
    · exact .ite h h.holdExpires

theorem execHangDeclared_ok (h : s.Ok) : Out.Ok (execHangDeclared s) := by
  unfold execHangDeclared
  split
  · exact h
  · split
    · exact h
    · refine State.Ok.of_mem ?_ (State.setCore_mem ..)
      refine State.Ok.of_mem ?_ State.onRegion_mem
      split
      · next e2 => exact (h.writeV e2).of_mem (by simp)
      · exact h

/-! ## The control network -/

theorem execBar_ok {f} (h : s.Ok) : Out.Ok (execBar f s) := by
  unfold execBar
  refine h.withSta fun _ _ h1 => .ite h1 ?_
  split
  · exact h1
  · next e1 =>
      have h2 := h1.of_mem (State.nextSet_mem e1)
      dsimp only
      split
      · exact h2.of_mem (by simp)
      · exact .ite (h2.of_mem (by simp)) (h2.of_mem (by simp))

theorem execDecide_ok {f} (h : s.Ok) : Out.Ok (execDecide f s) := by
  exact h.fireSet (fun _ _ _ _ h => h) fun _ _ s1 h1 => .ite h (h1.of_mem (by simp))

theorem State.ctlIn_mem {x p} (e : s.ctlIn x p = some t) : t.mem = s.mem := by
  unfold State.ctlIn at e
  split at e
  · cases e
  · dsimp only at e
    split at e
    · cases e; simp
    · split at e
      · cases e; simp
      · split at e
        · split at e <;> cases e
          simp
        · cases e; simp
        · cases e; simp

theorem State.ctlAct_mem {x c k sl} (e : s.ctlAct x c k sl = some t) : t.mem = s.mem := by
  unfold State.ctlAct at e
  dsimp only at e
  split at e
  · cases e; simp
  · split at e
    · cases e; simp
    · split at e <;> cases e
      simp

theorem State.Ok.ctlFire {f c} (h : s.Ok) : (s.ctlFire f c).Ok := by
  refine h.fireHeads fun x s h => ?_
  split
  · next e =>
    rcases (Option.orElse_eq_some _ _ _).1 e with e | ⟨_, e⟩
    · exact h.of_mem (State.ctlIn_mem e)
    · exact h.of_mem (State.ctlIn_mem e)
  · extract_lets k sls
    split
    · next e =>
      obtain ⟨l, _, e⟩ := List.exists_of_findSome?_eq_some e
      obtain ⟨sl, _, e⟩ := Option.bind_eq_some_iff.1 e
      exact h.of_mem (State.ctlAct_mem e)
    · cases e : s.ctlIn x 0 with
      | none => exact h
      | some s1 => exact h.of_mem (State.ctlIn_mem e)

theorem execDone_ok {f} (h : s.Ok) : Out.Ok (execDone f s) := by
  unfold execDone
  refine h.fireHeads fun _ _ h1 => ?_
  split
  · exact h1
  · dsimp only
    split
    · exact h1.of_mem (by simp)
    · exact .ite (h1.of_mem (by simp)) (h1.of_mem (by simp))
    · exact .ite (h1.of_mem (by simp)) (h1.of_mem (by simp))

/-! ## Conversions -/

theorem State.Ok.blockFire {f blk out} (h : s.Ok) : (s.blockFire f blk out).Ok := by
  unfold State.blockFire
  refine h.fireHeads fun _ _ h1 => ?_
  split
  · exact h1
  · dsimp only
    split
    · exact h1.of_mem (by simp)
    · exact .ite (h1.of_mem (by simp)) (.ite (h1.of_mem (by simp)) (h1.of_mem (by simp)))

theorem execDsdec_ok {f} (h : s.Ok) : Out.Ok (execDsdec f s) := by
  unfold execDsdec
  refine h.fireSet (fun _ _ _ _ h1 => h1.of_mem (by simp)) fun _ _ _ h1 => ?_
  dsimp only
  split
  · exact h1.of_mem (by simp)
  · exact h1.of_mem (by simp)

theorem execDscut_ok {f} (h : s.Ok) : Out.Ok (execDscut f s) :=
  h.fireSet (fun _ _ _ _ h1 => h1.of_mem (by simp)) fun _ _ _ h1 => h1.of_mem (by simp)

theorem execQbmap_ok {f} (h : s.Ok) : Out.Ok (execQbmap f s) := by
  unfold execQbmap
  refine h.fireHeads fun _ _ h1 => ?_
  split
  · exact h1
  · dsimp only
    split
    · split
      · exact h1
      · exact .ite (h1.of_mem (by simp)) (.ite (h1.of_mem (by simp)) (h1.of_mem (by simp)))
    · split
      · exact h1.of_mem (by simp)
      · exact h1.of_mem (by simp)
      · exact h1.of_mem (by simp)
      · exact h1.of_mem (by simp)

/-! ## Dataflow stations -/

theorem execSteer_ok {f} (h : s.Ok) : Out.Ok (execSteer f s) :=
  h.fireSet (fun _ _ _ _ h1 => h1.of_mem (by simp)) fun _ _ _ h1 => h1.of_mem (by simp)

theorem execGate_ok {f} (h : s.Ok) : Out.Ok (execGate f s) :=
  h.fireSet (fun _ _ _ _ h1 => h1.of_mem (by simp)) fun _ _ _ h1 => .ite (h1.of_mem (by simp)) h1

theorem execMerge_ok {f} (h : s.Ok) : Out.Ok (execMerge f s) := by
  refine h.fireHeads fun x s h => ?_
  dsimp only
  split
  · exact h.of_mem (by simp)
  · exact .ite (.ite (h.of_mem (by simp)) (h.of_mem (by simp))) h

theorem execCmerge_ok {f} (h : s.Ok) : Out.Ok (execCmerge f s) := by
  refine h.fireHeads fun x s h => ?_
  split
  · exact h
  · split
    · exact h.of_mem (by simp)
    · split
      · exact .ite (h.of_mem (by simp)) (.ite (h.of_mem (by simp)) (.ite (h.of_mem (by simp)) (h.of_mem (by simp))))
      · exact h
    · dsimp only
      split
      · exact h
      · exact h.of_mem (by simp)
    · exact h.of_mem (by simp)

theorem State.Ok.headCase {x p y val stop} (h : s.Ok) (hk_val : ∀ s, s.Ok → (val s).Ok) (hk_stop : ∀ a s, s.Ok →
    (stop a s).Ok) :
    (s.headCase x p y val stop).Ok := by
  unfold State.headCase
  split
  · exact hk_val _ (h.of_mem (by simp))
  · exact hk_stop _ _ (h.of_mem (by simp))
  · exact h.of_mem (by simp)
  · exact h.of_mem (by simp)

theorem State.Ok.carryInit {x} (h : s.Ok) : (s.carryInit x).Ok := by
  unfold State.carryInit
  split
  · exact h
  · exact .ite h (h.headCase (fun _ h1 => h1.of_mem (by simp)) fun _ _ h1 => h1.of_mem (by simp))

theorem execCarry_ok {f} (h : s.Ok) : Out.Ok (execCarry f s) := by
  refine h.fireHeads fun x s h => ?_
  split
  · exact h.carryInit
  · refine .ite h.carryInit (.ite ?_ ?_)
    · split
      · exact h.carryInit
      · split <;> exact h.of_mem (by simp)
    · exact h.headCase (fun _ h => h.of_mem State.setSlot_mem) fun _ _ h => h.of_mem State.errFire_mem

theorem State.Ok.invarInit {x} (h : s.Ok) : (s.invarInit x).Ok := by
  unfold State.invarInit
  split
  · exact h
  · exact .ite h (h.headCase (fun _ h1 => h1.of_mem (by simp)) fun _ _ h1 => h1.of_mem (by simp))

theorem execInvar_ok {f} (h : s.Ok) : Out.Ok (execInvar f s) := by
  refine h.fireHeads fun x s h => ?_
  split
  · exact h.invarInit
  · exact .ite h.invarInit (h.headCase (fun _ h => .ite (h.of_mem State.emits_mem) (h.of_mem State.setSlot_mem)) fun _ _
        h => h.of_mem State.errFire_mem)

@[simp] theorem State.limAdd_mem {x seq g} : (s.limAdd x seq g).mem = s.mem := rfl

@[simp] theorem State.limExit_mem {x} : (s.limExit x).mem = s.mem := by
  unfold State.limExit
  split
  · simp
  · split <;> simp

theorem execLim_ok {f} (h : s.Ok) : Out.Ok (execLim f s) := by
  unfold execLim
  refine h.fireHeads fun _ _ h1 => ?_
  dsimp only
  split
  · exact .ite (h1.of_mem (by simp)) (h1.of_mem (by simp))
  · split
    · exact h1.of_mem (by simp)
    · exact .ite (h1.of_mem (by simp)) (h1.of_mem (by simp))

theorem execSink_ok {f} (h : s.Ok) : Out.Ok (execSink f s) := by
  unfold execSink
  refine h.withSta fun _ _ h1 => ?_
  split
  · exact h1
  · refine .ite (h1.of_mem (by simp)) ?_
    split
    · exact State.Ok.sinkCount (State.Ok.failLive (h1.of_mem (by simp)))
    · exact State.Ok.sinkCount (h1.of_mem (by simp))

@[simp] theorem State.dupCopy_mem {x y left} : (s.dupCopy x y left).mem = s.mem := State.emits_mem

theorem execDup_ok {f} (h : s.Ok) : Out.Ok (execDup f s) :=
  h.fireOwing (fun _ _ _ _ h1 => h1.of_mem (by simp)) fun _ _ h1 => h1.fireNext (fun _ _ _ h2 => h2.of_mem (by simp))
      fun _ _ h2 => h2.of_mem (by simp)

@[simp] theorem State.tagNext_mem {x y} : (s.tagNext x y).mem = s.mem := by
  unfold State.tagNext
  dsimp only
  split <;> simp

theorem execTagnew_ok {f} (h : s.Ok) : Out.Ok (execTagnew f s) :=
  h.fireSet (fun _ _ _ _ h1 => h1.of_mem (by simp)) fun _ _ _ h1 => h1.of_mem (by simp)

theorem execTagset_ok {f} (h : s.Ok) : Out.Ok (execTagset f s) :=
  h.fireSet (fun _ _ _ _ h1 => h1.of_mem (by simp)) fun _ _ _ h1 => h1.of_mem (by simp)

theorem execTagrst_ok {f} (h : s.Ok) : Out.Ok (execTagrst f s) := by
  unfold execTagrst
  refine h.fireHeads fun _ _ h1 => ?_
  split
  · exact h1
  · exact h1.of_mem (by simp)

theorem execStopgen_ok {f} (h : s.Ok) : Out.Ok (execStopgen f s) :=
  h.fireSet (fun _ _ _ _ h1 => h1.of_mem (by simp)) fun _ _ _ h1 => h1.of_mem (by simp)

theorem execStopadv_ok {f} (h : s.Ok) : Out.Ok (execStopadv f s) :=
  h.fireSet (fun _ _ _ _ h1 => .ite (.ite h1 (h1.of_mem (by simp))) (.ite (h1.of_mem (by simp)) (h1.of_mem (by simp))))
      fun _ _ _ h1 => h1.of_mem (by simp)

theorem execCount_ok {f} (h : s.Ok) : Out.Ok (execCount f s) :=
  h.fireSet (fun _ _ _ _ h1 => .ite (h1.of_mem (by simp)) (.ite (h1.of_mem (by simp)) (h1.of_mem (by simp)))) fun _ _ _
      h1 => .ite (.ite (h1.of_mem (by simp)) (h1.of_mem (by simp))) (h1.of_mem (by simp))

@[simp] theorem State.walkOut_mem {x seq v i j} : (s.walkOut x seq v i j).mem = s.mem := by
  unfold State.walkOut
  dsimp only
  split <;> simp

@[simp] theorem State.walkPos_mem {x seq da db} : (s.walkPos x seq da db).mem = s.mem := rfl

theorem State.Ok.walkFire {f union} (h : s.Ok) : (s.walkFire f union).Ok := by
  unfold State.walkFire
  refine h.fireHeads fun _ _ h1 => ?_
  split
  · refine .ite (h1.of_mem (by simp)) (.ite (h1.of_mem (by simp)) (.ite (h1.of_mem (by simp))
        (.ite (h1.of_mem (by simp)) ?_)))
    refine .ite h1 (.ite (State.Ok.of_mem (.ite (h1.of_mem (by simp)) (h1.of_mem (by simp))) State.walkPos_mem) ?_)
    split
    · exact State.Ok.of_mem (.ite (h1.of_mem (by simp)) (h1.of_mem (by simp))) State.walkPos_mem
    · exact .ite (h1.of_mem (by simp)) (.ite (h1.of_mem (by simp)) (h1.of_mem (by simp)))
  · exact h1

/-! ## Integer stations -/

theorem State.Ok.rr {d a b f} (h : s.Ok) : (s.rr d a b f).Ok := h.compute
theorem State.Ok.r1 {d a f} (h : s.Ok) : (s.r1 d a f).Ok := h.compute

/-! ## Floating-point and vector stations -/

theorem State.Ok.intFire {f g} (h : s.Ok) : (s.intFire f g).Ok := h.fireFn
theorem State.Ok.shiftFire {f g} (h : s.Ok) : (s.shiftFire f g).Ok := h.fireFn
theorem State.Ok.wFire {f g} (h : s.Ok) : (s.wFire f g).Ok := h.fireFn

theorem execFmaxrun_ok {f} (h : s.Ok) : Out.Ok (execFmaxrun f s) :=
  h.fireSet (fun _ _ _ _ h1 => State.Ok.of_mem (.ite (h1.of_mem (by simp)) h1) passStop_mem) fun _ _ _ h1 => h1.of_mem
      (by simp)

theorem execVpack_ok {f} (h : s.Ok) : Out.Ok (execVpack f s) := by
  unfold execVpack
  refine h.fireHeads fun _ _ h1 => ?_
  split
  · exact h1
  · dsimp only
    split
    · exact h1.of_mem (by simp)
    · exact .ite (h1.of_mem (by simp)) (.ite (h1.of_mem (by simp)) (h1.of_mem (by simp)))

@[simp] theorem State.unpackLane_mem {x y j} : (s.unpackLane x y j).mem = s.mem := State.emits_mem

theorem execVunpk_ok {f} (h : s.Ok) : Out.Ok (execVunpk f s) := by
  unfold execVunpk
  refine h.fireOwing (fun _ _ _ _ h1 => h1.of_mem (by simp)) fun _ _ h1 => ?_
  split
  · exact h1
  · dsimp only
    split
    · exact h1.of_mem (by simp)
    · exact h1.of_mem (by simp)
    · exact h1.of_mem (by simp)
    · exact h1.of_mem (by simp)

/-! ## The matrix engine -/

theorem State.Ok.loadFire {f total write} (h : s.Ok) : (s.loadFire f total write).Ok := by
  unfold State.loadFire
  refine h.fireHeads fun _ _ h1 => ?_
  split
  · exact h1
  · dsimp only
    split
    · exact .ite (h1.of_mem (by simp)) (h1.of_mem (by simp))
    · exact h1.of_mem (by simp)
    · exact .ite h1 (.ite (h1.of_mem (by simp)) (h1.of_mem (by simp)))
    · exact h1.of_mem (by simp)

theorem execMxdotFill_ok (h : s.Ok) : Out.Ok (execMxdotFill s) := by
  unfold execMxdotFill
  dsimp only
  split
  · exact h
  · split
    · exact h
    · split
      · exact h
      · split
        · split
          · exact h
          · split
            · exact h.of_mem (by simp)
            · split
              · exact h.of_mem (by simp)
              · exact h
        · split
          · exact h
          · split
            · exact h
            · exact h.of_mem (by simp)

@[simp] theorem State.dotFail_mem {x a d y} : (s.dotFail x a d y).mem = s.mem := State.errFire_mem

theorem execMxdot_ok {f} (h : s.Ok) : Out.Ok (execMxdot f s) := by
  unfold execMxdot
  refine h.fireHeads fun _ _ h1 => ?_
  dsimp only
  split
  · split
    · exact h1.of_mem (by simp)
    · exact .ite (h1.of_mem (by simp)) (.ite h1 (h1.of_mem (by simp)))
  · split
    · exact h1
    · split
      · exact .ite h1 (h1.of_mem (by simp))
      · exact .ite (h1.of_mem (by simp)) (.ite h1 (h1.of_mem (by simp)))

theorem execMxSequencerApply_ok (h : s.Ok) : Out.Ok (execMxSequencerApply s) := by
  unfold execMxSequencerApply
  dsimp only
  split
  · exact h
  · split
    · exact h.of_mem (by simp)
    · exact h

theorem execMxrd_ok {f} (h : s.Ok) : Out.Ok (execMxrd f s) := by
  unfold execMxrd
  refine h.fireHeads fun _ _ h1 => ?_
  split
  · exact h1
  · exact .ite (h1.of_mem (by simp)) (.ite (h1.of_mem (by simp)) (.ite (h1.of_mem (by simp))
        (.ite h1 (h1.of_mem (by simp)))))

theorem execMxrdReadApply_ok (h : s.Ok) : Out.Ok (execMxrdReadApply s) := by
  unfold execMxrdReadApply
  dsimp only
  split
  · exact h
  · split
    · exact h.of_mem (by simp)
    · exact h

theorem execMxclr_ok {f} (h : s.Ok) : Out.Ok (execMxclr f s) := by
  unfold execMxclr
  refine h.fireHeads fun _ _ h1 => ?_
  split
  · exact h1
  · exact .ite (h1.of_mem (by simp)) (.ite (h1.of_mem (by simp)) (.ite (h1.of_mem (by simp))
        (.ite h1 (h1.of_mem (by simp)))))

theorem execMxclrApply_ok (h : s.Ok) : Out.Ok (execMxclrApply s) := by
  unfold execMxclrApply
  dsimp only
  split
  · exact h
  · split
    · exact .ite (h.of_mem (by simp)) (h.of_mem (by simp))
    · exact h

theorem execMxacc_ok {f} (h : s.Ok) : Out.Ok (execMxacc f s) := by
  unfold execMxacc
  refine h.fireHeads fun _ _ h1 => ?_
  split
  · exact h1
  · dsimp only
    split
    · exact h1.of_mem (by simp)
    · exact .ite (h1.of_mem (by simp)) (h1.of_mem (by simp))
    · exact h1.of_mem (by simp)
    · exact h1.of_mem (by simp)

/-! ## Partitions, the supervisor and pre-emption -/

@[simp] theorem State.extendMr_mem {i d} : (s.extendMr i d).mem = s.mem := rfl

@[simp] theorem State.resetBins_mem {p x} : (s.resetBins p x).mem = s.mem := by
  unfold State.resetBins
  extract_lets base g s1
  split
  · rfl
  · split
    · exact State.setBinRun_mem
    · have e1 : s1.mem = s.mem := foldl_mem fun _ _ => State.setBinRun_mem
      split
      · exact State.setBinRun_mem.trans e1
      · exact e1

@[simp] theorem State.giveUp_mem {p} : (s.giveUp p).mem = s.mem := rfl

theorem State.Ok.unbindAll {r} (h : s.Ok) : (s.unbindAll r).Ok := by
  unfold State.unbindAll
  refine h.foldl fun _ _ h1 => ?_
  split
  · split
    · exact h1.unbindChannel
    · exact h1
  · exact h1

theorem State.Ok.resetPartition {p} (h : s.Ok) : (s.resetPartition p).Ok := by
  unfold State.resetPartition
  extract_lets mine s1 s2 s3 s4 s5 s6
  have h2 : s2.Ok := (h.foldl fun _ _ h => h.cancelAll).foldl fun _ _ h => h.unbindAll
  have h3 : s3.Ok := h2.of_mem (by simp [s3])
  have h5 : s5.Ok := (h3.foldl fun _ _ h => h.of_mem (by simp)).foldl fun _ _ h => h.of_mem (by simp)
  exact h5.of_mem (by simp [s6])

theorem State.Ok.hvc {k} (h : s.Ok) (hk : ∀ a s, s.Ok → (k a s).Ok) : (s.hvc k).Ok := by
  unfold State.hvc
  refine h.unsafeIssue fun _ h1 => ?_
  split
  · exact h1.of_mem (by simp)
  · exact hk _ _ h1

@[simp] theorem State.answer_mem {w} : (s.answer w).mem = s.mem := rfl
theorem execHvcInfo_ok (h : s.Ok) : Out.Ok (execHvcInfo s) := h.hvc fun _ _ h1 => h1.of_mem (by simp)
theorem execHvcYield_ok (h : s.Ok) : Out.Ok (execHvcYield s) := h.hvc fun _ _ h1 => h1.of_mem (by simp)

theorem execHvcNotice_ok (h : s.Ok) : Out.Ok (execHvcNotice s) := by
  unfold execHvcNotice
  refine h.hvc fun _ _ h1 => ?_
  split
  · exact h1.of_mem (by simp)
  · exact h1.of_mem (by simp)

theorem execHvcDebug_ok (h : s.Ok) : Out.Ok (execHvcDebug s) :=
  h.hvc fun _ _ h1 => h1.withRegs fun _ _ h2 => .ite (h2.of_mem (by simp)) (.ite (h2.of_mem (by simp))
      (State.Ok.of_mem (.ite (h2.of_mem (by simp)) h2) State.answer_mem))

theorem execHvcAttest_ok (h : s.Ok) : Out.Ok (execHvcAttest s) := by
  refine h.hvc fun p s h => h.withRegs fun ws s h => ?_
  dsimp only
  split
  · exact h.of_mem (by simp)
  · split
    · exact h.of_mem (by simp)
    · split
      · exact h.of_mem (by simp)
      · next e => exact (h.writeV e).of_mem (by simp)

theorem execHvcReset_ok (h : s.Ok) : Out.Ok (execHvcReset s) := by
  unfold execHvcReset
  refine .ite ?_ (h.hvc fun _ _ h1 => h1.resetPartition)
  split
  · exact h
  · exact h.resetPartition

theorem execHvcSwapmap_ok (h : s.Ok) : Out.Ok (execHvcSwapmap s) := by
  unfold execHvcSwapmap
  refine h.hvc fun _ _ h1 => h1.withRegs fun _ _ h2 => .ite (h2.of_mem (by simp)) ?_
  split
  · exact h2.of_mem (by simp)
  · exact h2.of_mem (by simp)

theorem execPreemptRequest_ok (h : s.Ok) : Out.Ok (execPreemptRequest s) := .ite (h.of_mem (by simp)) h

@[simp] theorem State.haltCore_mem {c} : (s.haltCore c).mem = s.mem := by
  unfold State.haltCore
  dsimp only
  split <;> rfl

theorem execPreemptFailureReply_ok (h : s.Ok) : Out.Ok (execPreemptFailureReply s) := by
  unfold execPreemptFailureReply
  split
  · exact h
  · dsimp only
    split
    · split
      · exact h
      · exact .ite (h.of_mem (by simp)) h
    · split
      · exact h
      · exact .ite (h.of_mem (by simp)) h
    · split
      · exact h
      · exact .ite h.endCopy h
    · exact .ite (h.of_mem (by simp)) h

theorem State.Ok.containTile {r x ok} (h : s.Ok) : (s.containTile r x ok).Ok := by
  refine State.Ok.foldl (State.Ok.foldl (h.of_mem (by simp)) fun _ _ h => h.foldl fun _ _ h => ?_) fun _ _ h =>
      h.failLive
  exact .ite h.purge h

theorem execTileContainmentReset_ok (h : s.Ok) : Out.Ok (execTileContainmentReset s) := by
  unfold execTileContainmentReset
  split
  · exact State.Ok.containTile (h.of_mem rfl)
  · exact h.of_mem (by simp)

theorem execCreditReclaim_ok (h : s.Ok) : Out.Ok (execCreditReclaim s) := by
  unfold execCreditReclaim
  extract_lets s1
  have h1 : s1.Ok := h.foldl fun _ _ h => h.of_mem (State.setPort_mem ..)
  exact State.Ok.of_mem (h1.of_mem rfl) State.onTile_mem

@[simp] theorem State.vacateOf_mem {p tiles} : (s.vacateOf p tiles).mem = s.mem :=
  foldl_mem fun _ _ => State.setBinRun_mem

@[simp] theorem State.vacate_mem {p} : (s.vacate p).mem = s.mem := State.vacateOf_mem

theorem State.Ok.putBack {p v} (h : s.Ok) : (s.putBack p v).Ok := by
  unfold State.putBack
  extract_lets s1 s2 s3 s4 part src s5 s6
  have h1 : s1.Ok := h.foldl fun _ _ h => h.writeMem
  have h4 : s4.Ok := ((h1.foldl fun _ _ h => h.of_mem State.setBinRun_mem).foldl fun _ _ h => h.of_mem
      State.onTile_mem).foldl
    fun _ _ h => h.of_mem (State.setCoreAt_mem ..)
  have h6 : s6.Ok := State.Ok.foldl (h4.of_mem rfl : s5.Ok) fun _ _ h => by
    split
    · exact h.containTile
    · exact h
  refine h6.foldl fun _ _ h => ?_
  split
  · exact h.cutLaunches
  · exact h

@[simp] theorem State.stash_mem {p} : (s.stash p).mem = s.mem := by
  unfold State.stash
  split <;> simp

theorem State.Ok.losePower {w} (h : s.Ok) : (s.losePower w).Ok := by
  unfold State.losePower
  extract_lets lost s1
  have h1 : s1.Ok := h.foldl fun _ _ h => .ite (h.of_mem State.stash_mem) h
  clear_value lost s1
  split
  · exact ⟨memFilter_wf (fun c => !lost c.1) h1.mem⟩
  · exact h.of_mem rfl

theorem State.Ok.powerWaits (h : s.Ok) : s.powerWaits.Ok := by
  unfold State.powerWaits
  split
  · exact .ite h.losePower h
  · exact .ite h.losePower h
  · exact h

theorem execPreemptHaltComplete_ok (h : s.Ok) : Out.Ok (execPreemptHaltComplete s) := by
  unfold execPreemptHaltComplete
  dsimp only
  split
  · exact State.Ok.powerWaits (State.Ok.of_mem (h.foldl fun _ _ h1 => h1.of_mem (by simp)) (State.setPart_mem ..))
  · exact h

theorem State.Ok.attic {a k} (h : s.Ok) (hk : ∀ a s, s.Ok → (k a s).Ok) : (s.attic a k).Ok :=
  h.unsafeIssue fun _ h1 => .ite (h1.of_mem (by simp)) (h1.withRegs fun _ _ h2 => .ite (h1.of_mem (by simp))
      (hk _ _ h2))

@[simp] theorem State.landFor_mem {p} : (s.landFor p).mem = s.mem := State.landFlit_mem

@[simp] theorem State.stow_mem {p} : (s.stow p).mem = s.mem := by
  unfold State.stow
  simp [foldl_mem]

theorem execAtticSave_ok {a} (h : s.Ok) : Out.Ok (execAtticSave a s) :=
  h.attic fun _ _ h1 => .ite (h.of_mem (by simp)) (h1.of_mem (by simp))

theorem execAtticRestore_ok {a} (h : s.Ok) : Out.Ok (execAtticRestore a s) := by
  unfold execAtticRestore
  refine h.attic fun _ _ h1 => ?_
  split
  · exact h.of_mem (by simp)
  · exact .ite (h.of_mem (by simp)) (State.Ok.of_mem (State.Ok.putBack (h1.foldl fun _ _ h2 => h2.of_mem (by simp)))
        State.retire_mem)

@[simp] theorem State.revokeLost_mem {p} : (s.revokeLost p).mem = s.mem := by
  unfold State.revokeLost
  extract_lets gone note s1 out s2
  have h1 : s1.mem = s.mem := foldl_mem fun _ _ => foldl_mem fun _ _ => by split <;> simp
  have h2 : s2.mem = s1.mem := foldl_mem fun _ _ => foldl_mem fun _ _ => by split <;> simp
  exact (State.setPart_mem ..).trans (h2.trans h1)

theorem State.Ok.unbindLost {p} (h : s.Ok) : (s.unbindLost p).Ok := by
  refine State.Ok.foldl (h.of_mem rfl) fun s q h => ?_
  split
  · exact h.failLive
  · exact h

@[simp] theorem State.forgetTlbs_mem {p} : (s.forgetTlbs p).mem = s.mem := rfl
@[simp] theorem State.grantRecall_mem {p x} : (s.grantRecall p x).mem = s.mem := rfl

@[simp] theorem State.emptyRun_mem {p q} : (s.emptyRun p q).mem = s.mem := by
  unfold State.emptyRun
  split
  · rfl
  · dsimp only
    split <;> simp

@[simp] theorem State.grantBins_mem {p old x} : (s.grantBins p old x).mem = s.mem := by
  unfold State.grantBins
  extract_lets g fresh s1
  split
  · split
    · rfl
    · exact State.setBinRun_mem
  · have e1 : s1.mem = s.mem := foldl_mem fun _ _ => State.setBinRun_mem
    split
    · exact e1
    · exact State.emptyRun_mem.trans e1

@[simp] theorem State.copyOut_mem {p} : (s.copyOut p).mem = s.mem := by
  unfold State.copyOut
  split
  · rfl
  · dsimp only
    split <;> simp

theorem execGrantChange_ok (h : s.Ok) : Out.Ok (execGrantChange s) := by
  unfold execGrantChange
  extract_lets p g x s0 s1 s2 s3 s4
  have h1 : s1.Ok := h.of_mem (by simp [s1, s0])
  have h3 : s3.Ok := (h1.foldl fun _ _ h => h.of_mem State.grantRecall_mem).foldl fun _ _ h => h.of_mem
      State.grantBins_mem
  have h4 : s4.Ok := h3.foldl fun _ _ h => h.foldl fun _ _ h => .ite (h.of_mem State.emptyRun_mem) h
  split
  · exact h.of_mem (by simp)
  · split
    · exact h
    · exact State.Ok.unbindLost (h4.of_mem State.revokeLost_mem)

@[simp] theorem State.tlbinv_mem {w scope} : (s.tlbinv w scope).mem = s.mem := by
  unfold State.tlbinv
  split <;> rfl

theorem execTlbinv_ok {a c} (h : s.Ok) : Out.Ok (execTlbinv a c s) :=
  h.unsafeIssue fun _ h1 => .ite h1 (h1.withRegs fun _ _ h2 => h2.of_mem (by simp))

/-! ## Boot, power, the host and SPDM -/

@[simp] theorem State.bootStep_mem {mr key x} : (s.bootStep mr key x).1.mem = s.mem := State.extendMr_mem

@[simp] theorem State.bootSteps_mem {l} : (s.bootSteps l).mem = s.mem := by
  induction l generalizing s with
  | nil => rfl
  | cons q l ih =>
    unfold State.bootSteps
    split
    · next e => exact ih.trans ((congrArg (·.1.mem) e).symm.trans State.bootStep_mem)
    · next e => exact (congrArg (·.1.mem) e).symm.trans State.bootStep_mem

@[simp] theorem State.bootPart_mem {b p} : (s.bootPart b p).mem = s.mem := by
  unfold State.bootPart
  extract_lets g src x0 s1 x mine live out s2
  have e2 : s2.mem = s.mem := by
    change s1.mem = s.mem
    simp only [s1]
    split <;> simp
  split
  · exact e2
  · exact (State.setPart_mem ..).trans e2

/-- What loses power is filtered out of the list, which leaves it rising and free of redundant entries. -/
theorem State.Ok.bare {w} (h : s.Ok) : (s.bare w).Ok := ⟨memFilter_wf _ h.mem⟩

theorem execPowerOn_ok (h : s.Ok) : Out.Ok (execPowerOn s) := by
  unfold execPowerOn
  extract_lets b src s1
  have h1 : s1.Ok := State.Ok.of_mem (h.bare (w := .p3)) State.bootSteps_mem
  exact .ite (h1.foldl fun _ _ h => h.of_mem State.bootPart_mem) h1

theorem State.Ok.resumeAll (h : s.Ok) : s.resumeAll.Ok := by
  unfold State.resumeAll
  refine h.foldl fun _ _ h1 => ?_
  split
  · exact h1.putBack
  · exact h1

theorem execPowerStateChange_ok (h : s.Ok) : Out.Ok (execPowerStateChange s) := by
  unfold execPowerStateChange
  extract_lets w on s1
  have h1 : s1.Ok := h.resumeAll
  clear_value s1
  split
  · exact h
  · split
    · split
      · exact h.losePower
      · exact h.of_mem rfl
    · split
      · exact h.of_mem rfl
      · split
        · exact h1.of_mem rfl
        · exact h

theorem execBudgetWindow_ok (h : s.Ok) : Out.Ok (execBudgetWindow s) := by
  unfold execBudgetWindow
  extract_lets s1 s2
  have h2 : s2.Ok := .ite (h.of_mem rfl) (h.of_mem rfl)
  clear_value s2
  split
  · exact h2.of_mem rfl
  · exact h2.of_mem rfl
  · exact h2.of_mem rfl
  · exact h2.of_mem rfl
  · exact h2

theorem State.Ok.zeroise (h : s.Ok) : s.zeroise.Ok := ⟨memFilter_wf _ h.mem⟩

theorem State.Ok.vendorReset (h : s.Ok) : s.vendorReset.Ok := by
  unfold State.vendorReset
  extract_lets s1 s2
  have h2 : s2.Ok := State.Ok.zeroise (h.foldl fun _ _ h => h.resetPartition)
  clear_value s2
  exact h2.of_mem rfl

theorem State.Ok.vendorWaits (h : s.Ok) : s.vendorWaits.Ok := .ite h.vendorReset h

@[simp] theorem State.spdmAnswer_mem {q} : (s.spdmAnswer q).mem = s.mem := by
  unfold State.spdmAnswer
  split <;> rfl

theorem execGetVersion_ok (h : s.Ok) : Out.Ok (execGetVersion s) := h.of_mem (by simp)
theorem execGetCapabilities_ok (h : s.Ok) : Out.Ok (execGetCapabilities s) := h.of_mem (by simp)
theorem execNegotiateAlgorithms_ok (h : s.Ok) : Out.Ok (execNegotiateAlgorithms s) := h.of_mem (by simp)
theorem execGetDigests_ok (h : s.Ok) : Out.Ok (execGetDigests s) := h.of_mem (by simp)
theorem execGetCertificate_ok (h : s.Ok) : Out.Ok (execGetCertificate s) := h.of_mem (by simp)
theorem execChallenge_ok (h : s.Ok) : Out.Ok (execChallenge s) := h.of_mem (by simp)
theorem execGetMeasurements_ok (h : s.Ok) : Out.Ok (execGetMeasurements s) := h.of_mem (by simp)
theorem execKeyExchange_ok (h : s.Ok) : Out.Ok (execKeyExchange s) := h.of_mem (by simp)

theorem State.Ok.hostDo {p op} (h : s.Ok) : (s.hostDo p op).2.Ok := by
  unfold State.hostDo
  split
  · exact h
  · cases op with
    | read n => dsimp only; split <;> exact h
    | write bytes =>
      dsimp only
      split
      · next e => exact h.writeV e
      · exact h

@[simp] theorem State.doorbell_mem {p op} : (s.doorbell p op).2.mem = s.mem := by
  unfold State.doorbell
  split
  · rfl
  · cases op <;> rfl

theorem execHostAccess_ok (h : s.Ok) : Out.Ok (execHostAccess s) := by
  unfold execHostAccess
  extract_lets refused
  split
  · exact h.of_mem rfl
  · split
    · exact h.of_mem rfl
    · next p _ _ =>
      extract_lets r
      have hr : r.2.Ok := by
        simp only [r]
        split
        · exact h.of_mem State.doorbell_mem
        · exact h.hostDo
      exact hr.of_mem rfl

theorem execPeerreset_ok (h : s.Ok) : Out.Ok (execPeerreset s) := h.foldl fun _ _ h1 => .ite (h1.of_mem (by simp)) h1

/-! ## Recall stations -/

@[simp] theorem State.onRcl_mem {x f} : (s.onRcl x f).mem = s.mem := rfl

@[simp] theorem State.gatherPort_mem {x kqry p} : (s.gatherPort x kqry p).mem = s.mem := by
  unfold State.gatherPort
  dsimp only
  split
  · rfl
  · split
    · rfl
    · split
      · simp
      · split
        · split <;> simp
        · split <;> simp

@[simp] theorem State.applyKey_mem {x g o} : (s.applyKey x g o).mem = s.mem := by
  unfold State.applyKey
  dsimp only
  split
  · rfl
  · split
    · simp
    · split <;> simp

@[simp] theorem State.applyQuery_mem {x g} : (s.applyQuery x g).mem = s.mem := by
  unfold State.applyQuery
  dsimp only
  split
  · rfl
  · split
    · simp
    · refine State.emits_mem.trans ?_
      split <;> simp

@[simp] theorem State.applyCommand_mem {x p own o} : (s.applyCommand x p own o).mem = s.mem := by
  unfold State.applyCommand
  repeat' split
  all_goals simp

theorem State.Ok.fireRecall {f kqry} (h : s.Ok) : (s.fireRecall f kqry).Ok := by
  unfold State.fireRecall
  refine h.fireHeads fun _ _ h1 => ?_
  dsimp only
  split
  · exact h1.foldl fun _ _ h2 => h2.of_mem (by simp)
  · split
    · split
      · exact h1.foldl fun _ _ h2 => h2.of_mem (by simp)
      · exact State.Ok.of_mem (State.Ok.of_mem (h1.foldl fun _ _ h2 => h2.of_mem (by simp)) State.take_mem)
            State.emits_mem
    · refine .ite (State.Ok.of_mem (h1.foldl fun _ _ h2 => h2.of_mem (by simp)) State.applyCommand_mem) ?_
      split
      · exact State.Ok.of_mem (State.Ok.of_mem (h1.foldl fun _ _ h2 => h2.of_mem (by simp)) State.onRcl_mem)
            State.applyQuery_mem
      · exact State.Ok.of_mem (State.Ok.of_mem (h1.foldl fun _ _ h2 => h2.of_mem (by simp)) State.onRcl_mem)
            State.applyKey_mem

theorem execKevict_ok {f} (h : s.Ok) : Out.Ok (execKevict f s) := h.fireHeads fun _ _ h1 => h1.of_mem (by simp)
theorem execKmask_ok {f} (h : s.Ok) : Out.Ok (execKmask f s) := h.fireHeads fun _ _ h1 => h1.of_mem (by simp)
theorem execKage_ok {f} (h : s.Ok) : Out.Ok (execKage f s) := h.fireHeads fun _ _ h1 => h1.of_mem (by simp)

theorem execKmerge_ok {f} (h : s.Ok) : Out.Ok (execKmerge f s) := by
  refine h.fireHeads fun x s h => ?_
  extract_lets ports
  split
  · exact h
  · next q s1 eq =>
    extract_lets t0 drop part join
    have h1 : s1.Ok := h.of_mem (State.nextSet_mem eq)
    have hd : ∀ s, s.Ok → (drop s).Ok := fun s h => h.of_mem State.onRcl_mem
    have hj : ∀ s, s.Ok → (join s).Ok := fun s h => by
      simp only [join]
      refine .ite (h.of_mem State.onRcl_mem) ?_
      split
      · exact (hd _ (h.of_mem State.onRcl_mem)).of_mem State.errFire_mem
      · exact .ite ((hd _ (h.of_mem State.onRcl_mem)).of_mem State.emits_mem) ((hd _ (h.of_mem State.onRcl_mem)).of_mem
            State.errFire_mem)
    refine .ite (hj _ h1) (.ite ((hd _ h1).of_mem State.errFire_mem) (.ite ((hd _ h1).of_mem State.errFire_mem)
        (h1.rows (fun _ _ h => ?_) hj)))
    exact h.of_mem passStop_mem

/-! ## Every instruction -/

/-- Every instruction keeps the invariant: one arm for each shared operation, one lemma for each other instruction. -/
theorem exec_ok {i : Instr} (h : s.Ok) : Out.Ok (exec i s) :=
  match i with
  | .add .. | .sub .. | .and_ .. | .or_ .. | .xor .. | .andn .. | .shl .. | .shr .. | .sar .. | .mul .. | .mulh ..
    | .mulhu .. | .min .. | .max .. | .minu .. | .maxu .. | .slt .. | .sltu .. | .seq .. | .bext .. | .lea .. => h.rr
  | .div .. | .divu .. | .rem .. | .remu .. => h.divide
  | .clz .. | .ctz .. | .popc .. | .bswap .. | .addi .. | .andi .. | .ori .. | .xori .. | .slti .. | .sltiu .. | .shli
      ..
    | .shri .. | .sari .. => h.r1
  | .bins .. | .lui .. | .auipc .. => h.compute
  | .ldb .. | .ldh .. | .ldw .. | .ldd .. | .ldbu .. | .ldhu .. | .ldwu .. => h.loadRI
  | .stb .. | .sth .. | .stw .. | .std .. => h.storeRI
  | .ldx .. | .ldxu .. => h.load
  | .stx .. => h.store
  | .beq .. | .bne .. | .blt .. | .bge .. | .bltu .. | .bgeu .. => h.branch
  | .jmp .. => execJmp_ok h
  | .call .. => execCall_ok h
  | .jr .. | .callr .. => h.jumpReg
  | .atadd .. | .atand .. | .ator .. | .atxor .. | .atmin .. | .atmax .. | .atminu .. | .atmaxu .. | .atxch .. | .atcas
      .. => h.atomic
  | .fence .. => execFence_ok h
  | .wait .. => execWait_ok h
  | .tbegin .. => execTbegin_ok h
  | .tabort .. => execTabort_ok h
  | .tstamp .. => execTstamp_ok h
  | .ldc .. => execLdc_ok h
  | .stf .. => execStf_ok h
  | .binq .. => execBinq_ok h
  | .binset .. => execBinset_ok h
  | .mbbind .. => execMbbind_ok h
  | .mbfree .. => execMbfree_ok h
  | .cfgld .. => execCfgld_ok h
  | .cfgchk .. => execCfgchk_ok h
  | .cfgcommit .. => execCfgcommit_ok h
  | .launch .. => execLaunch_ok h
  | .param .. => execParam_ok h
  | .selcfg .. => execSelcfg_ok h
  | .phase .. => execPhase_ok h
  | .phend .. => execPhend_ok h
  | .cancelLaunch .. => execCancelLaunch_ok h
  | .cancelGraph .. => execCancelGraph_ok h
  | .cancelPhase .. => execCancelPhase_ok h
  | .cancelJob .. => execCancelJob_ok h
  | .cwait .. => execCwait_ok h
  | .cread .. => execCread_ok h
  | .ckpt .. => execCkpt_ok h
  | .resume .. => execResume_ok h
  | .drain .. => execDrain_ok h
  | .cpy .. => execCpy_ok h
  | .splice .. => execSplice_ok h
  | .stpin .. => execStpin_ok h
  | .stunpin .. => execStunpin_ok h
  | .stver .. => execStver_ok h
  | .stlook .. => execStlook_ok h
  | .seqbind .. => execSeqbind_ok h
  | .sequnbind .. => execSequnbind_ok h
  | .seqstep .. => execSeqstep_ok h
  | .csrrd .. => execCsrrd_ok h
  | .csrwr .. => execCsrwr_ok h
  | .csrset .. => execCsrset_ok h
  | .csrclr .. => execCsrclr_ok h
  | .brk .. => execBrk_ok h
  | .tlbinv .. => execTlbinv_ok h
  | .atticSave .. => execAtticSave_ok h
  | .atticRestore .. => execAtticRestore_ok h
  | .steer .. => execSteer_ok h
  | .merge .. => execMerge_ok h
  | .cmerge .. => execCmerge_ok h
  | .carry .. => execCarry_ok h
  | .invar .. => execInvar_ok h
  | .gate .. => execGate_ok h
  | .sink .. => execSink_ok h
  | .dup .. => execDup_ok h
  | .tagnew .. => execTagnew_ok h
  | .tagset .. => execTagset_ok h
  | .tagrst .. => execTagrst_ok h
  | .stopgen .. => execStopgen_ok h
  | .stopadv .. => execStopadv_ok h
  | .count .. => execCount_ok h
  | .intersect .. | .union_ .. => h.walkFire
  | .lim .. => execLim_ok h
  | .iadd .. | .isub .. | .imul .. | .iand .. | .ior .. | .ixor .. | .imin .. | .imax .. | .icmp .. => h.intFire
  | .ishl .. | .ishr .. | .isar .. => h.shiftFire
  | .isel .. | .fcmp .. | .fsel .. | .fclass .. | .fscale .. | .vred .. | .vbcast .. | .vshuf .. | .vscan .. | .vdot ..
    | .vext .. | .vins .. | .fcvt .. => h.fireFn
  | .fadd .. | .fsub .. | .fmul .. | .fma .. | .fms .. | .fnma .. | .fneg .. | .fabs .. | .fmin .. | .fmax .. | .frnd ..
    | .frcp .. | .frsq .. | .fdiv .. | .fsqrt .. | .fexp .. | .fexp2 .. | .flog2 .. => h.wFire
  | .vpack .. => execVpack_ok h
  | .vunpk .. => execVunpk_ok h
  | .dsenc .. | .qblk .. => h.blockFire
  | .dsdec .. => execDsdec_ok h
  | .dscut .. => execDscut_ok h
  | .qbmap .. => execQbmap_ok h
  | .mxload .. | .mxscale .. => h.loadFire
  | .mxdot .. => execMxdot_ok h
  | .mxacc .. => execMxacc_ok h
  | .mxrd .. => execMxrd_ok h
  | .mxclr .. => execMxclr_ok h
  | .fmaxrun .. => execFmaxrun_ok h
  | .lds .. | .agen .. => h.fireWalk
  | .sts .. => execSts_ok h
  | .gath .. => execGath_ok h
  | .scat .. => execScat_ok h
  | .rport .. => execRport_ok h
  | .ldcs .. => execLdcs_ok h
  | .stfs .. => execStfs_ok h
  | .pport .. => execPport_ok h
  | .ksto .. | .kqry .. => h.fireRecall
  | .kmerge .. => execKmerge_ok h
  | .kevict .. => execKevict_ok h
  | .kmask .. => execKmask_ok h
  | .kage .. => execKage_ok h
  | .rld .. => execRld_ok h
  | .rst .. => execRst_ok h
  | .ramo .. => execRamo_ok h
  | .rfence .. => execRfence_ok h
  | .bar .. => execBar_ok h
  | .decide .. => execDecide_ok h
  | .seqc .. | .pipec .. | .strmc .. => h.ctlFire
  | .done .. => execDone_ok h
  | .lgin .. | .pen .. | .scl .. | .msk .. | .clamp .. | .topk .. | .topp .. | .minp .. | .smax .. => h.logitV
  | .bias .. => execBias_ok h
  | .vmax .. | .vsum .. | .cnt .. | .set_ .. | .slds .. => h.logitS
  | .draw .. => execDraw_ok h
  | .emit .. => execEmit_ok h
  | .ssts .. => execSsts_ok h
  | .br .. => execBr_ok h
  | .brz .. => execBrz_ok h
  | .brnz .. => execBrnz_ok h
  | .tcommit => execTcommit_ok h
  | .syscall => execSyscall_ok h
  | .hvcInfo => execHvcInfo_ok h
  | .hvcYield => execHvcYield_ok h
  | .hvcNotice => execHvcNotice_ok h
  | .hvcDebug => execHvcDebug_ok h
  | .hvcAttest => execHvcAttest_ok h
  | .hvcReset => execHvcReset_ok h
  | .hvcSwapmap => execHvcSwapmap_ok h
  | .eret => execEret_ok h
  | .idle => execIdle_ok h
  | .interruptTaken => execInterruptTaken_ok h
  | .timer => execTimer_ok h
  | .loadReply => execLoadReply_ok h
  | .storeFailure => execStoreFailure_ok h
  | .mailboxFlitArrival => execMailboxFlitArrival_ok h
  | .mailboxCreditReturn => execMailboxCreditReturn_ok h
  | .mailboxRevoke => execMailboxRevoke_ok h
  | .tokenArrival => execTokenArrival_ok h
  | .launchWideErrorPurge => execLaunchWideErrorPurge_ok h
  | .launchRecordEnqueue => execLaunchRecordEnqueue_ok h
  | .launchStart => execLaunchStart_ok h
  | .sourceRoundStart => execSourceRoundStart_ok h
  | .decisionSwitch => execDecisionSwitch_ok h
  | .commitApply => execCommitApply_ok h
  | .reconfigFenceLift => execReconfigFenceLift_ok h
  | .phaseAck => execPhaseAck_ok h
  | .phaseStart => execPhaseStart_ok h
  | .copyComplete => execCopyComplete_ok h
  | .quarryRowReturn => execQuarryRowReturn_ok h
  | .tlbWalkComplete => execTlbWalkComplete_ok h
  | .faultWithhold => execFaultWithhold_ok h
  | .faultRecordPost => execFaultRecordPost_ok h
  | .holdLimitExpiry => execHoldLimitExpiry_ok h
  | .hangDeclared => execHangDeclared_ok h
  | .binWaitGrant => execBinWaitGrant_ok h
  | .waitEntryResend => execWaitEntryResend_ok h
  | .balancerSample => execBalancerSample_ok h
  | .balancerMove => execBalancerMove_ok h
  | .mxdotFill => execMxdotFill_ok h
  | .mxSequencerApply => execMxSequencerApply_ok h
  | .mxrdReadApply => execMxrdReadApply_ok h
  | .mxclrApply => execMxclrApply_ok h
  | .remoteRequestServe => execRemoteRequestServe_ok h
  | .remoteReply => execRemoteReply_ok h
  | .tariorFlitReceive => execTariorFlitReceive_ok h
  | .tariorReroute => execTariorReroute_ok h
  | .tariorPortRetrain => execTariorPortRetrain_ok h
  | .tileContainmentReset => execTileContainmentReset_ok h
  | .creditReclaim => execCreditReclaim_ok h
  | .eccUncorrectable => execEccUncorrectable_ok h
  | .preemptRequest => execPreemptRequest_ok h
  | .preemptHaltComplete => execPreemptHaltComplete_ok h
  | .preemptFailureReply => execPreemptFailureReply_ok h
  | .reclaimRecordPost => execReclaimRecordPost_ok h
  | .securityProcessorVerify => execSecurityProcessorVerify_ok h
  | .samplerRunStart => execSamplerRunStart_ok h
  | .staGeomWrite => h.writeStaGeom
  | .jccTargetWrite => execJccTargetWrite_ok h
  | .lqStateWrite => execLqStateWrite_ok h
  | .tarBind | .tarUnbind => h.writeTarBind
  | .smpBind | .smpUnbind => h.writeSmpBind
  | .rclqCtlWrite | .rlogCtlWrite | .fqCtlWrite | .hangCtlWrite => h.csrWrite
  | .grantChange => execGrantChange_ok h
  | .powerOn => execPowerOn_ok h
  | .vendorDebugToken => .ite (State.Ok.vendorWaits (h.of_mem rfl)) h
  | .getVersion => execGetVersion_ok h
  | .getCapabilities => execGetCapabilities_ok h
  | .negotiateAlgorithms => execNegotiateAlgorithms_ok h
  | .getDigests => execGetDigests_ok h
  | .getCertificate => execGetCertificate_ok h
  | .challenge => execChallenge_ok h
  | .getMeasurements => execGetMeasurements_ok h
  | .keyExchange => execKeyExchange_ok h
  | .hostAccess => execHostAccess_ok h
  | .powerStateChange => execPowerStateChange_ok h
  | .budgetWindow => execBudgetWindow_ok h
  | .halt => execHalt_ok h
  | .illegalInstruction => execIllegalInstruction_ok h
  | .fetchfault => execFetchfault_ok h
  | .storePerformed => execStorePerformed_ok h
  | .remotePhaseCancel => execRemotePhaseCancel_ok h
  | .peerreset => execPeerreset_ok h
  | .debuggerCommand => execDebuggerCommand_ok h
  | .powerOff => h.bare

/-! ## Whose turn it is -/

@[simp] theorem State.tick_mem : s.tick.mem = s.mem := rfl
@[simp] theorem State.at_mem {x} : (s.at_ x).mem = s.mem := by cases x <;> rfl

theorem State.Ok.works {i} (h : s.Ok) : (s.works i).Ok := by
  unfold State.works
  refine .ite h ?_
  split
  · exact h.of_mem rfl
  · exact h

theorem State.Ok.before {x} (h : s.Ok) : (s.before x).Ok := by
  have h1 := (State.Ok.vendorWaits (h.of_mem State.hubWork_mem)).heed (me := x.core?)
  cases x with
  | core c => exact h1.of_mem (by simp [State.before])
  | _ => exact h1

@[simp] theorem State.nextWord_mem : s.nextWord.2.mem = s.mem := by
  unfold State.nextWord
  split
  · rfl
  · next e => split <;> exact State.fetch_mem e

theorem State.Ok.todo {x i} (h : s.Ok) (e : s.todo x = some (i, t)) : t.Ok := by
  cases x with
  | core c =>
    simp only [State.todo] at e
    split at e
    · cases e
    · split at e
      · cases e; exact h
      · split at e
        · cases e
        · split at e
          · cases e; exact h
          · exact State.Ok.of_some_snd (h.of_mem State.nextWord_mem) e
  | fire y st =>
    simp only [State.todo] at e
    split at e
    · obtain ⟨w, _, e⟩ := Option.map_eq_some_iff.1 e
      cases e
      exact .ite (h.of_mem State.won_mem) h
    · cases e
  | logit n y =>
    simp only [State.todo] at e
    split at e
    · cases e
    · split at e
      · cases e
      · obtain ⟨w, _, e⟩ := Option.map_eq_some_iff.1 e
        cases e
        exact h
  | event _ _ _ _ j _ =>
    simp only [State.todo] at e
    split at e
    · cases e
    · cases e
      exact .ite (h.of_mem State.won_mem) h.works

/-! ## The step -/

/-- What comes before the instruction (turn, hub, waiting stores) keeps the invariant, and so does the instruction. -/
theorem step_ok (h : s.Ok) : Out.Ok (step s) := by
  have ht : ((s.tick.before s.nextTurn).at_ s.nextTurn).Ok :=
    State.Ok.of_mem (State.Ok.before (h.of_mem State.tick_mem)) State.at_mem
  unfold step
  split
  · exact ht
  · next e => exact exec_ok (ht.todo e)


/-! ## The obligation -/

/-- Settles O59: the memory is canonical in every state that `State.Ok` holds of, and a step keeps `State.Ok`. -/
theorem memoryStaysCanonical : Obligations.MemoryStaysCanonical := by
  unfold Obligations.MemoryStaysCanonical
  intro s t h e
  exact (Out.Ok.next (step_ok ⟨h⟩) e).mem

end Sys2Proof.Machine

end

section
/-! SUPPORT and the proofs of O41 and O42: the stations whose one result is a function of their operands, over every kind of set. -/

namespace Sys2Proof.Machine

/-! ## The stations -/

/-- Each of the three kinds of station fires through `State.fireFn`, with a result of its own. -/
theorem exec_integerStation {i : Instr} {f : StF} {g : Word → Word → Word → Nat → Word} (h : Says.integerStation i = some (f, g)) :
    ∃ p, ∀ s, exec i s = .next (s.fireFn f p) := by
  unfold Says.integerStation at h
  split at h <;> cases h <;> exact ⟨_, fun _ => rfl⟩

theorem exec_floatStation {i : Instr} {f : StF} {g : W48 → W48 → W48 → W48} (h : Says.floatStation i = some (f, g)) :
    ∃ p, ∀ s, exec i s = .next (s.fireFn f p) := by
  unfold Says.floatStation at h
  split at h <;> cases h <;> exact ⟨_, fun _ => rfl⟩

theorem exec_otherStation {i : Instr} {f : StF} {g : State → Sta → List (Nat × Token) → Payload} (h : Says.otherStation i = some (f, g)) :
    ∃ p, ∀ s, exec i s = .next (s.fireFn f p) := by
  unfold Says.otherStation at h
  split at h <;> cases h <;> exact ⟨_, fun _ => rfl⟩

theorem exec_resultStation {i : Instr} {f : StF} (h : Says.resultStation i = some f) : ∃ p, ∀ s, exec i s = .next (s.fireFn f p) := by
  simp only [Says.resultStation, Option.orElse_eq_some, Option.map_eq_some_iff, Prod.exists, exists_and_right, exists_eq_right] at h
  rcases h with ⟨g, hg⟩ | ⟨-, ⟨g, hg⟩ | ⟨-, g, hg⟩⟩
  · exact exec_integerStation hg
  · exact exec_floatStation hg
  · exact exec_otherStation hg

/-! ## A firing -/

theorem MayAct.of_ready {s : State} {f : StF} {x : Sta} (h : Says.Ready s f x) : MayAct s f x := by
  obtain ⟨sta, sound, alive, clear, running, narrow, whole⟩ := h
  exact ⟨sta, sound, alive, clear, running, narrow, whole⟩

section Firing
variable {s s1 : State} {f : StF} {x : Sta} {q : List (Nat × Token)} {g : State → Sta → List (Nat × Token) → Payload}

/-- With no credit on some bound output nothing happens (R35). -/
theorem State.fireFn_waits (h : Says.Ready s f x) (hc : s.outCredit x.r x.t x.st none = false) : s.fireFn f g = s := by
  simp [State.fireFn, State.fireSet, State.withSta_acts (.of_ready h), State.fireNext, hc]

/-- With no ready set nothing happens (R32). -/
theorem State.fireFn_idle (h : Says.Ready s f x) (hn : s.nextSet x (portsOf f) = none) : s.fireFn f g = s := by
  simp [State.fireFn, State.fireSet, State.withSta_acts (.of_ready h), State.fireNext, hn]

/-- The rows of R33 decide over the set that is taken. -/
theorem State.fireFn_takes (h : Says.Takes s f x q s1) :
    s.fireFn f g = s1.rows x q dataOnly (passStop x q) fun s => s.fireV x q (g s x q) := by
  obtain ⟨⟨ready, credit⟩, next⟩ := h
  exact State.fireSet_fires (.of_ready ready) credit next ..

end Firing

/-! ## The rows of R33 -/

section Rows
variable {s : State} {x : Sta} {q : List (Nat × Token)} {acc : Nat → Kind → Bool} {stop : Nat → State → State} {vals : State → State}

theorem State.rows_error {e : Nat × Token} (h : q.find? (·.2.kind = .error) = some e) :
    s.rows x q acc stop vals = s.errFire x (setSeq q) (setIter q) (e.2.err (s.self x.t 0)) := by
  simp [State.rows, h]

theorem find?_error_none (h : ∀ e ∈ q, e.2.kind ≠ .error) : q.find? (·.2.kind = .error) = none :=
  List.find?_eq_none.2 fun e he => by simpa using h e he

/-- A kind that is not accepted. -/
theorem State.rows_kind (h : ∀ e ∈ q, e.2.kind ≠ .error) (hk : ∃ e ∈ q, e.2.kind.level = 0 ∧ acc e.1 e.2.kind = false) :
    s.rows x q acc stop vals = s.errFire x (setSeq q) (setIter q) (s.self x.t eKIND) := by
  have hany : q.any (fun e => e.2.kind.level = 0 ∧ !acc e.1 e.2.kind) = true := by simpa using hk
  simp only [State.rows, find?_error_none h, hany, if_true]

/-- STOPs of one level. -/
theorem State.rows_stops {n : Nat} (hq : q ≠ []) (hn : n ≠ 0) (h : ∀ e ∈ q, e.2.kind = .stop n) :
    s.rows x q acc stop vals = stop n s := by
  have hlevel : ∀ e ∈ q, e.2.kind.level = n := fun e he => by rw [h e he]; rfl
  have hany : q.any (fun e => e.2.kind.level = 0 ∧ !acc e.1 e.2.kind) = false :=
    List.any_eq_false.2 fun e he => by simp [hlevel e he, hn]
  have hmap : q.map (·.2.kind.level) = List.replicate q.length n := List.map_eq_replicate_iff.2 hlevel
  obtain ⟨m, hm⟩ : ∃ m, q.length = m + 1 := Nat.exists_eq_succ_of_ne_zero fun e => hq (List.length_eq_zero_iff.1 e)
  have hnone := find?_error_none (q := q) fun e he => by simp [h e he]
  simp only [State.rows, hnone, hany, hmap, hm, List.replicate_succ, List.headD_cons]
  simp [hn]

/-- Values and STOPs, or STOPs of several levels. -/
theorem State.rows_mixed (h : ∀ e ∈ q, e.2.kind ≠ .error) (ha : ∀ e ∈ q, e.2.kind.level = 0 → acc e.1 e.2.kind = true)
    (hm : ∀ n, ∃ e ∈ q, e.2.kind.level ≠ n) :
    s.rows x q acc stop vals = s.errFire x (setSeq q) (setIter q) (s.self x.t eSTOPMIS) := by
  have hany : q.any (fun e => e.2.kind.level = 0 ∧ !acc e.1 e.2.kind) = false :=
    List.any_eq_false.2 fun e he => by simpa using ha e he
  have hall : ∀ n, (q.map (·.2.kind.level)).all (· = n) = false := fun n => by simpa using hm n
  simp only [State.rows, find?_error_none h, hany, hall, Bool.false_eq_true, if_false]

end Rows

/-! ## The obligations -/

/-- Settles O42, by the row of R33 that each set falls under. -/
theorem stationRows : Obligations.StationRows := by
  unfold Obligations.StationRows
  intro i f hi s x ready
  obtain ⟨p, hp⟩ := exec_resultStation hi
  refine ⟨fun hc => ?_, fun hn => ?_, fun q s1 takes => ?_⟩
  · rw [hp, State.fireFn_waits ready hc]
  · rw [hp, State.fireFn_idle ready hn]
  · rw [hp, State.fireFn_takes takes]
    refine ⟨fun e he => ?_, fun h hk => ?_, fun n hq h hn => ?_, fun ha hs hm h => ?_⟩
    · rw [State.rows_error he]; rfl
    · rw [State.rows_kind h (by simpa [dataOnly] using hk)]; rfl
    · rw [State.rows_stops hq hn h]; rfl
    · rw [State.rows_mixed h (fun e he h0 => by simpa [dataOnly, h0] using ha e he) hm]; rfl

/-! Against O41 stands vins. Its K is the immediate when c is no token, and then port b, when it is no token either, reads the
immediate as well (R196, R224). The statement inserts what `State.opW` says of b, which is the constant-table entry that K would
name. Here K is 3, and entry 3 of the table is 0: the station inserts 3, and the statement 0. -/

/-- A vins station of port a and output 0, and one that takes what it sends. -/
def vinsWord : StF := ⟨1, 4, 3, 1, 0, 0⟩
/-- The encodings allow the word (R62, R224). -/
theorem vinsWord_wf : (Instr.vins vinsWord).wf = true := by decide
def vinsTile : TileId := ⟨0, 0, 0⟩
def vinsBlock : CfgBlock := { oneWord 0 0 with used := 3, ops := [vinsWord.word 0x48, vinsWord.word 0x48] }
def vinsRegion : Region := { oneTile vinsTile with edges := [⟨0, 0, false, 1, 1, false, false, false, 0, 0, vinsTile, 0, 0, vinsTile, 1, 0⟩] }
/-- A vector of zeros. -/
def vinsToken : Token := tokV 0 0 .data (List.replicate 16 0)
def vinsState : State :=
  { State.reset with
    regions := [vinsRegion]
    tiles := [{ Tile.zero vinsTile with cfgs := [(0, vinsBlock)], queue := [⟨0, 0, vinsToken⟩] }]
    tile := vinsTile
    st := 0 }
def vinsSta : Sta := ⟨vinsRegion, vinsTile, 0, vinsWord, vinsBlock⟩

/-- The payloads on their way after a step. -/
def flying : Out → List Payload
  | .next s => s.flight.map (·.tok.pay)
  | _ => []

/-- Refutes O41: the vins station of `vinsState` sends a vector with its immediate in lane 3, where the statement has 0. -/
theorem not_stationResults : ¬ Obligations.StationResults := by
  unfold Obligations.StationResults
  rintro ⟨-, -, h⟩
  have takes : Says.Takes vinsState vinsWord vinsSta [(0, vinsToken)] (vinsState.onTile vinsTile fun y => y.pop 0 0) :=
    ⟨⟨⟨rfl, rfl, rfl, rfl, rfl, rfl, rfl⟩, by decide +kernel⟩, rfl⟩
  have sent := congrArg flying (h (.vins vinsWord) vinsWord _ rfl _ _ _ _ takes (List.forall_mem_singleton.2 rfl))
  exact absurd sent (by decide +kernel)

end Sys2Proof.Machine
end

section
/-! SUPPORT. Instructions that may not stand in a commit region, once their registers are read: what they do, and what it is to
answer with a word. -/

namespace Sys2Proof.Machine

variable {s s1 : State} {rs : List Reg} {ws : List Word}

/-- The registers of `Says.Reads` are the ones an instruction reads. -/
theorem State.withRegs_go_reads {s0 : State} {k : List Word → State → State} (h : Says.Reads s rs ws s1) (acc : List Word) :
    State.withRegs.go s0 k rs acc s = k (acc ++ ws) s1 := by
  induction rs generalizing s ws acc with
  | nil =>
    obtain ⟨rfl, rfl⟩ := h
    simp [State.withRegs.go]
  | cons r rs ih =>
    obtain ⟨w, ws', t, rfl, read, rest⟩ := h
    simp only [State.withRegs.go, read, ih rest, List.append_assoc, List.singleton_append]

theorem State.withRegs_reads {k : List Word → State → State} (h : Says.Reads s rs ws s1) : s.withRegs rs k = k ws s1 :=
  State.withRegs_go_reads h []

/-- With nothing in the way and its registers read, an instruction goes on with their values. -/
theorem State.unsafeIssue_reads (free : Says.Free s) (h : Says.Reads s rs ws s1) (k : State → List Word → State → State) :
    s.unsafeIssue (fun s => s.withRegs rs (k s)) = k s ws s1 := by
  rw [State.unsafeIssue_free _ free.1 free.2, State.withRegs_reads h]

/-- So for an instruction whose meaning has that form. -/
theorem exec_of_reads {i : Instr} {k : State → List Word → State → State} (free : Says.Free s) (h : Says.Reads s rs ws s1)
    (he : exec i s = .next (s.unsafeIssue fun s => s.withRegs rs (k s))) : exec i s = .next (k s ws s1) := by
  rw [he, State.unsafeIssue_reads free h]

/-- An instruction that finishes with a word answers with it. -/
theorem answers_of_reads {i : Instr} {k : State → List Word → State → State} {d : Reg} {w : Word} {u : State} (free : Says.Free s)
    (h : Says.Reads s rs ws s1) (he : exec i s = .next (s.unsafeIssue fun s => s.withRegs rs (k s)))
    (hk : k s ws s1 = s.finish u d w) : Says.Answers i s d w u := fun t ht => by
  rw [exec_of_reads free h he, hk, State.finish_ok ht]; rfl

end Sys2Proof.Machine
end

section
/-! SUPPORT and the proof of O33: a decision is made, and the empty region takes it. -/

namespace Sys2Proof.Machine

variable {s s1 : State} {r : Region} {n : BitVec 2}

/-! ## Regions replaced -/

/-- The first element that satisfies the test is the one that is replaced. -/
theorem mem_updFirst {α : Type} {p : α → Bool} {f : α → α} {l : List α} {a : α} (ha : a ∈ l) (hp : p a = true) :
    ∃ b ∈ l, p b = true ∧ f b ∈ updFirst p f l := by
  induction l with
  | nil => cases ha
  | cons c l ih =>
    by_cases hc : p c = true
    · exact ⟨c, List.mem_cons_self, hc, by simp [updFirst, hc]⟩
    · have hne : a ≠ c := fun e => hc (e ▸ hp)
      obtain ⟨b, hb, hpb, hf⟩ := ih ((List.mem_cons.1 ha).resolve_left hne)
      exact ⟨b, List.mem_cons_of_mem c hb, hpb, by simp [updFirst, hc, hf]⟩

/-- A region that replaces one of its binding slot stands among the regions. -/
theorem State.mem_setRegion {r' : Region} (h : r ∈ s.regions) (hc : r.core = r'.core) (hb : r.bslot = r'.bslot) :
    r' ∈ (s.setRegion r').regions := by
  obtain ⟨b, -, -, hf⟩ := mem_updFirst (p := fun x => x.core == r'.core && x.bslot == r'.bslot) (f := fun _ => r') h (by simp [hc, hb])
  exact hf

/-- Changing tiles one after the other changes no region. -/
theorem State.foldl_onTile_regions (f : Tile → Tile) (l : List TileId) (s : State) :
    (l.foldl (fun s t => s.onTile t f) s).regions = s.regions := by
  induction l generalizing s with
  | nil => rfl
  | cons t l ih => rw [List.foldl_cons, ih]; rfl

/-! ## selcfg -/

/-- What selcfg does to a region that a handle names on this core. -/
theorem exec_selcfg {a : Reg} {h : Word} (free : Says.Free s) (reads : Says.Reads s [a] [h] s1) (mine : s1.graphMine h = .ok r) :
    exec (.selcfg a n) s = .next (if !r.resident || r.tiles.all fun t => ((s.tileAt t).cfg n).isNone then s.trap tCFGSTATE h
      else if r.decision.isSome then s else (s1.setRegion { r with decision := some n }).retire) := by
  rw [exec_of_reads free reads rfl]
  simp only [List.getD_cons_zero, mine]

/-- The region does not hold the configuration: it is not resident, or none of its tiles has a block of it. -/
theorem holds_iff : (!r.resident || r.tiles.all fun t => ((s.tileAt t).cfg n).isNone) = false ↔
    r.resident = true ∧ ∃ t ∈ r.tiles, (s.tileAt t).cfg n ≠ none := by
  simp [Option.isNone_iff_eq_none]

/-- Settles O33: selcfg by what the region holds, the decision by the empty region. -/
theorem configurationSwitches : Obligations.ConfigurationSwitches := by
  unfold Obligations.ConfigurationSwitches
  refine ⟨fun a n s h s1 r free reads mine => ?_, fun s r n now decided empty => ?_, fun s r n hr => ?_⟩
  · rw [exec_selcfg free reads mine]
    refine ⟨fun held pending => ?_, fun held pending => ?_, fun held => ?_⟩
    · rw [holds_iff.2 held, pending]; rfl
    · rw [holds_iff.2 held, Option.isSome_iff_ne_none.2 pending]; rfl
    · rw [Bool.eq_true_of_not_eq_false fun e => held (holds_iff.1 e)]; rfl
  · show execDecisionSwitch s = _
    have region : s.region s.cur s.input.bslot = some r := now
    simp only [execDecisionSwitch, region, decided, empty, if_true]
  · have there : r ∈ (r.tiles.foldl (fun s t => s.onTile t fun x => x.select n) s).regions := by
      rwa [State.foldl_onTile_regions]
    exact ⟨_, State.mem_setRegion there rfl rfl, rfl, rfl, rfl, rfl, rfl⟩

end Sys2Proof.Machine
end

section
/-! SUPPORT and the proof of O47: bar, decide, the controllers and done. -/

namespace Sys2Proof.Machine

variable {s s1 : State} {f : StF} {x : Sta} {q : List (Nat × Token)}

/-! ## What taking a set leaves -/

/-- A tile is listed under its own name. -/
@[simp] theorem State.tileAt_id (s : State) (t : TileId) : (s.tileAt t).id = t := by
  unfold State.tileAt
  cases h : s.tiles.find? (·.id = t) with
  | none => rfl
  | some y => simpa using List.find?_some h

/-- A tile that is changed reads back as changed. -/
theorem State.tileAt_onTile {s : State} {t : TileId} {g : Tile → Tile} (h : (g (s.tileAt t)).id = t) :
    (s.onTile t g).tileAt t = g (s.tileAt t) := by
  show ((g (s.tileAt t) :: _).find? (·.id = t)).getD _ = _
  rw [List.find?_cons_of_pos (by simpa using h)]
  rfl

/-- Consuming a set changes the acting tile alone, and none of its registers. -/
theorem State.nextSet_frame {ports : List Nat} (h : s.nextSet x ports = some (q, s1)) :
    ∃ g, s1 = s.onTile x.t g ∧ (g (s.tileAt x.t)).id = x.t ∧ (g (s.tileAt x.t)).q = (s.tileAt x.t).q := by
  simp only [State.nextSet] at h
  split at h <;> obtain ⟨_, -, e⟩ := Option.map_eq_some_iff.1 h <;> cases e
  · exact ⟨_, rfl, s.tileAt_id x.t, rfl⟩
  · exact ⟨_, rfl, s.tileAt_id x.t, rfl⟩

/-- A station's operands are the same before and after its set is consumed. -/
theorem opWord_of_takes (h : Says.Takes s f x q s1) (p : Nat) : s1.opWord x q p = s.opWord x q p := by
  obtain ⟨-, next⟩ := h
  obtain ⟨g, rfl, hid, hq⟩ := State.nextSet_frame next
  simp only [State.opWord, State.kWord, State.tileAt_onTile hid, hq]

/-- So is what it says of itself in an ERROR. -/
theorem self_of_takes (h : Says.Takes s f x q s1) (t : TileId) (c : BitVec 6) : s1.self t c = s.self t c := by
  obtain ⟨-, next⟩ := h
  obtain ⟨g, rfl, -, -⟩ := State.nextSet_frame next
  rfl

/-! ## bar (R254) -/

/-- The iteration of what bar sends: port a's, when the set has a token there. -/
def barIter (q : List (Nat × Token)) : BitVec 24 := ((tokAt q 0).map (·.iter)).getD (setIter q)

theorem exec_bar_full (takes : Says.Takes s f x q s1) (h : ∀ e ∈ q, e.2.kind ≠ .error) :
    exec (.bar f) s = .next (if (s.tileAt x.t).barBad.contains (x.st, setSeq q)
      then s1.errFire x (setSeq q) (barIter q) (s.self x.t ePOISON)
      else s1.emits x.t x.st [(none, pulse (setSeq q) (barIter q))]) := by
  obtain ⟨⟨ready, credit⟩, next⟩ := takes
  show Host.Outcome.next (s.withSta f _) = _
  rw [State.withSta_acts (.of_ready ready)]
  simp only [credit, next, find?_error_none h, barIter]
  rfl

theorem exec_bar_error (takes : Says.Takes s f x q s1) {e : Nat × Token} (h : q.find? (·.2.kind = .error) = some e) :
    exec (.bar f) s = .next ((s1.onTile x.t fun y => { y with barBad := (x.st, setSeq q) :: y.barBad }).errFire x (setSeq q)
      (barIter q) (e.2.err (s.self x.t 0))) := by
  obtain ⟨⟨ready, credit⟩, next⟩ := takes
  show Host.Outcome.next (s.withSta f _) = _
  rw [State.withSta_acts (.of_ready ready)]
  simp only [credit, next, h, barIter]
  rfl

/-! ## decide (R255) -/

/-- The configuration that decide chooses: its immediate, or its operand, in two bits. -/
def decided (f : StF) (w : Word) : BitVec 2 := if f.aux.getLsbD 0 then BitVec.ofNat 2 f.k.toNat else BitVec.ofNat 2 w.toNat

theorem exec_decide_data (takes : Says.Takes s f x q s1) (h : Says.AllData q) :
    exec (.decide f) s = .next (if x.r.decision.isSome then s
      else (s1.onRegion x.r.core x.r.bslot fun r => { r with decision := some (decided f (s1.opWord x q 0)) }).emits x.t x.st
        [(some 0, pulse (setSeq q) (setIter q))]) := by
  rw [opWord_of_takes takes]
  obtain ⟨⟨ready, credit⟩, next⟩ := takes
  show Host.Outcome.next (s.withSta f _) = _
  rw [State.withSta_acts (.of_ready ready)]
  simp only [State.fireNext, credit, next, Bool.not_true, Bool.false_eq_true, if_false]
  exact congrArg Host.Outcome.next (State.rows_data (acc := dataOnly) h (fun _ => rfl) _ _)

/-! ## Controllers (R256) -/

/-- The word of a controller, by its kind. -/
def Ctl.instr (c : Ctl) (f : StF) : Instr :=
  match c with
  | .seqc => .seqc f
  | .pipec => .pipec f
  | .strmc => .strmc f

theorem exec_controller (c : Ctl) (f : StF) (s : State) : exec (c.instr f) s = .next (s.ctlFire f c) := by
  cases c <;> rfl

theorem exists_ctl_instr {i : Instr} (h : i = .seqc f ∨ i = .pipec f ∨ i = .strmc f) : ∃ c : Ctl, i = c.instr f := by
  rcases h with rfl | rfl | rfl
  exacts [⟨.seqc, rfl⟩, ⟨.pipec, rfl⟩, ⟨.strmc, rfl⟩]

variable {t : Token} {c : Ctl}

/-- With nothing at a port there is nothing to take in. -/
theorem State.ctlIn_none {p : Nat} (h : s.hd x p = none) : s.ctlIn x p = none := by
  simp only [State.ctlIn, h]

/-- A done token of child 0 is counted. -/
theorem State.ctlIn_counts (h : s.hd x 1 = some t) (he : t.kind ≠ .error) (hp : (s.slot x.t x.st t.seq).phase ≠ 2) :
    s.ctlIn x 1 = some ((s.take x [1]).setSlot x.t { s.slot x.t x.st t.seq with cnt := (s.slot x.t x.st t.seq).cnt + 1 }) := by
  simp only [State.ctlIn, h, he, hp, if_false]

/-- An enable token opens the slot of its launch. -/
theorem State.ctlIn_enables (h : s.hd x 0 = some t) (he : t.kind ≠ .error) (hp : (s.slot x.t x.st t.seq).phase = 0) :
    s.ctlIn x 0 = some ((s.take x [0]).setSlot x.t { s.slot x.t x.st t.seq with phase := 1, held := some t }) := by
  simp [State.ctlIn, h, he, hp]

/-- What a controller counts comes first. -/
theorem State.ctlFire_counts {s' : State} (fires : Says.Fires s f x) (h : s.ctlIn x 1 = some s') : s.ctlFire f c = s' := by
  rw [State.ctlFire, State.fireHeads_fires (.of_ready fires.1) fires.2]
  simp only [h, Option.orElse_eq_orElse, Option.orElse_some]

/-- What a controller gives next, for its oldest launch that can. -/
def State.ctlGives (s : State) (x : Sta) (c : Ctl) : Option State :=
  x.r.live.findSome? fun l => (((s.tileAt x.t).slots.filter fun sl => sl.st = x.st ∧ sl.phase = 1).find? (·.seq = l.seq)).bind
    (s.ctlAct x c (ctlSet (s.kWord x)))

/-- With nothing to count it gives what it can, and else takes an enable token. -/
theorem State.ctlFire_gives (fires : Says.Fires s f x) (h1 : s.hd x 1 = none) (h2 : s.hd x 2 = none) :
    s.ctlFire f c = (s.ctlGives x c).getD ((s.ctlIn x 0).getD s) := by
  rw [State.ctlFire, State.fireHeads_fires (.of_ready fires.1) fires.2]
  simp only [State.ctlIn_none h1, State.ctlIn_none h2, Option.orElse_eq_orElse, Option.orElse_none]
  show (match s.ctlGives x c with | some s' => s' | none => (s.ctlIn x 0).getD s) = _
  cases s.ctlGives x c <;> rfl

/-- With no slot open it has nothing to give. -/
theorem State.ctlGives_none (h : ∀ sl ∈ (s.tileAt x.t).slots, sl.st = x.st → sl.phase ≠ 1) : s.ctlGives x c = none := by
  have hnone : (s.tileAt x.t).slots.filter (fun sl => sl.st = x.st ∧ sl.phase = 1) = [] :=
    List.filter_eq_nil_iff.2 fun sl hsl => by simpa using h sl hsl
  simp only [State.ctlGives, hnone, List.find?_nil, Option.bind_none]
  exact List.findSome?_eq_none_iff.2 fun _ _ => rfl

/-- With one launch and its slot it gives what that slot does. -/
theorem State.ctlGives_one {l : Live} {sl : Slot} (live : x.r.live = [l]) (slots : (s.tileAt x.t).slots = [sl]) (st : sl.st = x.st)
    (phase : sl.phase = 1) (seq : sl.seq = l.seq) : s.ctlGives x c = s.ctlAct x c (ctlSet (s.kWord x)) sl := by
  simp [State.ctlGives, live, slots, st, phase, seq]

/-- The next iteration that enables a child is the one at hand, if it does. -/
theorem CtlSet.next_of_on {k : CtlSet} {n j : Nat} (hlut : k.lut ≠ []) (h : k.on n j = true) : k.next n j = j := by
  obtain ⟨m, hm⟩ : ∃ m, k.lut.length = m + 1 := Nat.exists_eq_succ_of_ne_zero fun e => hlut (List.length_eq_zero_iff.1 e)
  simp [CtlSet.next, hm, List.range_succ_eq_map, h]

/-- A controller's table has at least one entry. -/
theorem ctlSet_lut_ne_nil (w : Word) : (ctlSet w).lut ≠ [] := by
  simp [ctlSet]

/-- A controller enables child 0 for the iteration at hand. -/
theorem State.ctlAct_enables {k : CtlSet} {sl : Slot} (hlut : k.lut ≠ []) (hn : sl.pa < k.nit) (hon : k.on 0 sl.pa = true)
    (hmay : c.may k sl 0 sl.pa = true) :
    s.ctlAct x c k sl = some ((s.setSlot x.t { sl with pa := sl.pa + 1 }).emits x.t x.st
      [(some 0, pulse sl.seq (BitVec.ofNat 24 sl.pa))]) := by
  simp only [State.ctlAct, CtlSet.next_of_on hlut hon, hn, hmay, true_and, if_true]

/-! ## done (R257) -/

theorem exec_done_data (head : Says.HasHead s f x 0 t) (h : t.kind = .data) :
    exec (.done f) s = .next (if f.aux.toNat % 8 = 0 then (s.take x [0]).emits x.t x.st [(none, pulse t.seq t.iter)] else s.take x [0]) := by
  obtain ⟨⟨ready, credit⟩, hd⟩ := head
  show Host.Outcome.next (s.fireHeads f _) = _
  rw [State.fireHeads_fires (.of_ready ready) credit]
  simp only [hd, h]
  simp

theorem exec_done_stop {n : Nat} (head : Says.HasHead s f x 0 t) (h : t.kind = .stop n) :
    exec (.done f) s = .next (if 1 ≤ f.aux.toNat % 8 ∧ f.aux.toNat % 8 ≤ n
      then (s.take x [0]).emits x.t x.st [(none, pulse t.seq t.iter)] else s.take x [0]) := by
  obtain ⟨⟨ready, credit⟩, hd⟩ := head
  show Host.Outcome.next (s.fireHeads f _) = _
  rw [State.fireHeads_fires (.of_ready ready) credit]
  simp only [hd, h]
  simp

/-! ## The obligation -/

/-- Settles O47, station by station. -/
theorem controlStations : Obligations.ControlStations := by
  unfold Obligations.ControlStations
  refine ⟨fun f s x q s1 takes => ⟨fun h sound => ?_, fun h bad => ?_, fun e h => ?_, fun h unset => ?_, fun h pending => ?_⟩,
    fun i f s x t hi head he hp => ?_, fun i f s x t hi head he h1 h2 idle hp => ?_,
    fun i c f s x l sl hi fires h1 h2 live slots st phase seq hn hon hmay => ?_,
    fun f s x t head => ⟨fun h => ?_, fun n h => ?_⟩⟩
  · rw [exec_bar_full takes h, sound]; rfl
  · rw [exec_bar_full takes h, bad, self_of_takes takes]; rfl
  · rw [exec_bar_error takes h, self_of_takes takes]; rfl
  · rw [exec_decide_data takes h, unset]; rfl
  · rw [exec_decide_data takes h, Option.isSome_iff_ne_none.2 pending]; rfl
  · obtain ⟨c, rfl⟩ := exists_ctl_instr hi
    rw [exec_controller, State.ctlFire_counts head.1 (State.ctlIn_counts head.2 he hp)]
  · obtain ⟨c, rfl⟩ := exists_ctl_instr hi
    rw [exec_controller, State.ctlFire_gives head.1 h1 h2, State.ctlGives_none idle, State.ctlIn_enables head.2 he hp]
    rfl
  · obtain rfl : i = c.instr f := by
      simp only [List.mem_cons, Prod.mk.injEq, List.not_mem_nil, or_false] at hi
      rcases hi with ⟨rfl, rfl⟩ | ⟨rfl, rfl⟩ | ⟨rfl, rfl⟩ <;> rfl
    rw [exec_controller, State.ctlFire_gives fires h1 h2, State.ctlGives_one live slots st phase seq,
      State.ctlAct_enables (ctlSet_lut_ne_nil _) hn hon hmay]
    rfl
  · exact exec_done_data head h
  · exact exec_done_stop head h

end Sys2Proof.Machine
end

section
/-! SUPPORT and the proof of O53: what the cancel instructions answer, and what a failure does. -/

namespace Sys2Proof.Machine

variable {s s1 : State} {r : Region}

/-- A region whose queued launch is cancelled: the launch leaves the queue and counts in GCC, and in the region's phase (R136). -/
def Region.unqueue (r : Region) (q : LaunchRec) (e : ErrInfo) : Region :=
  { r with queue := r.queue.filter (·.serial ≠ q.serial), gone := (q.serial, goneCounter e) :: r.gone, gcc := r.gcc.add 1 (some e),
           phaseDone := if r.phase.isSome then r.phaseDone + 1 else r.phaseDone, hung := false }

/-! ## The job (R43) -/

@[simp] theorem State.setPart_setPart (s : State) (p : BitVec 4) (x y : Partition) : (s.setPart p x).setPart p y = s.setPart p y := by
  simp [State.setPart]

/-- The partition after cancel.job: its job is to end cancelled, and keeps its first cause. -/
def Partition.cancelsJob (x : Partition) (e : ErrInfo) : Partition := { x with jobCancel := true, jcc := x.jcc.blame e }

/-- A job that is being cancelled ends once none of its phases is open. -/
theorem State.jobEnd_cancelled {p : BitVec 4} (hopen : (s.part p).jcc.state = .open_) (hcancel : (s.part p).jobCancel = true)
    (hphases : ∀ ph ∈ (s.part p).phases, ph.pcc.state ≠ .open_) :
    s.jobEnd p = s.setPart p { s.part p with jcc := (s.part p).jcc.finish true } := by
  have noneOpen : (s.part p).phases.any (fun q => q.started && q.pcc.state == .open_) = false :=
    List.any_eq_false.2 fun ph hph => by simp [hphases ph hph]
  simp [State.jobEnd, hopen, hcancel, noneOpen]

/-- The first cause of a counter is the one it is blamed for. -/
theorem Counter.blame_cause {k : Counter} {e : ErrInfo} (h : k.cause = 0) : (k.blame e).cause = e.cause := by
  simp [Counter.blame, h]

theorem Counter.blame_state (k : Counter) (e : ErrInfo) : (k.blame e).state = k.state := by
  unfold Counter.blame
  split <;> rfl

/-- With no phase open, a cancelled job ends at once. -/
theorem jobEnd_cancelsJob {p : BitVec 4} {e : ErrInfo} (hopen : (s.part p).jcc.state = .open_) (hcause : (s.part p).jcc.cause = 0)
    (hphases : ∀ ph ∈ (s.part p).phases, ph.pcc.state ≠ .open_) :
    ∃ k : Counter, (s.setPart p ((s.part p).cancelsJob e)).jobEnd p = s.setPart p { s.part p with jobCancel := true, jcc := k } ∧
      k.state = .cancelled ∧ k.cause = e.cause := by
  refine ⟨((s.part p).jcc.blame e).finish true, ?_, rfl, Counter.blame_cause hcause⟩
  rw [State.jobEnd_cancelled] <;> simp only [State.setPart_part, State.setPart_setPart]
  · rfl
  · exact (Counter.blame_state _ _).trans hopen
  · rfl
  · exact hphases

/-! ## Failures (R42, R406) -/

/-- A launch-wide ERROR is purged when nothing stands before it. -/
theorem exec_purge {w : Token} (there : s.regionOf s.tile = some r) (wide : (s.tileAt s.tile).wideAt s.st = some w)
    (credit : s.outCredit r s.tile s.st none = true) (alive : r.hung = false) (sound : (s.tileAt s.tile).broken = false)
    (running : (s.part r.part).pre = .running) :
    exec .launchWideErrorPurge s = .next (s.purge r s.tile s.st w.seq (w.err (s.self s.tile 0))) := by
  show execLaunchWideErrorPurge s = _
  simp [execLaunchWideErrorPurge, there, wide, credit, alive, sound, running]

/-- While the region is frozen or halted, or a bound output has no credit, it waits. -/
theorem exec_purge_waits (there : s.regionOf s.tile = some r) (h : r.hung = true ∨ (s.tileAt s.tile).broken = true ∨
    (s.part r.part).pre ≠ .running ∨ s.outCredit r s.tile s.st none = false) : exec .launchWideErrorPurge s = .next s := by
  show execLaunchWideErrorPurge s = _
  cases wide : (s.tileAt s.tile).wideAt s.st with
  | none => simp only [execLaunchWideErrorPurge, there, wide]
  | some w => rcases h with h | h | h | h <;> simp [execLaunchWideErrorPurge, there, wide, h]

/-- A launch that has ended, or is cancelled already, is left as it is (R44). -/
theorem State.failLive_settled {seq : BitVec 8} {e : ErrInfo} {c : Fin 64} {b : BitVec 3} (there : s.region c b = some r)
    (h : ∀ l ∈ (s.lead r).live, l.seq = seq → l.cancelled ≠ none) : s.failLive c b seq e = s := by
  have settled : (s.lead r).live.any (fun l => l.seq == seq && l.cancelled.isNone) = false :=
    List.any_eq_false.2 fun l hl => by simpa using h l hl
  simp only [State.failLive, there, settled, Bool.false_eq_true, if_false]

/-- An uncorrectable error in a region strikes a launch. -/
theorem exec_ecc_launch (kind : s.input.k = 0) (now : Says.regionNow s = some r) :
    exec .eccUncorrectable s = .next (s.failLive s.cur s.input.bslot s.input.seq ⟨s.module, r.origin, 0x08⟩) := by
  have there : s.region s.cur s.input.bslot = some r := now
  show execEccUncorrectable s = _
  simp only [execEccUncorrectable, kind, there, if_true]
  rfl

/-! ## The balancer (R143, R144) -/

/-- What a fold that keeps its best so far, or takes what comes, ends with is what it began with or came by. -/
theorem mem_of_foldl_best {α : Type} {f : Option α → α → Option α} (hf : ∀ b x, f b x = some x ∨ f b x = b) {l : List α} {b : Option α}
    {y : α} (h : l.foldl f b = some y) : b = some y ∨ y ∈ l := by
  induction l generalizing b with
  | nil => exact .inl h
  | cons x l ih =>
    rcases ih h with hb | hy
    · rcases hf b x with e | e
      · exact .inr (List.mem_cons.2 (.inl (Option.some.inj (hb.symm.trans e))))
      · exact .inl (e.symm.trans hb)
    · exact .inr (List.mem_cons_of_mem x hy)

/-- The move that is chosen is of a tile that serves another stage, to a stage of the tile that has more to do. -/
theorem State.chooseMove_some {th u : Nat} {t : TileId} (h : s.chooseMove r th = some (t, u)) : ∃ v, (t, v) ∈ r.serving ∧
    u ∈ s.stagesOn r t ∧ u ≠ v ∧ th * r.occ.getD v 0 ≤ 4 * r.occ.getD u 0 ∧ 2 * r.occTime ≤ r.occ.getD u 0 ∧ s.movedLongAgo r t = true := by
  obtain ⟨⟨gain, _⟩, best, rfl⟩ := Option.map_eq_some_iff.1 h
  have chosen := (mem_of_foldl_best (fun b x => ?_) best).resolve_left nofun
  · simp only [List.mem_flatMap, List.mem_filter, List.mem_map, Bool.and_eq_true, bne_iff_ne, decide_eq_true_eq] at chosen
    obtain ⟨⟨t', v⟩, ⟨serves, long⟩, u', ⟨stage, other, busy, full⟩, e⟩ := chosen
    cases e
    exact ⟨v, serves, stage, other, busy, full, long⟩
  · cases b with
    | none => exact .inl rfl
    | some y =>
      dsimp only
      split
      · exact .inl rfl
      · exact .inr rfl

/-- Once a region's window is over it is emptied, and a move may be chosen. -/
theorem exec_balancerSample (h : s.core.balEn = true) : exec .balancerSample s = .next { s with regions := s.regions.map fun (r : Region) =>
    if r.core = s.cur ∧ r.resident = true ∧ 256 ≤ r.occTime then
      { r with occ := [], occTime := 0,
               move := if r.move = none ∧ 5 ≤ s.core.balTh.toNat then s.chooseMove r s.core.balTh.toNat else r.move } else r } := by
  show execBalancerSample s = _
  simp only [execBalancerSample, h, Bool.not_true, Bool.false_eq_true, if_false]
  congr 2
  refine List.map_congr_left fun r _ => ?_
  have due : (r.core ≠ s.cur ∨ (!r.resident) = true ∨ r.occTime < 256) ↔ ¬ (r.core = s.cur ∧ r.resident = true ∧ 256 ≤ r.occTime) := by
    simp only [not_and_or, Bool.not_eq_true', Bool.not_eq_true, not_le, ne_eq]
  have still : (s.core.balTh.toNat < 5 ∨ r.move.isSome = true) ↔ ¬ (r.move = none ∧ 5 ≤ s.core.balTh.toNat) := by
    rw [not_and_or, not_le, or_comm, Option.isSome_iff_ne_none]
  simp only [due, still, ite_not]

/-! ## The obligation -/

/-- Settles O53: each cancel by what its handle names, then each failure and the balancer. -/
theorem cancelsAndFailures : Obligations.CancelsAndFailures := by
  unfold Obligations.CancelsAndFailures
  refine ⟨⟨fun d a s h s1 free reads => ⟨fun e named => ?_, fun e named => ?_, fun e named => ?_, fun named => ?_⟩,
      fun d a s h s1 r free reads => ⟨fun k named => ?_, fun l named => ?_, fun q named => ?_, fun g named staged => ?_,
        fun named unstaged closed idle unqueued unsent => ?_, fun named unstaged busy => ?_⟩,
      fun d a s h s1 ph free reads named => ⟨fun ended => ?_, fun live again => ?_, fun live first => ?_⟩,
      fun d a s h s1 free reads named => ⟨fun ended => ?_, fun live => ⟨?_, fun cause phases => ?_⟩⟩⟩,
    fun s r w there wide credit alive sound running => exec_purge there wide credit alive sound running,
    fun s r there h => exec_purge_waits there h,
    fun s kind => ⟨fun c run => ?_, fun empty => ?_⟩,
    fun s r kind now => ⟨exec_ecc_launch kind now, fun settled => ?_⟩,
    fun s h => exec_balancerSample h,
    fun s h => ?_,
    fun s r th t u h => State.chooseMove_some h,
    fun s r t n now moving => ⟨fun empty => ?_, fun held => ?_⟩⟩
  · exact answers_of_reads free reads rfl (by simp only [List.getD_cons_zero, named])
  · exact answers_of_reads free reads rfl (by simp only [List.getD_cons_zero, named])
  · exact answers_of_reads free reads rfl (by simp only [List.getD_cons_zero, named])
  · exact answers_of_reads free reads rfl (by simp only [List.getD_cons_zero, named, Bool.not_false, if_true])
  · exact answers_of_reads free reads rfl (by simp only [List.getD_cons_zero, named])
  · exact answers_of_reads free reads rfl (by simp only [List.getD_cons_zero, named]; rfl)
  · exact ⟨_, r.unqueue q (r.cancelInfo s.module),
      answers_of_reads free reads rfl (by simp only [List.getD_cons_zero, named]; rfl), rfl, rfl, rfl, rfl⟩
  · exact answers_of_reads free reads rfl (by simp only [List.getD_cons_zero, named, staged])
  · exact answers_of_reads free reads rfl (by simp [named, unstaged, closed, idle, unqueued, unsent])
  · exact answers_of_reads free reads rfl (by
      simp only [List.getD_cons_zero, named, unstaged]
      exact if_neg fun ⟨closed, idle, unqueued, unsent⟩ => by simp_all)
  · exact answers_of_reads free reads rfl (by simp only [List.getD_cons_zero, named, if_pos ended])
  · exact answers_of_reads free reads rfl (by simp [named, live, again])
  · exact answers_of_reads free reads rfl (by simp [named, live, first])
  · exact answers_of_reads free reads rfl (by simp [named, ended])
  · exact answers_of_reads free reads rfl (by simp [named, live]; rfl)
  · have noneOpen : (s1.part s1.pid).phases.filter (fun ph => ph.pcc.state = .open_) = [] :=
      List.filter_eq_nil_iff.2 fun ph hph => by simpa using phases ph hph
    simp only [noneOpen, List.foldl_nil]
    exact jobEnd_cancelsJob live cause phases
  · show execEccUncorrectable s = _
    simp only [execEccUncorrectable, kind, if_false, run]
  · show execEccUncorrectable s = _
    simp only [execEccUncorrectable, kind, if_false, empty]
  · rw [exec_ecc_launch kind now, State.failLive_settled now settled]
  · show execBalancerSample s = _
    simp only [execBalancerSample, h, Bool.not_false, if_true]
  · show execBalancerMove s = _
    have there : s.region s.cur s.input.bslot = some r := now
    simp only [execBalancerMove, there, moving, empty, if_true]
  · show execBalancerMove s = _
    have there : s.region s.cur s.input.bslot = some r := now
    simp only [execBalancerMove, there, moving, held, Bool.false_eq_true, if_false]

end Sys2Proof.Machine
end

section
/-! SUPPORT and the proof of O58: what a turn executes is what a step runs. -/

namespace Sys2Proof.Machine

variable {s s1 : State} {i : Instr}

/-! ## The word at the program counter (R51) -/

/-- Two bit strings joined, as a number. -/
theorem toNat_append_add {m n : Nat} (x : BitVec m) (y : BitVec n) : (x ++ y).toNat = x.toNat * 2 ^ n + y.toNat := by
  rw [BitVec.toNat_append, ← Nat.shiftLeft_add_eq_or_of_lt y.isLt, Nat.shiftLeft_eq]

/-- Four stored bytes are a word, least significant first (R6). -/
theorem bytesWord_littleEndian (f : Nat → Byte) :
    bytesWord (f 0) (f 1) (f 2) (f 3) = BitVec.ofNat 32 (Says.littleEndian f 4) := by
  apply BitVec.eq_of_toNat_eq
  have := (f 0).isLt
  have := (f 1).isLt
  have := (f 2).isLt
  have := (f 3).isLt
  simp only [bytesWord, toNat_append_add, BitVec.toNat_ofNat, Says.littleEndian]
  omega

/-- The word that stands at an address of memory. -/
def wordAtHome (m : List Host.Cell) (home : Nat) : Word32 := BitVec.ofNat 32 (Says.littleEndian (fun k => memGet m (home + k)) 4)

/-- Its four bytes decode as it does. -/
theorem decode_memGets (m : List Host.Cell) (home : Nat) : decode (memGets m home 4) =
    match decodeControl (wordAtHome m home) with
    | some i => .ok (i, [])
    | none => .error "illegal control word" := by
  rw [wordAtHome, ← bytesWord_littleEndian]
  rfl

/-- A core's next word is what its bytes decode to, in the state that the fetch leaves. -/
theorem State.nextWord_decoded {m : List Host.Cell} {home : Nat} (fetched : s.fetch = some (memGets m home 4, s1))
    (h : decodeControl (wordAtHome m home) = some i) : s.nextWord = (i, s1) := by
  simp only [State.nextWord, fetched, decode_memGets, h]

theorem State.nextWord_illegal {m : List Host.Cell} {home : Nat} (fetched : s.fetch = some (memGets m home 4, s1))
    (h : decodeControl (wordAtHome m home) = none) : s.nextWord = (.illegalInstruction, s1) := by
  simp only [State.nextWord, fetched, decode_memGets, h]

theorem State.nextWord_fault (h : s.fetch = none) : s.nextWord = (.fetchfault, s) := by
  simp only [State.nextWord, h]

/-! ## Fetching (R100) -/

/-- The state in which a translation that a fetch has walked for is installed. -/
def State.walked (s : State) (e : Option TlbEntry) : State :=
  e.elim s fun e => s.setCore { s.core with tlb := tlbAdd s.core.tlb 64 e }

@[simp] theorem State.walked_mem (s : State) (e : Option TlbEntry) : (s.walked e).mem = s.mem := by
  cases e <;> rfl

/-- An address below 2^57 has its upper seven bits zero. -/
theorem high_zero {a : Word} (h : a.toNat < 2 ^ 57) : a.extractLsb' 57 7 = 0 := by
  apply BitVec.eq_of_toNat_eq
  simp only [BitVec.extractLsb'_toNat, Nat.shiftRight_eq_div_pow, Nat.div_eq_of_lt h]
  rfl

/-- A fetch whose page is executable gives the four bytes there. -/
theorem State.fetch_some {home : Nat} {e : Option TlbEntry} (low : s.core.pc.toNat < 2 ^ 57)
    (window : windowOf s.core.pc.toNat = some .translated)
    (page : s.translate s.pid s.core.tlb s.core.pc.toNat .exec = .ok (home, e)) (spad : home < spadBase) :
    s.fetch = some (memGets s.mem home 4, s.walked e) := by
  have hwin : ¬(s.core.pc.extractLsb' 57 7 ≠ 0 ∨ windowOf s.core.pc.toNat ≠ some .translated) := by
    simp [high_zero low, window]
  simp only [State.fetch, if_neg hwin, page, if_neg (Nat.not_le.2 spad)]
  cases e <;> rfl

/-! ## What a turn executes (R36, R375) -/

section Core
variable {c : Fin 64} (power : s.powered = true) (run : s.core.run = .run)
include power run

/-- A pending interrupt comes first, unless the next word traps. -/
theorem State.todo_interrupt (pending : s.interrupted = true) (sound : s.nextWord.2.traps s.nextWord.1 = false) :
    s.todo (.core c) = some (.interruptTaken, s) := by
  simp [State.todo, power, run, pending, sound]

theorem State.todo_word (h : s.interrupted = false ∨ s.nextWord.2.traps s.nextWord.1 = true) : s.todo (.core c) = some s.nextWord := by
  rcases h with h | h <;> simp [State.todo, power, run, h]

end Core

/-- A station that wins its class executes its operation word. -/
theorem State.todo_fire {t : TileId} {st : Nat} {w : Word32} (power : s.powered = true) (wins : s.wins t st = true)
    (word : s.wordAt t st = some w) (h : decodeStation w = some i) :
    s.todo (.fire t st) = some (i, if s.readyAt t st then s.won t st else s) := by
  simp [State.todo, power, wins, word, h]

/-- A run's context executes its program's next word. -/
theorem State.todo_logit {n : Fin 8} {x : Fin 2} {c : Ctx} {w : Word32} (power : s.powered = true) (ctx : s.smps[n].ctx[x] = some c)
    (word : (lookupD s.smps[n].progs c.pslot [])[c.pc]? = some w) (h : decodeLogit w = some i) :
    s.todo (.logit n x) = some (i, s) := by
  simp only [State.todo, power, ctx, word]
  simp [h]

/-- A step runs what its turn has to do. -/
theorem step_of_todo {t : Turn} (turn : s.nextTurn = t) (h : ((s.tick.before t).at_ t).todo t = some (i, s1)) : step s = exec i s1 := by
  subst turn
  exact step_todo h

/-! ## The obligation -/

/-- Settles O58, by what each turn has to do. -/
theorem stepRunsDecoded : Obligations.StepRunsDecoded := by
  unfold Obligations.StepRunsDecoded
  refine ⟨fun s c turn power run => ⟨fun pending sound => ?_, fun h => ⟨fun home e low window page spad => ?_, fun fault => ?_⟩⟩,
    fun s t st w i turn power wins word decoded => ?_, fun s n x c w i turn power ctx word decoded => ?_⟩
  · exact step_of_todo turn (State.todo_interrupt power run pending sound)
  · have fetched := State.fetch_some low window page spad
    have todo := State.todo_word (c := c) power run h
    refine ⟨fun i decoded => ?_, fun illegal => ?_⟩
    · rw [State.nextWord_decoded fetched decoded] at todo
      rw [step_of_todo turn todo]
      cases e <;> rfl
    · rw [State.nextWord_illegal fetched illegal] at todo
      rw [step_of_todo turn todo]
      cases e <;> rfl
  · have todo := State.todo_word (c := c) power run h
    rw [State.nextWord_fault fault] at todo
    exact step_of_todo turn todo
  · exact step_of_todo turn (State.todo_fire power wins word decoded)
  · exact step_of_todo turn (State.todo_logit power ctx word decoded)

end Sys2Proof.Machine
end

section
/-! SUPPORT and the proofs of O55, O56 and O57: a word is its fields joined (R51, R62, R67), so an encoder's word is read back
field by field, and a word of which a row's mask fixes some fields is the word that the encoder makes of the others. -/

namespace Sys2Proof

variable {w : Word32} {i : Instr}

/-! ## Joined bit strings

The model writes a word as a chain of `++` whose width is a literal, where the library's lemmas have `m + n`: `no_index` lets
`simp` use them all the same. -/

section Joined
variable {m n lo k : Nat} {x x' : BitVec m} {y y' : BitVec n}

theorem append_eq_append_iff : x ++ y = x' ++ y' ↔ x = x' ∧ y = y' := by
  refine ⟨fun h => ⟨?_, ?_⟩, fun ⟨hx, hy⟩ => hx ▸ hy ▸ rfl⟩
  · rw [← BitVec.extractLsb'_append_eq_left (a := x) (b := y), h, BitVec.extractLsb'_append_eq_left]
  · rw [← BitVec.extractLsb'_append_eq_right (a := x) (b := y), h, BitVec.extractLsb'_append_eq_right]

theorem extract_append_high (h : n ≤ lo) :
    (@HAppend.hAppend _ _ (no_index (BitVec (m + n))) _ x y).extractLsb' lo k = x.extractLsb' (lo - n) k :=
  BitVec.extractLsb'_append_eq_of_le h

theorem extract_append_low (h : lo + k ≤ n) :
    (@HAppend.hAppend _ _ (no_index (BitVec (m + n))) _ x y).extractLsb' lo k = y.extractLsb' lo k :=
  BitVec.extractLsb'_append_eq_of_add_le h

theorem extract_extract {lo' k' : Nat} (h : lo' + k' ≤ k) :
    (x.extractLsb' lo k).extractLsb' lo' k' = x.extractLsb' (lo + lo') k' := by
  refine BitVec.eq_of_getLsbD_eq fun j hj => ?_
  simp only [BitVec.getLsbD_extractLsb', Nat.add_assoc, hj, decide_true, Bool.true_and, show lo' + j < k by omega]

/-- A masked joined string is compared part by part. -/
theorem append_and_eq_iff {mask p : BitVec (m + n)} :
    @HAnd.hAnd (no_index (BitVec (m + n))) (no_index (BitVec (m + n))) (no_index (BitVec (m + n))) _
      (@HAppend.hAppend _ _ (no_index (BitVec (m + n))) _ x y) mask = p ↔
    x &&& mask.extractLsb' n m = p.extractLsb' n m ∧ y &&& mask.extractLsb' 0 n = p.extractLsb' 0 n := by
  rw [← BitVec.extractLsb'_append_extractLsb' (x := mask), ← BitVec.extractLsb'_append_extractLsb' (x := p),
    BitVec.and_append, append_eq_append_iff]
  simp

/-- A field of a word is two strings joined when its two parts are they. -/
theorem append_eq_fld_iff :
    @HAppend.hAppend _ _ (no_index (BitVec (m + n))) _ x y = fld w lo (no_index (m + n)) ↔
    x = fld w (lo + n) m ∧ y = fld w lo n := by
  have join : fld w lo (m + n) = fld w (lo + n) m ++ fld w lo n :=
    (BitVec.extractLsb'_append_extractLsb'_eq_extractLsb' rfl).symm
  rw [join, append_eq_append_iff]

end Joined

/-- A mask that covers a field fixes it. -/
theorem fld_of_mask {mask p : Word32} (h : w &&& mask = p) {lo n : Nat} (full : fld mask lo n = BitVec.allOnes n) :
    fld w lo n = p.extractLsb' lo n := by
  rw [← h, BitVec.extractLsb'_and, ← fld, ← fld, full, BitVec.and_allOnes]

theorem fld_whole : fld w 0 32 = w := BitVec.extractLsb'_eq_self

/-! ## The layouts (R51, R67) -/

section Layouts
variable {op : BitVec 6} {d a b : Reg}

theorem wRR_eq_iff {fn : BitVec 11} : wRR op d a b fn = w ↔
    op = fld w 26 6 ∧ d = fld w 21 5 ∧ a = fld w 16 5 ∧ b = fld w 11 5 ∧ fn = fld w 0 11 := by
  conv => lhs; rhs; rw [← fld_whole (w := w)]
  simp only [wRR, append_eq_fld_iff, and_assoc]

theorem wRI_eq_iff {k : BitVec 16} : wRI op d a k = w ↔
    op = fld w 26 6 ∧ d = fld w 21 5 ∧ a = fld w 16 5 ∧ k = fld w 0 16 := by
  conv => lhs; rhs; rw [← fld_whole (w := w)]
  simp only [wRI, append_eq_fld_iff, and_assoc]

theorem wUI_eq_iff {k : BitVec 21} : wUI op d k = w ↔ op = fld w 26 6 ∧ d = fld w 21 5 ∧ k = fld w 0 21 := by
  conv => lhs; rhs; rw [← fld_whole (w := w)]
  simp only [wUI, append_eq_fld_iff, and_assoc]

theorem wJL_eq_iff {k : BitVec 26} : wJL op k = w ↔ op = fld w 26 6 ∧ k = fld w 0 26 := by
  conv => lhs; rhs; rw [← fld_whole (w := w)]
  simp only [wJL, append_eq_fld_iff]

theorem wLG_eq_iff {d a b : BitVec 3} {k : BitVec 14} : wLG op d a b k = w ↔
    op = fld w 26 6 ∧ d = fld w 23 3 ∧ a = fld w 20 3 ∧ b = fld w 17 3 ∧ 0 = fld w 14 3 ∧ k = fld w 0 14 := by
  conv => lhs; rhs; rw [← fld_whole (w := w)]
  simp only [wLG, append_eq_fld_iff, and_assoc]

/-- The fields of a layout's word; those inside `fn` or the immediate are read from it. -/
theorem fld_wRR {fn : BitVec 11} : fld (wRR op d a b fn) 26 6 = op ∧ fld (wRR op d a b fn) 21 5 = d ∧
    fld (wRR op d a b fn) 16 5 = a ∧ fld (wRR op d a b fn) 11 5 = b ∧
    ∀ lo n, lo + n ≤ 11 → fld (wRR op d a b fn) lo n = fn.extractLsb' lo n := by
  obtain ⟨hop, hd, ha, hb, -⟩ := wRR_eq_iff.1 (Eq.refl (wRR op d a b fn))
  exact ⟨hop.symm, hd.symm, ha.symm, hb.symm, fun _ _ => extract_append_low⟩

theorem fld_wRI {k : BitVec 16} : fld (wRI op d a k) 26 6 = op ∧ fld (wRI op d a k) 21 5 = d ∧
    fld (wRI op d a k) 16 5 = a ∧ ∀ lo n, lo + n ≤ 16 → fld (wRI op d a k) lo n = k.extractLsb' lo n := by
  obtain ⟨hop, hd, ha, -⟩ := wRI_eq_iff.1 (Eq.refl (wRI op d a k))
  exact ⟨hop.symm, hd.symm, ha.symm, fun _ _ => extract_append_low⟩

theorem fld_wUI {k : BitVec 21} : fld (wUI op d k) 26 6 = op ∧ fld (wUI op d k) 21 5 = d ∧ fld (wUI op d k) 0 21 = k := by
  obtain ⟨hop, hd, hk⟩ := wUI_eq_iff.1 (Eq.refl (wUI op d k))
  exact ⟨hop.symm, hd.symm, hk.symm⟩

theorem fld_wJL {k : BitVec 26} : fld (wJL op k) 26 6 = op ∧ fld (wJL op k) 0 26 = k := by
  obtain ⟨hop, hk⟩ := wJL_eq_iff.1 (Eq.refl (wJL op k))
  exact ⟨hop.symm, hk.symm⟩

theorem fld_wLG {d a b : BitVec 3} {k : BitVec 14} : fld (wLG op d a b k) 26 6 = op ∧ fld (wLG op d a b k) 23 3 = d ∧
    fld (wLG op d a b k) 20 3 = a ∧ fld (wLG op d a b k) 17 3 = b ∧ fld (wLG op d a b k) 0 14 = k := by
  obtain ⟨hop, hd, ha, hb, -, hk⟩ := wLG_eq_iff.1 (Eq.refl (wLG op d a b k))
  exact ⟨hop.symm, hd.symm, ha.symm, hb.symm, hk.symm⟩

/-- A layout's word is compared under a mask field by field. -/
theorem wRR_and_eq_iff {fn : BitVec 11} {mask p : Word32} : wRR op d a b fn &&& mask = p ↔
    op &&& mask.extractLsb' 26 6 = p.extractLsb' 26 6 ∧ d &&& mask.extractLsb' 21 5 = p.extractLsb' 21 5 ∧
    a &&& mask.extractLsb' 16 5 = p.extractLsb' 16 5 ∧ b &&& mask.extractLsb' 11 5 = p.extractLsb' 11 5 ∧
    fn &&& mask.extractLsb' 0 11 = p.extractLsb' 0 11 := by
  simp (disch := omega) only [wRR, append_and_eq_iff, extract_extract, and_assoc]

theorem wRI_and_eq_iff {k : BitVec 16} {mask p : Word32} : wRI op d a k &&& mask = p ↔
    op &&& mask.extractLsb' 26 6 = p.extractLsb' 26 6 ∧ d &&& mask.extractLsb' 21 5 = p.extractLsb' 21 5 ∧
    a &&& mask.extractLsb' 16 5 = p.extractLsb' 16 5 ∧ k &&& mask.extractLsb' 0 16 = p.extractLsb' 0 16 := by
  simp (disch := omega) only [wRI, append_and_eq_iff, extract_extract, and_assoc]

theorem wLG_and_eq_iff {d a b : BitVec 3} {k : BitVec 14} {mask p : Word32} : wLG op d a b k &&& mask = p ↔
    op &&& mask.extractLsb' 26 6 = p.extractLsb' 26 6 ∧ d &&& mask.extractLsb' 23 3 = p.extractLsb' 23 3 ∧
    a &&& mask.extractLsb' 20 3 = p.extractLsb' 20 3 ∧ b &&& mask.extractLsb' 17 3 = p.extractLsb' 17 3 ∧
    0 &&& mask.extractLsb' 14 3 = p.extractLsb' 14 3 ∧ k &&& mask.extractLsb' 0 14 = p.extractLsb' 0 14 := by
  simp (disch := omega) only [wLG, append_and_eq_iff, extract_extract, and_assoc]

end Layouts

/-! ## Control words: from the instruction to the word and back -/

/-! A major that holds several instructions has a table of its own (R54 to R61). -/

section Majors
variable {d a b : Reg} {fn : BitVec 11} {k : BitVec 16}

theorem decodeControl_01 : decodeControl (wRR 0x01 d a b fn) = decode01 (wRR 0x01 d a b fn) := by simp [decodeControl, fld_wRR]
theorem decodeControl_08 : decodeControl (wRI 0x08 d a k) = decode08 (wRI 0x08 d a k) := by simp [decodeControl, fld_wRI]
theorem decodeControl_1B : decodeControl (wRR 0x1B d a b fn) = decode1B (wRR 0x1B d a b fn) := by simp [decodeControl, fld_wRR]
theorem decodeControl_28 : decodeControl (wRR 0x28 d a b fn) = decode28 (wRR 0x28 d a b fn) := by simp [decodeControl, fld_wRR]
theorem decodeControl_30 : decodeControl (wRR 0x30 d a b fn) = decode30 (wRR 0x30 d a b fn) := by simp [decodeControl, fld_wRR]
theorem decodeControl_31 : decodeControl (wRR 0x31 d a b fn) = decode31 (wRR 0x31 d a b fn) := by simp [decodeControl, fld_wRR]
theorem decodeControl_32 : decodeControl (wRR 0x32 d a b fn) = decode32 (wRR 0x32 d a b fn) := by simp [decodeControl, fld_wRR]
theorem decodeControl_33 : decodeControl (wRR 0x33 d a b fn) = decode33 (wRR 0x33 d a b fn) := by simp [decodeControl, fld_wRR]
theorem decodeControl_34 : decodeControl (wRR 0x34 d a b fn) = decode34 (wRR 0x34 d a b fn) := by simp [decodeControl, fld_wRR]
theorem decodeControl_38 : decodeControl (wRR 0x38 d a b fn) = decode38 (wRR 0x38 d a b fn) := by simp [decodeControl, fld_wRR]
theorem decodeControl_39 : decodeControl (wRR 0x39 d a b fn) = decode39 (wRR 0x39 d a b fn) := by simp [decodeControl, fld_wRR]
theorem decodeControl_3A : decodeControl (wRR 0x3A d a b fn) = decode3A (wRR 0x3A d a b fn) := by simp [decodeControl, fld_wRR]
theorem decodeControl_3C : decodeControl (wRI 0x3C d a k) = decode3C (wRI 0x3C d a k) := by simp [decodeControl, fld_wRI]

end Majors

/-- Each instruction's word lies in its row: the major leads to the table, the sub-code to the row, the fields to the operands. -/
theorem decodeControl_of_encodeControl (wf : i.wf = true) (h : encodeControl i = some w) : decodeControl w = some i := by
  revert wf
  cases i
  all_goals cases h
  any_goals simp only [decodeControl_01, decodeControl_08, decodeControl_1B, decodeControl_28, decodeControl_30, decodeControl_31,
    decodeControl_32, decodeControl_33, decodeControl_34, decodeControl_38, decodeControl_39, decodeControl_3A, decodeControl_3C]
  all_goals simp [Instr.wf, decodeControl, decode01, decode08, decode1B, decode28, decode30, decode31, decode32, decode33, decode34,
    decode38, decode39, decode3A, decode3C, decode3CF, fld_wRR, fld_wRI, fld_wUI, fld_wJL, wRR_and_eq_iff, wRI_and_eq_iff,
    extract_append_high, extract_append_low, append_and_eq_iff]

/-! ## Control words: from the word to the instruction and back -/

/-- OPX 0xF of major 0x3C, row by row. -/
theorem wf_and_encodeControl_of_decode3CF (hop : fld w 26 6 = 0x3C) (h : decode3CF w = some i) :
    i.wf = true ∧ encodeControl i = some w := by
  unfold decode3CF at h
  iterate 11
    rcases ite_eq_iff.1 h with ⟨hm, hi⟩ | ⟨-, h⟩
    · cases hi
      refine ⟨rfl, congrArg some (wRI_eq_iff.2 ?_)⟩
      simp (disch := decide) [hop, append_eq_fld_iff, fld_of_mask hm]
  rcases ite_eq_iff.1 h with ⟨⟨hm, scope⟩, hi⟩ | ⟨-, h⟩
  · cases hi
    refine ⟨scope, congrArg some (wRI_eq_iff.2 ?_)⟩
    simp (disch := decide) [hop, append_eq_fld_iff, fld_of_mask hm]
  iterate 2
    rcases ite_eq_iff.1 h with ⟨hm, hi⟩ | ⟨-, h⟩
    · cases hi
      refine ⟨rfl, congrArg some (wRI_eq_iff.2 ?_)⟩
      simp (disch := decide) [hop, fld_of_mask hm]
  cases h

theorem wf_and_encodeControl_of_decode3C (hop : fld w 26 6 = 0x3C) (h : decode3C w = some i) :
    i.wf = true ∧ encodeControl i = some w := by
  unfold decode3C at h
  split at h
  case h_5 => exact wf_and_encodeControl_of_decode3CF hop h
  case h_6 => cases h
  all_goals
    obtain ⟨hm, hi⟩ := Option.ite_none_right_eq_some.1 h
    cases hi
    refine ⟨rfl, congrArg some (wRI_eq_iff.2 ?_)⟩
    simp (disch := decide) [hop, append_eq_fld_iff, fld_of_mask hm]

/-- Each row's mask fixes the fields that its instruction does not hold, and its conditions are the instruction's codes. A row
with no mask of its own is under the mask 0; `h_40` is major 0x3C, whose chain of rows is too long for `split`. -/
theorem wf_and_encodeControl_of_decodeControl (h : decodeControl w = some i) : i.wf = true ∧ encodeControl i = some w := by
  have unmasked : w &&& 0 = 0 := BitVec.and_zero
  simp only [decodeControl, decode01, decode08, decode1B, decode28, decode30, decode31, decode32, decode33, decode34, decode38,
    decode39, decode3A, ite_and] at h
  split at h
  case h_40 => exact wf_and_encodeControl_of_decode3C ‹_› h
  all_goals repeat' split at h
  all_goals cases h
  all_goals
    refine ⟨by simp_all [Instr.wf], congrArg some ?_⟩
    simp (disch := decide) [wRR_eq_iff, wRI_eq_iff, wUI_eq_iff, wJL_eq_iff, ‹fld w 26 6 = _›, append_eq_fld_iff,
      fld_of_mask ‹w &&& _ = _›]

/-! ## Station words (R62, R64) -/

theorem StF.fld_word {op : BitVec 8} {f : StF} : fld (f.word op) 28 4 = op.extractLsb' 4 4 ∧ fld (f.word op) 24 8 = op ∧
    StF.of (f.word op) = f := by
  simp (disch := decide) [fld, StF.of, StF.word, extract_append_high, extract_append_low]

theorem StF.word_of {op : BitVec 8} (h : fld w 24 8 = op) : (StF.of w).word op = w := by
  conv => rhs; rw [← fld_whole (w := w)]
  simp only [StF.word, StF.of, append_eq_fld_iff, h, and_self]

theorem StF.fits_of {mask p : Word32} (hop : fld w 24 8 = p.extractLsb' 24 8) (hm : w &&& mask = p) :
    (StF.of w).fits mask p = true := by
  rw [StF.fits, StF.word_of hop, beq_iff_eq, hm]

/-- A well-formed station word is under its row's mask. -/
theorem decodeStation_of_encodeStation (wf : i.wf = true) (h : encodeStation i = some w) : decodeStation w = some i := by
  cases i
  all_goals cases h
  all_goals
    have fits := beq_iff_eq.1 wf
    simp only [BitVec.reduceExtractLsb', BitVec.ofNat_eq_ofNat] at fits
    simp [decodeStation, decodeOp0, decodeOp1, decodeOp2, decodeOp3, decodeOp4, decodeOp5, decodeOp6, decodeOp7, decodeOp8,
      decodeOp9, decodeOpA, decodeOpB, StF.fld_word, fits]

theorem wf_and_encodeStation_of_decodeStation (h : decodeStation w = some i) : i.wf = true ∧ encodeStation i = some w := by
  simp only [decodeStation, decodeOp0, decodeOp1, decodeOp2, decodeOp3, decodeOp4, decodeOp5, decodeOp6, decodeOp7, decodeOp8,
    decodeOp9, decodeOpA, decodeOpB] at h
  repeat' split at h
  all_goals cases h
  all_goals exact ⟨StF.fits_of ‹_› ‹_›, congrArg some (StF.word_of ‹_›)⟩

/-! ## Logit words (R67, R68) -/

theorem decodeLogit_of_encodeLogit (h : encodeLogit i = some w) : decodeLogit w = some i := by
  cases i
  all_goals cases h
  all_goals simp [decodeLogit, fld_wLG, wLG_and_eq_iff]

theorem wf_and_encodeLogit_of_decodeLogit (h : decodeLogit w = some i) : i.wf = true ∧ encodeLogit i = some w := by
  unfold decodeLogit at h
  repeat' split at h
  all_goals cases h
  all_goals
    refine ⟨rfl, congrArg some (wLG_eq_iff.2 ?_)⟩
    simp (disch := decide) [‹fld w 26 6 = _›, fld_of_mask ‹w &&& _ = _›]

/-! ## The obligations -/

/-- The four bytes of a word hold it (R6, R51). -/
theorem decode_wordBytes {rest : List Byte} (h : decodeControl w = some i) : decode (wordBytes w ++ rest) = .ok (i, rest) := by
  have joined : bytesWord (fld w 0 8) (fld w 8 8) (fld w 16 8) (fld w 24 8) = w := by
    conv => rhs; rw [← fld_whole (w := w)]
    simp only [bytesWord, append_eq_fld_iff, and_self]
  simp only [wordBytes, List.cons_append, List.nil_append, decode, joined, h]

/-- Settles O55, set by set: each well-formed instruction's word is read back by its row. -/
theorem decodeEncode : Obligations.DecodeEncode := by
  unfold Obligations.DecodeEncode
  exact ⟨fun _ _ _ wf h => decode_wordBytes (decodeControl_of_encodeControl wf h), fun _ _ => decodeStation_of_encodeStation,
    fun _ _ _ => decodeLogit_of_encodeLogit⟩

/-- Settles O56, set by set: each row's word is made again of the fields it was read as. -/
theorem encodeDecode : Obligations.EncodeDecode := by
  unfold Obligations.EncodeDecode
  exact fun _ _ => ⟨wf_and_encodeControl_of_decodeControl, wf_and_encodeStation_of_decodeStation, wf_and_encodeLogit_of_decodeLogit⟩

/-- Settles O57: the decoder run on each of the words. -/
theorem decodeSamples : Obligations.DecodeSamples := by
  unfold Obligations.DecodeSamples
  decide

end Sys2Proof
end

section
/-! The proof of O23: what syscall, brk, an illegal word, a fetch that faults and the debugger's resume do. -/

namespace Sys2Proof.Machine

theorem State.debugging_iff (s : State) : s.debugging = true ↔ s.vendor = true ∨ (s.part s.pid).debug = true := by
  simp [State.debugging]

/-- With no failed store due, a word that is illegal and no spare hvc traps (R53). -/
theorem exec_illegalInstruction_trap {s : State} (clear : Says.Clear s)
    (illegal : ∀ b (u : State), s.fetch = some (b, u) → spareHvc (BitVec.ofNat 32 (leNat b)) = false) :
    exec .illegalInstruction s = .next (s.trap 0x01 s.core.pc) := by
  have traps : s.issue (fun s => s.trap tILLEGAL s.core.pc) = s.trap 0x01 s.core.pc := State.issue_clear _ clear
  show execIllegalInstruction s = _
  unfold execIllegalInstruction
  split
  case h_1 b u fetched => rw [illegal b u fetched, if_neg Bool.false_ne_true, traps]
  case h_2 => rw [traps]

/-- In a debug state brk halts the core, else it traps (R378, R434). -/
theorem exec_brk_free {s : State} {c : BitVec 5} (free : Says.Free s) : exec (.brk c) s = .next
    (if s.vendor = true ∨ (s.part s.pid).debug = true then Says.withCore s { s.core with run := .brk }
     else s.trap 0x16 (BitVec.ofNat 64 (BitVec.toNat (w := 5) c))) := by
  have issued : exec (.brk c) s = .next (if s.debugging then s.setCore { s.core with run := .brk } else s.trap tBRK (c.setWidth 64)) :=
    congrArg Host.Outcome.next (State.unsafeIssue_free _ free.1 free.2)
  rw [issued, BitVec.ofNat_toNat]
  exact congrArg Host.Outcome.next (if_congr s.debugging_iff rfl rfl)

/-- Settles O23, instruction by instruction: with nothing in the way each of them is its trap, or the halt and its end. -/
theorem trapInstructions : Obligations.TrapInstructions := by
  unfold Obligations.TrapInstructions
  refine ⟨fun s free => ?_, fun _ _ => exec_brk_free, fun _ => exec_illegalInstruction_trap, fun s clear => ?_, fun s => ?_⟩
  · exact congrArg Host.Outcome.next (State.unsafeIssue_free _ free.1 free.2)
  · exact congrArg Host.Outcome.next (State.issue_clear _ clear)
  · intro c halted resumes
    exact congrArg Host.Outcome.next (if_pos ⟨halted, resumes⟩)

end Sys2Proof.Machine
end

section
/-! SUPPORT. Control instructions whose registers are read: what they do with nothing due and with the checks behind them. -/

namespace Sys2Proof.Machine

variable {s s0 s1 s2 : State} {rs : List Reg} {ws : List Word} {d r : Reg} {w : Word}

/-- With no failed store due and its registers read, an instruction goes on with their values. -/
theorem State.issue_reads (clear : Says.Clear s) (h : Says.Reads s rs ws s1) (k : State → List Word → State → State) :
    s.issue (fun s => s.withRegs rs (k s)) = k s ws s1 := by
  rw [State.issue_clear _ clear, State.withRegs_reads h]

/-- An instruction that computes a register, with its registers read and its destination ready. -/
theorem State.compute_reads {f : List Word → Word} (clear : Says.Clear s) (h : Says.Reads s rs ws s1)
    (put : s1.putReg d (f ws) = .ok (f ws) s2) : s.compute rs d f = Says.goesOn s2 s2 := by
  rw [State.compute, State.issue_reads clear h, State.finish_ok put]; rfl

/-- A division, with its registers read and its destination ready. -/
theorem State.divide_reads {a b : Reg} {x y : Word} {f : Word → Word → Quot} (clear : Says.Clear s) (h : Says.Reads s [a, b] [x, y] s1)
    (put : (s1.setCore (s1.core.setArith (f x y))).putReg d (f x y).val = .ok (f x y).val s2) :
    s.divide a b d f = Says.goesOn s2 s2 := by
  rw [State.divide, State.issue_reads clear h]
  exact State.finish_ok put

/-! ## Going on -/

/-- A core that goes on as it was at the same program counter. -/
theorem goesOn_setCore {c : Core} (h : c.pc = s.core.pc) : Says.goesOn s (s.setCore c) = (s.setCore c).retire := by
  rw [State.retire, State.setCore_core, h]; rfl

@[simp] theorem Core.setReg_pc (c : Core) (r : Reg) (w : Word) : (c.setReg r w).pc = c.pc := rfl

/-! ## Plain registers -/

/-- Reading plain registers and g0 succeeds and changes nothing (R75). -/
theorem reads_of_plain (h : ∀ r ∈ rs, r = 0 ∨ Says.Plain s r) : ∃ ws, Says.Reads s rs ws s := by
  induction rs with
  | nil => exact ⟨[], rfl, rfl⟩
  | cons r rs ih =>
    obtain ⟨ws, reads⟩ := ih fun r hr => h r (List.mem_cons_of_mem _ hr)
    obtain ⟨w, read⟩ : ∃ w, s.getReg r = .ok w s := by
      rcases h r List.mem_cons_self with rfl | ⟨h0, hm, hb, hp⟩
      · exact ⟨0, State.getReg_zero s⟩
      · exact ⟨_, State.getReg_plain h0 hm hb hp⟩
    exact ⟨w :: ws, w, ws, s, rfl, read, reads⟩

/-- With nothing on its way to a register there is nothing to discard. -/
theorem Core.supersede_of_not_busy {c : Core} (h : c.busy r = false) : c.supersede r = c := by
  obtain ⟨loads, recs⟩ := Bool.or_eq_false_iff.1 h
  have stays {α : Type} {p : α → Bool} {f : α → α} {l : List α} (none : l.any p = false) : (l.map fun x => if p x then f x else x) = l :=
    (List.map_congr_left fun x hx => if_neg (List.any_eq_false.1 none x hx)).trans (List.map_id l)
  rw [Core.supersede, stays loads, stays recs]

/-- A write to a plain register changes the register, its poison mark and what its value may depend on (R75, R97). -/
theorem Core.setReg_of_not_busy {c : Core} (h : c.busy r = false) : c.setReg r w =
    { c with regs := c.regs.set r.toNat w r.isLt, poison := c.poison.set r.toNat none r.isLt, ord := c.ord.wrote r } := by
  rw [Core.setReg, Core.supersede_of_not_busy h]

theorem State.putReg_zero_or_plain (h : d = 0 ∨ Says.Plain s d) :
    s.putReg d w = .ok w (if d = 0 then s else s.setCore (s.core.setReg d w)) := by
  rcases h with rfl | ⟨h0, hm, -, -⟩
  · rw [State.putReg_zero, if_pos rfl]
  · rw [State.putReg_plain w h0 hm, if_neg h0]

end Sys2Proof.Machine
end

section
/-! SUPPORT and the proofs of O1, O2 and O3: the integer instructions' values in the model's operators and in the manual's numbers. -/

namespace Sys2Proof.Machine

variable {s s0 u t : State} {rs : List Reg} {ws : List Word} {d r : Reg} {w : Word}

/-! ## Words as numbers -/

theorem ofNat_toNat_add (x y : Word) : BitVec.ofNat 64 (x.toNat + y.toNat) = x + y := by
  rw [BitVec.ofNat_add, BitVec.ofNat_toNat, BitVec.ofNat_toNat, BitVec.setWidth_eq, BitVec.setWidth_eq]

theorem ofInt_toInt_sub (x y : Word) : BitVec.ofInt 64 (x.toInt - y.toInt) = x - y := by
  rw [Int.sub_eq_add_neg, BitVec.ofInt_add, BitVec.ofInt_neg, BitVec.ofInt_toInt, BitVec.ofInt_toInt, BitVec.sub_eq_add_neg]

theorem ofNat_toNat_mul (x y : Word) : BitVec.ofNat 64 (x.toNat * y.toNat) = x * y := by
  rw [BitVec.ofNat_mul, BitVec.ofNat_toNat, BitVec.ofNat_toNat, BitVec.setWidth_eq, BitVec.setWidth_eq]

theorem ofNat_mul_two_pow (n p : Nat) : BitVec.ofNat 64 (n * 2 ^ p) = BitVec.ofNat 64 n <<< p := by
  apply BitVec.eq_of_toNat_eq
  simp [Nat.shiftLeft_eq]

theorem ofNat_toNat_mul_pow (x : Word) (p : Nat) : BitVec.ofNat 64 (x.toNat * 2 ^ p) = x <<< p := by
  rw [ofNat_mul_two_pow, BitVec.ofNat_toNat, BitVec.setWidth_eq]

theorem ofNat_toNat_div_pow (x : Word) (n : Nat) : BitVec.ofNat 64 (x.toNat / 2 ^ n) = x >>> n := by
  apply BitVec.eq_of_toNat_eq
  rw [BitVec.toNat_ofNat, BitVec.toNat_ushiftRight, Nat.shiftRight_eq_div_pow]
  exact Nat.mod_eq_of_lt (Nat.lt_of_le_of_lt (Nat.div_le_self ..) x.isLt)

theorem ofInt_toInt_div_pow (x : Word) (n : Nat) : BitVec.ofInt 64 (x.toInt / 2 ^ n) = x.sshiftRight n := by
  rw [BitVec.sshiftRight, Int.shiftRight_eq_div_pow]; rfl

theorem ofInt_toInt_add {n : Nat} (x : Word) (i : BitVec n) : BitVec.ofInt 64 (x.toInt + i.toInt) = x + i.signExtend 64 := by
  rw [BitVec.ofInt_add, BitVec.ofInt_toInt]; rfl

theorem ofInt_toInt_mul {n : Nat} (i : BitVec n) (k : Nat) :
    BitVec.ofInt 64 (i.toInt * (k : Int)) = i.signExtend 64 * BitVec.ofNat 64 k := by
  rw [BitVec.ofInt_mul, BitVec.ofInt_natCast]; rfl

/-! ## Counting bits (R83) -/

theorem highOne_le (x : Word) (n : Nat) : highOne x n ≤ n := by
  induction n with
  | zero => exact Nat.le_refl 0
  | succ n ih =>
    rw [highOne]
    split
    · exact Nat.le_refl _
    · exact Nat.le_succ_of_le ih

theorem length_takeWhile_reverse (x : Word) (n : Nat) :
    ((List.range n).reverse.takeWhile fun i => !x.getLsbD i).length = n - highOne x n := by
  induction n with
  | zero => rfl
  | succ n ih =>
    rw [List.range_succ, List.reverse_append, List.reverse_singleton, List.singleton_append, List.takeWhile_cons, highOne]
    cases hx : x.getLsbD n with
    | true => simp
    | false =>
      have := highOne_le x n
      simp only [Bool.not_false, if_true, List.length_cons, ih, Bool.false_eq_true, if_false]
      omega

theorem length_takeWhile_range' (x : Word) (k n : Nat) :
    ((List.range' k n).takeWhile fun i => !x.getLsbD i).length = lowZeros x k n := by
  induction n generalizing k with
  | zero => rfl
  | succ n ih =>
    rw [List.range'_succ, List.takeWhile_cons, lowZeros]
    cases hx : x.getLsbD k with
    | true => rfl
    | false => simp [ih, Nat.add_comm]

theorem length_filter_range (x : Word) (n : Nat) : ((List.range n).filter fun i => x.getLsbD i).length = onesCount x n := by
  induction n with
  | zero => rfl
  | succ n ih =>
    rw [List.range_succ, List.filter_append, List.length_append, ih, onesCount, Nat.add_comm]
    cases hx : x.getLsbD n <;> simp [hx]

/-! ## Bytes -/

theorem leBytes_eq_map (n v : Nat) : leBytes n v = (List.range n).map fun k => BitVec.ofNat 8 (v / 256 ^ k) := by
  induction n generalizing v with
  | zero => rfl
  | succ n ih =>
    simp [leBytes, ih, List.range_succ_eq_map, Nat.div_div_eq_div_mul, Nat.pow_succ', Function.comp_def]

/-- The bytes of a word (R6) are the ones that the model takes. -/
theorem leBytes_toNat (n : Nat) (w : Word) : leBytes n w.toNat = Says.bytesOf w n := leBytes_eq_map n _

/-- A byte appended below a bit string. -/
theorem toNat_append_byte {n : Nat} (x : BitVec n) (b : Byte) : (x ++ b).toNat = b.toNat + 256 * x.toNat := by
  rw [BitVec.toNat_append, Nat.shiftLeft_eq, Nat.mul_comm, ← Nat.two_pow_add_eq_or_of_lt b.isLt, Nat.add_comm]

theorem swapBytes_eq (x : Word) : swapBytes x = Says.bytesReversed x := by
  have byte (k : Nat) : BitVec.ofNat 8 (x.toNat / 256 ^ k) = x.extractLsb' (8 * k) 8 := by
    rw [BitVec.extractLsb', Nat.shiftRight_eq_div_pow, Nat.pow_mul]
  have bytes : (leBytes 8 x.toNat).reverse = ((List.range 8).map fun k => x.extractLsb' (8 * k) 8).reverse := by
    simp only [leBytes_eq_map, byte]
  have number : leNat (leBytes 8 x.toNat).reverse = (Says.bytesReversed x).toNat := by
    rw [bytes]
    simp only [Says.bytesReversed, toNat_append_byte]
    rfl
  rw [swapBytes, number, BitVec.ofNat_toNat, BitVec.setWidth_eq]

/-! ## Bit fields (R86) -/

theorem fieldPos_eq (y : Word) : fieldPos y = y.toNat % 64 := by
  simp [fieldPos]

theorem fieldLen_eq (y : Word) : fieldLen y = y.toNat / 256 % 64 + 1 := by
  simp [fieldLen, Nat.shiftRight_eq_div_pow]

theorem bextOf_eq (x y : Word) :
    bextOf x y = BitVec.ofNat 64 (x.toNat / 2 ^ (y.toNat % 64) % 2 ^ (y.toNat / 256 % 64 + 1)) := by
  rw [bextOf, ones, fieldPos_eq, fieldLen_eq, ← Nat.and_two_pow_sub_one_eq_mod, BitVec.ofNat_and, ofNat_toNat_div_pow]

theorem binsOf_eq (x y z : Word) : binsOf x y z =
    (z &&& ~~~BitVec.ofNat 64 ((2 ^ (y.toNat / 256 % 64 + 1) - 1) * 2 ^ (y.toNat % 64))) |||
      BitVec.ofNat 64 ((x &&& BitVec.ofNat 64 (2 ^ (y.toNat / 256 % 64 + 1) - 1)).toNat * 2 ^ (y.toNat % 64)) := by
  rw [binsOf, ones, fieldPos_eq, fieldLen_eq, ofNat_toNat_mul_pow, ofNat_mul_two_pow]

/-! ## The tables -/

theorem amount_eq (y : Word) : amount y = Says.shiftBy y := by simp [amount, Says.shiftBy]

theorem indexed_eq (x y : Word) (k : BitVec 2) : BitVec.ofNat 64 (x.toNat + y.toNat * 2 ^ k.toNat) = indexed x y k := by
  rw [BitVec.ofNat_add, ofNat_toNat_mul_pow, BitVec.ofNat_toNat, BitVec.setWidth_eq]; rfl

theorem ofInt_toInt_immU (i : BitVec 21) : BitVec.ofInt 64 (i.toInt * 65536) = immU i := ofInt_toInt_mul i 65536

theorem toInt_immW (i : BitVec 16) : (immW i).toInt = i.toInt := BitVec.toInt_signExtend_of_le (by decide)

/-- A register-register instruction computes its table's value. -/
theorem exec_binary {i : Instr} {d a b : Reg} {f : Word → Word → Word} (h : Says.binaryOf i = some (d, a, b, f)) (s : State) :
    exec i s = .next (s.rr d a b f) := by
  have of {g : Word → Word → Word} (he : exec i s = .next (s.rr d a b g)) (hg : ∀ x y, g x y = f x y) :
      exec i s = .next (s.rr d a b f) := (funext₂ hg : g = f) ▸ he
  unfold Says.binaryOf at h
  split at h
  all_goals cases h
  · exact of rfl fun x y => (ofNat_toNat_add x y).symm
  · exact of rfl fun x y => (ofInt_toInt_sub x y).symm
  · rfl
  · rfl
  · rfl
  · rfl
  · exact of rfl fun x y => amount_eq y ▸ (ofNat_toNat_mul_pow x _).symm
  · exact of rfl fun x y => amount_eq y ▸ (ofNat_toNat_div_pow x _).symm
  · exact of rfl fun x y => amount_eq y ▸ (ofInt_toInt_div_pow x _).symm
  · exact of rfl fun x y => (ofNat_toNat_mul x y).symm
  · rfl
  · rfl
  · exact of rfl fun x y => by simp [Says.pick, BitVec.sle]
  · exact of rfl fun x y => by simp [Says.pick, BitVec.sle]
  · exact of rfl fun x y => by simp [Says.pick, BitVec.ule]
  · exact of rfl fun x y => by simp [Says.pick, BitVec.ule]
  · exact of rfl fun x y => by simp [Says.pick, b2w, BitVec.slt]
  · exact of rfl fun x y => by simp [Says.pick, b2w, BitVec.ult]
  · exact of rfl fun x y => by simp [Says.pick, b2w]
  · exact of rfl bextOf_eq
  · exact of rfl fun x y => (indexed_eq x y _).symm

/-- An instruction of one source computes its table's value. -/
theorem exec_unary {i : Instr} {d a : Reg} {f : Word → Word} (h : Says.unaryOf i = some (d, a, f)) (s : State) :
    exec i s = .next (s.r1 d a f) := by
  have of {g : Word → Word} (he : exec i s = .next (s.r1 d a g)) (hg : ∀ x, g x = f x) : exec i s = .next (s.r1 d a f) :=
    (funext hg : g = f) ▸ he
  unfold Says.unaryOf at h
  split at h
  all_goals cases h
  · exact of rfl fun x => congrArg (BitVec.ofNat 64) (length_takeWhile_reverse x 64).symm
  · exact of rfl fun x => congrArg (BitVec.ofNat 64) (by rw [Says.zerosBelow, List.range_eq_range', length_takeWhile_range'])
  · exact of rfl fun x => congrArg (BitVec.ofNat 64) (length_filter_range x 64).symm
  · exact of rfl swapBytes_eq
  · exact of rfl fun x => (ofInt_toInt_add x _).symm
  · rfl
  · rfl
  · rfl
  · exact of rfl fun x => by simp [Says.pick, b2w, BitVec.slt, toInt_immW]
  · exact of rfl fun x => by simp [Says.pick, b2w, BitVec.ult, immW, BitVec.signExtend]
  · exact of rfl fun x => (ofNat_toNat_mul_pow x _).symm
  · exact of rfl fun x => (ofNat_toNat_div_pow x _).symm
  · exact of rfl fun x => (ofInt_toInt_div_pow x _).symm

theorem divS_row (x y : Word) : ((divS x y).val, (divS x y).dz, (divS x y).ovf) =
    if y = 0 then (if x = 0 then 0 else if x.toInt < 0 then minS else maxS, true, false)
    else if x = minS ∧ y = -1 then (maxS, false, true) else (BitVec.ofInt 64 (x.toInt.tdiv y.toInt), false, false) := by
  unfold divS
  split
  · simp [BitVec.slt]
  · split <;> rfl

theorem divU_row (x y : Word) : ((divU x y).val, (divU x y).dz, (divU x y).ovf) =
    if y = 0 then (if x = 0 then 0 else -1, true, false) else (BitVec.ofNat 64 (x.toNat / y.toNat), false, false) := by
  unfold divU
  split
  · rfl
  · rw [← BitVec.toNat_udiv, BitVec.ofNat_toNat, BitVec.setWidth_eq]

theorem remS_row (x y : Word) : ((remS x y).val, (remS x y).dz, (remS x y).ovf) =
    if y = 0 then (x, true, false) else (BitVec.ofInt 64 (x.toInt - x.toInt.tdiv y.toInt * y.toInt), false, false) := by
  unfold remS
  split
  · rfl
  · rw [Int.mul_comm, ← Int.tmod_def]

theorem remU_row (x y : Word) : ((remU x y).val, (remU x y).dz, (remU x y).ovf) =
    if y = 0 then (x, true, false) else (BitVec.ofNat 64 (x.toNat - x.toNat / y.toNat * y.toNat), false, false) := by
  unfold remU
  split
  · rfl
  · rw [Nat.mul_comm, ← Nat.mod_eq_sub_mul_div, ← BitVec.toNat_umod, BitVec.ofNat_toNat, BitVec.setWidth_eq]

/-- A division computes its table's value and flags. -/
theorem exec_division {i : Instr} {d a b : Reg} {f : Word → Word → Word × Bool × Bool} (h : Says.divisionOf i = some (d, a, b, f)) :
    ∃ g, (∀ s, exec i s = .next (s.divide a b d g)) ∧ ∀ x y, ((g x y).val, (g x y).dz, (g x y).ovf) = f x y := by
  unfold Says.divisionOf at h
  split at h
  all_goals cases h
  · exact ⟨divS, fun _ => rfl, divS_row⟩
  · exact ⟨divU, fun _ => rfl, divU_row⟩
  · exact ⟨remS, fun _ => rfl, remS_row⟩
  · exact ⟨remU, fun _ => rfl, remU_row⟩

/-! ## The frame -/

/-- A write of at most register d: what is not d keeps its value and its mark, and nothing but d, its mark and what d may depend on
changes. -/
structure WritesOnly (d : Reg) (c c' : Core) : Prop where
  regs : ∀ r : Reg, r ≠ 0 → r ≠ d → c'.regs[r.toNat]'r.isLt = c.regs[r.toNat]'r.isLt
  poison : ∀ r : Reg, r = 0 ∨ r ≠ d → c'.poison[r.toNat]'r.isLt = c.poison[r.toNat]'r.isLt
  rest : c' = { c with regs := c'.regs, poison := c'.poison, ord := c'.ord }

theorem WritesOnly.refl (d : Reg) (c : Core) : WritesOnly d c c := ⟨fun _ _ _ => rfl, fun _ _ => rfl, rfl⟩

theorem WritesOnly.setReg {c : Core} (h0 : d ≠ 0) (h : c.busy d = false) (w : Word) : WritesOnly d c (c.setReg d w) := by
  rw [Core.setReg_of_not_busy h]
  have other {r : Reg} (hr : r ≠ d) : d.toNat ≠ r.toNat := fun e => hr (BitVec.eq_of_toNat_eq e.symm)
  refine ⟨fun r _ hr => Vector.getElem_set_ne d.isLt _ (other hr), fun r hr => Vector.getElem_set_ne d.isLt _ (other ?_), rfl⟩
  rcases hr with rfl | hr
  · exact h0.symm
  · exact hr

/-- Finishing with a plain register or g0. -/
theorem State.finish_zero_or_plain (h : d = 0 ∨ Says.Plain s d) (w : Word) :
    ∃ c, WritesOnly d s.core c ∧ s0.finish s d w = (s.setCore c).retire := by
  rw [State.finish_ok (State.putReg_zero_or_plain h)]
  rcases h with rfl | ⟨h0, -, hb, -⟩
  · exact ⟨s.core, .refl .., by rw [if_pos rfl, State.setCore_self]⟩
  · exact ⟨_, .setReg h0 hb w, by rw [if_neg h0]⟩

/-- A result without flags leaves the flags (R85). -/
theorem Core.setArith_none (c : Core) (v : Word) : c.setArith ⟨v, false, false⟩ = c := by
  rw [Core.setArith, Bool.or_false, Bool.or_false]

/-- An integer instruction with plain sources sets flags, and none unless it is a division, and finishes with a value. -/
theorem exec_integer {i : Instr} (clear : Says.Clear s)
    (h : (∃ a b f, Says.binaryOf i = some (d, a, b, f) ∧ ∀ r ∈ [a, b], r = 0 ∨ Says.Plain s r) ∨
      (∃ a f, Says.unaryOf i = some (d, a, f) ∧ (a = 0 ∨ Says.Plain s a)) ∨
      (∃ a b f, Says.divisionOf i = some (d, a, b, f) ∧ ∀ r ∈ [a, b], r = 0 ∨ Says.Plain s r) ∨
      (∃ a b, i = .bins d a b ∧ ∀ r ∈ [a, b, d], r = 0 ∨ Says.Plain s r) ∨ (∃ x, i = .lui d x ∨ i = .auipc d x)) :
    ∃ q : Quot, exec i s = .next (s.finish (s.setCore (s.core.setArith q)) d q.val) ∧
      ((∀ a b f, Says.divisionOf i ≠ some (d, a, b, f)) → q.dz = false ∧ q.ovf = false) := by
  have computes {rs f} (he : exec i s = .next (s.compute rs d f)) (hr : ∀ r ∈ rs, r = 0 ∨ Says.Plain s r) :
      ∃ q : Quot, exec i s = .next (s.finish (s.setCore (s.core.setArith q)) d q.val) ∧
        ((∀ a b f, Says.divisionOf i ≠ some (d, a, b, f)) → q.dz = false ∧ q.ovf = false) := by
    obtain ⟨ws, reads⟩ := reads_of_plain hr
    refine ⟨⟨f ws, false, false⟩, ?_, fun _ => ⟨rfl, rfl⟩⟩
    rw [he, State.compute, State.issue_reads clear reads, Core.setArith_none, State.setCore_self]
  rcases h with ⟨a, b, f, h, plain⟩ | ⟨a, f, h, plain⟩ | ⟨a, b, f, h, plain⟩ | ⟨a, b, rfl, plain⟩ | ⟨x, rfl | rfl⟩
  · exact computes (exec_binary h s) plain
  · exact computes (exec_unary h s) (List.forall_mem_singleton.2 plain)
  · obtain ⟨g, he, -⟩ := exec_division h
    obtain ⟨ws, reads⟩ := reads_of_plain plain
    refine ⟨g (ws.getD 0 0) (ws.getD 1 0), ?_, fun none => absurd h (none a b f)⟩
    rw [he, State.divide, State.issue_reads clear reads]
  · exact computes rfl plain
  · exact computes rfl (List.forall_mem_nil _)
  · exact computes rfl (List.forall_mem_nil _)

/-! ## The obligations -/

/-- Settles O1, table by table: what each row's instruction computes goes to d. -/
theorem integerResults : Obligations.IntegerResults := by
  unfold Obligations.IntegerResults
  refine ⟨fun i d a b f h s x y s1 s2 clear reads put => ?_, fun i d a f h s x s1 s2 clear reads put => ?_,
    fun d a b s x y z s1 s2 clear reads put => ?_, fun d i s s2 clear => ⟨fun put => ?_, fun put => ?_⟩⟩
  · rw [exec_binary h, State.rr, State.compute_reads clear reads put]
  · rw [exec_unary h, State.r1, State.compute_reads clear reads put]
  · rw [← binsOf_eq] at put
    exact congrArg Host.Outcome.next (State.compute_reads clear reads put)
  · rw [ofInt_toInt_immU] at put
    exact congrArg Host.Outcome.next (State.compute_reads clear ⟨rfl, rfl⟩ put)
  · rw [ofInt_toInt_immU] at put
    exact congrArg Host.Outcome.next (State.compute_reads clear ⟨rfl, rfl⟩ put)

/-- Settles O2: a division's flags are set and its value goes to d. -/
theorem divisionResults : Obligations.DivisionResults := by
  unfold Obligations.DivisionResults
  intro i d a b f h s x y s1 s2 clear reads put
  obtain ⟨g, he, row⟩ := exec_division h
  rw [← row] at put
  rw [he, State.divide_reads clear reads put]

/-- Settles O3: an integer instruction sets its flags and then writes only d. -/
theorem integerFrame : Obligations.IntegerFrame := by
  unfold Obligations.IntegerFrame
  intro i s t d sources clear dest ht
  obtain ⟨q, he, flags⟩ := exec_integer clear sources
  obtain ⟨c, ⟨regs, poison, rest⟩, hc⟩ := State.finish_zero_or_plain (s0 := s) (s := s.setCore (s.core.setArith q)) (d := d)
    (by simpa [Says.Plain, Core.setArith, Core.isMb, Core.busy] using dest) q.val
  rw [State.setCore_core] at regs poison rest
  have ht : t = Says.withCore s { c with pc := c.pc + 4, instret := c.instret + 1 } := by
    rw [he, hc] at ht
    rw [← Host.Outcome.next.inj ht, State.retire, State.retireAt]
    simp only [State.setCore_setCore, State.setCore_core]
    rfl
  have core : t.core = { c with pc := c.pc + 4, instret := c.instret + 1 } := by
    rw [ht]; exact State.setCore_core ..
  refine ⟨fun r h0 hr => ?_, fun r hr => ?_, fun none => ?_, ?_, fun k hk => ?_, ?_⟩
  · rw [Says.reg, core]; exact regs r h0 hr
  · rw [core]; exact poison r hr
  · obtain ⟨hz, ho⟩ := flags none
    rw [core, rest]
    simp [Core.setArith, hz, ho]
  · rw [ht]; rfl
  · rw [ht]; exact State.setCore_other s _ k hk
  · rw [core, rest]; rfl

end Sys2Proof.Machine
end

section
/-! The proofs against O6 and of O9 and O60: a failed store at a halted core, branches, reset. -/

namespace Sys2Proof.Machine

variable {s s1 : State} {a : Reg} {w : Word}

/-! ## A failed store (R97)

Against O6 stands the supervisor's reset of a core that a double trap has halted (R372): it is HVC_RESET's meaning at such a core, and
it asks for no failed store. The core of `doubledState` belongs to no partition, so that the reset leaves the state as it is, where the
trap of O6 would list the core among the double traps once more. -/

/-- A core halted by a double trap, with a failed store due. -/
def doubledState : State :=
  { State.reset with cores := State.reset.cores.set 0 { Core.reset 0 with run := .double, sterr := some (0, 0) } }

/-- The double traps that the supervisor has been told of after a step. -/
def doublesAfter : Out → List (Fin 64)
  | .next s => s.doubles
  | _ => []

/-- Refutes O6: HVC_RESET at `doubledState` tells of no trap, where the statement has one with STERR. -/
theorem not_storeFailureTraps : ¬ Obligations.StoreFailureTraps := by
  unfold Obligations.StoreFailureTraps
  rintro ⟨-, h⟩
  exact absurd (congrArg doublesAfter (h .hvcReset doubledState 0 0 rfl rfl rfl)) (by decide)

/-! ## Branches (R98, R99) -/

theorem ofInt_toInt_add_mul_four {n : Nat} (pc : Word) (i : BitVec n) :
    BitVec.ofInt 64 (pc.toInt + i.toInt * 4) = pc + i.signExtend 64 * 4 := by
  rw [BitVec.ofInt_add, BitVec.ofInt_mul, BitVec.ofInt_toInt]; rfl

/-- A conditional branch goes by its table's test. -/
theorem exec_branch {i : Instr} {a b : Reg} {off : BitVec 16} {f : Word → Word → Bool} (h : Says.branchOf i = some (a, b, off, f))
    (s : State) : exec i s = .next (s.branch a b off f) := by
  have of {g : Word → Word → Bool} (he : exec i s = .next (s.branch a b off g)) (hg : ∀ x y, g x y = f x y) :
      exec i s = .next (s.branch a b off f) := (funext₂ hg : g = f) ▸ he
  unfold Says.branchOf at h
  split at h
  all_goals cases h
  · exact of rfl fun x y => Bool.eq_iff_iff.2 (by simp [BitVec.toNat_inj])
  · exact of rfl fun x y => Bool.eq_iff_iff.2 (by simp [BitVec.toNat_inj])
  · rfl
  · rfl
  · rfl
  · rfl

theorem State.jumpReg_reads {links : Bool} (clear : Says.Clear s) (reads : Says.Reads s [a] [w] s1) : s.jumpReg a links =
    if w.extractLsb' 0 2 ≠ 0 then s.trap tFETCHALIGN w else (if links then s1.link else s1).retireAt w := by
  rw [State.jumpReg, State.issue_reads clear reads]; rfl

theorem low_bits_eq_zero_iff : w.extractLsb' 0 2 = 0 ↔ w.toNat % 4 = 0 := by
  rw [← BitVec.toNat_inj]; simp

/-- Settles O9, form by form: the target, the link, and the trap at a target that is not aligned. -/
theorem branchResults : Obligations.BranchResults := by
  unfold Obligations.BranchResults
  refine ⟨fun i a b off f h s x y s1 clear reads => ?_, fun off s clear => ?_, fun a s x s1 clear reads => ?_⟩
  · rw [exec_branch h, State.branch, State.issue_reads clear reads, ofInt_toInt_add_mul_four]
    rfl
  · rw [ofInt_toInt_add_mul_four]
    exact ⟨congrArg Host.Outcome.next (State.issue_clear _ clear), congrArg Host.Outcome.next (State.issue_clear _ clear)⟩
  · have jumps (links : Bool) := State.jumpReg_reads (links := links) clear reads
    refine ⟨fun aligned => ?_, fun misaligned => ?_⟩
    · rw [← low_bits_eq_zero_iff] at aligned
      simp only [aligned, ne_eq, not_true, if_false] at jumps
      exact ⟨congrArg Host.Outcome.next (jumps false), congrArg Host.Outcome.next (jumps true)⟩
    · simp only [if_pos (mt low_bits_eq_zero_iff.1 misaligned)] at jumps
      exact ⟨congrArg Host.Outcome.next (jumps false), congrArg Host.Outcome.next (jumps true)⟩

/-! ## Reset -/

/-- Settles O60: every core at reset is one right after core reset. -/
theorem resetValues : Obligations.ResetValues := by
  unfold Obligations.ResetValues
  refine ⟨fun c => ?_, rfl, rfl, rfl, rfl, reset_wf⟩
  have core : State.reset.cores[c] = Core.reset 0 := by simp [State.reset]
  simp only [core]
  simp [Core.reset, Mailbox.zero]

end Sys2Proof.Machine
end

section
/-! The proofs of O17, O18 and O19: which CSR numbers answer, what a CSR instruction brings and writes, and what a write leaves. -/

namespace Sys2Proof.Machine

variable {s s1 s2 : State} {d a : Reg} {c : BitVec 12} {n : Nat} {x : Word}

/-! ## Reach (R78) -/

/-- Outside the supervisor and the debug states a number that names no CSR traps by its class (R78). -/
theorem State.csrTrap_none_exists (part : s.core.part ≠ none) (debug : s.debugging = false) (none : csrExists n = false) :
    s.csrTrap n = some (if n < 0x800 then tCSRNONE else tCSRPRIV) := by
  have isNone : s.core.part.isNone = false := Option.isNone_eq_false_iff.2 (Option.isSome_iff_ne_none.2 part)
  simp only [State.csrTrap, none, isNone, debug, Bool.false_eq_true, false_or, and_false, if_false]
  split <;> rfl

theorem State.csrTrap_exists (h : csrExists n = true) : s.csrTrap n = none := by simp [State.csrTrap, h]

/-! ## The instructions (R377) -/

theorem exec_csrrd_trap {code : BitVec 6} (clear : Says.Clear s) (h : s.csrTrap c.toNat = some code) :
    exec (.csrrd d c) s = .next (s.trap code 0) := by
  show Host.Outcome.next (s.issue _) = _
  rw [State.issue_clear _ clear, h]

theorem exec_csrrd_answers (clear : Says.Clear s) (h : csrExists c.toNat = true)
    (put : (s.csrAcquire c.toNat).putReg d (s.csrRead c.toNat) = .ok (s.csrRead c.toNat) s2) :
    exec (.csrrd d c) s = .next (Says.goesOn s2 s2) := by
  show Host.Outcome.next (s.issue _) = _
  rw [State.issue_clear _ clear, State.csrTrap_exists h]
  exact congrArg Host.Outcome.next (State.finish_ok put)

theorem State.csrStep_trap {code : BitVec 6} {f : Word → Word → State → State} (free : Says.Free s) (h : s.csrTrap n = some code) :
    s.csrStep d a n f = s.trap code 0 := by
  obtain ⟨clear, noTx⟩ := free
  rw [State.csrStep, State.unsafeIssue_free _ clear noTx, h]

/-- The old value goes to d after the write, with the registers read. -/
theorem State.csrStep_reads {f : Word → Word → State → State} (free : Says.Free s) (h : csrExists n = true)
    (reads : Says.Reads s [a] [x] s1) (put : (f (s1.csrRead n) x s1).putReg d (s1.csrRead n) = .ok (s1.csrRead n) s2) :
    s.csrStep d a n f = Says.goesOn s2 s2 := by
  obtain ⟨clear, noTx⟩ := free
  rw [State.csrStep, State.unsafeIssue_free _ clear noTx, State.csrTrap_exists h]
  dsimp only
  rw [State.withRegs_reads reads]
  exact State.finish_ok put

/-- Settles O17: each of the four instructions meets the check of its number first. -/
theorem csrReach : Obligations.CsrReach := by
  unfold Obligations.CsrReach
  intro s d a c i free form part debug unnamed
  have trap := State.csrTrap_none_exists part debug unnamed
  have traps : exec i s = .next (s.trap (if c.toNat < 0x800 then tCSRNONE else tCSRPRIV) 0) := by
    rcases form with rfl | rfl | rfl | rfl
    · exact exec_csrrd_trap free.1 trap
    · exact congrArg Host.Outcome.next (State.csrStep_trap free trap)
    · exact congrArg Host.Outcome.next (State.csrStep_trap free trap)
    · exact congrArg Host.Outcome.next (State.csrStep_trap free trap)
  exact traps

/-- Settles O18: the four instructions at a number that names a CSR. -/
theorem csrResults : Obligations.CsrResults := by
  unfold Obligations.CsrResults
  refine ⟨fun d c s s2 clear named h1 h2 h3 put => ?_, fun d s s2 clear c form put => ?_,
    fun d a c s x s1 s2 free named reads => ⟨fun put => ?_, fun writable put => ?_, fun writable put => ?_⟩⟩
  · have plain : s.csrAcquire c.toNat = s := if_neg (by simp [h1, h2, h3])
    exact exec_csrrd_answers clear named (by rw [plain]; exact put)
  · have ring : s.csrAcquire c.toNat = s.acquire 3 ∧ csrExists c.toNat = true := by
      rcases form with rfl | rfl | rfl <;> exact ⟨rfl, rfl⟩
    exact exec_csrrd_answers clear ring.2 (by rw [ring.1]; exact put)
  · exact congrArg Host.Outcome.next (State.csrStep_reads free named reads put)
  · exact congrArg Host.Outcome.next (State.csrStep_reads free named reads (by rw [if_neg writable]; exact put))
  · exact congrArg Host.Outcome.next (State.csrStep_reads free named reads (by rw [if_neg writable]; exact put))

/-! ## What a write leaves -/

/-- A field taken from a word and put back where it stood is the word under the field's mask. -/
theorem field_extractLsb' (v : Word) (lo n : Nat) :
    field lo n (v.extractLsb' lo n).toNat = v &&& (BitVec.ofNat 64 (2 ^ n - 1) <<< lo) := by
  have low : (v.extractLsb' lo n).toNat % 2 ^ n = v.toNat >>> lo &&& (2 ^ n - 1) := by
    rw [Nat.mod_eq_of_lt (v.extractLsb' lo n).isLt, Nat.and_two_pow_sub_one_eq_mod, BitVec.extractLsb'_toNat]
  have shifted : BitVec.ofNat 64 (v.toNat >>> lo) = v >>> lo := BitVec.eq_of_toNat_eq (by
    rw [BitVec.toNat_ofNat, BitVec.toNat_ushiftRight, Nat.mod_eq_of_lt (BitVec.toNat_ushiftRight v lo ▸ (v >>> lo).isLt)])
  rw [field, low, ofNat_mul_two_pow, BitVec.ofNat_and, shifted, BitVec.shiftLeft_and_distrib]
  ext i hi
  by_cases hlo : i < lo
  · simp [BitVec.getElem_shiftLeft, hlo]
  · simp [BitVec.getElem_shiftLeft, BitVec.getElem_ushiftRight, hlo, Nat.add_sub_cancel' (Nat.le_of_not_lt hlo), BitVec.getLsbD_eq_getElem hi]

theorem bit_eq_and_twoPow (v : Word) (i : Nat) : bit i (v.getLsbD i) = v &&& BitVec.twoPow 64 i := by
  rw [BitVec.and_twoPow, BitVec.twoPow_eq, ← ofNat_mul_two_pow, Nat.one_mul]
  rfl

/-- A bit that clears where a word has a one (R85). -/
theorem bit_cleared (b : Bool) (v : Word) {i : Nat} (h : i < 64) : bit i (b && !v.getLsbD i) = bit i b &&& ~~~v := by
  have not : (~~~v).getLsbD i = !v.getLsbD i := by simp [h]
  cases b with
  | false => exact (BitVec.zero_and).symm
  | true =>
    have all : bit i true = BitVec.twoPow 64 i := by rw [BitVec.twoPow_eq, ← ofNat_mul_two_pow, Nat.one_mul]; rfl
    rw [Bool.true_and, ← not, bit_eq_and_twoPow, all, BitVec.and_comm]

/-- HOLD_LIM takes at least 1 and at most 10,000 (R287). -/
theorem holdLimit_toNat (v : Word) : (holdLimit v).toNat = max 1 (min 10000 (v.toNat % 2 ^ 14)) := by
  have limit : (v.extractLsb' 0 14).toNat = v.toNat % 2 ^ 14 := by rw [BitVec.extractLsb'_toNat, Nat.shiftRight_zero]
  unfold holdLimit
  rw [limit]
  split
  · show 1 = _
    omega
  · split
    · show 10000 = _
      omega
    · omega

theorem Ring.write_eq (r : Ring) (v : Word) : r.write v = Says.ringWritten r v := ite_not ..

/-- Settles O19, register by register: a write keeps the writable fields, and the register reads them back. -/
theorem csrReadBack : Obligations.CsrReadBack := by
  unfold Obligations.CsrReadBack
  refine ⟨fun s v => ⟨?_, ?_, ?_, ?_, ?_, ?_, ?_, ?_, ?_, ?_⟩, fun s => ⟨?_, ?_, ?_, ?_⟩⟩
  · exact congrArg Core.scr (s.setCore_core _)
  · exact congrArg Core.trapPc (s.setCore_core _)
  · exact congrArg Core.faddr (s.setCore_core _)
  · exact congrArg Core.timecmp (s.setCore_core _)
  · exact (congrArg (fun c => field 2 62 (Core.trapVec c).toNat) (s.setCore_core _)).trans (field_extractLsb' v 2 62)
  · exact (congrArg (fun c => field 0 7 (Core.intEn c).toNat) (s.setCore_core _)).trans (field_extractLsb' v 0 7)
  · exact (congrArg (fun c => field 2 62 (Core.txFall c).toNat) (s.setCore_core _)).trans (field_extractLsb' v 2 62)
  · refine (congrArg Core.trapStat (s.setCore_core _)).trans ?_
    show bit 0 (v.getLsbD 0) ||| bit 1 (v.getLsbD 1) ||| bit 2 (v.getLsbD 2) = v &&& 7
    simp only [bit_eq_and_twoPow, ← BitVec.and_or_distrib_left]
    rfl
  · refine (congrArg (fun c => field 0 14 (Core.holdLim c).toNat) (s.setCore_core _)).trans ?_
    show field 0 14 (holdLimit v).toNat = _
    rw [field, Nat.mod_eq_of_lt (holdLimit v).isLt, holdLimit_toNat, Nat.pow_zero, Nat.mul_one]
  · refine (congrArg Core.arithStat (s.setCore_core _)).trans ?_
    show bit 0 (s.core.dz && !v.getLsbD 0) ||| bit 1 (s.core.ovf && !v.getLsbD 1) = (bit 0 s.core.dz ||| bit 1 s.core.ovf) &&& ~~~v
    rw [bit_cleared _ _ (by decide), bit_cleared _ _ (by decide), ← BitVec.and_or_distrib_right]
  · show Host.Outcome.next (s.setCore { s.core with rclq := s.core.rclq.write s.input.val }) = _
    rw [Ring.write_eq]; rfl
  · show Host.Outcome.next (s.setCore { s.core with fq := s.core.fq.write s.input.val }) = _
    rw [Ring.write_eq]; rfl
  · show Host.Outcome.next (s.setCore (s.core.writeRlog s.input.val)) = _
    rw [Core.writeRlog, Ring.write_eq, ite_not]; rfl
  · rfl

end Sys2Proof.Machine
end

section
/-! SUPPORT and the proofs of O4 and O7: what a load or store does with its registers read, by where its address leads. -/

namespace Sys2Proof.Machine

variable {s s1 s2 s3 : State} {rs : List Reg} {ws : List Word} {ea : List Word → Word} {d : Reg} {n home : Nat} {sx : Bool}
  {code : BitVec 6} {i : Instr} {w : Word} {need : Need}

/-! ## The forms (R91, R92) -/

theorem eaImm_eq (k : BitVec 16) : (fun ws => ws.getD 0 0 + immW k) = Says.eaImm k :=
  funext fun ws => (ofInt_toInt_add (ws.getD 0 0) k).symm

theorem eaIdx_eq (k : BitVec 2) : (fun ws => indexed (ws.getD 0 0) (ws.getD 1 0) k) = Says.eaIdx k :=
  funext fun ws => (indexed_eq (ws.getD 0 0) (ws.getD 1 0) k).symm

/-- Each load is the one load of its row's address, size and extension. -/
theorem exec_load (h : Says.loadOf i = some (rs, ea, d, n, sx)) (s : State) : exec i s = .next (s.load rs ea d n sx) := by
  unfold Says.loadOf at h
  split at h
  all_goals cases h
  case h_8 | h_9 =>
    rw [← eaIdx_eq]
    rfl
  all_goals
    rw [← eaImm_eq]
    rfl

/-- Each store is the one store of its row's address and size. -/
theorem exec_store (h : Says.storeOf i = some (rs, ea, n)) (s : State) : exec i s = .next (s.store rs ea n) := by
  unfold Says.storeOf at h
  split at h
  all_goals cases h
  case h_5 =>
    rw [← eaIdx_eq]
    rfl
  all_goals
    rw [← eaImm_eq]
    rfl

/-! ## The checks (R93) -/

theorem high_bits_eq_zero_iff : w.extractLsb' 57 7 = 0 ↔ w.toNat < 2 ^ 57 := by
  rw [← BitVec.toNat_inj, BitVec.extractLsb'_toNat, Nat.shiftRight_eq_div_pow]
  have := w.isLt
  simp
  omega

theorem State.locate_high (h : 2 ^ 57 ≤ w.toNat) : s.locate w n need = .trap tADDR :=
  if_pos fun e => Nat.not_lt.2 h (high_bits_eq_zero_iff.1 e)

theorem State.locate_misaligned (h : w.toNat < 2 ^ 57) (odd : w.toNat % n ≠ 0) : s.locate w n need = .trap (alignCause need) := by
  rw [State.locate, if_neg (not_not.2 (high_bits_eq_zero_iff.2 h)), if_pos odd]

theorem State.locate_aligned (h : w.toNat < 2 ^ 57) (even : w.toNat % n = 0) : s.locate w n need = s.locateAligned w n need := by
  rw [State.locate, if_neg (not_not.2 (high_bits_eq_zero_iff.2 h)), if_neg (not_not.2 even)]

theorem State.locateAligned_nowhere (h : windowOf w.toNat = none) : s.locateAligned w n need = .trap tADDR := by
  rw [State.locateAligned, h]

theorem State.locateAligned_denied {x : Window} (h : windowOf w.toNat = some x) (hx : x ≠ .translated)
    (denied : s.granted s.pid x w.toNat n (need != .read) = false) : s.locateAligned w n need = .trap tADDR := by
  rw [State.locateAligned, h]
  cases x
  case translated => exact absurd rfl hx
  all_goals simp [denied]

theorem State.locateAligned_fault {r : XReason} (h : windowOf w.toNat = some .translated)
    (fault : s.translate s.pid s.core.tlb w.toNat need = .error r) : s.locateAligned w n need = .trap (xlateCause need) := by
  rw [State.locateAligned, h]
  simp only [fault]

theorem lt_of_translated {a : Nat} (h : windowOf a = some .translated) : a < 2 ^ 57 := by
  unfold windowOf at h
  split at h
  · next low => exact Nat.lt_trans low (by decide)
  · repeat' split at h
    all_goals cases h

/-! ## Loads and stores with their registers read -/

/-- What a load meets when its address is found to trap. -/
theorem State.load_traps (clear : Says.Clear s) (room : s.core.loads.length < 16) (acq : s.core.acquiring = false)
    (reads : Says.Reads s rs ws s1) (reserved : s1.reserve d = .ok w s2) (h : s2.locate (ea ws) n .read = .trap code) :
    s.load rs ea d n sx = s.trap code (ea ws) := by
  rw [State.load, State.issue_reads clear reads]
  simp [acq, Nat.not_le.2 room, reserved, h]

/-- What a store meets when its address is found to trap. -/
theorem State.store_traps (clear : Says.Clear s) (room : s.core.stores.length < 32) (acq : s.core.acquiring = false)
    (reads : Says.Reads s rs ws s1) (h : s1.locate (ea ws) n .write = .trap code) : s.store rs ea n = s.trap code (ea ws) := by
  rw [State.store, State.issue_reads clear reads]
  simp [acq, Nat.not_le.2 room, h]

/-- A load of this module's memory joins the outstanding ones: no region is open, the detector is off, no atomic stands there. -/
theorem State.load_leaves (free : Says.Free s) (room : s.core.loads.length < 16) (acq : s.core.acquiring = false)
    (reads : Says.Reads s rs ws s1) (reserved : s1.reserve d = .ok w s2) (h : s2.locate (ea ws) n .read = .at_ home s3)
    (mode : s3.core.cmode = false) (tx : s3.core.tx = none) (atomic : s3.core.atomicOn home n = false) :
    s.load rs ea d n sx =
      (s3.setCore (s3.core.pushLoad { s3.core.newLoad d (ea ws) home n sx with low := s.core.behind rs })).retire := by
  rw [State.load, State.issue_reads free.1 reads]
  simp [acq, Nat.not_le.2 room, reserved, h, atomic, State.coreCheck, mode, State.txTouch, tx]

/-- A store of this module's memory joins the outstanding ones likewise. -/
theorem State.store_leaves (free : Says.Free s) (room : s.core.stores.length < 32) (acq : s.core.acquiring = false)
    (reads : Says.Reads s rs ws s1) (h : s1.locate (ea ws) n .write = .at_ home s2)
    (mode : s2.core.cmode = false) (tx : s2.core.tx = none) (atomic : s2.core.atomicOn home n = false) :
    s.store rs ea n = (s2.setCore (s2.core.pushStore (.plain (ea ws) home (leBytes n (ws.getLastD 0).toNat) none))).retire := by
  rw [State.store, State.issue_reads free.1 reads]
  simp [acq, Nat.not_le.2 room, h, atomic, State.coreCheck, State.coreMark, mode, State.txTouch, tx, Core.holdStore]

/-! ## What reading and locating leave -/

theorem reads_frame (h : Says.Reads s rs ws s1) : ReadFrame s s1 := by
  induction rs generalizing s ws with
  | nil =>
    obtain ⟨-, rfl⟩ := h
    exact .refl _
  | cons r rs ih =>
    obtain ⟨w, ws', t, -, read, rest⟩ := h
    exact (State.getReg_frame read).trans (ih rest)

theorem isMb_false (noMb : ∀ r : Reg, 28 ≤ r.toNat → s.core.isMb r = false) (r : Reg) : s.core.isMb r = false := by
  by_cases hr : 28 ≤ r.toNat
  · exact noMb r hr
  · simp [Core.isMb, hr]

/-- With no mailbox bound, reading registers changes nothing (R75). -/
theorem reads_same (noMb : ∀ r : Reg, 28 ≤ r.toNat → s.core.isMb r = false) (h : Says.Reads s rs ws s1) : s1 = s := by
  have plain := isMb_false noMb
  induction rs generalizing ws with
  | nil => exact h.2
  | cons r rs ih =>
    obtain ⟨w, ws', t, -, read, rest⟩ := h
    have same : t = s := by
      simp only [State.getReg, plain, Bool.false_eq_true, if_false] at read
      split at read
      · cases read; rfl
      · split at read
        · cases read
        · split at read
          · cases read
          · cases read; rfl
    exact ih (same ▸ rest)

theorem locate_cores (h : s.locate w n need = .at_ home s1) : s1.core.cmode = s.core.cmode ∧ s1.core.tx = s.core.tx := by
  obtain ⟨tlb, rfl⟩ := State.locate_frame h
  simp

/-! ## The obligations -/

@[simp] theorem Core.pushStore_pc (c : Core) (x : StoreOp) : (c.pushStore x).pc = c.pc := rfl
@[simp] theorem Core.pushLoad_pc (c : Core) (l : LoadOp) : (c.pushLoad l).pc = c.pc := by
  unfold Core.pushLoad
  split
  · split <;> rfl
  · rfl

/-- A load joins the outstanding ones as the statements have it (R80, R101). -/
theorem pushLoad_eq_withLoad {c : LoadOp} (h : s.core.tx = none) : s.setCore (s.core.pushLoad c) = Says.withLoad s c := by
  cases hm : c.mbx with
  | true => simp [Core.pushLoad, Says.withLoad, hm, h, Says.withCore, State.setCore]
  | false => simp [Core.pushLoad, Says.withLoad, hm, h, Says.withCore, State.setCore, Core.supersede]

/-- Settles O4: the checks passed, the access joins the outstanding ones. -/
theorem accessesIssue : Obligations.AccessesIssue := by
  unfold Obligations.AccessesIssue
  refine ⟨fun i rs ea d n sx hi s ws s1 s2 s3 home free mode room acq reads reserved located atomic => ?_,
    fun i rs ea n hi s ws s1 s2 home free mode room acq reads located atomic => ?_⟩
  · have frame := (reads_frame reads).trans (State.reserve_frame reserved)
    obtain ⟨mode3, tx3⟩ := locate_cores located
    rw [frame.cmode, mode] at mode3
    rw [frame.tx, free.2] at tx3
    rw [exec_load hi, State.load_leaves free room acq reads reserved located mode3 tx3 atomic, ← goesOn_setCore (Core.pushLoad_pc ..), pushLoad_eq_withLoad tx3]
    rfl
  · have frame := reads_frame reads
    obtain ⟨mode2, tx2⟩ := locate_cores located
    rw [frame.cmode, mode] at mode2
    rw [frame.tx, free.2] at tx2
    rw [exec_store hi, State.store_leaves free room acq reads located mode2 tx2 atomic, leBytes_toNat, ← goesOn_setCore (Core.pushStore_pc ..)]
    rfl

/-- Settles O7: the first of the four checks that fails decides. -/
theorem accessChecks : Obligations.AccessChecks := by
  unfold Obligations.AccessChecks
  intro i rs ea n wr form _ s ws s1 free acq loads stores reads noMb
  obtain rfl := reads_same noMb reads
  have traps {code} (h : s1.locate (ea ws) n (if wr then .write else .read) = .trap code) :
      exec i s1 = .next (s1.trap code (ea ws)) := by
    rcases form with ⟨⟨d, sx, hi⟩, rfl⟩ | ⟨hi, rfl⟩
    · have reserved : s1.reserve d = .ok 0 s1 := State.reserve_plain (.inr (isMb_false noMb d))
      rw [exec_load hi, State.load_traps free.1 loads acq reads reserved h]
    · rw [exec_store hi, State.store_traps free.1 stores acq reads h]
  refine ⟨fun high => traps (State.locate_high high), fun low odd => ?_, fun low even nowhere => ?_, fun low even x hx hw denied => ?_,
    fun even translated r fault => ?_⟩
  · rw [traps (State.locate_misaligned low odd)]
    cases wr <;> rfl
  · exact traps ((State.locate_aligned low even).trans (State.locateAligned_nowhere nowhere))
  · exact traps ((State.locate_aligned low even).trans (State.locateAligned_denied hx hw (by cases wr <;> exact denied)))
  · rw [traps ((State.locate_aligned (lt_of_translated translated) even).trans (State.locateAligned_fault translated fault))]
    cases wr <;> rfl

end Sys2Proof.Machine
end

section
/-! SUPPORT and the proof of O5: a load performed takes its bytes, a store performed brings its own. -/

namespace Sys2Proof.Machine

variable {s s1 : State} {i j k : Nat} {l : LoadOp}

/-! ## Bytes and numbers (R6, R91) -/

theorem leNat_append (bs : List Byte) (b : Byte) : leNat (bs ++ [b]) = leNat bs + b.toNat * 256 ^ bs.length := by
  induction bs with
  | nil => simp [leNat]
  | cons c bs ih =>
    rw [List.cons_append, leNat, leNat, ih, List.length_cons, Nat.pow_succ]
    ring

theorem leNat_map_range (f : Nat → Byte) (n : Nat) : leNat ((List.range n).map f) = Says.littleEndian f n := by
  induction n with
  | zero => rfl
  | succ n ih => rw [List.range_succ, List.map_append, List.map_singleton, leNat_append, ih, Says.littleEndian]; simp

theorem extend_eq_loaded (n : Nat) (sx : Bool) (v : Nat) : extend n sx v = Says.loaded n sx v := by
  cases sx with
  | false => rfl
  | true =>
    by_cases h : v < 2 ^ (8 * n - 1)
    · simp [extend, Says.loaded, h, Nat.not_le.2 h]
    · simp [extend, Says.loaded, h, Nat.not_lt.1 h]

/-- What a load of this module's memory brings, performed now (R91, R94). -/
def LoadOp.valueNow (l : LoadOp) (s : State) : Word :=
  Says.loaded l.size l.sext (Says.littleEndian (fun m => Says.seen s l.older (l.home + m)) l.size)

theorem LoadOp.valueNow_eq (l : LoadOp) (s : State) :
    extend l.size l.sext (leNat (s.bytesUnder (s.core.stores.take l.older) l.home l.size)) = l.valueNow s := by
  rw [extend_eq_loaded, State.bytesUnder, leNat_map_range]; rfl

/-! ## Loads performed (R94, R333) -/

/-- A plain load of this module's memory is performed: it takes its value, and the core has read its dword. -/
theorem State.performLoad_plain (h : s.core.loads[i]? = some l) (val : l.val = none) (here : l.isRemote = false) (rmw : l.rmw = none)
    (check : l.check = false) : s.performLoad i = s.setCore { s.core with
      ord := s.core.ord.read l.home s.writes, loads := s.core.loads.modify i fun x => { x with val := some (l.valueNow s) } } := by
  have unseen : s.coreSee l.check l.home l.size = s := by rw [State.coreSee, check]; rfl
  unfold State.performLoad
  rw [h]
  simp only [val, here, rmw, unseen, l.valueNow_eq s, State.reads, State.setCore_core, State.setCore_setCore]
  rfl

/-- A load that has its value, or that another module answers, is not performed again. -/
theorem State.performLoad_done (h : ∀ l, s.core.loads[i]? = some l → l.val.isSome = true ∨ l.isRemote = true) : s.performLoad i = s := by
  unfold State.performLoad
  split
  · rfl
  · next l hl => rw [if_pos (by simpa using h l hl)]

/-- The load once it is performed, if it is one that this module performs. -/
def LoadOp.performed (s : State) (l : LoadOp) : LoadOp :=
  if l.val.isSome || l.isRemote then l else { l with val := some (l.valueNow s) }

theorem LoadOp.performed_of_pending (s : State) (val : l.val = none) (here : l.isRemote = false) :
    l.performed s = { l with val := some (l.valueNow s) } := by simp [LoadOp.performed, val, here]

theorem LoadOp.performed_performed (s : State) (l : LoadOp) : (l.performed s).performed s = l.performed s := by
  by_cases h : (l.val.isSome || l.isRemote) = true
  · simp [LoadOp.performed, h]
  · simp [LoadOp.performed, h]

/-- A load's value does not depend on which loads have been performed. -/
theorem LoadOp.performed_setCore {c : Core} (h : c.stores = s.core.stores) (l : LoadOp) :
    l.performed (s.setCore c) = l.performed s := by
  simp [LoadOp.performed, LoadOp.valueNow, Says.seen, h]

theorem LoadOp.performed_kind (s : State) (l : LoadOp) : (l.performed s).rmw = l.rmw ∧ (l.performed s).check = l.check ∧
    (l.performed s).dest = l.dest ∧ (l.performed s).mbx = l.mbx ∧ (l.performed s).ea = l.ea := by
  unfold LoadOp.performed
  split <;> exact ⟨rfl, rfl, rfl, rfl, rfl⟩

/-- The loads of some places are performed: they and what the core has read change, and nothing else. -/
def LoadsPerformed (js : List Nat) (s s' : State) : Prop :=
  ∃ ord loads, s' = s.setCore { s.core with ord, loads } ∧
    ∀ j, loads[j]? = s.core.loads[j]?.map fun l => if j ∈ js then l.performed s else l

theorem LoadsPerformed.refl (s : State) : LoadsPerformed [] s s :=
  ⟨s.core.ord, s.core.loads, s.setCore_self.symm, by simp⟩

/-- Every load of the acting core is a plain one that the detector does not check. -/
def PlainLoads (s : State) : Prop := ∀ l ∈ s.core.loads, l.rmw = none ∧ l.check = false

theorem LoadsPerformed.plain {js : List Nat} (h : LoadsPerformed js s s1) (plain : PlainLoads s) : PlainLoads s1 := by
  obtain ⟨ord, loads, rfl, at_⟩ := h
  intro x hx
  rw [State.setCore_core] at hx
  obtain ⟨j, hj⟩ := List.mem_iff_getElem?.1 hx
  rw [at_ j] at hj
  obtain ⟨l, hl, rfl⟩ := Option.map_eq_some_iff.1 hj
  have := plain l (List.mem_iff_getElem?.2 ⟨j, hl⟩)
  have kind := l.performed_kind s
  split
  · exact ⟨kind.1.trans this.1, kind.2.1.trans this.2⟩
  · exact this

/-- Performing one load of a core that has only plain ones. -/
theorem LoadsPerformed.single (plain : PlainLoads s) (i : Nat) : LoadsPerformed [i] s (s.performLoad i) := by
  by_cases done : ∀ l, s.core.loads[i]? = some l → l.val.isSome = true ∨ l.isRemote = true
  · rw [State.performLoad_done done]
    refine ⟨s.core.ord, s.core.loads, s.setCore_self.symm, fun j => ?_⟩
    cases hj : s.core.loads[j]? with
    | none => rfl
    | some l =>
      have same (e : j = i) : l.performed s = l := if_pos (by simpa using done l (e ▸ hj))
      by_cases e : j = i
      · simp [e, same e]
      · simp [e]
  · simp only [not_forall, not_or, Bool.not_eq_true, Option.isSome_eq_false_iff, Option.isNone_iff_eq_none] at done
    obtain ⟨l, hl, val, here⟩ := done
    obtain ⟨rmw, check⟩ := plain l (List.mem_iff_getElem?.2 ⟨i, hl⟩)
    refine ⟨_, _, State.performLoad_plain hl val here rmw check, fun j => ?_⟩
    rw [List.getElem?_modify]
    by_cases e : i = j
    · subst e
      simp [hl, LoadOp.performed_of_pending s val here]
    · simp [e, Ne.symm e]

/-- Performing loads one after the other. -/
theorem LoadsPerformed.foldl (js : List Nat) (plain : PlainLoads s) : LoadsPerformed js s (js.foldl (fun s j => s.performLoad j) s) := by
  induction js generalizing s with
  | nil => exact .refl s
  | cons i js ih =>
    have first := LoadsPerformed.single plain i
    obtain ⟨ord2, loads2, rest, at2⟩ := ih (first.plain plain)
    obtain ⟨ord1, loads1, one, at1⟩ := first
    have same (x : LoadOp) : x.performed (s.performLoad i) = x.performed s := by
      rw [one]
      exact x.performed_setCore (c := { s.core with ord := ord1, loads := loads1 }) rfl
    have between : (s.performLoad i).core.loads = loads1 := by rw [one, State.setCore_core]
    refine ⟨ord2, loads2, ?_, fun j => ?_⟩
    · rw [List.foldl_cons, rest, one, State.setCore_core, State.setCore_setCore]
    · rw [at2 j, between, at1 j]
      cases s.core.loads[j]? with
      | none => rfl
      | some l =>
        simp only [Option.map_some, same, List.mem_cons, List.not_mem_nil, or_false]
        by_cases hj : j ∈ js <;> by_cases e : j = i <;> simp [hj, e, LoadOp.performed_performed]

/-- A load that shares a byte with one of the ranges stands before them (R94). -/
theorem mem_loadsBefore {loads : List LoadOp} {p : LoadOp → Bool} {ranges : List (Nat × Nat)} {n : Nat} (hj : loads[j]? = some l)
    (here : l.isRemote = false) (hp : p l = true) (hr : ∃ r ∈ ranges, meets l.home l.size r.1 r.2 = true) (hn : j < n) :
    j ∈ loadsBefore loads p ranges n := by
  induction n generalizing ranges with
  | zero => cases hn
  | succ n ih =>
    have later {rs : List (Nat × Nat)} (hrs : ∃ r ∈ rs, meets l.home l.size r.1 r.2 = true) (hne : j ≠ n) :
        j ∈ loadsBefore loads p rs n := ih hrs (Nat.lt_of_le_of_ne (Nat.le_of_lt_succ hn) hne)
    unfold loadsBefore
    by_cases e : j = n
    · subst e
      rw [hj]
      simp [here, hp, List.any_eq_true.2 hr]
    · split
      · exact later hr e
      · split
        · obtain ⟨r, hmem, hm⟩ := hr
          exact List.mem_append_left _ (later ⟨r, List.mem_cons_of_mem _ hmem, hm⟩ e)
        · exact later hr e

/-- With every load before it performed, load `i` alone is performed. -/
theorem State.performTo_eq (hi : s.core.loads[i]? = some l)
    (before : ∀ j ∈ loadsBefore s.core.loads (fun _ => true) [(l.home, l.size)] i, ∀ p, s.core.loads[j]? = some p → p.val.isSome = true) :
    s.performTo i = s.performLoad i := by
  have idle : ∀ js : List Nat, (∀ j ∈ js, ∀ p, s.core.loads[j]? = some p → p.val.isSome = true) →
      js.foldl (fun s j => s.performLoad j) s = s := by
    intro js
    induction js with
    | nil => exact fun _ => rfl
    | cons j js ih =>
      intro h
      rw [List.foldl_cons, State.performLoad_done fun p hp => .inl (h j List.mem_cons_self p hp)]
      exact ih fun k hk => h k (List.mem_cons_of_mem j hk)
  unfold State.performTo State.performBefore
  rw [hi]
  dsimp only
  rw [idle _ before]

/-! ## A store's bytes (R7, R101) -/

theorem keepRos_length (m : List Host.Cell) (a : Nat) (bs : List Byte) : (keepRos m a bs).length = bs.length := by
  induction bs generalizing a with
  | nil => rfl
  | cons b bs ih => simp [keepRos, ih]

theorem keepRos_getD (m : List Host.Cell) (a k : Nat) (bs : List Byte) (h : k < bs.length) :
    (keepRos m a bs).getD k 0 = keepRo (a + k) (memGet m (a + k)) (bs.getD k 0) := by
  induction bs generalizing a k with
  | nil => cases h
  | cons b bs ih =>
    cases k with
    | zero => rfl
    | succ k =>
      have := ih (a + 1) k (Nat.lt_of_succ_lt_succ h)
      simpa [keepRos, Nat.add_assoc, Nat.add_comm 1 k] using this

/-- An access's bytes stand in memory, but for what is read only (R7). -/
theorem stored_of_mem {a : Nat} {bs : List Byte} (wf : Memory.wf s = true) (h : s1.mem = memSets s.mem a (keepRos s.mem a bs)) :
    Says.Stored s s1 a bs := by
  intro k
  rw [h, memGet_memSets a _ k wf, keepRos_length]
  split
  · next inside =>
    have hk : a + (k - a) = k := Nat.add_sub_cancel' inside.1
    rw [keepRos_getD _ _ _ _ (by omega), hk]
  · rfl

/-! ## The obligation -/

/-- The load that returns, where its partition runs and its home is granted (R97). -/
structure Returns (s : State) (k : Nat) (l : LoadOp) : Prop where
  load : s.core.loads[k]? = some l
  index : s.core.loadIndex s.input.index = k
  here : l.isRemote = false
  running : s.haltedCore = false
  granted : s.homeOk s.pid l.home l.size = true

/-- Its data reaches its destination. -/
theorem exec_loadReply_data (h : Returns s k l) (data : s.input.load = .data) (mbx : l.mbx = false) (val : l.val = none)
    (rmw : l.rmw = none) (check : l.check = false)
    (before : ∀ j ∈ loadsBefore s.core.loads (fun _ => true) [(l.home, l.size)] k, ∀ p, s.core.loads[j]? = some p → p.val.isSome = true) :
    exec .loadReply s = .next (State.deliver (s.setCore { s.core with
      loads := s.core.loads.eraseIdx k, ord := s.core.ord.read l.home s.writes }) l.dest false l.place (l.valueNow s)) := by
  obtain ⟨load, index, here, running, granted⟩ := h
  have performed := State.performLoad_plain load val here rmw check
  have erased : (s.core.loads.modify k fun x => { x with val := some (l.valueNow s) }).eraseIdx k = s.core.loads.eraseIdx k :=
    List.eraseIdx_modify_of_eq ..
  show execLoadReply s = _
  simp only [execLoadReply, index, load, running, granted, data, here, mbx, State.performTo_eq load before, performed, erased,
    State.setCore_core, State.setCore_setCore, List.getElem?_modify_eq, Bool.not_true, Bool.and_false, Bool.false_eq_true, if_false]
  rfl

/-- An uncorrectable error fails it (R97). -/
theorem exec_loadReply_ecc (h : Returns s k l) (ecc : s.input.load = .ecc) (noTx : s.core.tx = none) :
    exec .loadReply s = .next (State.poisonReg (s.setCore { s.core with loads := s.core.loads.eraseIdx k }) l) := by
  obtain ⟨load, index, here, running, granted⟩ := h
  show execLoadReply s = _
  simp [execLoadReply, index, load, running, granted, ecc, here, State.failLoad, noTx]

theorem LoadsPerformed.mem {js : List Nat} (h : LoadsPerformed js s s1) : s1.mem = s.mem := by
  obtain ⟨ord, loads, rfl, -⟩ := h
  rfl

/-- A core's own write leaves the core as it is. -/
theorem State.writeNear_own_core (s : State) (near : Option (BitVec 2 × Nat)) (a : Nat) (bs : List Byte) :
    (s.writeNear (some s.cur) near a bs).core = s.core :=
  State.conflicts_own { s with mem := memSets s.mem a bs, writes := s.writes + 1, olds := s.replaced (some s.cur) near a bs.length ++ s.olds }
    (linesOf a bs.length)

/-- A plain store of this module's memory is performed: earlier loads of its bytes first, then its bytes, and it leaves the outstanding
stores (R94, R101). -/
theorem State.performStore_plain {x : StoreOp} (here : x.isRemote = false) (rmw : x.rmw = none) (plain : PlainLoads s) :
    ∃ s1, LoadsPerformed (loadsBefore s.core.loads (fun l => decide (l.older ≤ k)) [(x.home, Nat.max 1 x.bytes.length)]
        s.core.loads.length) s s1 ∧
      (s.performStore k x).core = s1.core.dropStore k ∧ (s.performStore k x).mem = memSets s.mem x.home (keepRos s.mem x.home x.bytes) ∧
      (s.performStore k x).regions = s.regions ∧ (s.performStore k x).tiles = s.tiles ∧ (s.performStore k x).parts = s.parts ∧
      (s.performStore k x).bins = s.bins := by
  have span : x.span = Nat.max 1 x.bytes.length := by simp [StoreOp.span, rmw]
  have performed := LoadsPerformed.foldl (loadsBefore s.core.loads (fun l => decide (l.older ≤ k))
    [(x.home, Nat.max 1 x.bytes.length)] s.core.loads.length) plain
  refine ⟨_, performed, ?_⟩
  obtain ⟨ord, loads, one, -⟩ := performed
  simp only [State.performStore, here, rmw, span, State.performBefore, one, Bool.false_eq_true, if_false]
  cases x.mark
  all_goals exact ⟨(State.writeNear_own_core ..).trans (State.setCore_core ..), rfl, rfl, rfl, rfl, rfl⟩

/-- What comes back of a store that is performed, where its partition runs and its home is granted (R101). -/
theorem exec_storePerformed_plain {x : StoreOp} (hx : s.core.stores[k]? = some x) (index : s.core.storeIndex s.input.index = k)
    (running : s.haltedCore = false) (via : x.via = none) (granted : s.homeGone x = false) (near : s.input.near = 0) :
    exec .storePerformed s = .next (s.performStore k x) := by
  show execStorePerformed s = _
  simp [execStorePerformed, index, hx, running, granted, via, State.viaLost, near]

/-- Settles O5: what a load brings where it goes, and what a store leaves behind it. -/
theorem accessesComplete : Obligations.AccessesComplete := by
  unfold Obligations.AccessesComplete
  refine ⟨fun s k l load index here noTx running mbx val rmw check granted before => ?_,
    fun s k x hx index here running rmw via granted near plain wf => ?_⟩
  · have returns : Returns s k l := ⟨load, index, here, running, granted⟩
    refine ⟨fun data => ?_, fun ecc => ?_⟩
    · rw [exec_loadReply_data returns data mbx val rmw check before]
      by_cases zero : l.dest = 0
      · simp only [State.deliver, zero, if_true]; rfl
      · simp only [State.deliver, zero, if_false, Bool.false_eq_true, State.setCore_core, State.setCore_setCore]; rfl
    · rw [exec_loadReply_ecc returns ecc noTx]
      by_cases zero : l.dest = 0
      · simp only [State.poisonReg, zero, if_true]; rfl
      · simp only [State.poisonReg, zero, mbx, if_false, Bool.false_eq_true, State.setCore_core, State.setCore_setCore]; rfl
  · obtain ⟨s1, ⟨ord, loads, rfl, at_⟩, core, mem, same⟩ := State.performStore_plain (k := k) here rmw plain
    rw [State.setCore_core] at core
    refine ⟨_, exec_storePerformed_plain hx index running via granted near, stored_of_mem wf mem, ?_, ?_,
      fun j l hl val here older meet => ?_, same⟩
    · rw [core]; rfl
    · rw [core]
      refine (List.map_map ..).trans (List.ext_getElem? fun j => ?_)
      rw [List.getElem?_map, List.getElem?_map, at_ j, Option.map_map]
      refine congrArg (Option.map · _) (funext fun l => ?_)
      obtain ⟨-, -, dest, mbx, ea⟩ := l.performed_kind s
      dsimp only [Function.comp_apply]
      split
      · rw [dest, mbx, ea]
      · rfl
    · have hj : j < s.core.loads.length := (List.getElem?_eq_some_iff.1 hl).1
      have before := mem_loadsBefore (p := fun l => decide (l.older ≤ k)) (ranges := [(x.home, Nat.max 1 x.bytes.length)]) hl here
        (decide_eq_true older) ⟨_, List.mem_singleton_self _, meet⟩ hj
      have value : loads[j]? = some (l.performed s) := by rw [at_ j, hl, Option.map_some, if_pos before]
      rw [core]
      refine (congrArg (Option.bind · LoadOp.val) (List.getElem?_map ..)).trans ?_
      rw [value, LoadOp.performed_of_pending s val here]
      rfl

end Sys2Proof.Machine
end

section
/-! The proof of O10: when wait and fence go on. -/

namespace Sys2Proof.Machine

variable {s : State} {sc : BitVec 3} {k : BitVec 2}

/-! ## wait (R102) -/

theorem State.raceLanded_eq (s : State) : ∃ clocks, s.raceLanded = { s with clocks } := by
  unfold State.raceLanded
  dsimp only
  split
  · exact ⟨s.clocks, rfl⟩
  · exact ⟨_, rfl⟩

/-- The four counts of OUTST are at or under the fields (R102). -/
def Settled (s : State) (l n c k : BitVec 5) : Prop :=
  s.core.loads.length ≤ l.toNat ∧ s.core.stores.length ≤ n.toNat ∧ s.core.copies.length ≤ c.toNat ∧ s.core.recs.length ≤ k.toNat

theorem exec_wait_goes {l n c k : BitVec 5} (free : Says.Free s) (h : Settled s l n c k) :
    ∃ (t : State), exec (.wait l n c k) s = .next t ∧ { t with clocks := s.clocks } = Says.goesOn s s := by
  obtain ⟨clocks, landed⟩ := s.raceLanded_eq
  have short : c.toNat < 64 := Nat.lt_of_lt_of_le c.isLt (by decide)
  refine ⟨s.raceLanded.retire, ?_, by rw [landed]; rfl⟩
  refine congrArg Host.Outcome.next ((State.unsafeIssue_free _ free.1 free.2).trans ?_)
  exact (if_pos h).trans (by rw [if_pos short])

theorem exec_wait_waits {l n c k : BitVec 5} (free : Says.Free s) (h : ¬ Settled s l n c k) : exec (.wait l n c k) s = .next s :=
  congrArg Host.Outcome.next ((State.unsafeIssue_free _ free.1 free.2).trans (if_neg h))

/-! ## fence (R336) -/

theorem exec_fence_region {x : TxRegion} (clear : Says.Clear s) (open_ : s.core.tx = some x) :
    exec (.fence sc k) s = .next (Says.goesOn s s) := by
  refine congrArg Host.Outcome.next ((State.issue_clear _ clear).trans ?_)
  exact if_pos (by rw [open_]; rfl)

theorem exec_fence_waits (free : Says.Free s) (h : s.fenceWaits sc k = true) : exec (.fence sc k) s = .next s := by
  refine congrArg Host.Outcome.next ((State.issue_clear _ free.1).trans ?_)
  rw [free.2]
  exact if_pos h

/-- A fence that goes on changes what later loads may read and the detector's clocks (R333, R351). -/
theorem exec_fence_goes (free : Says.Free s) (h : s.fenceWaits sc k = false) : ∃ ord clocks,
    exec (.fence sc k) s = .next (State.retire { s.setCore { s.core with ord } with clocks }) := by
  have issued : exec (.fence sc k) s = _ := congrArg Host.Outcome.next (State.issue_clear _ free.1)
  simp only [free.2, h, Option.isSome_none, Bool.false_eq_true, if_false] at issued
  rw [issued]
  cases ordRel k <;> cases ordAcq k <;> exact ⟨_, _, rfl⟩

/-- Settles O10: the counts decide for wait, and what is outstanding at the scope for fence. -/
theorem waitsAndFences : Obligations.WaitsAndFences := by
  unfold Obligations.WaitsAndFences
  refine ⟨fun l n c k s free loads stores copies recs => exec_wait_goes free ⟨loads, stores, copies, recs⟩,
    fun l n c k s free above => exec_wait_waits free fun ⟨loads, stores, copies, recs⟩ => by omega,
    fun sc k s free quiet => ?_, fun sc k s free wide pending => exec_fence_waits free ?_, fun sc k s x clear open_ => exec_fence_region clear open_⟩
  · have goes : s.fenceWaits sc k = false := by
      unfold State.fenceWaits
      rcases quiet with tile | ⟨loads, stores⟩
      · rw [if_pos tile]
      · split
        · rfl
        · cases hk : ordRel k with
          | false => simp [loads]
          | true => simp [loads, stores hk]
    obtain ⟨ord, clocks, he⟩ := exec_fence_goes free goes
    refine ⟨_, he, ?_, fun c hc => ?_, rfl⟩
    · simp [State.retire, State.retireAt, Says.goesOn, Says.goesTo, State.core, State.setCore]
    · exact (State.setCore_other { s.setCore { s.core with ord } with clocks } _ c hc).trans (State.setCore_other s _ c hc)
  · have notTile : sc ≠ 0 := fun e => by simp [e] at wide
    unfold State.fenceWaits
    rw [if_neg fun h => notTile h.1, if_neg notTile]
    rcases pending with loads | ⟨release, x, hx, near⟩
    · simp [loads]
    · have stores : (s.core.stores.any (!·.doneAt sc.toNat)) = true :=
        List.any_eq_true.2 ⟨x, hx, by simpa [StoreOp.doneAt] using near⟩
      have rel : ordRel k = true := release
      simp [rel, stores]

end Sys2Proof.Machine
end

section
/-! The proof of O15: a register read or written by each of its cases, through an addi. -/

namespace Sys2Proof.Machine

variable {s s0 s1 : State} {a d : Reg} {w : Word} {code : BitVec 6} {addr : Word}

/-! ## Reading (R75, R97, R106, R109) -/

theorem Core.isMb_ne_zero {c : Core} (h : c.isMb a = true) : a ≠ 0 := by
  rintro rfl
  simp [Core.isMb] at h

/-- A mailbox gives its oldest flit and returns a credit. -/
theorem State.getReg_flit {rest : List Word} (noTx : s.core.tx = none) (mb : s.core.isMb a = true)
    (q : s.core.mb[mbOf a].rxq = w :: rest) : s.getReg a = .ok w ((s.setCore { s.core with
      mb := s.core.mb.set (mbOf a).val { s.core.mb[mbOf a] with rxq := rest } (mbOf a).isLt }).giveCredit (mbOf a) s.core.mb[mbOf a].desc) := by
  simp only [State.getReg, Core.isMb_ne_zero mb, mb, q, noTx, if_true, if_false, Option.isSome_none, Bool.false_eq_true]

/-- An empty mailbox waits for its next flit, and a revoked one for none. -/
theorem State.getReg_empty (mb : s.core.isMb a = true) (q : s.core.mb[mbOf a].rxq = []) :
    s.getReg a = if s.core.mb[mbOf a].state = .revoked then .trap tMBUNBOUND (BitVec.ofNat 64 (mbOf a).val) else .wait := by
  simp only [State.getReg, Core.isMb_ne_zero mb, mb, q, if_true, if_false]

theorem State.getReg_busy (h0 : a ≠ 0) (mb : s.core.isMb a = false) (busy : s.core.busy a = true) : s.getReg a = .wait := by
  simp only [State.getReg, h0, mb, busy, if_true, if_false, Bool.false_eq_true]

theorem State.getReg_poisoned (h0 : a ≠ 0) (mb : s.core.isMb a = false) (busy : s.core.busy a = false)
    (poison : s.core.poison[a.toNat]'a.isLt = some w) : s.getReg a = .trap tPOISONREG w := by
  simp only [State.getReg, h0, mb, busy, poison, if_false, Bool.false_eq_true]

/-! ## Writing (R75, R106, R109) -/

/-- A bound mailbox with a credit sends a flit for it. -/
theorem State.putReg_flit (noTx : s.core.tx = none) (mb : s.core.isMb d = true) (bound : s.core.mb[mbOf d].state = .bound)
    (credit : s.core.mb[mbOf d].cred ≠ 0) : s.putReg d w = .ok w ((s.setCore { s.core with
      mb := s.core.mb.set (mbOf d).val { s.core.mb[mbOf d] with cred := s.core.mb[mbOf d].cred - 1 } (mbOf d).isLt }).sendFlit
        (mbOf d) s.core.mb[mbOf d].desc w) := by
  simp only [State.putReg, Core.isMb_ne_zero mb, mb, bound, credit, noTx, if_true, if_false, reduceCtorEq]

theorem State.putReg_noCredit (mb : s.core.isMb d = true) (bound : s.core.mb[mbOf d].state = .bound)
    (credit : s.core.mb[mbOf d].cred = 0) : s.putReg d w = .wait := by
  simp only [State.putReg, Core.isMb_ne_zero mb, mb, bound, credit, if_true, if_false, reduceCtorEq]

theorem State.putReg_revoked (mb : s.core.isMb d = true) (revoked : s.core.mb[mbOf d].state = .revoked) :
    s.putReg d w = .trap tMBUNBOUND (BitVec.ofNat 64 (mbOf d).val) := by
  simp only [State.putReg, Core.isMb_ne_zero mb, mb, revoked, if_true, if_false]

/-! ## Through an addi -/

/-- A register that cannot be read yet makes the instruction wait without effect (R81). -/
theorem State.withRegs_wait {rs : List Reg} {k : List Word → State → State} (h : s.getReg a = .wait) : s.withRegs (a :: rs) k = s := by
  simp only [State.withRegs, State.withRegs.go, h]

/-- A register whose read traps makes the instruction trap (R76). -/
theorem State.withRegs_trap {rs : List Reg} {k : List Word → State → State} (h : s.getReg a = .trap code addr) :
    s.withRegs (a :: rs) k = s.trap code addr := by
  simp only [State.withRegs, State.withRegs.go, h]

theorem reads_one (h : s.getReg a = .ok w s1) : Says.Reads s [a] [w] s1 := ⟨w, [], s1, rfl, h, rfl, rfl⟩

theorem State.finish_wait (h : s.putReg d w = .wait) : s0.finish s d w = s0 := by simp [State.finish, h]
theorem State.finish_trap (h : s.putReg d w = .trap code addr) : s0.finish s d w = s0.trap code addr := by simp [State.finish, h]

section Addi
variable {k : BitVec 16} (clear : Says.Clear s)
include clear

theorem exec_addi_ok (read : s.getReg a = .ok w s1) : exec (.addi d a k) s = .next (s.finish s1 d (w + immW k)) :=
  congrArg Host.Outcome.next (State.issue_reads clear (reads_one read) fun s ws s1 => s.finish s1 d (ws.getD 0 0 + immW k))

theorem exec_addi_wait (read : s.getReg a = .wait) : exec (.addi d a k) s = .next s :=
  congrArg Host.Outcome.next ((State.issue_clear _ clear).trans (State.withRegs_wait read))

theorem exec_addi_trap (read : s.getReg a = .trap code addr) : exec (.addi d a k) s = .next (s.trap code addr) :=
  congrArg Host.Outcome.next ((State.issue_clear _ clear).trans (State.withRegs_trap read))

/-- What is read goes to a plain register. -/
theorem exec_addi_plain (read : s.getReg a = .ok w s1) (h0 : d ≠ 0) (mb : s1.core.isMb d = false) :
    exec (.addi d a k) s = .next (Says.goesOn s1 (s1.setCore (s1.core.setReg d (w + immW k)))) := by
  rw [exec_addi_ok clear read, State.finish_ok (State.putReg_plain _ h0 mb), goesOn_setCore (Core.setReg_pc ..)]

end Addi

@[simp] theorem State.giveCredit_core (s : State) (n : Fin 4) (desc : Word) : (s.giveCredit n desc).core = s.core := by
  unfold State.giveCredit
  split <;> rfl

/-- Flits and credits come and go without binding or freeing a mailbox. -/
theorem Core.isMb_setMb {c : Core} {n : Fin 4} {m : Mailbox} (h : m.state = c.mb[n].state) (r : Reg) :
    Core.isMb { c with mb := c.mb.set n.val m n.isLt } r = c.isMb r := by
  have state : (c.mb.set n.val m n.isLt)[mbOf r].state = c.mb[mbOf r].state := by
    by_cases e : n.val = (mbOf r).val
    · simpa [Fin.ext e] using h
    · simp [e]
  simp only [Core.isMb, state]

/-- Settles O15, case by case. -/
theorem registerAccesses : Obligations.RegisterAccesses := by
  unfold Obligations.RegisterAccesses
  refine ⟨fun d a s free plain => ?_, fun d s free => ?_⟩
  · obtain ⟨clear, noTx⟩ := free
    obtain ⟨h0, noMb, -, -⟩ := plain
    refine ⟨exec_addi_plain clear s.getReg_zero h0 noMb, fun mb v rest q => ?_, fun mb q => ?_, fun ha mb busy => ?_,
      fun ha mb busy ea poison => ?_⟩
    · have zero : v + immW 0 = v := by simp [immW]
      have read := exec_addi_plain (d := d) (k := 0) clear (State.getReg_flit noTx mb q) h0 (by
        rw [State.giveCredit_core, State.setCore_core]
        exact (Core.isMb_setMb (m := { s.core.mb[mbOf a] with rxq := rest }) rfl d).trans noMb)
      rw [zero] at read
      exact read
    · have read := State.getReg_empty mb q
      split
      · next revoked => exact exec_addi_trap clear (read.trans (if_pos revoked))
      · next awaiting => exact exec_addi_wait clear (read.trans (if_neg awaiting))
    · exact exec_addi_wait clear (State.getReg_busy ha mb busy)
    · exact exec_addi_trap clear (State.getReg_poisoned ha mb busy poison)
  · obtain ⟨clear, noTx⟩ := free
    have seven : (0 : Word) + immW 7 = 7 := rfl
    have sends {k} : exec (.addi d 0 k) s = .next (s.finish s d (0 + immW k)) := exec_addi_ok clear s.getReg_zero
    refine ⟨?_, fun mb bound credit => ?_, fun mb bound none => ?_, fun mb revoked => ?_⟩
    · rw [exec_addi_ok clear s.getReg_zero, State.finish_ok (State.putReg_zero ..)]; rfl
    · rw [sends, seven, State.finish_ok (State.putReg_flit noTx mb bound credit)]; rfl
    · rw [sends, State.finish_wait (State.putReg_noCredit mb bound none)]
    · rw [sends, State.finish_trap (State.putReg_revoked mb revoked)]; rfl

end Sys2Proof.Machine
end

section
/-! The proof of O16: mailboxes bound, freed and revoked, and what arrives at them. -/

namespace Sys2Proof.Machine

variable {s s1 s2 t : State} {a : Reg} {n : BitVec 2} {x : Word} {k : Fin 4} {c : Fin 64}

/-! ## A mailbox replaced -/

@[simp] theorem State.setMb_cur (s : State) (c : Fin 64) (k : Fin 4) (m : Mailbox) : (s.setMb c k m).cur = s.cur := rfl

theorem State.setMb_get (s : State) (c : Fin 64) (k : Fin 4) (m : Mailbox) : (s.setMb c k m).cores[c].mb[k] = m := by
  rw [State.setMb, State.setCoreAt_get]
  exact Vector.getElem_set_self k.isLt

/-- A core keeps all but its mailboxes. -/
theorem State.setMb_core (s : State) (c i : Fin 64) (k : Fin 4) (m : Mailbox) :
    (s.setMb c k m).cores[i] = { s.cores[i] with mb := (s.setMb c k m).cores[i].mb } := by
  by_cases e : i = c
  · subst e; rw [State.setMb, State.setCoreAt_get]
  · rw [State.setMb, State.setCoreAt_other s c i _ e]

/-! ## Credits given out (R105) -/

/-- Nothing of a core but its mailboxes changes, and of these the credits alone. -/
structure CredFrame (s s1 : State) : Prop where
  cur : s1.cur = s.cur
  mem : s1.mem = s.mem
  core : ∀ i : Fin 64, s1.cores[i] = { s.cores[i] with mb := s1.cores[i].mb }
  mb : ∀ (i : Fin 64) (k : Fin 4), s1.cores[i].mb[k] = { s.cores[i].mb[k] with cred := s1.cores[i].mb[k].cred }

theorem CredFrame.refl (s : State) : CredFrame s s := ⟨rfl, rfl, fun _ => rfl, fun _ _ => rfl⟩

theorem CredFrame.trans (h : CredFrame s s1) (h' : CredFrame s1 s2) : CredFrame s s2 := by
  refine ⟨h'.cur.trans h.cur, h'.mem.trans h.mem, fun i => ?_, fun i k => ?_⟩
  · rw [h'.core i, h.core i]
  · rw [h'.mb i k, h.mb i k]

theorem CredFrame.setCred (s : State) (c : Fin 64) (k : Fin 4) (cred : Nat) :
    CredFrame s (s.setMb c k { s.cores[c].mb[k] with cred }) := by
  refine ⟨rfl, rfl, fun i => State.setMb_core s c i k _, fun i j => ?_⟩
  by_cases e : i = c
  · subst e
    by_cases ej : j = k
    · subst ej; rw [State.setMb_get]
    · have : k.val ≠ j.val := fun h => ej (Fin.ext h.symm)
      have other : (s.setMb i k { s.cores[i].mb[k] with cred }).cores[i].mb[j] = s.cores[i].mb[j] := by
        rw [State.setMb, State.setCoreAt_get]
        exact Vector.getElem_set_ne k.isLt j.isLt this
      rw [other]
  · rw [State.setMb, State.setCoreAt_other s c i _ e]

theorem CredFrame.core_at (h : CredFrame s s1) : s1.core = s1.cores[s.cur] := by
  unfold State.core
  simp only [h.cur]

theorem CredFrame.core_eq (h : CredFrame s s1) : s1.core = { s.core with mb := s1.core.mb } := by
  rw [h.core_at]
  exact h.core s.cur

theorem CredFrame.core_mb (h : CredFrame s s1) (k : Fin 4) : s1.core.mb[k] = { s.core.mb[k] with cred := s1.core.mb[k].cred } := by
  rw [h.core_at]
  exact h.mb s.cur k

/-- Completing a pair gives out credits (R105). -/
theorem State.pair_frame (s : State) (c : Fin 64) (k : Fin 4) : CredFrame s (s.pair c k) := by
  unfold State.pair
  dsimp only
  split
  · exact .refl s
  · split
    · exact (CredFrame.setCred s c k 8).trans (.setCred ..)
    · exact .refl s

/-! ## mbbind (R103 to R105) -/

/-- mbbind takes the first of its two checks that fails, or binds. -/
theorem exec_mbbind (free : Says.Free s) (reads : Says.Reads s [a] [x] s1) : exec (.mbbind a n) s = .next
    (if s.core.mb[(⟨n.toNat, n.isLt⟩ : Fin 4)].state ≠ .unbound then s.trap tMBSTATE (BitVec.ofNat 64 n.toNat)
      else if !descOk x ∨ !s.peerOk x then s.trap tMBDENY (BitVec.ofNat 64 n.toNat)
      else ((s1.setMb s.cur ⟨n.toNat, n.isLt⟩ ⟨.bound, x, 0, [], []⟩).pair s.cur ⟨n.toNat, n.isLt⟩).retire) := by
  rw [exec_of_reads free reads rfl]
  rfl

/-- A mailbox that is bound: it names its peer, and its queue is empty (R103). -/
theorem bound_core (k : Fin 4) (x : Word) :
    let t := ((s.setMb s.cur k ⟨.bound, x, 0, [], []⟩).pair s.cur k).retire
    t.core.pc = s.core.pc + 4 ∧ t.core.regs = s.core.regs ∧ t.mem = s.mem ∧
      t.core.mb[k].state = .bound ∧ t.core.mb[k].desc = x ∧ t.core.mb[k].rxq = [] := by
  intro t
  let u := s.setMb s.cur k ⟨.bound, x, 0, [], []⟩
  have pair : CredFrame u (u.pair s.cur k) := State.pair_frame u s.cur k
  have core : u.core = { s.core with mb := u.core.mb } := State.setMb_core s s.cur s.cur k _
  have mb : u.core.mb[k] = ⟨.bound, x, 0, [], []⟩ := State.setMb_get s s.cur k _
  have retired : t.core = { (u.pair s.cur k).core with pc := (u.pair s.cur k).core.pc + 4, instret := (u.pair s.cur k).core.instret + 1 } :=
    State.retireAt_core ..
  have paired := mb ▸ pair.core_mb k
  refine ⟨?_, ?_, pair.mem, ?_, ?_, ?_⟩
  · rw [retired, pair.core_eq, core]
  · rw [retired, pair.core_eq, core]
  · rw [retired, paired]
  · rw [retired, paired]
  · rw [retired, paired]

/-! ## mbfree (R108) -/

@[simp] theorem State.giveCredit_cur (s : State) (n : Fin 4) (desc : Word) : (s.giveCredit n desc).cur = s.cur := by
  unfold State.giveCredit
  split <;> rfl

/-- Giving credits back leaves the acting core. -/
theorem foldl_giveCredit (s : State) (k : Fin 4) (desc : Word) (q : List Word) :
    let t := q.foldl (fun s _ => s.giveCredit k desc) s
    t.core = s.core ∧ t.cur = s.cur ∧ t.mem = s.mem := by
  induction q generalizing s with
  | nil => exact ⟨rfl, rfl, rfl⟩
  | cons w q ih =>
    obtain ⟨core, cur, mem⟩ := ih (s.giveCredit k desc)
    exact ⟨core.trans (State.giveCredit_core ..), cur.trans (State.giveCredit_cur ..), mem.trans State.giveCredit_mem⟩

/-- A mailbox that is freed: its register is a plain one again (R108). -/
theorem freed_core (k : Fin 4) (cur : s.cur = c) :
    let u := s.setMb c k Mailbox.zero
    let t := (u.setCore (u.core.forgetMb k)).retire
    t.core.pc = s.core.pc + 4 ∧ t.core.regs = s.core.regs ∧ t.mem = s.mem ∧ t.core.mb[k].state = .unbound := by
  subst cur
  intro u t
  have core : u.core = { s.core with mb := u.core.mb } := State.setMb_core s s.cur s.cur k _
  have mb : u.core.mb[k] = Mailbox.zero := State.setMb_get s s.cur k _
  have retired : t.core = { u.core.forgetMb k with pc := u.core.pc + 4, instret := u.core.instret + 1 } := by
    refine (State.retireAt_core ..).trans ?_
    rw [State.setCore_core]
    rfl
  have regs : t.core.regs = u.core.regs := by rw [retired]; rfl
  refine ⟨by rw [retired, core], by rw [regs, core], rfl, ?_⟩
  rw [retired]
  exact congrArg Mailbox.state mb

/-- mbfree leaves an unbound mailbox as it is, and frees any other with its flits. -/
theorem exec_mbfree (free : Says.Free s) :
    let k : Fin 4 := ⟨n.toNat, n.isLt⟩
    ∃ (t : State), exec (.mbfree n) s = .next t ∧ t.core.pc = s.core.pc + 4 ∧ t.core.regs = s.core.regs ∧ t.mem = s.mem ∧
      t.core.mb[k].state = .unbound := by
  intro k
  have issued : exec (.mbfree n) s = _ := congrArg Host.Outcome.next (State.unsafeIssue_free _ free.1 free.2)
  by_cases unbound : s.core.mb[k].state = .unbound
  · refine ⟨s.retire, issued.trans (congrArg Host.Outcome.next (if_pos unbound)), ?_⟩
    rw [State.retire, State.retireAt_core]
    exact ⟨rfl, rfl, rfl, unbound⟩
  · refine ⟨_, issued.trans (congrArg Host.Outcome.next (if_neg unbound)), ?_⟩
    obtain ⟨core, cur, mem⟩ := foldl_giveCredit s k s.core.mb[k].desc s.core.mb[k].rxq
    obtain ⟨pc, regs, mem', state⟩ := freed_core k cur
    exact ⟨pc.trans (by rw [core]), regs.trans (by rw [core]), mem'.trans mem, state⟩

/-! ## Arrivals (R105, R107) -/

/-- Where a message within the module goes: the mailbox that stands there is bound to the sender (R105, R108). -/
structure Reaches (s : State) (f : MbMsg) (m : Mailbox) : Prop where
  stands : s.cores[f.core].mb[f.to.mbx] = m
  bound : m.state = .bound
  isLocal : s.isLocal m.desc = true
  peer : mbName s.module (dCore m.desc) (dMbx m.desc) = f.peer
  part : s.cores[f.core].part = f.part

theorem State.boundMb_reaches {f : MbMsg} {m : Mailbox} (h : Reaches s f m) : s.boundMb f.to (s.nearPeer f) = some m := by
  obtain ⟨rfl, bound, isLocal, peer, part⟩ := h
  have bound' : s.cores[f.to.core].mb[f.to.mbx].boundTo (s.nearPeer f) = true := by
    refine Bool.and_eq_true_iff.2 ⟨beq_iff_eq.2 bound, Bool.and_eq_true_iff.2 ⟨isLocal, beq_iff_eq.2 peer⟩⟩
  exact (if_pos part).trans (if_pos bound')

theorem State.onBound_reaches {f : MbMsg} {m : Mailbox} (h : Reaches s f m) (g : Mailbox → Mailbox) :
    s.onBound f.to (s.nearPeer f) g = s.setMb f.core f.to.mbx (g m) := by
  rw [State.onBound, State.boundMb_reaches h]
  exact if_pos h.part

/-- The oldest flit of the module lands where there is room for it (R107). -/
theorem exec_mailboxFlitArrival {f : MbMsg} {m : Mailbox} {rest : List MbMsg} (module : s.input.module = s.module)
    (index : s.input.index = 0) (flits : s.flits = f :: rest) (h : Reaches s f m) (room : m.taken.length + m.rxq.length < 8) :
    exec .mailboxFlitArrival s = .next ({ s with flits := rest }.setMb f.core f.to.mbx { m with rxq := m.rxq ++ [f.value] }) := by
  have first : s.flits.findIdx (fun g => g.core = f.core ∧ g.mbx = f.mbx ∧ g.peer = f.peer) = 0 := by
    rw [flits, List.findIdx_cons]
    simp
  have waits : s.flitWaits f.to (s.nearPeer f) = false := by
    rw [State.flitWaits, State.boundMb_reaches h]
    exact decide_eq_false (by omega)
  have after : Reaches { s with flits := rest } f m := ⟨h.stands, h.bound, h.isLocal, h.peer, h.part⟩
  have lands : s.landFlit 0 = { s with flits := rest }.setMb f.core f.to.mbx { m with rxq := m.rxq ++ [f.value] } := by
    rw [State.landFlit, flits]
    simp only [List.getElem?_cons_zero, waits, List.eraseIdx_zero, List.tail_cons]
    exact State.onBound_reaches after _
  change execMailboxFlitArrival s = _
  rw [execMailboxFlitArrival, if_neg (not_not.2 module), index]
  simp only [flits, List.getElem?_cons_zero]
  rw [← flits, first, lands]

/-- The oldest credit of the module is one more at its mailbox (R105). -/
theorem exec_mailboxCreditReturn {f : MbMsg} {m : Mailbox} {rest : List MbMsg} (module : s.input.module = s.module)
    (index : s.input.index = 0) (credits : s.credits = f :: rest) (h : Reaches s f m) (few : m.cred < 8) :
    exec .mailboxCreditReturn s = .next ({ s with credits := rest }.setMb f.core f.to.mbx { m with cred := m.cred + 1 }) := by
  have after : Reaches { s with credits := rest } f m := ⟨h.stands, h.bound, h.isLocal, h.peer, h.part⟩
  have one : Nat.min 8 (m.cred + 1) = m.cred + 1 := Nat.min_eq_right few
  change execMailboxCreditReturn s = _
  rw [execMailboxCreditReturn, if_neg (not_not.2 module), index]
  simp only [credits, List.getElem?_cons_zero, List.eraseIdx_zero, List.tail_cons]
  refine congrArg Host.Outcome.next ((State.onBound_reaches after _).trans ?_)
  rw [one]

/-- A bound mailbox of a core that stands is revoked, and its partition hears of it (R109). -/
theorem exec_mailboxRevoke (out : (s.part s.input.p).saved = none)
    (bound : s.cores[s.input.core].mb[(⟨s.input.k.toNat, s.input.k.isLt⟩ : Fin 4)].state = .bound) :
    exec .mailboxRevoke s = .next ((s.setMb s.input.core ⟨s.input.k.toNat, s.input.k.isLt⟩
      { s.cores[s.input.core].mb[(⟨s.input.k.toNat, s.input.k.isLt⟩ : Fin 4)] with state := .revoked, cred := 0 }).notice
        (s.cores[s.input.core].part.getD 0) (BitVec.ofNat 64 (1 + 16 * s.input.k.toNat))) := by
  change execMailboxRevoke s = _
  rw [execMailboxRevoke]
  simp only [out, Option.bind_none]
  rw [if_pos bound, Core.revoke, if_pos bound]
  rfl

/-- Settles O16: each clause is the rule above of its instruction or arrival. -/
theorem mailboxEffects : Obligations.MailboxEffects := by
  unfold Obligations.MailboxEffects
  refine ⟨fun s a n x s1 free reads => ⟨fun bound => ?_, fun unbound refused => ?_, fun unbound ok peer => ?_⟩, fun s n free => exec_mbfree free,
    fun s f rest module index flits bound isLocal peer part room =>
      exec_mailboxFlitArrival module index flits ⟨rfl, bound, isLocal, peer, part⟩ room,
    fun s f rest module index credits bound isLocal peer part few =>
      exec_mailboxCreditReturn module index credits ⟨rfl, bound, isLocal, peer, part⟩ few,
    fun s out bound => ⟨_, exec_mailboxRevoke out bound, ?_⟩⟩
  · rw [exec_mbbind free reads, if_pos bound, BitVec.ofNat_toNat]
    rfl
  · rw [exec_mbbind free reads, if_neg (not_not.2 unbound), if_pos (by simpa using refused), BitVec.ofNat_toNat]
    rfl
  · rw [exec_mbbind free reads, if_neg (not_not.2 unbound), if_neg (by simp [ok, peer])]
    have frame := reads_frame reads
    rw [← frame.cur, ← frame.pc, ← frame.regs, ← frame.mem]
    exact ⟨_, rfl, bound_core _ x⟩
  · have revoked := State.setMb_get s s.input.core ⟨s.input.k.toNat, s.input.k.isLt⟩
      { s.cores[s.input.core].mb[(⟨s.input.k.toNat, s.input.k.isLt⟩ : Fin 4)] with state := .revoked, cred := 0 }
    have regs := congrArg Core.regs (State.setMb_core s s.input.core s.input.core ⟨s.input.k.toNat, s.input.k.isLt⟩
      { s.cores[s.input.core].mb[(⟨s.input.k.toNat, s.input.k.isLt⟩ : Fin 4)] with state := .revoked, cred := 0 })
    exact ⟨congrArg Mailbox.state revoked, congrArg Mailbox.cred revoked, regs, rfl⟩
end Sys2Proof.Machine
end

section
/-! The proof against O37: copies of one serial. -/

namespace Sys2Proof.Machine

/-! ## A copy's token drained (R40, R141)

Against O37 stands its last clause, of a copy that fails. The token of an ended copy is drained by the copy's serial, which is 16 bits
wide and comes again after 65,536 copies. In `twinState` an older copy of the same serial has ended, charged to a launch that is
queued, and its token has not been drained. The failure of the younger copy, which is charged to none, drains the token of the older:
the queued launch counts a landed copy, where the clause leaves every region as it is. -/

/-- A copy of serial 0, of no length and without a channel. -/
def twinCopy : CopyOp :=
  { serial := 0, src := 0, dst := 0, len := 0, acq := none, rel := none, chan := none, charge := none, nth := 0, check := false,
    after := 0, since := 0, known := [], ended := none }

/-- A queued launch that one copy is charged to. -/
def twinLaunch : LaunchRec :=
  { params := Vector.replicate 4 0, pre0h := 0, pre1h := 0, pre0v := 0, pre1v := 0, prio := 0, serial := 0, charged := 1, landed := 0 }

/-- An ended copy charged to the queued launch, whose token has not been drained, and a younger copy of its serial, which now fails. -/
def twinState : State :=
  { State.reset with
    cores := State.reset.cores.set 0 { Core.reset 0 with copies := [{ twinCopy with charge := some (0, 0, 0), ended := some none }, twinCopy] }
    regions := [{ oneTile ⟨0, 0, 0⟩ with queue := [twinLaunch] }]
    input := { Input.none with copy := .failed eLINK } }

/-- How many copies each queued launch counts as landed after a step. -/
def landedAfter : Out → List Nat
  | .next s => s.regions.flatMap fun r => r.queue.map (·.landed)
  | _ => []

/-- Refutes O37: COPY_COMPLETE of the failed copy of `twinState` counts a landed copy at the queued launch, where the statement has
none. -/
theorem not_waitingInstructionsComplete : ¬ Obligations.WaitingInstructionsComplete := by
  unfold Obligations.WaitingInstructionsComplete
  rintro ⟨-, -, -, -, -, -, -, -, -, -, -, -, -, -, -, fails⟩
  have ends := fails twinState twinCopy eLINK rfl rfl rfl rfl rfl rfl
  exact absurd (congrArg landedAfter ends) (by decide)

end Sys2Proof.Machine
end

section
/-! SUPPORT. Regions looked up after a change, the region that a handle names, and what reading and reserving a register leave of the
mailboxes. -/

namespace Sys2Proof.Machine

variable {s s1 s' u : State} {r r' : Region} {c : Fin 64} {b : BitVec 3} {d : Reg}

/-! ## Regions looked up (R113) -/

/-- The element that the test finds first is the one that is replaced. -/
theorem find?_updFirst {α : Type} {p : α → Bool} {f : α → α} (h : ∀ x, p x = true → p (f x) = true) (l : List α) :
    (updFirst p f l).find? p = (l.find? p).map f := by
  induction l with
  | nil => rfl
  | cons x l ih =>
    cases hx : p x
    · simp [updFirst, hx, ih]
    · simp [updFirst, hx, h x hx]

/-- A region that a binding slot holds is one of the regions, of that core and slot. -/
theorem State.region_some (h : s.region c b = some r) : r ∈ s.regions ∧ r.core = c ∧ r.bslot = b := by
  have key := List.find?_some h
  rw [Bool.and_eq_true, beq_iff_eq, beq_iff_eq] at key
  exact ⟨List.mem_of_find?_eq_some h, key⟩

/-- A region of a core and slot is found there, or another that stands before it. -/
theorem State.region_isSome (h : r ∈ s.regions) : (s.region r.core r.bslot).isSome = true :=
  List.find?_isSome.2 ⟨r, h, by simp⟩

/-- A changed region reads back as changed. -/
theorem State.region_onRegion {f : Region → Region} (h : ∀ x, (f x).core = x.core ∧ (f x).bslot = x.bslot) :
    (s.onRegion c b f).region c b = (s.region c b).map f :=
  find?_updFirst (fun x hx => by rw [(h x).1, (h x).2]; exact hx) s.regions

/-- A region replaced in the slot that it holds reads back. -/
theorem State.region_setRegion (h : (s.region r.core r.bslot).isSome = true) : (s.setRegion r).region r.core r.bslot = some r := by
  obtain ⟨x, hx⟩ := Option.isSome_iff_exists.1 h
  refine (find?_updFirst (f := fun _ => r) (fun _ _ => by simp) s.regions).trans ?_
  rw [show s.regions.find? _ = some x from hx]
  rfl

/-- What every step of a fold leaves as it is, the fold leaves. -/
theorem foldl_keeps {α β : Type} (field : State → β) {f : State → α → State} {l : List α} (h : ∀ s a, field (f s a) = field s) :
    field (l.foldl f s) = field s :=
  List.foldlRecOn (motive := fun t => field t = field s) l f rfl fun t ht a _ => (h t a).trans ht

/-! ## Handles (R114) -/

/-- A graph handle that is good on the issuing core names the region of one of its binding slots. -/
theorem State.graphMine_region {h : Word} (mine : s.graphMine h = .ok r) : s.region (hCore h) (hBslot h) = some r := by
  simp only [State.graphMine, State.graphAny, State.graphFor] at mine
  split at mine
  · cases mine
  · split at mine
    · cases mine
    · split at mine
      · cases mine
      · next x region =>
        split at mine
        · cases mine; exact region
        · cases mine

theorem State.graphMine_isSome {h : Word} (mine : s.graphMine h = .ok r) : (s.region r.core r.bslot).isSome = true :=
  State.region_isSome (State.region_some (State.graphMine_region mine)).1

/-! ## Registers and mailboxes (R75, R106) -/

/-- Reading a register binds and frees no mailbox. -/
theorem State.getReg_isMb {a : Reg} {w : Word} (h : s.getReg a = .ok w s1) (x : Reg) : s1.core.isMb x = s.core.isMb x := by
  simp only [State.getReg] at h
  split at h
  · cases h; rfl
  · split at h
    · split at h
      · split at h <;> cases h
        · rw [State.setCore_core]
          exact Core.isMb_setMb (by rfl) x
        · rw [State.giveCredit_core, State.setCore_core]
          exact Core.isMb_setMb (by rfl) x
      · split at h <;> cases h
    · split at h
      · cases h
      · split at h <;> cases h
        rfl

theorem reads_isMb {rs : List Reg} {ws : List Word} (h : Says.Reads s rs ws s1) (x : Reg) : s1.core.isMb x = s.core.isMb x := by
  induction rs generalizing s ws with
  | nil => obtain ⟨-, rfl⟩ := h; rfl
  | cons a rs ih =>
    obtain ⟨w, ws', t, rfl, read, rest⟩ := h
    exact (ih rest).trans (State.getReg_isMb read x)

/-- A destination that has what it needs at issue: at most a credit of a mailbox goes, and none is bound or freed. -/
theorem State.reserve_ok {w : Word} (h : s.reserve d = .ok w u) :
    ∃ mb, u = s.setCore { s.core with mb } ∧ ∀ x, Core.isMb { s.core with mb } x = s.core.isMb x := by
  simp only [State.reserve] at h
  split at h
  · split at h
    · cases h
    · split at h
      · cases h
      · cases h
        exact ⟨_, rfl, Core.isMb_setMb (by rfl)⟩
  · cases h
    exact ⟨s.core.mb, (State.setCore_self s).symm, fun _ => rfl⟩

/-- What a destination needs at issue depends on the mailboxes alone. -/
theorem State.reserve_of_mb {w : Word} (h : s.reserve d = .ok w u) (same : s'.core.mb = s.core.mb) :
    ∃ u', s'.reserve d = .ok 0 u' := by
  have isMb : s'.core.isMb d = s.core.isMb d := by simp only [Core.isMb, same]
  simp only [State.reserve, isMb, same] at h ⊢
  split at h
  · next mailbox =>
    split at h
    · cases h
    · next live =>
      split at h
      · cases h
      · next credit =>
        rw [if_pos mailbox, if_neg live, if_neg credit]
        exact ⟨_, rfl⟩
  · next plain =>
    rw [if_neg plain]
    exact ⟨_, rfl⟩

end Sys2Proof.Machine
end

section
/-! The proof of O32: launch and param, a record's arrival in its queue, and which priority a start slot takes. -/

namespace Sys2Proof.Machine

variable {s s1 : State} {r : Region} {a b d : Reg} {h w : Word}

/-! ## launch (R125) -/

/-- The graph's pending parameters are taken, and LPRE0 and LPRE1 are cleared: what launch does whether or not it is refused. -/
def State.launchTaken (s : State) (r : Region) : State :=
  (s.setCore s.core.clearPre).setRegion { r with pending := Vector.replicate 4 0 }

/-- The record that launch sends: the pending parameters, the prerequisites and the priority (R123, R124). -/
def Core.launchRec (c : Core) (r : Region) (p : BitVec 2) : LaunchRec :=
  ⟨r.pending, c.lpre0h, c.lpre1h, c.lpre0v, c.lpre1v, p, 0, 0, 0⟩

/-- A launch outside a phase opens the epoch of its graph (R131). -/
def Region.launched (r : Region) : Region := if r.epochOpen || r.phase.isSome then r else r.openEpoch

theorem Region.launched_slot (r : Region) : r.launched.core = r.core ∧ r.launched.bslot = r.bslot := by
  unfold Region.launched
  split <;> exact ⟨rfl, rfl⟩

theorem Region.launched_pending (r : Region) : r.launched.pending = r.pending := by
  unfold Region.launched
  split <;> rfl

/-- What stands between a launch with a place for its record and the record. -/
def launchRefusal (s s1 : State) (r : Region) : Option Int :=
  if s1.closed r then some hENDED
  else if r.slave then some hBUSY
  else if !(s.preTaken s.core.lpre0h && s.preTaken s.core.lpre1h) then some hBADHANDLE
  else none

/-- The acting core with a launch record on its way, and an older load or handle for the same register discarded. -/
def Core.sends (c : Core) (d : Reg) (b : BitVec 3) (q : LaunchRec) : Core :=
  let c1 := if d != 0 && c.isMb d then c else c.supersede d
  { c1 with recs := c1.recs ++ [⟨b, d, d != 0 && c.isMb d, q⟩] }

section Launch
variable {p : BitVec 2} (free : Says.Free s) (reads : Says.Reads s [a] [h] s1)
include free reads

theorem exec_launch_full (full : 16 ≤ s.core.recs.length) : exec (.launch d a p) s = .next s := by
  rw [exec_of_reads free reads rfl, if_pos full]

theorem exec_launch_error {e : Int} (room : s.core.recs.length < 16) (bad : s1.graphMine h = .error e) :
    Says.Answers (.launch d a p) s d (hStatus e) (s1.setCore s1.core.clearPre) :=
  answers_of_reads free reads rfl (by simp only [if_neg (Nat.not_le.2 room), List.getD_cons_zero, bad])

/-- A launch on a graph of the core is refused, or its record leaves once its destination has what it needs. -/
theorem exec_launch_mine (room : s.core.recs.length < 16) (mine : s1.graphMine h = .ok r) : exec (.launch d a p) s = .next
    (match launchRefusal s s1 r with
      | some e => s.finish (s1.launchTaken r) d (hStatus e)
      | none => s.reserving ((s1.launchTaken r).onRegion r.core r.bslot Region.launched) d fun s4 =>
        (s4.setCore (s4.core.sends d r.bslot (s.core.launchRec r p))).retire) := by
  rw [exec_of_reads free reads rfl]
  simp only [if_neg (Nat.not_le.2 room), List.getD_cons_zero, mine, launchRefusal]
  split
  · rfl
  · split
    · rfl
    · split <;> rfl

theorem exec_launch_refused {e : Int} (room : s.core.recs.length < 16) (mine : s1.graphMine h = .ok r)
    (refused : launchRefusal s s1 r = some e) : Says.Answers (.launch d a p) s d (hStatus e) (s1.launchTaken r) := fun t ht => by
  rw [exec_launch_mine free reads room mine, refused]
  exact congrArg Host.Outcome.next (State.finish_ok ht)

end Launch

/-- What the acting core is once a record has left it. -/
theorem Core.sends_frame (c : Core) (d : Reg) (b : BitVec 3) (q : LaunchRec) : (c.sends d b q).pc = c.pc ∧ (c.sends d b q).regs = c.regs ∧
    (c.sends d b q).lpre0h = c.lpre0h ∧ (c.sends d b q).lpre1h = c.lpre1h ∧
    (c.sends d b q).recs.getLast? = some ⟨b, d, d != 0 && c.isMb d, q⟩ ∧ (c.sends d b q).recs.length = c.recs.length + 1 := by
  unfold Core.sends
  dsimp only
  split
  · exact ⟨rfl, rfl, rfl, rfl, List.getLast?_concat, List.length_append⟩
  · exact ⟨rfl, rfl, rfl, rfl, List.getLast?_concat, by simp [Core.supersede]⟩

/-- The record leaves with what the core and the graph held, and these are cleared. -/
theorem exec_launch_sends {p : BitVec 2} {u : State} (free : Says.Free s) (reads : Says.Reads s [a] [h] s1) (room : s.core.recs.length < 16)
    (mine : s1.graphMine h = .ok r) (accepted : launchRefusal s s1 r = none) (place : s1.reserve d = .ok 0 u) :
    ∃ t : State, exec (.launch d a p) s = .next t ∧ t.core.pc = s.core.pc + 4 ∧ t.core.regs = s.core.regs ∧ t.mem = s.mem ∧
      t.core.lpre0h = 0 ∧ t.core.lpre1h = 0 ∧ (t.region r.core r.bslot).map (·.pending) = some (Vector.replicate 4 0) ∧
      t.core.recs.getLast? = some ⟨r.bslot, d, d != 0 && s.core.isMb d, s.core.launchRec r p⟩ ∧
      t.core.recs.length = s.core.recs.length + 1 := by
  let v := (s1.launchTaken r).onRegion r.core r.bslot Region.launched
  have frame := reads_frame reads
  have vcore : v.core = s1.core.clearPre := State.setCore_core ..
  obtain ⟨u', reserved⟩ := State.reserve_of_mb (s' := v) place (by rw [vcore]; rfl)
  obtain ⟨mb, rfl, isMb⟩ := State.reserve_ok reserved
  let c := { v.core with mb }
  obtain ⟨pc, regs, pre0, pre1, last, length⟩ := c.sends_frame d r.bslot (s.core.launchRec r p)
  have core : c = { s.core.clearPre with mb } := by
    show { v.core with mb } = _
    rw [vcore, frame.core]
    rfl
  have bound : c.isMb d = s.core.isMb d := by
    rw [isMb, vcore, ← reads_isMb reads]
    rfl
  refine ⟨((v.setCore c).setCore (c.sends d r.bslot (s.core.launchRec r p))).retire, ?_, ?_⟩
  · rw [exec_launch_mine free reads room mine, accepted]
    simp only [State.reserving]
    rw [show ((s1.launchTaken r).onRegion r.core r.bslot Region.launched).reserve d = _ from reserved]
    simp only [State.setCore_core]
    rfl
  · rw [State.retire, State.retireAt_core, State.setCore_core, pc, regs, pre0, pre1, last, length, bound, core]
    refine ⟨rfl, rfl, frame.mem, rfl, rfl, ?_, rfl, rfl⟩
    have region : (s1.launchTaken r).region r.core r.bslot = some { r with pending := Vector.replicate 4 0 } :=
      State.region_setRegion (r := { r with pending := Vector.replicate 4 0 })
        (show (s1.region r.core r.bslot).isSome = true from State.graphMine_isSome mine)
    have opened : v.region r.core r.bslot = some (Region.launched { r with pending := Vector.replicate 4 0 }) := by
      show ((s1.launchTaken r).onRegion r.core r.bslot Region.launched).region r.core r.bslot = _
      rw [State.region_onRegion Region.launched_slot, region]
      rfl
    exact (congrArg (Option.map Region.pending) opened).trans (congrArg some (Region.launched_pending _))

/-! ## param (R123) -/

theorem exec_param_mine {n : BitVec 2} (free : Says.Free s) (reads : Says.Reads s [a, b] [h, w] s1) (mine : s1.graphMine h = .ok r) :
    exec (.param a b n) s = .next (if s1.closed r then s.trap tHANDLE h
      else (s1.setRegion { r with pending := r.pending.set n.toNat w n.isLt }).retire) := by
  rw [exec_of_reads free reads rfl]
  simp only [List.getD_cons_zero, List.getD_cons_succ, mine]

/-! ## The record's arrival (R113, R125) -/

/-- A value that comes back to a register, or to none. -/
theorem State.deliver_register (s : State) (d : Reg) (place : Option Nat) (w : Word) : s.deliver d false place w = if d = 0 then s
    else s.setCore { s.core with regs := s.core.regs.set d.toNat w d.isLt, poison := s.core.poison.set d.toNat none d.isLt, ord := s.core.ord.wrote d } := by
  simp only [State.deliver, Bool.false_eq_true, if_false]

theorem State.deliver_register_cur (s : State) (d : Reg) (place : Option Nat) (w : Word) : (s.deliver d false place w).cur = s.cur := by
  rw [State.deliver_register]
  split <;> rfl

@[simp] theorem State.setRegion_core (s : State) (r : Region) : (s.setRegion r).core = s.core := rfl

/-- The region with one more launch in its queue. -/
def Region.accepts (r : Region) (q : LaunchRec) : Region :=
  { r with queue := r.queue ++ [{ q with serial := r.accepted }], accepted := r.accepted + 1 }

/-- What happens at a region's core happens at the acting core, when that is the one. -/
theorem State.deliver_at {c : Fin 64} (here : c = s.cur) (o : OutRec) (r' : Region) (w : Word) :
    { State.deliver { (s.setCoreAt c { s.cores[c] with recs := s.cores[c].recs.erase o }).setRegion r' with cur := c } o.dest false none w with
      cur := s.cur } = ((s.setCore { s.core with recs := s.core.recs.erase o }).setRegion r').deliver o.dest false none w := by
  subst here
  have back {t : State} (cur : t.cur = s.cur) : { t with cur := s.cur } = t := by rw [← cur]
  exact back (State.deliver_register_cur (State.setRegion (s.setCore _) r') o.dest none w)

/-- The oldest record of a region of the acting core enters the queue, and its handle comes back. -/
theorem State.enqueueRec_register {o : OutRec} {rest : List OutRec} (here : r.core = s.cur) (oldest : s.recsOf r = o :: rest)
    (register : o.mbx = false) : s.enqueueRec r =
      ((s.setCore { s.core with recs := s.core.recs.erase o }).setRegion (r.accepts o.record)).deliver o.dest false none
        (r.launchHandle 0 r.accepted) := by
  simp only [State.enqueueRec, oldest, register]
  exact State.deliver_at here o (r.accepts o.record) _

/-! ## Which priority starts (R126, R127) -/

section Start
variable {starve : List Nat} {el : Nat → Bool} {p : Nat}

/-- A priority that has not waited 64 starts, or may not start, is not taken before the others. -/
theorem not_starved {k : Nat} (h : starve.getD k 0 < 64 ∨ el k = false) : (el k && decide (64 ≤ starve.getD k 0)) = false := by
  rcases h with few | no
  · rw [decide_eq_false (Nat.not_le.2 few), Bool.and_false]
  · rw [no, Bool.false_and]

theorem find?_starved_none (h : ∀ k, k < 3 → starve.getD k 0 < 64 ∨ el k = false) :
    (List.range 3).find? (fun p => el p && decide (64 ≤ starve.getD p 0)) = none :=
  List.find?_eq_none.2 fun k hk => Bool.eq_false_iff.1 (not_starved (h k (List.mem_range.1 hk)))

/-- With no priority that may start, none does. -/
theorem pickPrio_none (h : ∀ p, p < 4 → el p = false) : pickPrio starve el = none := by
  simp only [pickPrio, find?_starved_none fun k hk => .inr (h k (by omega))]
  simp [h]

/-- With no lower one that has waited 64 starts, the highest that may start does. -/
theorem pickPrio_highest (hp : p < 4) (hel : el p = true) (above : ∀ k, p < k → k < 4 → el k = false)
    (waited : ∀ k, k < 3 → starve.getD k 0 < 64 ∨ el k = false) : pickPrio starve el = some p := by
  simp only [pickPrio, find?_starved_none waited]
  obtain rfl | rfl | rfl | rfl : p = 0 ∨ p = 1 ∨ p = 2 ∨ p = 3 := by omega
  · simp [hel, above]
  · simp [hel, above]
  · simp [hel, above]
  · simp [hel]

/-- The lowest that may start and has waited 64 starts comes first. -/
theorem pickPrio_starved (hp : p < 3) (hel : el p = true) (waited : 64 ≤ starve.getD p 0)
    (below : ∀ k, k < p → starve.getD k 0 < 64 ∨ el k = false) : pickPrio starve el = some p := by
  have here : (List.range 3).find? (fun p => el p && decide (64 ≤ starve.getD p 0)) = some p :=
    List.find?_range_eq_some.2 ⟨by rw [hel, decide_eq_true waited]; rfl, List.mem_range.2 hp,
      fun k hk => by rw [not_starved (below k hk)]; rfl⟩
  simp only [pickPrio, here]

/-- What a priority has waited after a start slot that takes another. -/
theorem nextStarve_getD {k : Nat} (hk : k < 3) : (nextStarve starve el (some p)).getD k 0 =
    if el k = false ∨ k = p then 0 else if k < p then starve.getD k 0 + 1 else starve.getD k 0 := by
  have get : (List.range 3)[k]? = some k := by simp [hk]
  simp only [nextStarve, List.getD_eq_getElem?_getD, List.getElem?_map, get, Option.map_some, Option.getD_some, Bool.not_eq_true',
    Option.some.injEq, eq_comm (a := p)]

theorem nextStarve_none (h : ∀ p, p < 4 → el p = false) : nextStarve starve el none = [0, 0, 0] := by
  simp [nextStarve, List.range_succ, h]

end Start

/-- A start slot in which nothing may start counts no start. -/
theorem exec_launchStart_idle (now : Says.regionNow s = some r) (idle : ∀ p, p < 4 → s.eligible r p = false) :
    exec .launchStart s = .next (s.setRegion { r with starve := [0, 0, 0] }) := by
  have there : s.region s.cur s.input.bslot = some r := now
  show execLaunchStart s = _
  simp only [execLaunchStart, there, pickPrio_none idle, Option.bind_none, nextStarve_none idle]

/-- A start slot starts the head of the priority that it takes. -/
theorem exec_launchStart_picked {p : Nat} {q : LaunchRec} (now : Says.regionNow s = some r)
    (picked : pickPrio r.starve (s.eligible r) = some p) (head : r.headOf p = some q) :
    let st := nextStarve r.starve (s.eligible r) (some p)
    exec .launchStart s = .next ((s.setRegion { r with starve := st }).startRec { r with starve := st } q) := by
  have there : s.region s.cur s.input.bslot = some r := now
  show execLaunchStart s = _
  simp only [execLaunchStart, there, picked, Option.bind_some, head]

/-! ## The obligation -/

/-- Settles O32: launch by what stands in its way, then param, the record's arrival, and the start slot by the priority it takes. -/
theorem launches : Obligations.Launches := by
  unfold Obligations.Launches
  refine ⟨⟨fun d a p s h s1 r free reads room mine => ⟨fun opened lead pre0 pre1 place => ?_, fun e why => ?_⟩,
      fun d a p s h s1 e free reads room bad => exec_launch_error free reads room bad,
      fun d a p s h s1 free reads full => exec_launch_full free reads full,
      fun a b n s h w s1 r free reads mine => ⟨fun opened => ?_, fun closed => ?_⟩,
      fun s r o rest now oldest room register => ?_⟩,
    fun s r now idle => ?_, fun s r p q now hp eligible head above waited => ?_, fun s r p q now hp eligible waited head below => ?_⟩
  · obtain ⟨u, place⟩ := place
    exact exec_launch_sends free reads room mine (by simp [launchRefusal, opened, lead, pre0, pre1]) place
  · refine exec_launch_refused free reads room mine ?_
    rcases why with ⟨closed, rfl⟩ | ⟨opened, slave, rfl⟩ | ⟨opened, lead, pre, rfl⟩
    · simp [launchRefusal, closed]
    · simp [launchRefusal, opened, slave]
    · simp only [launchRefusal, opened, lead, pre]; rfl
  · rw [exec_param_mine free reads mine, opened]; rfl
  · rw [exec_param_mine free reads mine, closed]; rfl
  · have there : s.region s.cur s.input.bslot = some r := now
    obtain ⟨-, here, -⟩ := State.region_some there
    refine ⟨s.enqueueRec r, ?_, ?_⟩
    · show execLaunchRecordEnqueue s = _
      simp only [execLaunchRecordEnqueue, there, room, if_true]
    · rw [State.enqueueRec_register here oldest register, State.deliver_register]
      split
      · exact ⟨rfl, by simp, by simp, rfl⟩
      · exact ⟨rfl, by simp, by simp, rfl⟩
  · exact exec_launchStart_idle now idle
  · refine ⟨_, fun k hk => ?_, exec_launchStart_picked now (pickPrio_highest hp eligible above waited) head⟩
    rw [nextStarve_getD hk]
    by_cases may : s.eligible r k = true
    · have le : k ≤ p := Nat.le_of_not_lt fun lt => by simp [above k lt (by omega)] at may
      by_cases e : k = p
      · simp [e]
      · simp [may, e, Nat.lt_of_le_of_ne le e]
    · simp [may]
  · refine ⟨_, fun k hk => ?_, exec_launchStart_picked now (pickPrio_starved hp eligible waited below) head⟩
    rw [nextStarve_getD hk]

end Sys2Proof.Machine
end

section
/-! The proof against O20: a new job after a job that was cancelled. -/

namespace Sys2Proof.Machine

/-! ## JCC_TARGET after cancel.job (R43, R135)

Against O20 stands its clause of JCC_TARGET, which leaves every other field of the partition as it was. cancel.job marks the job
(`jobCancel`), so that it ends cancelled once none of its phases is left, and a write of JCC_TARGET opens a new job, which is not
marked. In `cancelledJob` the job before was cancelled. -/

/-- A partition whose job has been cancelled. -/
def cancelledJob : State := State.reset.setPart 0 { State.reset.part 0 with jobCancel := true }

/-- Whether the job of partition 0 is marked as cancelled after a step. -/
def jobCancelAfter : Out → Bool
  | .next s => (s.part 0).jobCancel
  | _ => false

/-- Refutes O20: a write of JCC_TARGET in `cancelledJob` takes the mark of cancel.job away, where the statement leaves it. -/
theorem not_bindingWrites : ¬ Obligations.BindingWrites := by
  unfold Obligations.BindingWrites
  rintro ⟨-, target, -⟩
  exact absurd (congrArg jobCancelAfter (target cancelledJob)) (by decide)

end Sys2Proof.Machine
end

section
/-! The proof against O36: a copy that fails beside an older one of its serial. -/

namespace Sys2Proof.Machine

/-! ## A copy of a serial that has come again (R40, R141)

The last clause of O36 is of a copy that is charged to no launch, has no channel and fails: it leaves every region as it is. In
`twinState`, which refutes O37 too, an older copy of the same serial is charged to a queued launch, and its token has not been
drained; the failure drains the token by the serial, and the queued launch counts a landed copy. -/

/-- Refutes O36: COPY_COMPLETE of the failed copy of `twinState` counts a landed copy at the queued launch. -/
theorem not_copyLife : ¬ Obligations.CopyLife := by
  unfold Obligations.CopyLife
  rintro ⟨-, ends⟩
  obtain ⟨-, fails⟩ := ends twinState twinCopy [] [] rfl rfl rfl rfl
  exact absurd (congrArg landedAfter (fails eLINK rfl rfl)) (by decide)

end Sys2Proof.Machine
end

section
/-! The proof of O30: cfgld by what the image and the binding slots allow, cfgchk by the staging's verdict, and the verification. -/

namespace Sys2Proof.Machine

variable {s s1 u : State} {r : Region} {g : Staging} {a b d : Reg} {x y h w : Word} {hd : ImgHdr} {org : TileId}
  {hb sig eb : List Byte} {es : List Edge} {k : BitVec 3} {gen : BitVec 32} {ps : List RangePair}

/-! ## cfgld (R117, R118) -/

theorem cfgld_answers (free : Says.Free s) (reads : Says.Reads s [a, b] [x, y] s1) (staged : s1.stage x y = some (w, u)) :
    Says.Answers (.cfgld d a b) s d w u :=
  answers_of_reads free reads rfl (by simp only [List.getD_cons_zero, List.getD_cons_succ, staged])

theorem cfgld_waits (free : Says.Free s) (reads : Says.Reads s [a, b] [x, y] s1) (staged : s1.stage x y = none) :
    exec (.cfgld d a b) s = .next s := by
  rw [exec_of_reads free reads rfl]
  simp only [List.getD_cons_zero, List.getD_cons_succ, staged]

/-- The region of the acting core that has an image's origin and size. -/
def State.sameRegion (s : State) (hd : ImgHdr) (org : TileId) : Option Region :=
  s.regions.find? fun r => r.core == s.cur && r.origin == org && r.w == hd.w && r.h == hd.h

/-- An image is refused for its header, its edge table or its origin, or is staged unless its region waits for a commit. -/
theorem State.stage_header_error (header : s.loadHeader x y = .error w) : s.stage x y = some (w, s) := by
  simp only [State.stage, header]

section Header
variable (header : s.loadHeader x y = .ok (hd, org, hb, sig))
include header

theorem State.stage_edges_error (edges : s.loadEdges hd org x.toNat = .error w) : s.stage x y = some (w, s) := by
  simp only [State.stage, header, edges]

variable (edges : s.loadEdges hd org x.toNat = .ok (es, eb))
include edges

theorem State.stage_origin_bad (origin : s.originOk hd org y = false) : s.stage x y = some (refuse 0x28, s) := by
  simp only [State.stage, header, edges, origin, Bool.not_false, if_true]

theorem State.stage_origin_ok (origin : s.originOk hd org y = true) : s.stage x y =
    if (s.sameRegion hd org).any (·.commitWait) then none else some (s.stageOn x hd org hb sig es eb (s.sameRegion hd org)) := by
  simp only [State.stage, header, edges, origin, Bool.not_true, Bool.false_eq_true, if_false]
  rfl

end Header

/-- The binding slots of the acting core that hold no region. -/
def State.freeSlots (s : State) : List Nat := (List.range 8).filter fun n => (s.region s.cur (BitVec.ofNat 3 n)).isNone

theorem State.stageOn_noSlot (full : s.freeSlots = []) : s.stageOn x hd org hb sig es eb none = (refuse 0x2C, s) := by
  simp only [State.stageOn, show (List.range 8).filter _ = [] from full, List.isEmpty_nil, if_true]

theorem State.stageOn_slot (room : s.freeSlots ≠ []) : s.stageOn x hd org hb sig es eb none =
    let k : BitVec 3 := BitVec.ofNat 3 (s.freeSlots.getD (Config.slotPick s.fresh % s.freeSlots.length) 0)
    State.stageFresh { s with fresh := s.fresh + 1 } x hd org hb sig es eb k (s.core.gens[k.toNat]'k.isLt) := by
  have some : s.freeSlots.isEmpty = false := List.isEmpty_eq_false_iff.2 room
  simp only [State.stageOn]
  exact if_neg (by rw [← State.freeSlots, some]; exact Bool.false_ne_true)

theorem State.stageFresh_error (body : s.loadBody x hd org hb sig es eb none (s.core.gmodeOf k) gen = .error w) :
    s.stageFresh x hd org hb sig es eb k gen = (w, s) := by
  simp only [State.stageFresh, body]

theorem State.stageFresh_ok (body : s.loadBody x hd org hb sig es eb none (s.core.gmodeOf k) gen = .ok (g, ps)) :
    s.stageFresh x hd org hb sig es eb k gen =
      let r := { Region.fresh s.cur k s.pid org hd.w hd.h gen with staging := some g }
      (r.handle, State.logPairs { s with regions := s.regions ++ [r] } ps) := by
  simp only [State.stageFresh, body]

section Resident
variable (resident : r.resident = true) (unstaged : r.staging = none)
include resident unstaged

theorem State.stageOn_resident_error (body : s.loadBody x hd org hb sig es eb (some r.bslot) (s.core.gmodeOf r.bslot) (s.nextSerial r) = .error w) :
    s.stageOn x hd org hb sig es eb (some r) = (w, s) := by
  simp only [State.stageOn, unstaged, resident, body, Option.isSome_none, Bool.false_eq_true, if_false, if_true]

theorem State.stageOn_resident_ok (body : s.loadBody x hd org hb sig es eb (some r.bslot) (s.core.gmodeOf r.bslot) (s.nextSerial r) = .ok (g, ps)) :
    s.stageOn x hd org hb sig es eb (some r) =
      ({ r with serial := s.nextSerial r }.handle, (s.setRegion { r with staging := some g }).logPairs ps) := by
  simp only [State.stageOn, unstaged, resident, body, Option.isSome_none, Bool.false_eq_true, if_false, if_true]

end Resident

/-! ## cfgchk (R120) -/

section Cfgchk
variable (free : Says.Free s) (reads : Says.Reads s [a] [h] s1)
include free reads

theorem cfgchk_error {e : Int} (bad : s1.graphMine h = .error e) : Says.Answers (.cfgchk d a) s d (hStatus e) s1 :=
  answers_of_reads free reads rfl (by simp only [List.getD_cons_zero, bad])

variable (mine : s1.graphMine h = .ok r)
include mine

theorem cfgchk_unstaged (none : r.stagingOf h = none) : Says.Answers (.cfgchk d a) s d (hStatus hNOSTAGE) s1 :=
  answers_of_reads free reads rfl (by simp only [List.getD_cons_zero, mine, none])

variable (staged : r.stagingOf h = some g)
include staged

theorem cfgchk_passes (good : g.sigOk = some true) (crc : g.crcBad = []) :
    Says.Answers (.cfgchk d a) s d 0 (s1.setRegion { r with staging := some { g with passed := true } }) :=
  answers_of_reads free reads rfl (by
    simp only [List.getD_cons_zero, mine, staged, good, crc, List.head?_nil, Bool.not_true, Bool.false_eq_true, if_false])

theorem cfgchk_crc {t : TileId} {rest : List TileId} (good : g.sigOk = some true) (crc : g.crcBad = t :: rest) :
    Says.Answers (.cfgchk d a) s d (refusal 0x2F 0 0 (some t)) s1 :=
  answers_of_reads free reads rfl (by
    simp only [List.getD_cons_zero, mine, staged, good, crc, List.head?_cons, Bool.not_true, Bool.false_eq_true, if_false])

theorem cfgchk_signature (bad : g.sigOk = some false) : Says.Answers (.cfgchk d a) s d (refuse 0x2E) s1 :=
  answers_of_reads free reads rfl (by simp only [List.getD_cons_zero, mine, staged, bad, Bool.not_false, if_true])

/-- With no verdict yet it asks the security processor once, when the queue has room, and waits. -/
theorem exec_cfgchk_unverified (none : g.sigOk = none) : exec (.cfgchk d a) s = .next
    (if !g.asked ∧ (s.part r.part).chkq.length < 4 then
      (s.setPart r.part { s.part r.part with chkq := (s.part r.part).chkq ++ [(r.core, r.bslot)] }).setRegion
        { r with staging := some { g with asked := true } }
    else s) := by
  rw [exec_of_reads free reads rfl]
  simp only [List.getD_cons_zero, mine, staged, none]

end Cfgchk

/-! ## The verification (R399) -/

/-- The next partition in turn that has a request is the first behind the one served last. -/
theorem State.nextVerified_eq {n : Nat} (hn : n < 16) (before : ∀ k < n, (s.part (s.verified + 1 + BitVec.ofNat 4 k)).chkq = [])
    (asks : (s.part (s.verified + 1 + BitVec.ofNat 4 n)).chkq ≠ []) : s.nextVerified = s.verified + 1 + BitVec.ofNat 4 n := by
  have first : (List.range 16).find? (fun i => !(s.part (s.verified + 1 + BitVec.ofNat 4 i)).chkq.isEmpty) = some n :=
    List.find?_range_eq_some.2 ⟨by rw [List.isEmpty_eq_false_iff.2 asks]; rfl, List.mem_range.2 hn, fun k hk => by rw [before k hk]; rfl⟩
  simp only [State.nextVerified, List.find?_map, Function.comp_def, first, Option.map_some, Option.getD_some]

/-- A region with the verdict on its staging, under a key. -/
def Region.verdict (key : List Byte) (r : Region) : Region :=
  { r with staging := r.staging.map fun (g : Staging) => { g with sigOk := some (g.sig.any (· != 0) && ed448 key g.digest g.sig) } }

theorem Region.verdict_slot (key : List Byte) (r : Region) : (r.verdict key).core = r.core ∧ (r.verdict key).bslot = r.bslot := ⟨rfl, rfl⟩

/-- The region of the request reads back with its verdict. -/
theorem State.region_onVerdict {t : State} {c : Fin 64} {key : List Byte} (same : t.regions = s.regions) (there : s.region c k = some r) :
    (t.onRegion c k (Region.verdict key)).region c k = some (r.verdict key) := by
  have here : t.region c k = some r := by rw [State.region, same]; exact there
  rw [State.region_onRegion (Region.verdict_slot key), here, Option.map_some]

theorem exec_securityProcessorVerify {p : BitVec 4} {c : Fin 64} {rest : List (Fin 64 × BitVec 3)} (next : s.nextVerified = p)
    (queue : (s.part p).chkq = (c, k) :: rest) (out : (s.part p).saved = none) : exec .securityProcessorVerify s = .next
      ((State.setPart { s with verified := p } p { s.part p with chkq := rest }).onRegion c k (Region.verdict (s.part p).cfgKey)) := by
  show execSecurityProcessorVerify s = _
  simp only [execSecurityProcessorVerify, next]
  simp only [show State.part { s with verified := p } p = s.part p from rfl, queue, out]
  rfl

/-! ## The obligation -/

/-- Settles O30: cfgld by the image and its place, cfgchk by the verdict, and the request that is verified. -/
theorem configurationLoads : Obligations.ConfigurationLoads := by
  unfold Obligations.ConfigurationLoads
  refine ⟨fun d a b s x y s1 free reads => ⟨fun w header => cfgld_answers free reads (State.stage_header_error header),
      fun h org hb sig header => ⟨fun w edges => cfgld_answers free reads (State.stage_edges_error header edges),
        fun es eb edges => ⟨fun origin => cfgld_answers free reads (State.stage_origin_bad header edges origin),
          fun origin fresh => ?_, fun origin r same => ?_⟩⟩⟩,
    fun d a s h s1 free reads => ⟨fun e bad => cfgchk_error free reads bad, fun r mine =>
      ⟨fun none => cfgchk_unstaged free reads mine none, fun g staged =>
        ⟨fun good crc => cfgchk_passes free reads mine staged good crc, fun t rest good crc => cfgchk_crc free reads mine staged good crc,
          fun bad => cfgchk_signature free reads mine staged bad, fun none first room => ?_, fun none stands => ?_⟩⟩⟩,
    fun s n c b rest hn before queue out => ?_⟩
  · have stage := State.stage_origin_ok header edges origin
    rw [show s1.sameRegion h org = none from fresh] at stage
    refine ⟨fun full => cfgld_answers free reads (stage.trans ?_), fun room => ⟨fun w body => cfgld_answers free reads (stage.trans ?_),
      fun g ps body => cfgld_answers free reads (stage.trans ?_)⟩⟩
    · exact congrArg some (State.stageOn_noSlot full)
    · exact congrArg some ((State.stageOn_slot room).trans (State.stageFresh_error body))
    · exact congrArg some ((State.stageOn_slot room).trans (State.stageFresh_ok body))
  · have stage := State.stage_origin_ok header edges origin
    rw [show s1.sameRegion h org = some r from same, Option.any_some] at stage
    refine ⟨fun waits => cfgld_waits free reads (stage.trans (if_pos waits)), fun idle resident unstaged => ?_⟩
    rw [idle] at stage
    exact ⟨fun w body => cfgld_answers free reads (stage.trans (congrArg some (State.stageOn_resident_error resident unstaged body))),
      fun g ps body => cfgld_answers free reads (stage.trans (congrArg some (State.stageOn_resident_ok resident unstaged body)))⟩
  · refine ⟨_, exec_cfgchk_unverified free reads mine staged none, ?_⟩
    rw [if_pos ⟨by rw [first]; rfl, room⟩]
    exact ⟨rfl, rfl, congrArg Partition.chkq (State.setPart_part ..)⟩
  · rw [exec_cfgchk_unverified free reads mine staged none, if_neg]
    rintro ⟨first, room⟩
    rcases stands with asked | full
    · simp [asked] at first
    · omega
  · refine ⟨_, exec_securityProcessorVerify (State.nextVerified_eq hn before (queue ▸ List.cons_ne_nil _ _)) queue out, rfl,
      congrArg Partition.chkq (State.setPart_part ..), rfl, rfl, fun r g there staged => ?_⟩
    refine (congrArg (·.bind (·.staging)) (State.region_onVerdict ?_ there)).trans ?_
    · rfl
    · simp only [Option.bind_some, Region.verdict, staged, Option.map_some]

end Sys2Proof.Machine
end

section
/-! The proof of O35: a counter waited for, and read at once. -/

namespace Sys2Proof.Machine

variable {s s1 : State} {a d : Reg} {h : Word} {k : Counter}

/-- What cwait does with a counter that its handle names (R137). -/
theorem exec_cwait (free : Says.Free s) (reads : Says.Reads s [a] [h] s1) (named : s1.counterOf h = .ok k) :
    (k.state = .open_ → exec (.cwait d a) s = .next s) ∧
    (k.state = .complete → Says.Answers (.cwait d a) s d 0 (s1.cwaitAcquire h)) ∧
    (k.state = .cancelled → Says.Answers (.cwait d a) s d (BitVec.ofNat 64 k.cause.toNat) (s1.cwaitAcquire h)) := by
  refine ⟨fun running => ?_, fun complete => ?_, fun cancelled => ?_⟩
  · rw [exec_of_reads free reads rfl]
    simp only [List.getD_cons_zero, named, running]
  · exact answers_of_reads free reads rfl (by simp only [List.getD_cons_zero, named, complete])
  · exact answers_of_reads free reads rfl (by simp only [List.getD_cons_zero, named, cancelled, BitVec.ofNat_toNat])

/-- Settles O35: a handle that names nothing, then the counter by its state. -/
theorem counterReads : Obligations.CounterReads := by
  unfold Obligations.CounterReads
  refine fun d a s h s1 free reads => ⟨fun e bad => ⟨?_, ?_⟩, fun k named => ⟨?_, exec_cwait free reads named⟩⟩
  · exact answers_of_reads free reads rfl (by simp only [List.getD_cons_zero, bad])
  · exact answers_of_reads free reads rfl (by simp only [List.getD_cons_zero, bad])
  · exact answers_of_reads free reads rfl (by simp only [List.getD_cons_zero, named])

end Sys2Proof.Machine
end

section
/-! The proof of O31: cfgcommit by what stands in the staging, and the commit applied to the empty region. -/

namespace Sys2Proof.Machine

variable {s s1 : State} {r : Region} {g : Staging} {a : Reg} {h : Word}

/-! ## What an install leaves of the regions (R121, R153) -/

theorem State.initCbuf_regions (s : State) (p : BitVec 4) (sh : Shape) : (s.initCbuf p sh).regions = s.regions :=
  foldl_keeps State.regions fun s i => by split <;> rfl

/-- Making the cbufs of a record ready changes no region. -/
theorem State.initCbufs_regions (s : State) (p : BitVec 4) (q : TileRec) : (s.initCbufs p q).regions = s.regions :=
  foldl_keeps State.regions fun s b => foldl_keeps State.regions fun s c => by
    split
    · exact State.initCbuf_regions ..
    · rfl

/-- The region that a commit leaves, whatever its tiles then hold. -/
def Region.installed (r : Region) (g : Staging) : Region :=
  { r with resident := true, tiles := g.recs.map (fun (q : TileRec) => q.tile), edges := g.edges,
           lpos := g.recs.map (fun (q : TileRec) => (q.tile, q.lcol, q.lrow)), serial := g.serial, ckGen := 0, staging := none,
           commitWait := false, targets := (List.range 4).map (targetOf g.recs) }.openEpoch

/-- A commit replaces the region by what was staged. -/
theorem State.install_region (h : r ∈ s.regions) : ∃ serving, { r.installed g with serving } ∈ (s.install r g).regions := by
  let s1 := (r.tiles.filter (!(g.recs.map (·.tile)).contains ·)).foldl (fun s t => s.onTile t fun x => { x with cfgs := [] }.select 0) s
  let s2 := g.recs.foldl (fun s q =>
    ((s.onTile q.tile fun x => { x with cfgs := q.blocks, broken := false }.select r.sel).loadWeights q).initCbufs r.part q) s1
  have regions : s2.regions = s.regions := calc
    s2.regions = s1.regions := foldl_keeps State.regions fun _ _ => State.initCbufs_regions ..
    _ = s.regions := foldl_keeps State.regions fun _ _ => rfl
  have there : r ∈ s2.regions := regions ▸ h
  exact ⟨s2.servingOf (r.installed g), State.mem_setRegion there rfl rfl⟩

/-! ## The instruction and the steps -/

theorem exec_cfgcommit (free : Says.Free s) (reads : Says.Reads s [a] [h] s1) (mine : s1.graphMine h = .ok r)
    (staged : r.stagingOf h = some g) : exec (.cfgcommit a) s = .next (if !g.passed then s.trap tCFGSTATE h
      else if r.resident then (s1.setRegion { r with commitWait := true, serial := g.serial }).retire
      else (s1.install r g).retire) := by
  rw [exec_of_reads free reads rfl]
  simp only [List.getD_cons_zero, mine, staged]

theorem exec_commitApply (now : Says.regionNow s = some r) (staged : r.staging = some g) (waits : r.commitWait = true)
    (idle : r.live = []) (decided : r.decision = none) : exec .commitApply s = .next
      (if s.regionEmpty r then s.install { r with fenced := true } g else s.setRegion { r with fenced := true }) := by
  have there : s.region s.cur s.input.bslot = some r := now
  show execCommitApply s = _
  simp only [execCommitApply, there, staged, waits, idle, decided, and_self, if_true]

/-- Settles O31: cfgcommit by the staging's verdict, the commit by what the region still holds, and what the commit leaves. -/
theorem configurationCommits : Obligations.ConfigurationCommits := by
  unfold Obligations.ConfigurationCommits
  refine ⟨fun a s h s1 r g free reads mine staged => ⟨fun failed => ?_, fun passed fresh => ?_, fun passed resident => ?_⟩,
    fun s r g now staged waits idle decided => ⟨fun empty => ?_, fun holds => ?_⟩, fun s r g h => ?_, fun s r now fenced done => ?_⟩
  · rw [exec_cfgcommit free reads mine staged, failed]; rfl
  · rw [exec_cfgcommit free reads mine staged, passed, fresh]; rfl
  · rw [exec_cfgcommit free reads mine staged, passed, resident]; rfl
  · rw [exec_commitApply now staged waits idle decided, if_pos empty]
  · rw [exec_commitApply now staged waits idle decided, holds]; rfl
  · obtain ⟨serving, there⟩ := State.install_region (g := g) h
    exact ⟨_, there, rfl, rfl, rfl, rfl, rfl, rfl, rfl, rfl, rfl⟩
  · have there : s.region s.cur s.input.bslot = some r := now
    show execReconfigFenceLift s = _
    simp only [execReconfigFenceLift, there, fenced, done, Bool.not_false, and_self, if_true]

end Sys2Proof.Machine
end

section
/-! The proof of O34: a phase entered, acknowledged, started, closed by phend and cancelled from outside. -/

namespace Sys2Proof.Machine

variable {s s1 : State} {r : Region} {ph : Phase} {es : List PhaseEntry} {a d : Reg} {w : Word} {k : PhaseKey} {c c' : Fin 64}
  {b b' : BitVec 3}

/-! ## Regions that join a phase (R132) -/

/-- A region of one key is found as before when one of another is replaced. -/
theorem find?_updFirst_other {α : Type} {p q : α → Bool} {f : α → α} (h : ∀ x, p x = true → q x = false ∧ q (f x) = false) (l : List α) :
    (updFirst p f l).find? q = l.find? q := by
  induction l with
  | nil => rfl
  | cons x l ih =>
    cases hx : p x
    · simp [updFirst, hx, List.find?_cons, ih]
    · simp [updFirst, hx, h x hx]

theorem State.region_onRegion_other {f : Region → Region} (h : ∀ x, (f x).core = x.core ∧ (f x).bslot = x.bslot) (other : ¬ (c' = c ∧ b' = b)) :
    (s.onRegion c b f).region c' b' = s.region c' b' := by
  refine find?_updFirst_other (fun x hx => ?_) s.regions
  simp only [Bool.and_eq_true, beq_iff_eq] at hx
  obtain ⟨rfl, rfl⟩ := hx
  have miss : (x.core == c' && x.bslot == b') = false := by
    rw [Bool.eq_false_iff, Ne, Bool.and_eq_true, beq_iff_eq, beq_iff_eq]
    exact fun e => other ⟨e.1.symm, e.2.symm⟩
  exact ⟨miss, by rw [(h x).1, (h x).2]; exact miss⟩

/-- The region of an entry that has joined a phase. -/
def Region.joins (r : Region) (k : PhaseKey) (es : List PhaseEntry) (e : PhaseEntry) : Region :=
  { r with phase := some k, phaseCount := e.count.toNat, phaseDone := 0, slave := isSlave es e }

theorem Region.joins_slot (k : PhaseKey) (es : List PhaseEntry) (e : PhaseEntry) (r : Region) :
    (r.joins k es e).core = r.core ∧ (r.joins k es e).bslot = r.bslot := ⟨rfl, rfl⟩

/-- A binding slot holds a region of a phase. -/
def State.inPhase (s : State) (k : PhaseKey) (c : Fin 64) (b : BitVec 3) : Prop := (s.region c b).bind (·.phase) = some k

/-- A region that joins the phase is in it, and one that was stays in it. -/
theorem State.onRegion_joins {e : PhaseEntry} (h : (c' = c ∧ b' = b ∧ (s.region c b).isSome = true) ∨ s.inPhase k c' b') :
    (s.onRegion c b fun r => r.joins k es e).inPhase k c' b' := by
  by_cases here : c' = c ∧ b' = b
  · obtain ⟨rfl, rfl⟩ := here
    have some : (s.region c' b').isSome = true := by
      rcases h with ⟨-, -, some⟩ | there
      · exact some
      · exact Option.isSome_of_isSome_bind (by rw [there]; rfl)
    obtain ⟨x, hx⟩ := Option.isSome_iff_exists.1 some
    rw [State.inPhase, State.region_onRegion (Region.joins_slot k es e), hx]
    rfl
  · rw [State.inPhase, State.region_onRegion_other (Region.joins_slot k es e) here]
    exact h.resolve_left fun ⟨hc, hb, _⟩ => here ⟨hc, hb⟩

/-- A region stands in its binding slot whatever regions join. -/
theorem State.onRegion_joins_isSome {e : PhaseEntry} (h : (s.region c' b').isSome = true) :
    ((s.onRegion c b fun r => r.joins k es e).region c' b').isSome = true := by
  by_cases here : c' = c ∧ b' = b
  · obtain ⟨rfl, rfl⟩ := here
    rw [State.region_onRegion (Region.joins_slot k es e), Option.isSome_map, h]
  · rwa [State.region_onRegion_other (Region.joins_slot k es e) here]

/-- Every region that joins is in the phase at the end, and every one that was in it before. -/
theorem State.foldl_joins (l : List (PhaseEntry × Region)) (s : State)
    (h : ((∃ q ∈ l, q.2.core = c ∧ q.2.bslot = b) ∧ (s.region c b).isSome = true) ∨ s.inPhase k c b) :
    (l.foldl (fun s q => s.onRegion q.2.core q.2.bslot fun r => r.joins k es q.1) s).inPhase k c b := by
  induction l generalizing s with
  | nil => exact h.resolve_left fun ⟨⟨q, hq, _⟩, _⟩ => by cases hq
  | cons x l ih =>
    refine ih _ ?_
    rcases h with ⟨⟨q, hq, rfl, rfl⟩, there⟩ | h
    · rcases List.mem_cons.1 hq with rfl | hq
      · exact .inr (State.onRegion_joins (.inl ⟨rfl, rfl, there⟩))
      · exact .inl ⟨⟨q, hq, rfl, rfl⟩, State.onRegion_joins_isSome there⟩
    · exact .inr (State.onRegion_joins (.inr h))

/-- The regions that a phase's entries name are regions of the module. -/
theorem State.phaseRegions_mem {q : PhaseEntry × Region} (h : q ∈ s.phaseRegions es) : q.2 ∈ s.regions := by
  obtain ⟨e, -, named⟩ := List.mem_filterMap.1 h
  obtain ⟨x, found, rfl⟩ := Option.map_eq_some_iff.1 named
  unfold State.entryOf at found
  split at found
  · exact List.mem_of_find?_eq_some found
  · cases found

theorem State.joinAll_inPhase {q : PhaseEntry × Region} (h : q ∈ s.phaseRegions es) : (s.joinAll k es).inPhase k q.2.core q.2.bslot :=
  State.foldl_joins (s.phaseRegions es) s (.inl ⟨⟨q, h, rfl, rfl⟩, State.region_isSome (State.phaseRegions_mem h)⟩)

/-- Joining a phase leaves memory, cores, tiles and partitions. -/
theorem State.joinAll_frame (s : State) (k : PhaseKey) (es : List PhaseEntry) : (s.joinAll k es).mem = s.mem ∧
    (s.joinAll k es).cores = s.cores ∧ (s.joinAll k es).tiles = s.tiles ∧ (s.joinAll k es).parts = s.parts :=
  ⟨foldl_keeps State.mem fun _ _ => rfl, foldl_keeps State.cores fun _ _ => rfl, foldl_keeps State.tiles fun _ _ => rfl,
    foldl_keeps State.parts fun _ _ => rfl⟩

/-! ## phase (R132, R133) -/

/-- The phase that a descriptor's entries make: it waits for every die and module that the entries name (R133). -/
def State.newPhase (s : State) (es : List PhaseEntry) : Phase :=
  ⟨s.module, (s.part s.pid).nextPhase, es, Counter.zero,
    ((s.phaseRegions es).map fun q => Acker.die (dieOf q.2.core)).eraseDups ++ (s.awayModules es).map Acker.module,
    false, false, false, false, s.cur⟩

/-- The phase recorded in its partition. -/
def State.recordPhase (s : State) (es : List PhaseEntry) : State :=
  s.setPart s.pid { s.part s.pid with
    phases := (s.part s.pid).phases ++ [s.newPhase es], nextPhase := (s.part s.pid).nextPhase + 1 }

/-- A phase entered: it is recorded, its graphs here join it, and the other modules are told. -/
def State.enterPhase (s : State) (es : List PhaseEntry) : State :=
  ((s.recordPhase es).joinAll (s.module, (s.part s.pid).nextPhase) es).tellAway s.pid (s.part s.pid).nextPhase es
    (.join (namedFrom s.module es))

theorem State.enterPhase_frame (s : State) (es : List PhaseEntry) : (s.enterPhase es).mem = s.mem ∧ (s.enterPhase es).cores = s.cores ∧
    (s.enterPhase es).tiles = s.tiles ∧ (s.enterPhase es).parts = (s.recordPhase es).parts :=
  (s.recordPhase es).joinAll_frame (s.module, (s.part s.pid).nextPhase) es

theorem State.enterPhase_part (s : State) (es : List PhaseEntry) : (s.enterPhase es).part s.pid = { s.part s.pid with
    phases := (s.part s.pid).phases ++ [s.newPhase es], nextPhase := (s.part s.pid).nextPhase + 1 } := by
  obtain ⟨-, -, -, parts⟩ := s.enterPhase_frame es
  have same : (s.enterPhase es).part s.pid = (s.recordPhase es).part s.pid := by simp only [State.part, parts]
  exact same.trans (State.setPart_part ..)

section Phase
variable (free : Says.Free s) (reads : Says.Reads s [a] [w] s1)
include free reads

theorem exec_phase_malformed (bad : s1.phaseDesc w = none) : Says.Answers (.phase d a) s d (hStatus hDESC) s1 :=
  answers_of_reads free reads rfl (by simp only [List.getD_cons_zero, bad])

theorem exec_phase_refused {e : Int} (desc : s1.phaseDesc w = some es) (bad : s1.phaseRefusal es = some e) :
    Says.Answers (.phase d a) s d (hStatus e) s1 :=
  answers_of_reads free reads rfl (by simp only [List.getD_cons_zero, desc, bad])

theorem exec_phase_full (desc : s1.phaseDesc w = some es) (ok : s1.phaseRefusal es = none)
    (full : 16 ≤ ((s1.part s1.pid).phases.filter (·.pcc.state = .open_)).length) : Says.Answers (.phase d a) s d (hStatus hBUSY) s1 :=
  answers_of_reads free reads rfl (by simp only [List.getD_cons_zero, desc, ok, if_pos full])

theorem exec_phase_enters (desc : s1.phaseDesc w = some es) (ok : s1.phaseRefusal es = none)
    (room : ((s1.part s1.pid).phases.filter (·.pcc.state = .open_)).length < 16) :
    Says.Answers (.phase d a) s d (phaseHandle s1.pid (s1.part s1.pid).nextPhase) (s1.enterPhase es) :=
  answers_of_reads free reads rfl (by
    simp only [List.getD_cons_zero, desc, ok, if_neg (Nat.not_le.2 room)]
    rfl)

/-! ## phend (R131) -/

theorem exec_phend_graph (level : hLevel w ≠ 3) (mine : s1.graphMine w = .ok r) (out : s1.inLivePhase r = false) :
    exec (.phend a) s = .next (s1.closeEpoch r).retire := by
  rw [exec_of_reads free reads rfl]
  simp only [List.getD_cons_zero, if_neg level, mine, out, Bool.false_eq_true, if_false]

theorem exec_phend_phase (level : hLevel w = 3) (named : s1.phaseOf w = .ok ph) (waits : ph.started = false) :
    exec (.phend a) s = .next ((s1.onPhase s1.pid ph.serial fun x => { x with phended := true }).tellAway s1.pid ph.serial ph.entries
      .close).retire := by
  rw [exec_of_reads free reads rfl]
  simp only [List.getD_cons_zero, if_pos level, named, waits, Bool.false_eq_true, if_false]

end Phase

/-! ## Acknowledgements, start and cancellation (R41, R43, R133) -/

/-- What R133 asks of the entries on a die. -/
theorem State.entriesReady_of {n : BitVec 2} (h : ∀ q ∈ s.phaseRegions es, dieOf q.2.core = n → q.2.resident = true ∧
    (∀ g, q.2.staging = some g → g.serial ≠ hSerial q.1.graph) ∧ q.2.commitWait = false ∧ q.2.fenced = false ∧ q.2.decision = none) :
    s.entriesReady es (some n) = true := by
  refine List.all_eq_true.2 fun q hq => ?_
  by_cases die : dieOf q.2.core = n
  · obtain ⟨resident, unstaged, idle, open_, decided⟩ := h q hq die
    have staged : q.2.staging.any (fun g => g.serial == hSerial q.1.graph) = false := by
      cases e : q.2.staging with
      | none => rfl
      | some g => simpa using unstaged g e
    simp [resident, staged, idle, open_, decided]
  · simp [Ne.symm die]

section Steps
variable (found : (s.part s.input.p).phases.find? (·.serial = s.input.serial) = some ph) (live : ph.pcc.state = .open_)
include found live

theorem exec_phaseAck_module {m : BitVec 10} (who : s.input.who = .module m) (plain : s.input.hub = none)
    (awaited : ph.acks.contains s.input.who = true) : exec .phaseAck s = .next
      (if s.input.ok then (s.onPhase s.input.p ph.serial fun x => { x with acks := x.acks.erase s.input.who }).onPhase s.input.p ph.serial
          fun x => { x with entries := tellSinks m x.entries s.input.far }
        else (s.failPhase s.input.p ph ⟨m, ⟨0, 0, 0⟩, ePEER⟩).jobCount s.input.p (some ⟨m, ⟨0, 0, 0⟩, ePEER⟩)) := by
  rw [who] at awaited
  show execPhaseAck s = _
  simp only [execPhaseAck, who, plain, found, awaited, live, Bool.not_true, Bool.false_eq_true, ne_eq, not_true, or_self, if_false]

theorem exec_phaseAck_die {n : BitVec 2} (who : s.input.who = .die n) (awaited : ph.acks.contains s.input.who = true)
    (ready : s.entriesReady ph.entries (some n) = true) :
    exec .phaseAck s = .next (s.onPhase s.input.p ph.serial fun x => { x with acks := x.acks.erase s.input.who }) := by
  rw [who] at awaited
  show execPhaseAck s = _
  simp only [execPhaseAck, who, found, awaited, live, ready, Bool.not_true, Bool.false_eq_true, ne_eq, not_true, or_self, if_false, if_true]

theorem exec_phaseStart (waits : ph.started = false) (alive : ph.cancelled = false) (acked : ph.acks = []) :
    let staging := s.cores[ph.core].stageEn
    exec .phaseStart s = .next (((s.onPhase s.input.p ph.serial fun x => { x with started := true, staging }).tellAway s.input.p ph.serial
      ph.entries (.begin_ staging)).beginPhase ph) := by
  show execPhaseStart s = _
  simp only [execPhaseStart, found, live, waits, alive, acked, Bool.false_eq_true, ne_eq, not_true, or_self, if_false]

/-- A phase of this module is cancelled by what its hub or its core's module tells. -/
theorem exec_remotePhaseCancel_own (who : (∃ n, s.input.who = .die n) ∨ s.input.who = .module s.module)
    (out : (s.part s.input.p).saved = none) (alive : ph.cancelled = false) :
    exec .remotePhaseCancel s = .next (s.cancelPhase s.input.p ph s.input.module) := by
  show execRemotePhaseCancel s = _
  rcases who with ⟨n, who⟩ | who <;>
    simp [execRemotePhaseCancel, who, out, found, live, alive]

end Steps

/-- This module's graphs of another module's phase are cancelled. -/
theorem exec_remotePhaseCancel_guest {m : BitVec 10} (other : m ≠ s.module) (who : s.input.who = .module m)
    (out : (s.part s.input.p).saved = none) (met : s.phaseAt s.input.p (m, s.input.serial) = some ph) (alive : ph.cancelled = false) :
    exec .remotePhaseCancel s = .next
      ((s.onGuest s.input.p (m, s.input.serial) fun x => { x with cancelled := true }).cancelEntries s.input.p ph s.input.module) := by
  show execRemotePhaseCancel s = _
  simp [execRemotePhaseCancel, who, out, other, State.cancelGuest, State.meetGuest, met, alive]

/-! ## The obligation -/

/-- Settles O34: phase and phend by what their register names, then each step of the phase's life. -/
theorem phaseLife : Obligations.PhaseLife := by
  unfold Obligations.PhaseLife
  refine ⟨fun d a s x s1 es free reads desc ok room => ?_,
    fun d a s x s1 free reads => ⟨fun bad => exec_phase_malformed free reads bad, fun es desc =>
      ⟨fun e bad => exec_phase_refused free reads desc bad, fun ok full => exec_phase_full free reads desc ok full⟩⟩,
    fun a s h s1 free reads => ⟨fun r level mine out => exec_phend_graph free reads level mine out,
      fun ph level named waits => exec_phend_phase free reads level named waits⟩,
    fun s ph found live => ⟨fun m who plain awaited => ⟨fun ok => ?_, fun bad => ?_⟩, fun n who awaited ready => ?_,
      fun waits alive acked => exec_phaseStart found live waits alive acked,
      fun who out alive => exec_remotePhaseCancel_own found live who out alive⟩,
    fun s ph m other who out met alive => exec_remotePhaseCancel_guest other who out met alive⟩
  · obtain ⟨mem, cores, tiles, -⟩ := s1.enterPhase_frame es
    have part := s1.enterPhase_part es
    refine ⟨s1.enterPhase es, s1.newPhase es, exec_phase_enters free reads desc ok room, mem.trans (reads_frame reads).mem, cores, tiles,
      congrArg Partition.phases part, rfl, rfl, rfl, congrArg Partition.nextPhase part, fun q hq => ?_⟩
    exact State.joinAll_inPhase (s := s1.recordPhase es) hq
  · rw [exec_phaseAck_module found live who plain awaited, if_pos ok]
  · rw [exec_phaseAck_module found live who plain awaited, bad]; rfl
  · exact exec_phaseAck_die found live who awaited (State.entriesReady_of ready)

end Sys2Proof.Machine
end

section
/-! SUPPORT. A token's way into a region, from buffer to buffer, and off its path (R32, R148, R150, R157). -/

namespace Sys2Proof.Machine

variable {s s0 : State} {q : Flight} {t : TileId} {st p side : Nat}

/-! ## Which token moves next -/

/-- The token that moves next to a port is on its way there and can go on. -/
theorem State.nextFlight_some (next : s.nextFlight t st p = some q) :
    q ∈ s.flight ∧ q.dst = t ∧ q.st = st ∧ q.port = p ∧ s.mayMove q = true := by
  have there := List.find?_some next
  simp only [Bool.and_eq_true, beq_iff_eq] at there
  obtain ⟨⟨⟨dst, slot⟩, port⟩, may⟩ := there
  exact ⟨List.mem_of_find?_eq_some next, dst, slot, port, may⟩

/-- The token that moves next to a side of a tile leaves there. -/
theorem State.nextEgress_leaves (next : s.nextEgress t side = some q) : q.leaves = true := by
  have there := List.find?_some next
  simp only [Bool.and_eq_true, beq_iff_eq] at there
  obtain ⟨⟨-, port⟩, -⟩ := there
  simp [Flight.leaves, port]

/-- With no further buffer on its path, a token that can go on is not held out, and is taken. -/
theorem State.mayMove_last (last : q.hops = []) (may : s.mayMove q = true) : s.heldOut q = false ∧ s.takes q = true := by
  simpa only [State.mayMove, last, Bool.and_eq_true, Bool.not_eq_true'] using may

/-- A token at its port is taken in its turn and while the port has room. -/
theorem State.takes_port (last : q.hops = []) (port : q.port < 4) (h : s.takes q = true) :
    s.robWaits q = false ∧ s.portRoom q.dst q.st q.port q.tok = true := by
  simpa [State.takes, Flight.leaves, last, Nat.not_le.2 port] using h

/-- A token at the side of its region is taken while the far end of its edge has room. -/
theorem State.takes_side {r : Region} {e : Edge} (port : 4 ≤ q.port) (there : s.regionOf q.dst = some r)
    (edge : r.edges.find? (fun e => e.id == q.edge && e.ext && !e.xin) = some e) (h : s.takes q = true) : s.endRoom r e 0 = true := by
  simpa [State.takes, Flight.leaves, port, there, edge] using h

/-! ## One step of a token -/

/-- A token with a buffer ahead goes on to it. -/
theorem State.advance_hop {h0 h : TileId × Nat} {rest : List (TileId × Nat)} (hops : q.hops = h0 :: h :: rest) :
    s.advance q = { s with flight := updFirst (· == q) (fun y => { y with hops := h :: rest }) s.flight } := by
  simp only [State.advance, hops]

/-- From its last buffer a token of an ordered edge goes into the reorder buffer. -/
theorem State.advance_reorders {h : TileId × Nat} (hops : q.hops = [h]) (ord : q.reorders = true) :
    s.advance q = { s with flight := updFirst (· == q) (fun y => { y with hops := [] }) s.flight } := by
  simp only [State.advance, hops, ord, if_true]

/-- From its last buffer, or from the reorder buffer, a token leaves its path. -/
theorem State.advance_ends (last : q.hops = [] ∨ ∃ h, q.hops = [h] ∧ q.reorders = false) :
    s.advance q = { s with flight := s.flight.erase q }.ends_ q := by
  rcases last with hops | ⟨h, hops, ord⟩
  · simp only [State.advance, hops]
  · simp only [State.advance, hops, ord, Bool.false_eq_true, if_false]

/-- A token that is no copy's and ends at a port arrives there. -/
theorem State.ends_port (port : q.port < 4) (plain : q.copy = none) : s.ends_ q = s.arrive q.dst q.st q.port q.tok := by
  have stays : q.leaves = false := by simp [Flight.leaves, port]
  simp only [State.ends_, stays, Bool.false_eq_true, if_false, plain, State.drained]

/-- A token that ends at a side of the rectangle leaves its region. -/
theorem State.ends_side {r : Region} (leaves : q.leaves = true) (there : s.regionOf q.dst = some r) :
    s.ends_ q = s.leaveBy r q.edge q.tok := by
  simp only [State.ends_, leaves, if_true, there]

/-! ## Arrival (R32, R41) -/

/-- A token of a launch that the station has purged is discarded. -/
theorem State.arrive_purged {tok : Token} (purged : (s.tileAt t).purged.contains (st, tok.seq) = true) : s.arrive t st p tok = s := by
  simp only [State.arrive, purged, if_true]

/-- At a station that pairs no tokens there is nothing to examine. -/
theorem State.examineAt_single {w : Word32} (word : s.wordAt t st = some w) (single : pairs w = false) : s.examineAt t st = s := by
  simp only [State.wordAt, Option.bind_eq_some_iff] at word
  obtain ⟨r, there, word⟩ := word
  obtain ⟨b, block, op⟩ := Option.bind_eq_some_iff.1 word
  simp only [State.examineAt, there, block, op, single, Bool.false_eq_true, if_false]

/-- A station's word is not changed with the tokens that wait at its tile. -/
theorem State.wordAt_onTile {g : Tile → Tile} (id : (g (s.tileAt t)).id = t) (cfgs : (g (s.tileAt t)).cfgs = (s.tileAt t).cfgs) :
    (s.onTile t g).wordAt t st = s.wordAt t st := by
  have same (n : BitVec 2) : (s.onTile t g).wordIn t n st = s.wordIn t n st := by
    simp only [State.wordIn, State.tileAt_onTile id, Tile.cfg, cfgs]
  simp only [State.wordAt, same]
  rfl

/-- Any other token joins its port's queue, and waits there at a station that pairs none. -/
theorem State.arrive_queued {tok : Token} {w : Word32} (live : (s.tileAt t).purged.contains (st, tok.seq) = false)
    (word : s.wordAt t st = some w) (single : pairs w = false) :
    s.arrive t st p tok = s.onTile t fun y => { y with queue := y.queue ++ [⟨st, p, tok⟩] } := by
  simp only [State.arrive, live, Bool.false_eq_true, if_false]
  exact State.examineAt_single ((State.wordAt_onTile (s.tileAt_id t) rfl).trans word) single

/-! ## The event -/

section Event
variable (entered : s0.letIn s0.tile s0.st s0.input.k.toNat = s)
include entered

/-- Once the boundary has let in what it can, the next token at the port moves. -/
theorem exec_tokenArrival_port (next : s.nextFlight s0.tile s0.st s0.input.k.toNat = some q) :
    exec .tokenArrival s0 = .next (s.advance q) := by
  show execTokenArrival s0 = _
  simp only [execTokenArrival, entered, next, Option.orElse_eq_orElse, Option.orElse_some]

/-- With none there, the next at the side of the tile moves. -/
theorem exec_tokenArrival_side (noPort : s.nextFlight s0.tile s0.st s0.input.k.toNat = none)
    (next : s.nextEgress s0.tile s0.input.k.toNat = some q) : exec .tokenArrival s0 = .next (s.advance q) := by
  show execTokenArrival s0 = _
  simp only [execTokenArrival, entered, noPort, next, Option.orElse_eq_orElse, Option.orElse_none]

/-- With none at either nothing moves. -/
theorem exec_tokenArrival_none (noPort : s.nextFlight s0.tile s0.st s0.input.k.toNat = none)
    (noSide : s.nextEgress s0.tile s0.input.k.toNat = none) : exec .tokenArrival s0 = .next s := by
  show execTokenArrival s0 = _
  simp only [execTokenArrival, entered, noPort, noSide, Option.orElse_eq_orElse, Option.orElse_none]

/-- A token that is no copy's and leaves its path at the port arrives there. -/
theorem exec_tokenArrival_arrives (next : s.nextFlight s0.tile s0.st s0.input.k.toNat = some q)
    (last : q.hops = [] ∨ ∃ h, q.hops = [h] ∧ q.reorders = false) (inside : q.port < 4) (plain : q.copy = none) :
    exec .tokenArrival s0 = .next ({ s with flight := s.flight.erase q }.arrive s0.tile s0.st s0.input.k.toNat q.tok) := by
  obtain ⟨-, dst, slot, port, -⟩ := State.nextFlight_some next
  rw [exec_tokenArrival_port entered next, State.advance_ends last, State.ends_port inside plain, dst, slot, port]

end Event

/-! ## In from the boundary (R49, R150) -/

/-- The oldest token held for a port, with its entry. -/
def State.nextHeld (s : State) (u : Region) (t : TileId) (st p : Nat) : Option (Held × Edge) :=
  u.ingress.findSome? fun q => ((s.entries u q.edge).find? fun e => q.goal = some e.end_ ∧ e.end_ = (t, st, p)).map fun e => (q, e)

/-- A held token put on its way along an entry of its edge. -/
def State.departHeld (s : State) (u : Region) (h : Held) (e : Edge) : State :=
  { s with flight := s.flight ++ [⟨e.id, none, e.dst, e.dstSt, e.dport, h.tok, s.pathOf u e, h.copy, h.no⟩] }

/-- A tile in no region has no boundary. -/
theorem State.letIn_nowhere (nowhere : s.regionOf t = none) : s.letIn t st p = s := by
  simp only [State.letIn, nowhere]

/-- What leaves a channel's buffer changes no tile. -/
theorem State.leftHeld_tiles (s : State) (r : Region) (h : Held) : (s.leftHeld r h).tiles = s.tiles := by
  unfold State.leftHeld State.channelTaken
  split
  · rfl
  · split
    · split
      · dsimp only
        split
        · rfl
        · split <;> rfl
      · rfl
    · rfl

/-- The switches of a path stand in the tiles alone. -/
theorem State.trace_of_tiles {s' : State} (tiles : s'.tiles = s.tiles) (r : Region) (net : Nat) (dst : TileId) (place : Nat)
    (side : Option Nat) (n : Nat) (t : TileId) (key : Nat × Nat) : s'.trace r net dst place side n t key = s.trace r net dst place side n t key := by
  induction n generalizing t key with
  | zero => rfl
  | succ n ih => simp only [State.trace, State.tileAt, tiles, ih]

theorem State.pathOf_of_tiles {s' : State} (tiles : s'.tiles = s.tiles) (r : Region) (e : Edge) : s'.pathOf r e = s.pathOf r e := by
  simp only [State.pathOf, State.trace_of_tiles tiles]

/-- So a token that has left the boundary has the path that it had there. -/
theorem State.pathOf_leftHeld (s : State) (v u r : Region) (h : Held) (e : Edge) :
    ((s.setRegion v).leftHeld u h).pathOf r e = s.pathOf r e :=
  State.pathOf_of_tiles (s := s) ((s.setRegion v).leftHeld_tiles u h) r e

section Boundary
variable {r u : Region} {h : Held} {e : Edge} (there : s.regionOf t = some r) (spread : { r with ingress := s.spread r } = u)
  (next : (s.setRegion u).nextHeld u t st p = some (h, e))
include there spread next

/-- A token that is held, or has no room on its edge or its path, waits at the boundary. -/
theorem State.letIn_waits (waits : u.holding e = true ∨ (s.setRegion u).edgeRoom e = false ∨ (s.setRegion u).pathOpen u e = false) :
    s.letIn t st p = s.setRegion u := by
  subst spread
  unfold State.nextHeld at next
  simp only [State.letIn, there, next]
  exact if_pos (by simpa using waits)

/-- Else it enters, and goes on its edge's path. -/
theorem State.letIn_enters (free : u.holding e = false) (room : (s.setRegion u).edgeRoom e = true)
    (path : (s.setRegion u).pathOpen u e = true) : s.letIn t st p =
      (((s.setRegion u).setRegion { u with ingress := u.ingress.erase h }).leftHeld u h).departHeld u h e := by
  unfold State.departHeld
  rw [State.pathOf_leftHeld]
  subst spread
  unfold State.nextHeld at next
  simp only [State.letIn, there, next]
  refine if_neg ?_
  simp [free, room, path]

end Boundary

end Sys2Proof.Machine
end

section
/-! SUPPORT. Walks, withheld accesses and their records (R263, R264, R286). -/

namespace Sys2Proof.Machine

variable {s : State}

section Walk
variable {w : WalkReq} (parked : (s.walks.filter (·.fault.isNone))[s.input.index]? = some w)
include parked

/-- A walk that meets a fault leaves it with the access. -/
theorem exec_tlbWalkComplete_fault {r : XReason} (walk : s.walk w.part w.va.toNat = .error r) :
    exec .tlbWalkComplete s = .next { s with walks := updFirst (· == w) (fun w => { w with fault := some r }) s.walks } := by
  show execTlbWalkComplete s = _
  simp only [execTlbWalkComplete, parked, walk]

section Leaf
variable {e : TlbEntry} (walk : s.walk w.part w.va.toNat = .ok e)
include walk

/-- So does one whose leaf does not give what the access needs. -/
theorem exec_tlbWalkComplete_denied (denied : e.gives (if w.write then .write else .read) = false) :
    exec .tlbWalkComplete s = .next { s with walks := updFirst (· == w) (fun w => { w with fault := some .perm }) s.walks } := by
  show execTlbWalkComplete s = _
  simp only [execTlbWalkComplete, parked, walk, denied, Bool.not_false, if_true]

variable (gives : e.gives (if w.write then .write else .read) = true)
include gives

/-- The leaf of an address generator's access goes into its tile's TLB. -/
theorem exec_tlbWalkComplete_ag {t : TileId} {st : Nat} (holder : w.holder = .ag t st) : exec .tlbWalkComplete s = .next
    (State.onTile { s with walks := s.walks.erase w } t fun y => { y with tlb := tlbAdd y.tlb 32 e }) := by
  show execTlbWalkComplete s = _
  simp only [execTlbWalkComplete, parked, walk, gives, holder, Bool.not_true, Bool.false_eq_true, if_false]

/-- That of a quarry engine's goes into the engine's TLB. -/
theorem exec_tlbWalkComplete_quarry {t : TileId} {st q : Nat} (holder : w.holder = .quarry t st q) : exec .tlbWalkComplete s = .next
    { s with walks := s.walks.erase w, qtlb := assign s.qtlb q (((w.part, e) :: lookupD s.qtlb q []).take 1024) } := by
  show execTlbWalkComplete s = _
  simp only [execTlbWalkComplete, parked, walk, gives, holder, Bool.not_true, Bool.false_eq_true, if_false]

end Leaf
end Walk

/-- An access that has met its fault is withheld. -/
theorem exec_faultWithhold {w : WalkReq} {r : XReason} (parked : (s.walks.filter (·.fault.isSome))[s.input.index]? = some w)
    (fault : w.fault = some r) : exec .faultWithhold s = .next { s with
      walks := s.walks.erase w, holds := s.holds ++ [⟨w.holder, w.core, w.seq, w.va, w.write, r, w.iter, false, true, 0⟩] } := by
  show execFaultWithhold s = _
  simp only [execFaultWithhold, parked, fault, Option.getD_some]

/-- Its record goes to the fault queue of its core. -/
theorem exec_faultRecordPost {h : Hold} {s1 : State} {q : Ring} (waits : s.holds.find? (fun h => h.core == s.cur && !h.posted) = some h)
    (posts : s.post (s.core.part.getD 0) s.core.fq h.record = .posted s1 q) : exec .faultRecordPost s = .next
      ({ s1 with holds := updFirst (· == h) (fun h => { h with posted := true }) s1.holds }.setCore { s1.core with fq := q }) := by
  show execFaultRecordPost s = _
  simp only [execFaultRecordPost, waits, posts]

end Sys2Proof.Machine
end

section
/-! SUPPORT. Bins replaced, and what leaves them as they are; a station's access of the scratchpad, granted or not, with the race
detector off (R259, R267, R286, R349). -/

namespace Sys2Proof.Machine

variable {s s0 : State} {r : Region} {t : TileId} {st : Nat} {seq : BitVec 8} {iter : BitVec 24} {write : Bool}

/-! ## Bins -/

/-- A bin that is replaced reads back as it was set. -/
@[simp] theorem State.bin_setBin (s : State) (k : Nat) (b : Bin) : (s.setBin k b).bin k = b := by
  unfold State.bin State.setBin lookupD
  by_cases h : b = Bin.zero
  · have gone : (s.bins.filter (·.1 ≠ k)).find? (·.1 = k) = none := List.find?_eq_none.2 fun x hx => by
      simpa using (List.mem_filter.1 hx).2
    simp only [h, if_true, gone, Option.map_none, Option.getD_none]
  · simp [h, assign]

theorem State.bin_of_bins {s' : State} (h : s'.bins = s.bins) (k : Nat) : s'.bin k = s.bin k := by
  simp only [State.bin, h]

@[simp] theorem State.sendEdge_bins (s : State) (r : Region) (e : Edge) (ord : Option (BitVec 16)) (no : Nat) (tok : Token) :
    (s.sendEdge r e ord no tok).bins = s.bins := by
  unfold State.sendEdge
  split <;> rfl

@[simp] theorem State.sendOut_bins (s : State) (r : Region) (t : TileId) (st o : Nat) (tok : Token) :
    (s.sendOut r t st o tok).bins = s.bins := by
  unfold State.sendOut
  extract_lets es s1
  have sent : s1.bins = s.bins := foldl_keeps State.bins fun s e => s.sendEdge_bins ..
  split <;> exact sent

@[simp] theorem State.sendTok_bins (s : State) (r : Region) (t : TileId) (q : OutTok) : (s.sendTok r t q).bins = s.bins := by
  unfold State.sendTok
  split
  · exact s.sendOut_bins ..
  · exact foldl_keeps State.bins fun s o => s.sendOut_bins ..

@[simp] theorem State.flushN_bins (t : TileId) (st n : Nat) (s : State) : (State.flushN t st n s).bins = s.bins := by
  induction n generalizing s with
  | zero => rfl
  | succ n ih =>
    unfold State.flushN
    split
    · split
      · exact (ih _).trans (State.sendTok_bins ..)
      · rfl
    · rfl

/-- What a firing sends changes no bin. -/
@[simp] theorem State.emits_bins (s : State) (t : TileId) (st : Nat) (es : List (Option Nat × Token)) :
    (s.emits t st es).bins = s.bins := State.flushN_bins ..

/-- A bin's change is an event for the race detector alone. -/
@[simp] theorem State.fillEvent_bins (s : State) (k : Nat) (was now : Bin) : (s.fillEvent k was now).bins = s.bins := by
  unfold State.fillEvent State.raceFill
  split
  · split <;> rfl
  · rfl

/-! ## Access to the scratchpad -/

/-- Where the home is granted nothing stands in the way. -/
theorem State.spadDenied_granted {home : Nat} (h : s.granted r.part .spad home 8 write = true) :
    s.spadDenied r t st seq iter [home] write = none := by
  simp [State.spadDenied, h]

/-- Where it is not, the access is parked with its fault. -/
theorem State.spadDenied_parks {home : Nat} (h : s.granted r.part .spad home 8 write = false) (free : s.stalled (.mem t st) seq = false) :
    s.spadDenied r t st seq iter [home] write = some (s.park r (.mem t st) seq iter home write (some .window)) := by
  simp [State.spadDenied, h, free]

/-- With the detector off for its launch an access is made unchecked. -/
theorem State.stChecked_off {hs : List (Nat × Nat × Nat)} {k : State → State} (off : ((r.liveOf seq).map (·.race)).getD false = false) :
    s.stChecked r t st seq iter write hs k = k s := by
  unfold State.stChecked
  cases live : r.liveOf seq with
  | none => rfl
  | some l =>
    have quiet : l.race = false := by simpa [live] using off
    simp only [quiet, Bool.not_false, if_true]

/-- So is a granted access of a bin. -/
theorem State.binAccess_off {bin n : Nat} {k : State → State} (there : s.regionOf t = some r)
    (granted : s0.granted r.part .spad (spadBase + bin * 256) 8 write = true) (off : ((r.liveOf seq).map (·.race)).getD false = false) :
    State.binAccess s0 s t st bin seq iter n write k = k s := by
  have quiet : (r.liveOf seq).any (·.race) = false := by
    cases live : r.liveOf seq with
    | none => rfl
    | some l => simpa [live] using off
  have free : s0.spadDenied r t st seq iter [spadBase + bin * 256] write = none := State.spadDenied_granted granted
  obtain ⟨denied, hd⟩ : ∃ f, s0.spadDenied = f := ⟨_, rfl⟩
  unfold State.binAccess
  rw [hd] at free ⊢
  simp only [there, free, quiet, Bool.false_and, Bool.false_eq_true, if_false, State.stChecked_off off]

end Sys2Proof.Machine
end

section
/-! The proof of O49: token arrival, walks and withheld accesses, stfs and ldcs with their bins, rport and pport. -/

namespace Sys2Proof.Machine

variable {s s0 s1 : State} {f : StF} {x : Sta} {t : Token} {r : Region}

/-- A station that never pairs fires over its head. -/
theorem State.fireHeads_head {p : Nat} (head : Says.HasHead s f x p t) (k : Sta → State → State) : s.fireHeads f k = k x s := by
  obtain ⟨⟨ready, credit⟩, -⟩ := head
  exact State.fireHeads_fires (.of_ready ready) credit k

/-! ## Buffer descriptors (R280) -/

/-- The tokens that a bin's buffer takes. -/
theorem descOf_decl (w : Word) : (descOf w).2.2 = w.toNat / 2 ^ 39 % 32 + 1 := by
  simp only [descOf, BitVec.extractLsb'_toNat, Nat.shiftRight_eq_div_pow, Nat.reducePow]

/-- The bin of a sequence number, by the fields of the descriptor. -/
theorem binFor_eq (w : Word) (q : Nat) : binFor w q = w.toNat / 2 ^ 8 % 2 ^ 21 + q % (w.toNat / 2 ^ 29 % 2 ^ 10 + 1) := by
  simp only [binFor, descOf, BitVec.extractLsb'_toNat, Nat.shiftRight_eq_div_pow]

/-! ## stfs (R271, R282) -/

/-- A value joins the station's buffer, and the one that completes it asks for the fill. -/
theorem exec_stfs_data (head : Says.HasHead s f x 0 t) (kind : t.kind = .data) (idle : (s.slot x.t x.st t.seq).phase ≠ 1) :
    let sl := s.slot x.t x.st t.seq
    let s2 := (s.take x [0]).setSlot x.t { sl with buf := sl.buf ++ [t] }
    exec (.stfs f) s = .next (if sl.buf.length + 1 = (s.kWord x).toNat / 2 ^ 39 % 32 + 1 then State.stfsAsk s s2 x t.seq none else s2) := by
  show Host.Outcome.next (s.fireHeads f _) = _
  rw [State.fireHeads_head head]
  simp only [head.2, kind, idle, if_false, descOf_decl]

/-- A STOP asks for the fill of what has been gathered, and passes on when nothing has. -/
theorem exec_stfs_stop {n : Nat} (head : Says.HasHead s f x 0 t) (kind : t.kind = .stop n) (idle : (s.slot x.t x.st t.seq).phase ≠ 1) :
    exec (.stfs f) s = .next (if (s.slot x.t x.st t.seq).buf = [] then (s.take x [0]).emits x.t x.st [(none, t)]
      else State.stfsAsk s (s.take x [0]) x t.seq (some t)) := by
  show Host.Outcome.next (s.fireHeads f _) = _
  rw [State.fireHeads_head head]
  simp only [head.2, kind, idle, if_false]

section Ask
variable {seq : BitVec 8} {stop : Option Token} {last : Token} {bin : Nat}
  (gathered : (s.slot x.t x.st seq).buf.getLast? = some last) (named : binFor (s.kWord x) (s.slot x.t x.st seq).cnt = bin)
include gathered named

/-- A granted fill is made at once, or waits for its bin. -/
theorem State.stfsAsk_granted (granted : s0.granted x.r.part .spad (spadBase + bin * 256) 8 true = true) :
    let sl := s.slot x.t x.st seq
    let ws := sl.buf.map (·.pay.word)
    let s1 := s.setSlot x.t { sl with buf := [], phase := 1 }
    let e : WaitEntry := ⟨binTile bin, bin, BitVec.ofNat 16 sl.cnt, .stfs x.t x.st seq ws last stop, true⟩
    State.stfsAsk s0 s x seq stop = if s.binNow e then State.stfsDone s0 s1 x.t x.st bin seq ws last stop else s1.enqueueWait e := by
  have here : s0.spadDenied x.r x.t x.st seq last.iter [spadBase + bin * 256] true = none := State.spadDenied_granted granted
  obtain ⟨denied, hd⟩ : ∃ f, s0.spadDenied = f := ⟨_, rfl⟩
  unfold State.stfsAsk
  rw [hd] at here ⊢
  simp only [gathered, named, here]

/-- One that is not granted is parked with its fault. -/
theorem State.stfsAsk_denied (denied : s0.granted x.r.part .spad (spadBase + bin * 256) 8 true = false)
    (free : s0.stalled (.mem x.t x.st) seq = false) :
    State.stfsAsk s0 s x seq stop = s0.park x.r (.mem x.t x.st) seq last.iter (spadBase + bin * 256) true (some .window) := by
  have here := State.spadDenied_parks (iter := last.iter) denied free
  obtain ⟨denied, hd⟩ : ∃ f, s0.spadDenied = f := ⟨_, rfl⟩
  unfold State.stfsAsk
  rw [hd] at here ⊢
  simp only [gathered, named, here]

end Ask

/-- The bytes of a fill, dword by dword. -/
theorem length_flatMap_bytesOf (ws : List Word) : (ws.flatMap fun w => Says.bytesOf w 8).length = 8 * ws.length := by
  simp [Says.bytesOf, List.length_flatMap, Nat.mul_comm]

section Done
variable {d : TileId} {st bin : Nat}

/-- A fill leaves its dwords in memory, and its bin full with its number. -/
theorem State.stfsDone_leaves {seq : BitVec 8} {ws : List Word} {last : Token} {stop : Option Token} (there : s.regionOf d = some r)
    (granted : s0.granted r.part .spad (spadBase + bin * 256) 8 true = true) (off : ((r.liveOf seq).map (·.race)).getD false = false) :
    (State.stfsDone s0 s d st bin seq ws last stop).bin bin =
      { s.bin bin with full := true, cnt := 0, seq := BitVec.ofNat 16 (s.slot d st seq).cnt, staged := none } ∧
    (State.stfsDone s0 s d st bin seq ws last stop).mem =
      memSets s.mem (spadBase + bin * 256) (ws.flatMap fun w => Says.bytesOf w 8) := by
  unfold State.stfsDone
  rw [State.binAccess_off there granted off]
  constructor
  · rw [State.bin_of_bins (State.emits_bins ..)]
    exact (State.bin_of_bins (State.fillEvent_bins ..) bin).trans (State.bin_setBin ..)
  · simp only [leBytes_toNat, State.emits_mem, State.setSlot_mem, State.fillEvent_mem, State.setBin_mem, State.writeMem_mem]

/-- A read leaves its bin empty, and memory as it was. -/
theorem State.ldcsDone_leaves {req : Token} (there : s.regionOf d = some r)
    (granted : s0.granted r.part .spad (spadBase + bin * 256) 8 false = true) (off : ((r.liveOf req.seq).map (·.race)).getD false = false) :
    (State.ldcsDone s0 s d st bin req).bin bin = { s.bin bin with full := false, cnt := 0 } ∧
    (State.ldcsDone s0 s d st bin req).mem = s.mem := by
  unfold State.ldcsDone
  rw [State.binAccess_off there granted off]
  exact ⟨(State.bin_of_bins (State.emits_bins ..) bin).trans (State.bin_setBin ..), State.emits_mem.trans State.setBin_mem⟩

end Done

/-! ## ldcs (R271, R283) -/

section Read
variable {bin : Nat} (head : Says.HasHead s f x 0 t) (kind : t.kind = .data) (named : binFor (s.kWord x) t.pay.word.toNat = bin)
include head kind named

/-- A granted read is made at once, or waits for its bin. -/
theorem exec_ldcs_granted (granted : s.granted x.r.part .spad (spadBase + bin * 256) 8 false = true) :
    let e : WaitEntry := ⟨binTile bin, bin, BitVec.ofNat 16 t.pay.word.toNat, .ldcs x.t x.st t (f.aux.getLsbD 0), true⟩
    exec (.ldcs f) s = .next (if s.binNow e then State.ldcsDone s (s.take x [0]) x.t x.st bin t else (s.take x [0]).enqueueWait e) := by
  have here := State.spadDenied_granted (t := x.t) (st := x.st) (seq := t.seq) (iter := t.iter) granted
  obtain ⟨denied, hd⟩ : ∃ f, s.spadDenied = f := ⟨_, rfl⟩
  show Host.Outcome.next (s.fireHeads f _) = _
  rw [State.fireHeads_head head, hd]
  rw [hd] at here
  simp only [head.2, kind, named, here]

/-- One that is not granted is parked with its fault. -/
theorem exec_ldcs_denied (denied : s.granted x.r.part .spad (spadBase + bin * 256) 8 false = false)
    (free : s.stalled (.mem x.t x.st) t.seq = false) : exec (.ldcs f) s = .next
      (s.park x.r (.mem x.t x.st) t.seq t.iter (spadBase + bin * 256) false (some .window)) := by
  have here := State.spadDenied_parks (iter := t.iter) denied free
  obtain ⟨denied, hd⟩ : ∃ f, s.spadDenied = f := ⟨_, rfl⟩
  show Host.Outcome.next (s.fireHeads f _) = _
  rw [State.fireHeads_head head, hd]
  rw [hd] at here
  simp only [head.2, kind, named, here]

end Read

/-! ## Requests that have waited (R281, R387, R391) -/

section Grant
variable {e : WaitEntry} {d : TileId} {st : Nat} (oldest : s.servable[s.input.index]? = some e)
include oldest

/-- The read that has waited longest is made, unless its tile stands still. -/
theorem exec_binWaitGrant_ldcs {req : Token} {b : Bool} (who : e.who = .ldcs d st req b) : exec .binWaitGrant s = .next
    (if s.still d then s else State.ldcsDone s { s with waits := s.waits.erase e } d st e.bin req) := by
  show execBinWaitGrant s = _
  simp only [execBinWaitGrant, oldest, who, apply_ite Host.Outcome.next]

/-- So is the fill. -/
theorem exec_binWaitGrant_stfs {seq : BitVec 8} {ws : List Word} {last : Token} {stop : Option Token}
    (who : e.who = .stfs d st seq ws last stop) : exec .binWaitGrant s = .next
    (if s.still d then s else State.stfsDone s { s with waits := s.waits.erase e } d st e.bin seq ws last stop) := by
  show execBinWaitGrant s = _
  simp only [execBinWaitGrant, oldest, who, apply_ite Host.Outcome.next]

end Grant

/-! ## rport and pport (R284, R285) -/

/-- The vector's first offset and its length, by the K source of rport. -/
theorem rport_range (k : Word) : (k.extractLsb' 0 15).toNat = k.toNat % 2 ^ 15 ∧ (k.extractLsb' 16 15).toNat = k.toNat / 2 ^ 16 % 2 ^ 15 := by
  simp only [BitVec.extractLsb'_toNat, Nat.shiftRight_eq_div_pow, pow_zero, Nat.div_one, and_self]

section Reduce
variable (head : Says.HasHead s f x 0 t)
include head

section Scalar
variable {w : Word} {first len home : Nat} {sl : Slot} (kind : t.kind = .data) (pay : t.pay = .scalar w)
  (hfirst : ((s.kWord x).extractLsb' 0 15).toNat = first) (hlen : ((s.kWord x).extractLsb' 16 15).toNat + 1 = len)
  (slot : (s.take x [0]).slot x.t x.st t.seq = sl) (hhome : spadBase + tileOff x.t + 8 * (first + sl.pa % len) = home)
include kind pay hfirst hlen slot hhome

/-- A scalar whose dword is not granted is parked with its fault. -/
theorem exec_rport_denied (denied : s.granted x.r.part .spad home 8 true = false) (free : s.stalled (.mem x.t x.st) t.seq = false) :
    exec (.rport f) s = .next (s.park x.r (.mem x.t x.st) t.seq t.iter home true (some .window)) := by
  show Host.Outcome.next (s.fireHeads f _) = _
  rw [State.fireHeads_head head]
  simp only [head.2, kind, pay, Payload.word, hfirst, hlen, slot, List.length_singleton, List.range_one, List.map_cons, List.map_nil, Nat.add_zero, hhome,
    State.spadDenied_parks denied free]

/-- A granted one is reduced into it, and the station steps on. -/
theorem exec_rport_scalar (granted : s.granted x.r.part .spad home 8 true = true) (off : ((x.r.liveOf t.seq).map (·.race)).getD false = false) :
    exec (.rport f) s = .next (((s.take x [0]).rportPut x first len (s.stagingOf x.r t.seq) sl.pa [w]).setSlot x.t
      { sl with pa := (sl.pa + 1) % len, cnt := sl.cnt + 1 }) := by
  show Host.Outcome.next (s.fireHeads f _) = _
  rw [State.fireHeads_head head]
  simp only [head.2, kind, pay, Payload.word, hfirst, hlen, slot, List.length_singleton, List.range_one, List.map_cons, List.map_nil, Nat.add_zero, hhome,
    State.spadDenied_granted granted, State.stChecked_off off]

end Scalar

/-- A STOP gives the count, and begins the range again. -/
theorem exec_rport_stop {n : Nat} (kind : t.kind = .stop n) :
    let sl := (s.take x [0]).slot x.t x.st t.seq
    exec (.rport f) s = .next (((s.take x [0]).setSlot x.t { sl with pa := 0, cnt := 0 }).emits x.t x.st
      [(none, tokS t.seq t.iter .done (BitVec.ofNat 64 sl.cnt))]) := by
  show Host.Outcome.next (s.fireHeads f _) = _
  rw [State.fireHeads_head head]
  simp only [head.2, kind]

end Reduce

section Pass
variable (ready : Says.Ready s f x) (hd : s.hd x 0 = some t)
include ready hd

/-- A STOP is discarded. -/
theorem exec_pport_stop {n : Nat} (kind : t.kind = .stop n) : exec (.pport f) s = .next (s.take x [0]) := by
  show Host.Outcome.next (s.withSta f _) = _
  rw [State.withSta_acts (.of_ready ready)]
  simp only [hd, kind]

/-- A value arrives at the parameter port that K names, when there is room. -/
theorem exec_pport_data (kind : t.kind = .data) : exec (.pport f) s = .next
    (if ((s.tileAt x.t).queue.filter fun q => q.st = f.k.toNat ∧ q.port = 3).length < 8 then (s.take x [0]).arrive x.t f.k.toNat 3 t else s) := by
  show Host.Outcome.next (s.withSta f _) = _
  rw [State.withSta_acts (.of_ready ready)]
  simp only [hd, kind, decide_eq_true_eq]
  rfl

end Pass

/-! ## The obligation -/

/-- Settles O49: the arrival by where the next token stands, the boundary by its oldest held token, the walk by its leaf, and each
station by its token and the grant of what it reaches. -/
theorem feedingStations : Obligations.FeedingStations := by
  unfold Obligations.FeedingStations
  refine ⟨fun s0 q => ⟨fun next => ⟨fun h0 h rest hops => ?_, fun h hops ord => ?_, fun last inside plain => ?_⟩,
      fun noPort next => ⟨fun h0 h rest hops => ?_, fun r last ord plain there => ?_⟩, exec_tokenArrival_none rfl⟩,
    fun s t st p => ⟨State.letIn_nowhere, fun r h e there next => ⟨fun waits => State.letIn_waits there rfl next waits,
      fun free room path => State.letIn_enters there rfl next free room path⟩⟩,
    fun s q => ⟨State.nextFlight_some, fun last port may => ?_,
      fun last port may r e there edge => State.takes_side port there edge (State.mayMove_last last may).2⟩,
    fun s w parked => ⟨fun r walk => exec_tlbWalkComplete_fault parked walk, fun e walk denied => exec_tlbWalkComplete_denied parked walk denied,
      fun e walk gives => ⟨fun t st holder => exec_tlbWalkComplete_ag parked walk gives holder,
        fun t st q holder => exec_tlbWalkComplete_quarry parked walk gives holder⟩⟩,
    fun s w r parked fault => exec_faultWithhold parked fault, fun s h s1 q waits posts => exec_faultRecordPost waits posts,
    fun f s x t head kind idle part => ?_, fun f s x t n head kind idle => ⟨fun empty => ?_, fun begun => ?_⟩,
    fun f s x t head kind idle full => ?_,
    fun s0 s x seq stop last gathered => ⟨fun granted => State.stfsAsk_granted gathered (binFor_eq ..) granted,
      fun denied free => State.stfsAsk_denied gathered (binFor_eq ..) denied free⟩,
    fun f s x t head kind => ⟨fun granted => exec_ldcs_granted head kind (binFor_eq ..) granted,
      fun denied free => exec_ldcs_denied head kind (binFor_eq ..) denied free⟩,
    fun s e oldest => ⟨fun t st req b who moves => ?_, fun t st seq ws last stop who moves => ?_, ?_⟩,
    fun s0 s r t st bin seq ws last stop wf there granted off => ?_,
    fun s0 s r t st bin req there granted off => State.ldcsDone_leaves there granted off,
    fun f s x t w head => ?_,
    fun f s x t ready hd => ⟨fun n kind => exec_pport_stop ready hd kind, fun kind => ⟨fun room => ?_, fun full => ?_⟩⟩⟩
  · rw [exec_tokenArrival_port rfl next, State.advance_hop hops]
  · rw [exec_tokenArrival_port rfl next, State.advance_reorders hops ord]
  · have arrives := exec_tokenArrival_arrives rfl next last inside plain
    exact ⟨arrives, fun purged => arrives.trans (congrArg _ (State.arrive_purged purged)),
      fun live w word single => arrives.trans (congrArg _ (State.arrive_queued live word single))⟩
  · rw [exec_tokenArrival_side rfl noPort next, State.advance_hop hops]
  · rw [exec_tokenArrival_side rfl noPort next, State.advance_ends (last.imp_right fun ⟨h, hops⟩ => ⟨h, hops, ord⟩),
      State.ends_side (State.nextEgress_leaves next) there]
  · obtain ⟨held, takes⟩ := State.mayMove_last last may
    exact ⟨held, State.takes_port last port takes⟩
  · exact (exec_stfs_data head kind idle).trans (congrArg _ (if_neg (Nat.ne_of_lt part)))
  · exact (exec_stfs_stop head kind idle).trans (congrArg _ (if_pos empty))
  · exact (exec_stfs_stop head kind idle).trans (congrArg _ (if_neg begun))
  · exact (exec_stfs_data head kind idle).trans (congrArg _ (if_pos full))
  · rw [exec_binWaitGrant_ldcs oldest who, moves]; rfl
  · rw [exec_binWaitGrant_stfs oldest who, moves]; rfl
  · rintro ⟨t, still, ⟨st, req, b, who⟩ | ⟨st, seq, ws, last, stop, who⟩⟩
    · rw [exec_binWaitGrant_ldcs oldest who, if_pos still]
    · rw [exec_binWaitGrant_stfs oldest who, if_pos still]
  · obtain ⟨filled, mem⟩ := State.stfsDone_leaves (ws := ws) (last := last) (stop := stop) there granted off
    refine ⟨congrArg Bin.full filled, congrArg Bin.seq filled, congrArg Bin.cnt filled, fun k => ?_⟩
    rw [mem, memGet_memSets _ _ k wf, length_flatMap_bytesOf]
  · obtain ⟨first, len⟩ := rport_range (s.kWord x)
    exact ⟨fun kind pay denied free => exec_rport_denied head kind pay first (congrArg (· + 1) len) rfl rfl denied free,
      fun kind pay granted off => exec_rport_scalar head kind pay first (congrArg (· + 1) len) rfl rfl granted off,
      fun n kind => exec_rport_stop head kind⟩
  · exact (exec_pport_data ready hd kind).trans (congrArg _ (if_pos room))
  · exact (exec_pport_data ready hd kind).trans (congrArg _ (if_neg (Nat.not_lt.2 full)))

end Sys2Proof.Machine
end

section
/-! SUPPORT and the proof of O43: what a firing does with a set of values, with STOPs and with what it owes; the routing stations. -/

namespace Sys2Proof.Machine

variable {s s1 : State} {f : StF} {x : Sta} {q : List (Nat × Token)} {t : Token}

/-! ## What a firing does with a set, and with what it owes -/

section Firing
variable {acc : Nat → Kind → Bool} {stop : Sta → List (Nat × Token) → Nat → State → State}
  {vals : Sta → List (Nat × Token) → State → State}

/-- The station that acts has the fields of its word. -/
theorem sta_f_of_ready (h : Says.Ready s f x) : x.f = f := by
  obtain ⟨sta, -⟩ := h
  simp only [State.sta?] at sta
  split at sta
  · cases sta
  · obtain ⟨b, -, rfl⟩ := Option.map_eq_some_iff.1 sta
    rfl

theorem State.fireSet_data (takes : Says.Takes s f x q s1) (data : Says.AllData q) (ha : ∀ p, acc p .data = true) :
    s.fireSet f (portsOf f) acc stop vals = vals x q s1 := by
  obtain ⟨⟨ready, credit⟩, next⟩ := takes
  rw [State.fireSet_fires (.of_ready ready) credit next, State.rows_data data ha]

theorem State.fireSet_stops {n : Nat} (takes : Says.Takes s f x q s1) (hq : q ≠ []) (hn : n ≠ 0) (h : ∀ e ∈ q, e.2.kind = .stop n) :
    s.fireSet f (portsOf f) acc stop vals = stop x q n s1 := by
  obtain ⟨⟨ready, credit⟩, next⟩ := takes
  rw [State.fireSet_fires (.of_ready ready) credit next, State.rows_stops hq hn h]

variable {part : Sta → Slot → Token → State → State} {k : Sta → State → State}

/-- What a slot still holds is given first. -/
theorem State.fireOwing_gives {z : Slot} (fires : Says.Fires s f x)
    (hz : (s.tileAt x.t).slots.find? (fun z => z.st == x.st && z.held.isSome) = some z) (ht : z.held = some t) :
    s.fireOwing f part k = part x z t s := by
  have owed : s.owing x = some z := hz
  obtain ⟨ready, credit⟩ := fires
  simp [State.fireOwing, State.withSta_acts (.of_ready ready), credit, owed, ht]

/-- With nothing held the station fires anew. -/
theorem State.fireOwing_clear (fires : Says.Fires s f x) (h : ∀ z ∈ (s.tileAt x.t).slots, z.st = x.st → z.held = none) :
    s.fireOwing f part k = k x s := by
  have owed : s.owing x = none := List.find?_eq_none.2 fun z hz => by
    simpa using h z hz
  obtain ⟨ready, credit⟩ := fires
  simp [State.fireOwing, State.withSta_acts (.of_ready ready), credit, owed]

theorem State.fireNext_data {stop : List (Nat × Token) → Nat → State → State} {vals : List (Nat × Token) → State → State}
    (takes : Says.Takes s f x q s1) (data : Says.AllData q) (ha : ∀ p, acc p .data = true) :
    s.fireNext x (portsOf f) acc stop vals = vals q s1 := by
  obtain ⟨⟨-, credit⟩, next⟩ := takes
  simp [State.fireNext, credit, next, State.rows_data data ha]

end Firing

/-- Pred (R197). -/
theorem State.pred_iff (p : Nat) : s.pred x q p = true ↔ s.opWord x q p ≠ 0 := bne_iff_ne

/-- TAGOVF from 0xFFFFFE on (R212). -/
theorem tagOvf_iff {n : Nat} : tagOvf n = true ↔ 0xFFFFFE ≤ n := decide_eq_true_iff

theorem tagOvf_of_lt {n : Nat} (h : n < 0xFFFFFE) : tagOvf n = false := decide_eq_false (Nat.not_le.2 h)

theorem State.retag_eq (s : State) (x : Sta) (t : Token) (n : Nat) :
    s.retag x t n = if 0xFFFFFE ≤ n then tokE t.seq t.iter (s.self x.t 0x05) else { t with iter := BitVec.ofNat 24 n } := by
  simp only [State.retag, tagOvf_iff]
  rfl

theorem State.retag_of_lt {n : Nat} (h : n < 0xFFFFFE) : s.retag x t n = { t with iter := BitVec.ofNat 24 n } := by
  rw [State.retag_eq, if_neg (Nat.not_le.2 h)]

/-! ## Routing a set: steer, gate, dup, tagset, tagnew (R202, R203, R211, R212) -/

theorem exec_steer_data (takes : Says.Takes s f x q s1) (data : Says.AllData q) :
    exec (.steer f) s = .next (s1.emits x.t x.st
      (if s1.opWord x q 1 ≠ 0 then [(some 1, tokA q), (some 3, tokA q)] else [(some 0, tokA q), (some 2, tokA q)])) := by
  show Host.Outcome.next (s.fireSet f _ _ _ _) = _
  rw [State.fireSet_data takes data fun _ => rfl]
  simp only [State.pred_iff]
  split <;> rfl

theorem exec_gate_data (takes : Says.Takes s f x q s1) (data : Says.AllData q) :
    exec (.gate f) s = .next (if s1.opWord x q 1 ≠ 0 then s1.emits x.t x.st [(none, tokA q)] else s1) := by
  show Host.Outcome.next (s.fireSet f _ _ _ _) = _
  rw [State.fireSet_data takes data fun _ => rfl]
  simp only [State.pred_iff]

/-- A copy of dup, with `n - 1` more to follow. -/
theorem State.dupCopy_eq (n : Nat) : s.dupCopy x t (n - 1) = (s.setSlot x.t
    { s.slot x.t x.st t.seq with held := if n ≤ 1 then none else some t, cnt := n - 1 }).emits x.t x.st [(none, t)] := by
  simp only [State.dupCopy, Nat.sub_eq_zero_iff_le]

theorem exec_dup_data (takes : Says.Takes s f x q s1) (data : Says.AllData q)
    (clear : ∀ z ∈ (s.tileAt x.t).slots, z.st = x.st → z.held = none) :
    exec (.dup f) s = .next (s1.dupCopy x (tokA q) (f.k.toNat - 1)) := by
  show Host.Outcome.next (s.fireOwing f _ _) = _
  rw [State.fireOwing_clear takes.1 clear, State.fireNext_data takes data fun _ => rfl]
  rfl

theorem exec_dup_owing {z : Slot} (fires : Says.Fires s f x)
    (hz : (s.tileAt x.t).slots.find? (fun z => z.st == x.st && z.held.isSome) = some z) (ht : z.held = some t) :
    exec (.dup f) s = .next (s.dupCopy x t (z.cnt - 1)) :=
  congrArg Host.Outcome.next (State.fireOwing_gives fires hz ht)

theorem exec_tagset_data (takes : Says.Takes s f x q s1) (data : Says.AllData q) :
    exec (.tagset f) s = .next (s1.emits x.t x.st [(none, s1.retag x (tokA q) (s1.opWord x q 1).toNat)]) := by
  show Host.Outcome.next (s.fireSet f _ _ _ _) = _
  rw [State.fireSet_data takes data fun _ => rfl]

/-- The launch's counter, from the station's K, tags a token and advances. -/
theorem State.tagNext_of_lt (h : x.f.k.toNat + (s.slot x.t x.st t.seq).tagc < 0xFFFFFE) :
    s.tagNext x t = (s.setSlot x.t { s.slot x.t x.st t.seq with tagc := (s.slot x.t x.st t.seq).tagc + 1 }).emits x.t x.st
      [(none, { t with iter := BitVec.ofNat 24 (x.f.k.toNat + (s.slot x.t x.st t.seq).tagc) })] := by
  simp only [State.tagNext, immOf, tagOvf_of_lt h, State.retag_of_lt h]
  rfl

theorem exec_tagnew_data (takes : Says.Takes s f x q s1) (data : Says.AllData q) :
    exec (.tagnew f) s = .next (s1.tagNext x (tokA q)) := by
  show Host.Outcome.next (s.fireSet f _ _ _ _) = _
  rw [State.fireSet_data takes data fun _ => rfl]

/-! ## Ordered merges: merge and cmerge (R204, R205) -/

theorem portsOf_nodup (f : StF) : (portsOf f).Nodup := by
  unfold portsOf
  split <;> split <;> split <;> decide

theorem filterMap_eq_singleton {α β : Type} {g : α → Option β} {l : List α} {a : α} {b : β} (nodup : l.Nodup) (mem : a ∈ l)
    (one : g a = some b) (others : ∀ k ∈ l, k ≠ a → g k = none) : l.filterMap g = [b] := by
  obtain ⟨l1, l2, rfl⟩ := List.append_of_mem mem
  obtain ⟨-, hcons, hdisj⟩ := List.nodup_append.1 nodup
  have left : l1.filterMap g = [] := List.filterMap_eq_nil_iff.2 fun k hk =>
    others k (List.mem_append_left _ hk) (hdisj k hk a List.mem_cons_self)
  have right : l2.filterMap g = [] := List.filterMap_eq_nil_iff.2 fun k hk =>
    others k (List.mem_append_right _ (List.mem_cons_of_mem _ hk)) fun e => (List.nodup_cons.1 hcons).1 (e ▸ hk)
  rw [List.filterMap_append, left, List.filterMap_cons_some one, right, List.nil_append]

/-- The only head of a merge that does not join its STOPs goes through. -/
theorem exec_merge_head {p : Nat} (head : Says.HasHead s f x p t) (mem : p ∈ portsOf f)
    (alone : ∀ k ∈ portsOf f, k ≠ p → s.hd x k = none) (free : f.aux.getLsbD 0 = false) :
    exec (.merge f) s = .next ((s.take x [p]).emits x.t x.st [(none, t)]) := by
  have heads : ((portsOf f).filterMap fun k => (s.hd x k).map fun t => (k, t)) = [(p, t)] :=
    filterMap_eq_singleton (portsOf_nodup f) mem (by rw [head.2]; rfl) fun k hk hne => by rw [alone k hk hne]; rfl
  show Host.Outcome.next (s.fireHeads f _) = _
  rw [State.fireHeads_head head]
  simp only [heads, free]
  rfl

theorem exec_cmerge_data {c : Token} (head : Says.HasHead s f x 2 c) (kind : c.kind = .data)
    (chosen : s.hd x (if c.pay.word ≠ 0 then 1 else 0) = some t) :
    exec (.cmerge f) s = .next ((s.take x [2, if c.pay.word ≠ 0 then 1 else 0]).emits x.t x.st [(none, t)]) := by
  show Host.Outcome.next (s.fireHeads f _) = _
  rw [State.fireHeads_head head]
  simp only [head.2, kind, chosen]

/-! ## carry and invar (R206, R207) -/

theorem State.headCase_data {p : Nat} {val : State → State} {stop : Nat → State → State} (kind : t.kind = .data) :
    s.headCase x p t val stop = val (s.take x [p]) := by
  simp only [State.headCase, kind]

/-- With no head at a, no launch is opened before the head of another port. -/
theorem State.initFirst_none {p : Nat} (h : s.hd x 0 = none) : s.initFirst x p = false := by
  simp only [State.initFirst, h]

theorem exec_carry_init {a : Token} (head : Says.HasHead s f x 0 a) (idle : s.hd x 2 = none) (phase : (s.slot x.t x.st a.seq).phase = 0)
    (kind : a.kind = .data) : exec (.carry f) s =
      .next (((s.take x [0]).setSlot x.t { s.slot x.t x.st a.seq with phase := 1 }).emits x.t x.st [(none, a)]) := by
  show Host.Outcome.next (s.fireHeads f _) = _
  rw [State.fireHeads_head head]
  simp [idle, State.carryInit, head.2, phase, State.headCase_data kind]

section Loop
variable {c b : Token} (head : Says.HasHead s f x 2 c) (phase : (s.slot x.t x.st c.seq).phase = 1) (idle : s.hd x 0 = none)
  (kind : c.kind = .data)
include head phase idle kind

/-- In LOOP a true predicate sends the head of b round. -/
theorem exec_carry_round (pred : c.pay.word ≠ 0) (hb : s.hd x 1 = some b) (hk : b.kind = .data) :
    exec (.carry f) s = .next ((s.take x [2, 1]).emits x.t x.st [(none, b)]) := by
  show Host.Outcome.next (s.fireHeads f _) = _
  rw [State.fireHeads_head head]
  simp [head.2, phase, State.initFirst_none idle, kind, show c.pay.word ≠ 0#64 from pred, hb, hk]

/-- A false one ends the loop. -/
theorem exec_carry_ends (pred : c.pay.word = 0) :
    exec (.carry f) s = .next ((s.take x [2]).setSlot x.t { s.slot x.t x.st c.seq with phase := 0 }) := by
  show Host.Outcome.next (s.fireHeads f _) = _
  rw [State.fireHeads_head head]
  simp [head.2, phase, State.initFirst_none idle, pred, State.headCase_data kind]

end Loop

theorem exec_invar_init {a : Token} (head : Says.HasHead s f x 0 a) (idle : s.hd x 1 = none) (phase : (s.slot x.t x.st a.seq).phase = 0)
    (kind : a.kind = .data) : exec (.invar f) s = .next (((s.take x [0]).setSlot x.t
      { s.slot x.t x.st a.seq with phase := 1, held := some a }).emits x.t x.st [(none, a)]) := by
  show Host.Outcome.next (s.fireHeads f _) = _
  rw [State.fireHeads_head head]
  simp [idle, State.invarInit, head.2, phase, State.headCase_data kind]

theorem exec_invar_hold {b v : Token} (head : Says.HasHead s f x 1 b) (idle : s.hd x 0 = none)
    (phase : (s.slot x.t x.st b.seq).phase = 1) (held : (s.slot x.t x.st b.seq).held = some v) (kind : b.kind = .data) :
    exec (.invar f) s = .next (if b.pay.word ≠ 0 then (s.take x [1]).emits x.t x.st [(none, { b with pay := v.pay, hdr := v.hdr })]
      else (s.take x [1]).setSlot x.t { s.slot x.t x.st b.seq with phase := 0, held := none }) := by
  show Host.Outcome.next (s.fireHeads f _) = _
  rw [State.fireHeads_head head]
  simp [head.2, phase, State.initFirst_none idle, held, State.headCase_data kind]

/-! ## lim, sink and tagrst (R208, R210, R212) -/

/-- With no notice at c nothing exits. -/
theorem State.limExit_none (h : s.hd x 2 = none) : s.limExit x = s := by
  simp only [State.limExit, h]

section Lim
variable {h : Token} (fires : Says.Fires s f x) (calm : s.hd x 2 = none)
include fires calm

theorem exec_lim_returns (hd : s.hd x 1 = some h) (value : h.kind.level = 0) :
    exec (.lim f) s = .next ((s.take x [1]).emits x.t x.st [(none, h)]) := by
  show Host.Outcome.next (s.fireHeads f _) = _
  rw [State.fireHeads_fires (.of_ready fires.1) fires.2]
  simp [State.limExit_none calm, hd, value]

theorem exec_lim_admits (idle : s.hd x 1 = none) (hd : s.hd x 0 = some h) (value : h.kind.level = 0) (room : s.limOcc x < f.aux.toNat) :
    exec (.lim f) s = .next (((s.take x [0]).limAdd x h.seq (· + 1)).emits x.t x.st [(none, h)]) := by
  show Host.Outcome.next (s.fireHeads f _) = _
  rw [State.fireHeads_fires (.of_ready fires.1) fires.2]
  simp [State.limExit_none calm, idle, hd, value, room]

theorem exec_lim_full (idle : s.hd x 1 = none) (hd : s.hd x 0 = some h) (full : f.aux.toNat ≤ s.limOcc x) :
    exec (.lim f) s = .next s := by
  show Host.Outcome.next (s.fireHeads f _) = _
  rw [State.fireHeads_fires (.of_ready fires.1) fires.2]
  simp [State.limExit_none calm, idle, hd, Nat.not_lt.2 full]

end Lim

theorem exec_sink_stop (ready : Says.Ready s f x) (hd : s.hd x 0 = some t) (level : t.kind.level ≠ 0) :
    exec (.sink f) s = .next (s.take x [0]) := by
  show Host.Outcome.next (s.withSta f _) = _
  rw [State.withSta_acts (.of_ready ready)]
  simp [hd, level]

theorem exec_sink_counts (ready : Says.Ready s f x) (hd : s.hd x 0 = some t) (kind : t.kind = .data ∨ t.kind = .done)
    (live : ∃ l ∈ x.r.live, l.seq = t.seq) (room : (s.slot x.t x.st t.seq).cnt < f.aux.toNat) :
    exec (.sink f) s = .next ((s.take x [0]).sinkCount x.r x.t x.st t.seq 1 none) := by
  have known : x.r.live.any (·.seq == t.seq) = true := by simpa using live
  show Host.Outcome.next (s.withSta f _) = _
  rw [State.withSta_acts (.of_ready ready)]
  rcases kind with kind | kind <;> simp [hd, kind, Kind.level, known, Nat.not_le.2 room]

theorem exec_tagrst_head (head : Says.HasHead s f x 0 t) :
    exec (.tagrst f) s = .next ((s.take x [0]).emits x.t x.st [(none, { t with iter := BitVec.ofNat 24 f.k.toNat })]) := by
  show Host.Outcome.next (s.fireHeads f _) = _
  rw [State.fireHeads_head head]
  simp only [head.2, immOf]

/-! ## The obligation -/

/-- Settles O43, station by station. -/
theorem routingStations : Obligations.RoutingStations := by
  unfold Obligations.RoutingStations
  refine ⟨fun f s x q s1 takes data => ⟨exec_steer_data takes data, exec_gate_data takes data, fun clear => ?_, ?_, fun room => ?_⟩,
    fun f s x z t fires hz ht => ?_, fun f s x p t head mem alone free => exec_merge_head head mem alone free,
    fun f s x c t head kind chosen => exec_cmerge_data head kind chosen,
    fun f s x a head idle phase kind => exec_carry_init head idle phase kind,
    fun f s x c b head phase idle kind => ⟨exec_carry_round head phase idle kind, exec_carry_ends head phase idle kind⟩,
    fun f s x a head idle phase kind => exec_invar_init head idle phase kind,
    fun f s x b v head idle phase held kind => exec_invar_hold head idle phase held kind,
    fun f s x fires calm => ⟨fun h => exec_lim_returns fires calm, fun h => exec_lim_admits fires calm, fun h => exec_lim_full fires calm⟩,
    fun f s x t ready hd => ⟨exec_sink_stop ready hd, exec_sink_counts ready hd⟩, fun f s x t head => exec_tagrst_head head⟩
  · rw [exec_dup_data takes data clear, State.dupCopy_eq]; rfl
  · rw [exec_tagset_data takes data, State.retag_eq]; rfl
  · obtain rfl := sta_f_of_ready takes.1.1
    exact ⟨_, (exec_tagnew_data takes data).trans (congrArg _ (State.tagNext_of_lt room)), rfl⟩
  · rw [exec_dup_owing fires hz ht, State.dupCopy_eq]

end Sys2Proof.Machine
end

section
/-! The proof of O44: the stations over streams and their STOPs. -/

namespace Sys2Proof.Machine

variable {s s1 : State} {f : StF} {x : Sta} {q : List (Nat × Token)}

/-- The low bits of a field as a number. -/
theorem extractLsb'_zero_toNat {w : Nat} (v : BitVec w) (n : Nat) : (v.extractLsb' 0 n).toNat = v.toNat % 2 ^ n := by
  rw [BitVec.extractLsb'_toNat, Nat.shiftRight_zero]

/-! ## stopgen, stopadv and count (R213 to R215) -/

theorem exec_stopgen_data (takes : Says.Takes s f x q s1) (data : Says.AllData q) :
    exec (.stopgen f) s = .next (s1.emits x.t x.st (if s1.opWord x q 1 = 0 then [(none, tokA q)] else [(none, tokA q), (none,
      s1.retag x (tokStop (tokA q).seq (tokA q).iter (f.aux.toNat % 8)) ((tokA q).iter.toNat + 1))])) := by
  show Host.Outcome.next (s.fireSet f _ _ _ _) = _
  rw [State.fireSet_data takes data fun _ => rfl]
  simp only [State.pred_iff, extractLsb'_zero_toNat, ne_eq, ite_not]
  split <;> rfl

theorem exec_stopadv_data (takes : Says.Takes s f x q s1) (data : Says.AllData q) :
    exec (.stopadv f) s = .next (s1.emits x.t x.st [(none, tokA q)]) := by
  show Host.Outcome.next (s.fireSet f _ _ _ _) = _
  rw [State.fireSet_data takes data fun _ => rfl]

theorem exec_count_data (takes : Says.Takes s f x q s1) (data : Says.AllData q) (kind : (tokA q).kind = .data)
    (room : (s1.slot x.t x.st (setSeq q)).cnt < 0xFFFFFE) : exec (.count f) s = .next (s1.setSlot x.t
      { s1.slot x.t x.st (setSeq q) with cnt := (s1.slot x.t x.st (setSeq q)).cnt + 1 }) := by
  show Host.Outcome.next (s.fireSet f _ _ _ _) = _
  rw [State.fireSet_data takes data fun _ => rfl]
  simp [kind, tagOvf_of_lt room]

section Stops
variable {n : Nat} (takes : Says.Takes s f x q s1) (hq : q ≠ []) (stops : ∀ e ∈ q, e.2.kind = .stop n) (hn : n ≠ 0)
include takes hq stops hn

theorem exec_stopadv_stop : exec (.stopadv f) s = .next
    (if f.aux.getLsbD 0 then (if n = 1 then s1 else passStop x q (n - 1) s1)
     else if n = 7 then s1.errFire x (setSeq q) (setIter q) (s1.self x.t eSTOPMIS) else passStop x q (n + 1) s1) := by
  show Host.Outcome.next (s.fireSet f _ _ _ _) = _
  rw [State.fireSet_stops takes hq hn stops]

/-- A STOP of the level or above gives the count, and itself after it. -/
theorem exec_count_stop (level : f.aux.toNat % 8 ≤ n) (room : (s1.slot x.t x.st (setSeq q)).cnt < 0xFFFFFE) :
    exec (.count f) s = .next ((s1.setSlot x.t { s1.slot x.t x.st (setSeq q) with cnt := 0 }).emits x.t x.st
      [(none, tokS (setSeq q) (setIter q) .data (BitVec.ofNat 64 (s1.slot x.t x.st (setSeq q)).cnt)),
       (none, tokStop (setSeq q) (setIter q) n)]) := by
  show Host.Outcome.next (s.fireSet f _ _ _ _) = _
  rw [State.fireSet_stops takes hq hn stops]
  simp [tagOvf_of_lt room, Nat.not_lt.2 level]

end Stops

/-! ## intersect and union (R216) -/

/-- Out(v, i, j) while tags are left. -/
theorem State.walkOut_of_lt {seq : BitVec 8} (v i j : Word) (room : (s.slot x.t x.st seq).tagc < 0xFFFFFE) :
    let sl := s.slot x.t x.st seq
    let it := BitVec.ofNat 24 sl.tagc
    s.walkOut x seq v i j = (s.setSlot x.t { sl with tagc := sl.tagc + 1 }).emits x.t x.st
      [(some 0, tokS seq it .data v), (some 1, tokS seq it .data i), (some 2, tokS seq it .data j)] := by
  simp [State.walkOut, tagOvf_of_lt room]

section Walk
variable {a b : Token} {union : Bool} (head : Says.HasHead s f x 0 a) (hb : s.hd x 1 = some b) (ka : a.kind = .data)
  (kb : b.kind = .data) (seq : a.seq = b.seq)
include head hb ka kb seq

/-- Over two coordinates of a launch: the lesser passes alone, and equal ones together. -/
theorem State.walkFire_data : s.walkFire f union =
    if a.pay.word.toInt < b.pay.word.toInt then (if union then (s.take x [0]).walkOut x a.seq a.pay.word
        (BitVec.ofNat 64 (s.slot x.t x.st a.seq).pa) (-1) else s.take x [0]).walkPos x a.seq 1 0
    else if b.pay.word.toInt < a.pay.word.toInt then (if union then (s.take x [1]).walkOut x a.seq b.pay.word (-1)
        (BitVec.ofNat 64 (s.slot x.t x.st a.seq).pb) else s.take x [1]).walkPos x a.seq 0 1
    else ((s.take x [0, 1]).walkOut x a.seq a.pay.word (BitVec.ofNat 64 (s.slot x.t x.st a.seq).pa)
        (BitVec.ofNat 64 (s.slot x.t x.st a.seq).pb)).walkPos x a.seq 1 1 := by
  rw [State.walkFire, State.fireHeads_head head]
  simp [head.2, hb, ka, kb, seq, BitVec.slt_iff_toInt_lt]

theorem State.walkFire_less (h : a.pay.word.toInt < b.pay.word.toInt) : s.walkFire f union =
    (if union then (s.take x [0]).walkOut x a.seq a.pay.word
      (BitVec.ofNat 64 (s.slot x.t x.st a.seq).pa) (-1) else s.take x [0]).walkPos x a.seq 1 0 := by
  rw [State.walkFire_data head hb ka kb seq, if_pos h]

theorem State.walkFire_greater (h : b.pay.word.toInt < a.pay.word.toInt) : s.walkFire f union =
    (if union then (s.take x [1]).walkOut x a.seq b.pay.word (-1)
      (BitVec.ofNat 64 (s.slot x.t x.st a.seq).pb) else s.take x [1]).walkPos x a.seq 0 1 := by
  rw [State.walkFire_data head hb ka kb seq, if_neg (Int.not_lt.2 h.le), if_pos h]

theorem State.walkFire_equal (h : a.pay.word = b.pay.word) : s.walkFire f union =
    ((s.take x [0, 1]).walkOut x a.seq a.pay.word (BitVec.ofNat 64 (s.slot x.t x.st a.seq).pa)
      (BitVec.ofNat 64 (s.slot x.t x.st a.seq).pb)).walkPos x a.seq 1 1 := by
  rw [State.walkFire_data head hb ka kb seq, ← h, if_neg (Int.lt_irrefl _), if_neg (Int.lt_irrefl _)]

end Walk

theorem exec_intersect (f : StF) (s : State) : exec (.intersect f) s = .next (s.walkFire f false) := rfl
theorem exec_union (f : StF) (s : State) : exec (.union_ f) s = .next (s.walkFire f true) := rfl

/-! ## The obligation -/

/-- Settles O44: what each station does with a set, and the walk by the order of its two coordinates. -/
theorem streamStations : Obligations.StreamStations := by
  unfold Obligations.StreamStations
  refine ⟨fun f s x q s1 takes => ⟨fun data => ?_, exec_stopadv_data takes, exec_count_data takes,
      fun n hq stops hn => ⟨exec_stopadv_stop takes hq stops hn, exec_count_stop takes hq stops hn⟩⟩,
    fun f s x a b head hb ka kb seq => ⟨fun h => ?_, fun h => ?_, fun h => ?_⟩,
    fun s x seq v i j room => State.walkOut_of_lt v i j room⟩
  · rw [exec_stopgen_data takes data, State.retag_eq]; rfl
  · rw [exec_intersect, exec_union, State.walkFire_less head hb ka kb seq h, State.walkFire_less head hb ka kb seq h]
    exact ⟨rfl, rfl⟩
  · rw [exec_intersect, exec_union, State.walkFire_greater head hb ka kb seq h, State.walkFire_greater head hb ka kb seq h]
    exact ⟨rfl, rfl⟩
  · rw [exec_intersect, exec_union, State.walkFire_equal head hb ka kb seq h, State.walkFire_equal head hb ka kb seq h]
    exact ⟨rfl, rfl⟩

end Sys2Proof.Machine
end

section
/-! The refutation of O45. Against it stands dsdec: its failing token leaves with the tag of the token at port a (R232), where the
statement has the tag of the set's first token (R33). The tags agree in a set that pairing has made (R32), but the statement takes any
state, and its word may have a second token port, as the encodings allow (R62). Here the set's tokens differ in their tag, with port
b's first. -/

namespace Sys2Proof.Machine

/-- A dsdec station of ports a and b and output 0. -/
def dsdecWord : StF := ⟨0, 6, 0, 1, 0, 0⟩
theorem dsdecWord_wf : (Instr.dsdec dsdecWord).wf = true := by decide
def dsdecBlock : CfgBlock := { oneWord 0 0 with used := 3, ops := [dsdecWord.word 0x52, dsdecWord.word 0x52] }
/-- Port a's token holds the digit code 0b100, which stands for no digit (R184), and has iteration 1. -/
def dsdecSet : List (Nat × Token) := [(1, tokS 0 0 .data 0), (0, tokS 0 1 .data 0x800000)]
def dsdecState : State :=
  { State.reset with
    regions := [vinsRegion]
    tiles := [{ Tile.zero vinsTile with cfgs := [(0, dsdecBlock)], ready := [⟨0, dsdecSet⟩] }]
    tile := vinsTile
    st := 0 }
def dsdecSta : Sta := ⟨vinsRegion, vinsTile, 0, dsdecWord, dsdecBlock⟩

/-- The iterations on their way after a step. -/
def flyingIters : Out → List (BitVec 24)
  | .next s => s.flight.map (·.tok.iter)
  | _ => []

theorem dsdecState_takes : Says.Takes dsdecState dsdecWord dsdecSta dsdecSet
    (dsdecState.onTile vinsTile fun y => { y with ready := y.ready.erase ⟨0, dsdecSet⟩ }) :=
  ⟨⟨⟨rfl, rfl, rfl, rfl, rfl, rfl, rfl⟩, by decide +kernel⟩, rfl⟩

/-- Refutes O45: the dsdec station of `dsdecState` sends its ERROR with iteration 1, where the statement has 0. -/
theorem not_conversionStations : ¬ Obligations.ConversionStations := by
  unfold Obligations.ConversionStations
  rintro ⟨h, -⟩
  have data : Says.AllData dsdecSet := by simp [Says.AllData, dsdecSet, tokS]
  obtain ⟨-, -, invalid, -⟩ := h _ _ _ _ _ dsdecState_takes data
  exact absurd (congrArg flyingIters (invalid (by decide +kernel))) (by decide +kernel)

end Sys2Proof.Machine
end

section
/-! The proof of O46: the matrix stations, the fill of the A row buffer, and the requests at the head of a bank's queue. -/

namespace Sys2Proof.Machine

variable {s : State} {f : StF} {x : Sta} {t : Token} {a : ASlot}

/-- The engine with a request behind the others of a bank's queue. -/
def Matrix.enqueue (m : Matrix) (k : Nat) (r : BankReq) : Matrix := m.setBank k { m.bank k with q := (m.bank k).q ++ [r] }

/-! ## mxload and mxscale (R239) -/

/-- A DATA token writes its element once nothing issued is left, and the last element gives DONE. -/
theorem State.loadFire_data {total : Nat} {write : Nat → Word → RowGroup → RowGroup} (head : Says.HasHead s f x 0 t)
    (kind : t.kind = .data) (drained : (s.tileAt x.t).mx.issued = []) :
    let s1 := s.take x [0]
    let sl := s1.slot x.t x.st t.seq
    let k := (f.aux.toNat % 4, f.aux.toNat / 4 % 8)
    let s2 := s1.onTile x.t fun y =>
      { y with mx := y.mx.setRg k (write sl.cnt t.pay.word (lookupD y.mx.rgs k RowGroup.zero)) }
    s.loadFire f total write = if sl.cnt + 1 = total then (s2.setSlot x.t { sl with cnt := 0 }).emits x.t x.st
        [(none, tokS t.seq t.iter .done (BitVec.ofNat 64 total))]
      else s2.setSlot x.t { sl with cnt := sl.cnt + 1 } := by
  rw [State.loadFire, State.fireHeads_head head]
  simp only [head.2, kind, drained, ne_eq, not_true_eq_false, if_false, BitVec.extractLsb'_toNat, Nat.shiftRight_eq_div_pow,
    Nat.reducePow, Nat.div_one]

/-- The fill of a row group's cells, with FMTB from the first element (R235, R239). -/
def loadCells (f : StF) (n : Nat) (w : Word) (g : RowGroup) : RowGroup :=
  { g with cells := putBytes g.cells (128 * (n / 16) + 8 * (n % 16)) (Says.bytesOf w 8),
           fmtb := if n = 0 then f.aux.getLsbD 5 else g.fmtb }

/-- The fill of its headers. -/
def loadHdrs (n : Nat) (w : Word) (g : RowGroup) : RowGroup :=
  { g with hdrs := putBytes g.hdrs (8 * n) ((Says.bytesOf w 8).map clampHdr) }

theorem exec_mxload (f : StF) (s : State) : exec (.mxload f) s = .next (s.loadFire f 2048 (loadCells f)) := by
  show Host.Outcome.next (s.loadFire f 2048 _) = _
  simp only [leBytes_toNat]
  rfl

theorem exec_mxscale (f : StF) (s : State) : exec (.mxscale f) s = .next (s.loadFire f 16 loadHdrs) := by
  show Host.Outcome.next (s.loadFire f 16 _) = _
  simp only [leBytes_toNat]
  rfl

/-! ## mxdot (R240 to R242) -/

theorem Token.isWide_data (kind : t.kind = .data) : t.isWide = false := by
  simp [Token.isWide, kind]

/-- A DATA token of its launch goes into the filling slot. -/
theorem exec_mxdotFill_data {w : Word32} (word : s.wordAt s.tile s.st = some w) (op : opOf w = 0x61)
    (head : ((s.tileAt s.tile).head s.st 0).map (Token.plain 0x61) = some t) (kind : t.kind = .data)
    (runs : s.sequences s.tile = true)
    (filling : (s.tileAt s.tile).mx.abuf.find? (fun b => b.st = s.st ∧ !b.full) = some a) (mine : t.seq = a.seq) :
    exec .mxdotFill s = .next (s.onTile s.tile fun y => { (y.pop s.st 0) with
      mx := y.mx.onFill s.st fun b => b.feed t (dotShape (StF.of w)) (s.self s.tile 0) }) := by
  show execMxdotFill s = _
  simp only [execMxdotFill, word, op, runs, head, filling, Token.isWide_data kind]
  simp [mine, kind, Kind.level]

/-- The engine after an issue: the slot leaves the buffer, and each bank of the mask has the operation in its queue. -/
def Matrix.issue (m : Matrix) (st : Nat) (a : ASlot) (d : DotShape) : Matrix :=
  (maskBanks d.mask).foldl (fun u k => u.enqueue k (.dot a d.g0 d.ng d.nm 0 d.ovw d.bcast))
    { m with abuf := dropFirst (fun b => b.st = st ∧ b.full) m.abuf }

section Dot
variable (fires : Says.Fires s f x) (full : (s.tileAt x.t).mx.abuf.find? (fun b => b.st = x.st ∧ b.full) = some a)
include fires full

/-- An operation that holds a failure fails. -/
theorem exec_mxdot_err {e : ErrInfo} (err : a.err = some e) : exec (.mxdot f) s = .next (s.dotFail x a (dotShape f) e) := by
  show Host.Outcome.next (s.fireHeads f _) = _
  rw [State.fireHeads_fires (.of_ready fires.1) fires.2]
  simp only [full, err]

/-- So does one with a bank that is poisoned. -/
theorem exec_mxdot_poisoned (sound : a.err = none)
    (bad : ∃ k ∈ maskBanks (dotShape f).mask, ((s.tileAt x.t).mx.bank k).poison = true) :
    exec (.mxdot f) s = .next (s.dotFail x a (dotShape f) (s.self x.t ePOISON)) := by
  show Host.Outcome.next (s.fireHeads f _) = _
  rw [State.fireHeads_fires (.of_ready fires.1) fires.2]
  simp only [full, sound, List.any_eq_true.2 bad, if_true]

variable (sound : a.err = none) (clean : ∀ k ∈ maskBanks (dotShape f).mask, ((s.tileAt x.t).mx.bank k).poison = false)
include sound clean

/-- With clean banks it is issued once each of their queues has room. -/
theorem exec_mxdot_clean : exec (.mxdot f) s = .next
    (if ∃ k ∈ maskBanks (dotShape f).mask, 8 ≤ ((s.tileAt x.t).mx.bank k).q.length then s
     else (s.onTile x.t fun y => { y with mx := y.mx.issue x.st a (dotShape f) }).emits x.t x.st
      [(none, tokS a.seq a.iter .data (BitVec.ofNat 64 (dotShape f).mask))]) := by
  have none_poisoned : ((maskBanks (dotShape f).mask).any fun k => ((s.tileAt x.t).mx.bank k).poison) = false :=
    List.any_eq_false.2 fun k hk => by simp [clean k hk]
  show Host.Outcome.next (s.fireHeads f _) = _
  rw [State.fireHeads_fires (.of_ready fires.1) fires.2]
  simp only [full, sound, none_poisoned, Bool.false_eq_true, if_false, List.any_eq_true, decide_eq_true_eq]
  rfl

end Dot

/-! ## The sequencer (R241) -/

/-- A row group is added to the sums and the NaR flags of its bank and to nothing else. -/
@[simp] theorem Bank.addGroup_poison (b : Bank) (g : RowGroup) (elems : List AElem) (k0 : Nat) :
    (b.addGroup g elems k0).poison = b.poison := by
  unfold Bank.addGroup
  refine List.foldlRecOn (motive := fun b' : Bank => b'.poison = b.poison) g.cells _ rfl fun b' keeps c _ => ?_
  dsimp only
  split
  · exact keeps
  · split
    · exact keeps
    · split <;> exact keeps

@[simp] theorem Matrix.runGroup_poison (m : Matrix) (k : Nat) (a : ASlot) (g0 ng nm done : Nat) (bcast : Bool) (b : Bank) :
    (m.runGroup k a g0 ng nm done bcast b).poison = b.poison := by
  unfold Matrix.runGroup
  exact List.foldlRecOn (motive := fun b' : Bank => b'.poison = b.poison) _ _ rfl fun b' keeps mac _ =>
    (Bank.addGroup_poison ..).trans keeps

/-- The bank as a dot request finds it: cleared by .ovw. -/
def Bank.begun (b : Bank) (ovw : Bool) : Bank :=
  { b with s := if ovw then [] else b.s, nanf := if ovw then [] else b.nanf }

theorem Bank.begun_eq (b : Bank) (ovw : Bool) : (if ovw then { b with s := [], nanf := [] } else b) = b.begun ovw := by
  cases ovw <;> rfl

/-- One row group of the request at the head; the request goes with its last. -/
theorem exec_mxSequencerApply_dot {g0 ng nm done : Nat} {ovw bc : Bool} {rest : List BankReq} (runs : s.sequences s.tile = true)
    (first : ((s.tileAt s.tile).mx.bank s.input.k.toNat).q = .dot a g0 ng nm done ovw bc :: rest) :
    let k := s.input.k.toNat
    let mx := (s.tileAt s.tile).mx
    let b' := { mx.runGroup k a g0 ng nm done bc ((mx.bank k).begun ovw) with
      q := if done + 1 < ng then .dot a g0 ng nm (done + 1) false bc :: rest else rest }
    exec .mxSequencerApply s = .next (s.onTile s.tile fun y => { y with mx := y.mx.setBank k b' }) := by
  show execMxSequencerApply s = _
  simp only [execMxSequencerApply, Bank.begun_eq]
  simp only [runs, first, Bool.not_true, Bool.false_eq_true, if_false]

/-! ## mxrd and mxclr (R244) -/

section Trigger
variable (head : Says.HasHead s f x 0 t) (trigger : t.kind = .data ∨ t.kind = .done)
include head trigger

/-- A trigger queues its read when the queue has room. -/
theorem exec_mxrd_trigger (room : ((s.tileAt x.t).mx.bank (f.k.toNat % 4)).q.length < 8) :
    exec (.mxrd f) s = .next ((s.take x [0]).onTile x.t fun y => 
      { y with mx := y.mx.enqueue (f.k.toNat % 4) (.read x.st t (f.aux.toNat % 8) (f.aux.toNat / 8 % 8 + 1) f.rm) }) := by
  show Host.Outcome.next (s.fireHeads f _) = _
  rw [State.fireHeads_head head]
  rcases trigger with kind | kind <;>
    simp [head.2, kind, Kind.level, trigOk, immOf, Matrix.enqueue, Nat.not_le.2 room, BitVec.extractLsb'_toNat, Nat.shiftRight_eq_div_pow]

/-- A trigger queues its clear at every bank of the mask when each queue has room. -/
theorem exec_mxclr_trigger (room : ∀ k ∈ maskBanks f.k.toNat, ((s.tileAt x.t).mx.bank k).q.length < 8) :
    exec (.mxclr f) s = .next ((s.take x [0]).onTile x.t fun y =>
      { y with mx := (maskBanks f.k.toNat).foldl (fun m k => m.enqueue k (.clear y.mx.freeClear x.st t)) y.mx }) := by
  have roomy : ((maskBanks f.k.toNat).any fun k => decide (8 ≤ ((s.tileAt x.t).mx.bank k).q.length)) = false :=
    List.any_eq_false.2 fun k hk => by simpa using room k hk
  show Host.Outcome.next (s.fireHeads f _) = _
  rw [State.fireHeads_head head]
  rcases trigger with kind | kind <;> simp [head.2, kind, Kind.level, trigOk, immOf, Matrix.enqueue, roomy]

end Trigger

/-- A read of a bank that is not poisoned gives its rows of lanes while tags are left. -/
theorem exec_mxrdReadApply_read {st : Nat} {g n : Nat} {rm : RMode} {rest : List BankReq} (runs : s.sequences s.tile = true)
    (first : ((s.tileAt s.tile).mx.bank s.input.k.toNat).q = .read st t g n rm :: rest)
    (clean : ((s.tileAt s.tile).mx.bank s.input.k.toNat).poison = false) (tags : n * t.iter.toNat + n ≤ 0xFFFFFE) :
    let k := s.input.k.toNat
    let b := (s.tileAt s.tile).mx.bank k
    exec .mxrdReadApply s = .next ((s.onTile s.tile fun y => { y with mx := y.mx.setBank k { b with q := rest } }).emits s.tile st
      ((List.range n).map fun j => (none, tokV t.seq (BitVec.ofNat 24 (n * t.iter.toNat + j)) .data
        ((List.range 16).map fun l => b.lane rm (16 * (g + j) + l))))) := by
  show execMxrdReadApply s = _
  simp only [execMxrdReadApply, runs, first, clean, Bool.not_true, Bool.false_eq_true, if_false]
  refine congrArg (fun es => Host.Outcome.next (State.emits _ _ _ es)) (List.map_congr_left fun j hj => ?_)
  have tag : tagOvf (n * t.iter.toNat + j) = false := tagOvf_of_lt (by have := List.mem_range.1 hj; omega)
  simp only [tag, Bool.false_eq_true, if_false]

/-- A clear empties the bank, and its trigger leaves when no other bank still has it queued. -/
theorem exec_mxclrApply_clear {id st : Nat} {rest : List BankReq} (runs : s.sequences s.tile = true)
    (first : ((s.tileAt s.tile).mx.bank s.input.k.toNat).q = .clear id st t :: rest) :
    let m := (s.tileAt s.tile).mx.setBank s.input.k.toNat ⟨[], [], false, rest⟩
    let s1 := s.onTile s.tile fun y => { y with mx := m }
    exec .mxclrApply s = .next (if ∃ j ∈ List.range 4, (m.bank j).q.any (fun r => r.clear? == some id) = true then s1
      else s1.emits s.tile st [(none, t)]) := by
  show execMxclrApply s = _
  simp only [execMxclrApply, runs, first, Bool.not_true, Bool.false_eq_true, if_false, List.any_eq_true]

/-! ## mxacc (R245) -/

/-- The accumulated lanes, each from the identity of its operation. -/
def accLanes (f : StF) (sl : Slot) : List W48 :=
  (List.range (if f.ty = 1 then 16 else 1)).map fun j => sl.lanes.getD j (redId (f.aux.toNat % 4))

section Acc
variable (head : Says.HasHead s f x 0 t)
include head

theorem exec_mxacc_data (kind : t.kind = .data) :
    let sl := (s.take x [0]).slot x.t x.st t.seq
    exec (.mxacc f) s = .next ((s.take x [0]).setSlot x.t
      { sl with lanes := List.zipWith (redOp (f.aux.toNat % 4) f.rm) (accLanes f sl) (tokElems t) }) := by
  show Host.Outcome.next (s.fireHeads f _) = _
  rw [State.fireHeads_head head]
  simp only [head.2, kind, extractLsb'_zero_toNat, isV, beq_iff_eq, accLanes]
  rfl

/-- A STOP of the level or above gives the lanes, and itself after them. -/
theorem exec_mxacc_stop {n : Nat} (kind : t.kind = .stop n) (level : f.aux.toNat / 4 % 8 ≤ n)
    (sound : ((s.take x [0]).slot x.t x.st t.seq).err = none) :
    let sl := (s.take x [0]).slot x.t x.st t.seq
    exec (.mxacc f) s = .next (((s.take x [0]).setSlot x.t { sl with lanes := [], err := none }).emits x.t x.st
      [(none, ⟨t.seq, t.iter, .data, if f.ty = 1 then .vector (accLanes f sl) else payW ((accLanes f sl).getD 0 0), (0, 0)⟩),
       (none, t)]) := by
  have reached : ¬ n < (f.aux.extractLsb' 2 3).toNat := by
    rw [BitVec.extractLsb'_toNat, Nat.shiftRight_eq_div_pow]
    exact Nat.not_lt.2 level
  show Host.Outcome.next (s.fireHeads f _) = _
  rw [State.fireHeads_head head]
  simp only [head.2, kind, reached, if_false, sound, extractLsb'_zero_toNat, Nat.reducePow, isV, beq_iff_eq, accLanes]

end Acc

/-! ## The obligation -/

/-- Settles O46, station by station and request by request. -/
theorem matrixStations : Obligations.MatrixStations := by
  unfold Obligations.MatrixStations
  refine ⟨fun f s x t head kind drained => ⟨?_, ?_⟩,
    fun s w t a word op head kind runs filling mine => exec_mxdotFill_data word op head kind runs filling mine,
    fun f s x a fires full => ⟨fun e => exec_mxdot_err fires full, exec_mxdot_poisoned fires full,
      fun sound clean busy => ?_, fun sound clean room => ⟨_, ?_, rfl⟩⟩,
    fun s a g0 ng nm done ovw bc rest runs first =>
      ⟨_, exec_mxSequencerApply_dot runs first, rfl, (Matrix.runGroup_poison ..).trans rfl, rfl⟩,
    fun f s x t head trigger => ⟨exec_mxrd_trigger head trigger, exec_mxclr_trigger head trigger⟩,
    fun s st t g n rm rest runs first clean tags => exec_mxrdReadApply_read runs first clean tags,
    fun s id st t rest runs first => exec_mxclrApply_clear runs first,
    fun f s x t head => ⟨exec_mxacc_data head, fun n => exec_mxacc_stop head⟩⟩
  · rw [exec_mxload, State.loadFire_data head kind drained]
    simp only [Nat.reduceEqDiff]
    rfl
  · rw [exec_mxscale, State.loadFire_data head kind drained]
    simp only [Nat.reduceEqDiff]
    rfl
  · rw [exec_mxdot_clean fires full sound clean, if_pos busy]
  · rw [exec_mxdot_clean fires full sound clean, if_neg fun ⟨k, hk, busy⟩ => Nat.not_le.2 (room k hk) busy]
    rfl

end Sys2Proof.Machine
end

section
/-! The proof of O48: lds and agen, the rounds they open, and the groups that sts, scat and gath write and fetch. -/

namespace Sys2Proof.Machine

variable {s s1 : State} {f : StF} {x : Sta} {t : Token} {sh : Shape} {sl : Slot} {w : Walk} {seq : BitVec 8} {va n : Nat}
  {hs : List (Nat × Nat × Nat)} {b write : Bool}

/-! ## Accesses (R259, R264, R349) -/

section Access
variable {h : Holder} {ws : List Window} {it : BitVec 24}

/-- An access whose pieces are all there goes on with them. -/
theorem State.mapped_ok {ps : List (Nat × Nat)} {k : List (Nat × Nat × Nat) → State} (free : s.stalled h seq = false)
    (there : s.stPieces (s.holderTlb x.r.part h) x.r.part ws write ps = .ok hs) : s.mapped x h ws seq it ps write k = k hs := by
  simp only [State.mapped, free, there, Bool.false_eq_true, if_false]

/-- So does one that the detector does not check. -/
theorem State.access_ok {k : List (Nat × Nat × Nat) → State → State} (free : s.stalled h seq = false)
    (there : s.stPieces (s.holderTlb x.r.part h) x.r.part ws write (chunks va n) = .ok hs)
    (off : ((x.r.liveOf seq).map (·.race)).getD false = false) : s.access x h ws seq it va n write k = k hs s := by
  rw [State.access, State.mapped_ok free there, State.stChecked_off off]

theorem State.access_reached {k : List (Nat × Nat × Nat) → State → State} (reached : Says.Reached s x seq va n write hs) :
    s.access x (.ag x.t x.st) agWindows seq it va n write k = k hs s := by
  obtain ⟨free, there, off⟩ := reached
  exact State.access_ok free there off

/-- Some of the pieces of an access that is there are there. -/
theorem State.stPieces_filter {tlb : List TlbEntry} {p : BitVec 4} {ps : List (Nat × Nat)} (keep : Nat × Nat → Bool)
    (there : s.stPieces tlb p ws write ps = .ok hs) :
    s.stPieces tlb p ws write (ps.filter keep) = .ok (hs.filter fun q => keep q.2) := by
  induction ps generalizing hs with
  | nil => cases there; rfl
  | cons a ps ih =>
    obtain ⟨va, n⟩ := a
    simp only [State.stPieces] at there
    split at there
    · cases there
    · cases there
    · next home at_ =>
      cases rest : s.stPieces tlb p ws write ps with
      | error e => rw [rest] at there; cases there
      | ok hs' =>
        rw [rest] at there
        cases there
        by_cases kept : keep (va, n) = true
        · simp [kept, State.stPieces, at_, ih rest, Except.map]
        · simp [kept, ih rest]

/-- The pieces of an access that hold one of some bytes, by offset from its address. -/
def piecesHolding (va : Nat) (hs : List (Nat × Nat × Nat)) (on : List Nat) : List (Nat × Nat × Nat) :=
  hs.filter fun q => on.any fun o => decide (q.2.1 - va ≤ o ∧ o < q.2.1 - va + q.2.2)

/-- Of an access that is there, the pieces that hold some bytes are there. -/
theorem State.mapped_piecesHolding {k : List (Nat × Nat × Nat) → State} (reached : Says.Reached s x seq va n write hs) (on : List Nat) :
    s.mapped x (.ag x.t x.st) agWindows seq it (piecesWith va on (chunks va n)) write k = k (piecesHolding va hs on) := by
  obtain ⟨free, there, -⟩ := reached
  exact State.mapped_ok free (State.stPieces_filter _ there)

end Access

/-! ## Firings -/

theorem State.fireHeads_of_fires (fires : Says.Fires s f x) (k : Sta → State → State) : s.fireHeads f k = k x s := by
  obtain ⟨ready, credit⟩ := fires
  exact State.fireHeads_fires (.of_ready ready) credit k

/-- A firing that consumes a head leaves the slots. -/
theorem State.slot_take (s : State) (x : Sta) (p st : Nat) (seq : BitVec 8) : (s.take x [p]).slot x.t st seq = s.slot x.t st seq := by
  have popped : (s.take x [p]).tileAt x.t = (s.tileAt x.t).pop x.st p := State.tileAt_onTile (s.tileAt_id x.t)
  rw [State.slot, popped]
  rfl

/-- A token of DATA at port a begins a round. -/
theorem State.trigger_data {k : Token → State → State} (hd : s.hd x 0 = some t) (kind : t.kind = .data) :
    s.trigger x k = k t (s.take x [0]) := by
  simp only [State.trigger, hd, kind]

/-! ## Rounds (R273 to R275) -/

/-- A plain round begins with its record as it stands. -/
theorem State.beginRound_plain (plain : Says.PlainRound x sh) : s.beginRound x seq = .go sh s := by
  obtain ⟨shape, fed, stv, acq⟩ := plain
  simp [State.beginRound, shape, fed, stv, acq]

theorem State.openRound_empty (empty : sh.groups = 0) : s.openRound x seq sh =
    (s.emitRound x (s.slot x.t x.st seq) [(.stop (endLevel x.f sh), .scalar 0)]).roundRel x seq sh := if_pos empty

theorem State.openRound_open (open_ : sh.groups ≠ 0) : s.openRound x seq sh =
    s.setSlot x.t { s.slot x.t x.st seq with walk := some ⟨sh, 0, sh.groups, 0, [], true⟩ } := if_neg open_

/-- A group's address without a list is the sum over the dimensions. -/
theorem State.groupAddr_plain {k : Nat} (stv : sh.stv = false) :
    s.groupAddr x sh seq k write = .ok (sh.base + sh.offset (indexes sh.exts k) sh.ndim).toNat := by
  simp only [State.groupAddr, stv, Bool.false_eq_true, if_false]

/-- So is that of a group of the row that an index names. -/
theorem State.indexAddr_plain {v : Int} {k : Nat} (stv : sh.stv = false) : s.indexAddr x sh seq v k write =
    .ok (sh.base + BitVec.ofInt 57 (v * (sh.dims.getD 1 (0, 0)).2.toInt) + BitVec.ofInt 57 ((k : Int) * (sh.dims.getD 0 (0, 0)).2.toInt)).toNat := by
  simp only [State.indexAddr, stv, Bool.false_eq_true, if_false]

/-! ## lds and agen (R274, R276) -/

section Walks
variable {agen : Bool}

/-- An open round goes on with its next group. -/
theorem State.fireWalk_next (fires : Says.Fires s f x) (next : s.openWalk x (.ag x.t x.st) = some (sl, w)) :
    s.fireWalk f agen = s.walkGroup x sl w agen := by
  rw [State.fireWalk, State.fireHeads_of_fires fires]
  simp only [next]

theorem State.walkGroup_agen (addr : s.groupAddr x w.shape sl.seq w.pos false = .ok va) :
    s.walkGroup x sl w true = s.pushGroup x sl w [BitVec.ofNat 64 va] := by
  simp only [State.walkGroup, addr, if_true]

theorem State.walkGroup_lds (addr : s.groupAddr x w.shape sl.seq w.pos false = .ok va)
    (reached : Says.Reached s x sl.seq va (groupShape w.shape.fmt.toNat).1 false hs) :
    s.walkGroup x sl w false = s.pushGroup x sl w (decodeGroup w.shape.fmt.toNat (x.f.ty == 2) w.shape.rm (s.gather hs)) := by
  simp only [State.walkGroup, addr, State.access_reached reached, Bool.false_eq_true, if_false]

/-- With none open a value at port a opens one. -/
theorem State.fireWalk_opens (head : Says.HasHead s f x 0 t) (kind : t.kind = .data) (ported : f.inp.getLsbD 2 = true)
    (idle : s.openWalk x (.ag x.t x.st) = none) (fresh : (s.slot x.t x.st t.seq).walk = none) (plain : Says.PlainRound x sh) :
    s.fireWalk f agen = (s.take x [0]).openRound x t.seq sh := by
  rw [State.fireWalk, State.fireHeads_head head]
  simp only [idle, head.2, ported, fresh, State.trigger_data head.2 kind, State.beginRound_plain plain, Option.isSome_none, Bool.not_false,
    Bool.and_self, if_true]

end Walks

/-- A source runs its round of the oldest launch that has not yet had it, once the launch's parameters have arrived (R128, R274). -/
theorem exec_sourceRoundStart {r : Region} {o : Word32} {l : Live} (there : s.regionOf s.tile = some r) (word : s.wordAt s.tile s.st = some o)
    (kind : opOf o = 0x80 ∨ opOf o = 0x82) (source : (StF.of o).inp.getLsbD 2 = false) (fires : Says.Fires s (StF.of o) x)
    (plain : Says.PlainRound x sh) (due : r.live.find? (fun l => !l.started.contains (s.tile, s.st) && l.cancelled.isNone) = some l)
    (arrived : (s.flight.any fun q => r.tiles.contains q.dst && q.tok.seq == l.seq && q.tok.kind == .param) = false) :
    exec .sourceRoundStart s = .next ((s.openRound x l.seq sh).onLive r.core r.bslot l.seq
      fun l => { l with started := (x.t, x.st) :: l.started }) := by
  have starts : (!(opOf o == 0x80 || opOf o == 0x82) || (StF.of o).inp.getLsbD 2) = false := by
    rw [source]
    rcases kind with kind | kind <;> rw [kind] <;> rfl
  show execSourceRoundStart s = _
  simp only [execSourceRoundStart, there, word, starts, due, arrived, State.fireHeads_of_fires fires, State.beginRound_plain plain,
    Bool.false_eq_true, if_false]

/-! ## sts and scat: elements (R276) -/

/-- The elements that a token brings. -/
def elementsOf (f : StF) (t : Token) : List (Option Word) :=
  match t.pay with
  | .vector l => if f.ty = 1 then l.map fun w => some (w.setWidth 64) else [some (wordOfLanes l)]
  | p => [some p.word]

/-- The slot of a storing station once a token's elements have joined its round, with the row they go to. -/
def Slot.joined (sl : Slot) (w : Walk) (f : StF) (t : Token) (row : Word) : Slot :=
  { sl with walk := some { w with elems := w.elems ++ elementsOf f t }, pa := row.toNat, pb := 0, tagc := t.iter.toNat }

/-- A round that has begun takes its tokens. -/
theorem State.storeBegin_begun (walk : (s.slot x.t x.st seq).walk = some w) : s.storeBegin x seq = some s := by
  simp [State.storeBegin, walk]

/-- The elements of a token of DATA join the round. -/
theorem State.storeTok_data (kind : t.kind = .data) (walk : (s.slot x.t x.st t.seq).walk = some w) (hasGroups : w.total ≠ 0) (row : Word) :
    s.storeTok x t (some row) = s.setSlot x.t ((s.slot x.t x.st t.seq).joined w x.f t row) := by
  simp only [State.storeTok, kind, walk, hasGroups, if_false, isV, beq_iff_eq]
  rfl

theorem exec_sts_data (head : Says.HasHead s f x 0 t) (kind : t.kind = .data) (due : s.storeDue x = none)
    (free : s.stalled (.ag x.t x.st) t.seq = false) (walk : (s.slot x.t x.st t.seq).walk = some w) (hasGroups : w.total ≠ 0) :
    exec (.sts f) s = .next ((s.take x [0]).setSlot x.t ((s.slot x.t x.st t.seq).joined w f t 0)) := by
  obtain rfl := sta_f_of_ready head.1.1
  have walk1 : ((s.take x [0]).slot x.t x.st t.seq).walk = some w := by rw [State.slot_take, walk]
  show Host.Outcome.next (s.fireHeads x.f _) = _
  rw [State.fireHeads_head head]
  simp only [due, head.2, free, kind, State.storeBegin_begun walk, State.storeTok_data kind walk1 hasGroups, State.slot_take, true_or, if_true,
    Bool.false_eq_true, if_false]

theorem exec_scat_data {q : List (Nat × Token)} {a : Token} (fires : Says.Fires s f x) (next : s.nextSet x [0, 1] = some (q, s1))
    (data : Says.AllData q) (due : s.storeDue x = none) (first : tokAt q 0 = some a) (free : s.stalled (.ag x.t x.st) (setSeq q) = false)
    (tag : a.seq = setSeq q) (walk : (s1.slot x.t x.st (setSeq q)).walk = some w) (hasGroups : w.total ≠ 0) :
    exec (.scat f) s = .next (s1.setSlot x.t ((s1.slot x.t x.st a.seq).joined w f a (s1.opWord x q 1))) := by
  obtain rfl := sta_f_of_ready fires.1
  have kind : a.kind = .data := by
    obtain ⟨e, found, rfl⟩ := Option.map_eq_some_iff.1 first
    exact data e (List.mem_of_find?_eq_some found)
  have sound : q.find? (·.2.kind = .error) = none := find?_error_none fun e he => by simp [data e he]
  have walk1 : (s1.slot x.t x.st a.seq).walk = some w := by rw [tag, walk]
  show Host.Outcome.next (s.fireHeads x.f _) = _
  rw [State.fireHeads_of_fires fires]
  simp only [due, next, free, State.storeBegin_begun walk, sound, State.rows_data (acc := dataOnly) data (fun _ => rfl), first,
    State.storeTok_data kind walk1 hasGroups, Bool.false_eq_true, if_false]

/-! ## sts and scat: groups (R173, R269, R276) -/

/-- The elements of the next group. -/
def Walk.next (w : Walk) : List (Option Word) := w.elems.take (groupShape w.shape.fmt.toNat).2

/-- The group that is written, filled with positions skipped. -/
def Walk.group (w : Walk) : List (Option Word) :=
  w.next ++ List.replicate ((groupShape w.shape.fmt.toNat).2 - w.next.length) none

/-- Nothing is written of a group whose positions are all skipped, in a format that then changes no byte, or in no row. -/
def Walk.Skips (w : Walk) (b : Bool) (sl : Slot) : Prop :=
  (w.next.filterMap id).length = 0 ∧
    ((groupShape w.shape.fmt.toNat).2 = 1 ∨ keepsOld w.shape.fmt.toNat = true ∨ (b = true ∧ sl.pb = 1))

/-- The slot of a storing station once its next group is done with. -/
def Slot.wrote (sl : Slot) (w : Walk) : Slot :=
  { sl with walk := some { w with pos := (w.pos + 1) % Nat.max 1 w.total, elems := w.elems.drop (groupShape w.shape.fmt.toNat).2 },
            cnt := sl.cnt + (w.next.filterMap id).length }

/-- The bytes of a group over those that stand there. -/
def Walk.encoded (w : Walk) (f : StF) (old : List Byte) : List Byte :=
  encodeGroup w.shape.fmt.toNat (f.ty == 2) w.shape.rm w.shape.nsat w.group old

/-- What is due at a storing station comes first. -/
theorem exec_store_due {i : Instr} (form : (i, b) = (.sts f, false) ∨ (i, b) = (.scat f, true)) (fires : Says.Fires s f x)
    (due : s.storeDue x = some sl) (walk : sl.walk = some w) (begun : w.elems ≠ []) : exec i s = .next (s.storeGroup x sl w b) := by
  have work (b : Bool) : s.storeWork x sl b = s.storeGroup x sl w b := by
    simp only [State.storeWork, walk, begun, ne_eq, not_false_eq_true, if_true]
  rcases form with form | form <;> cases form
  all_goals
    refine congrArg Host.Outcome.next ?_
    rw [State.fireHeads_of_fires fires]
    simp only [due, work]

theorem State.storeGroup_skips (skips : w.Skips b sl) : s.storeGroup x sl w b = s.setSlot x.t (sl.wrote w) := if_pos skips

/-- A BVB segment: the pieces that it is sure to write say which scale it reads, and that says which others it writes (R172, R173). -/
theorem State.storeSegment_reached {it : BitVec 24} {els : List (Option Word)} {after : State → State}
    (reaches : Says.Reached s x seq va 272 true hs) (reads : Says.Reached s x seq va 272 false hs) :
    let seen (l : List (Nat × Nat × Nat)) := s.gatherSome l (chunks va 272)
    let encoded (old : List Byte) := encodeGroup 0x13 (x.f.ty == 2) sh.rm sh.nsat els old
    let h1 := piecesHolding va hs (bvbSure els)
    let h2 := h1 ++ piecesHolding va hs (bvbScaleOf (x.f.ty == 2) els (seen h1))
    let on := bvbWrote els (encoded (seen h2))
    s.storeSegment x seq it sh els va after =
      after (s.fillPieces va (encoded (seen (h2 ++ piecesHolding va hs on))) (some on) (s.stagingOf x.r seq) (piecesHolding va hs on)) := by
  obtain ⟨-, -, off⟩ := id reads
  simp only [State.storeSegment, State.mapped_piecesHolding reaches, State.mapped_piecesHolding reads, State.stChecked_off off]

section Written
variable (writes : ¬ w.Skips b sl) (addr : s.storeAddr x sl w b = .ok va)
include writes addr

/-- A group of a format that is written whole. -/
theorem State.storeGroup_whole (whole : keepsOld w.shape.fmt.toNat = false)
    (reached : Says.Reached s x sl.seq va (groupShape w.shape.fmt.toNat).1 true hs) : s.storeGroup x sl w b =
      (s.fillPieces va (w.encoded x.f []) none (s.stagingOf x.r sl.seq) hs).setSlot x.t (sl.wrote w) := by
  refine (if_neg writes).trans ?_
  simp only [addr, whole, State.access_reached reached, Bool.false_eq_true, if_false]
  rfl

/-- A BVB segment. -/
theorem State.storeGroup_segment (keeps : keepsOld w.shape.fmt.toNat = true) (reaches : Says.Reached s x sl.seq va 272 true hs)
    (reads : Says.Reached s x sl.seq va 272 false hs) :
    let seen (l : List (Nat × Nat × Nat)) := s.gatherSome l (chunks va 272)
    let h1 := piecesHolding va hs (bvbSure w.group)
    let h2 := h1 ++ piecesHolding va hs (bvbScaleOf (x.f.ty == 2) w.group (seen h1))
    let on := bvbWrote w.group (w.encoded x.f (seen h2))
    s.storeGroup x sl w b = (s.fillPieces va (w.encoded x.f (seen (h2 ++ piecesHolding va hs on))) (some on) (s.stagingOf x.r sl.seq)
      (piecesHolding va hs on)).setSlot x.t (sl.wrote w) := by
  have bvb (old : List Byte) : w.encoded x.f old = encodeGroup 0x13 (x.f.ty == 2) w.shape.rm w.shape.nsat w.group old := by
    rw [Walk.encoded, beq_iff_eq.1 keeps]
  refine (if_neg writes).trans ?_
  simp only [addr, keeps, if_true, bvb]
  exact State.storeSegment_reached reaches reads

end Written

/-! ## gath (R277, R278) -/

/-- A value at port a sends its index list to the engine of the tile as one stream. -/
theorem exec_gath (head : Says.HasHead s f x 0 t) (kind : t.kind = .data) (idle : ∀ q ∈ s.streams, ¬ (q.tile = x.t ∧ q.st = x.st))
    (plain : Says.PlainRound x sh) (hasGroups : sh.groups ≠ 0) :
    exec (.gath f) s = .next { (s.take x [0]).openRound x t.seq sh with streams := s.streams ++
      [⟨x.t, x.st, engineOf x.t, x.r.part, t, sh, t.pay.word.extractLsb' 0 57, f.aux.extractLsb' 0 2, 0, 0⟩] } := by
  have idle_ : (s.streams.any fun q => q.tile == x.t && q.st == x.st) = false := List.any_eq_false.2 fun q hq => by simpa using idle q hq
  show Host.Outcome.next (s.fireHeads f _) = _
  rw [State.fireHeads_head head]
  simp only [idle_, State.trigger_data head.2 kind, State.beginRound_plain plain, hasGroups, Bool.false_eq_true, if_false]
  rfl

/-- The low bits of a word, as a number of that width. -/
theorem extractLsb'_zero_eq_ofNat {m k : Nat} (v : BitVec m) : v.extractLsb' 0 k = BitVec.ofNat k v.toNat := by
  apply BitVec.eq_of_toNat_eq
  rw [BitVec.extractLsb'_toNat, BitVec.toNat_ofNat, Nat.shiftRight_zero]

section Quarry
variable {q : Stream} {o : Word32} {s0 : State} {ih : List (Nat × Nat × Nat)}

/-- The stream after a group of it has been read: the next group of the row, or the next index. -/
def Stream.next (q : Stream) : Stream :=
  if q.group + 1 < (q.shape.dims.getD 0 (0, 0)).1.toNat then { q with group := q.group + 1 } else { q with row := q.row + 1, group := 0 }

/-- An engine reads the index and the group of the stream that it serves, and the gath emits what returns. -/
theorem exec_quarryRowReturn (served : s.served s.input.index = some q) (word : s.wordAt q.tile q.st = some o)
    (here : s0 = { s with tile := q.tile, st := q.st }) (fires : Says.Fires s0 (StF.of o) x)
    (walk : (s0.slot q.tile q.st q.trig.seq).walk = some w) (free : s0.stalled (.quarry q.tile q.st q.engine) q.trig.seq = false)
    (off : ((x.r.liveOf q.trig.seq).map (·.race)).getD false = false)
    (index : s0.stPieces (s0.holderTlb x.r.part (.quarry q.tile q.st q.engine)) x.r.part [.translated] false
      (chunks (q.idx + BitVec.ofNat 57 (q.row * indexBytes q.ixf)).toNat (indexBytes q.ixf)) = .ok ih)
    (addr : s0.indexAddr x q.shape q.trig.seq (indexValue q.ixf (s0.gather ih)) q.group false = .ok va)
    (group : s0.stPieces (s0.holderTlb x.r.part (.quarry q.tile q.st q.engine)) x.r.part [.translated] false
      (chunks va (groupShape q.shape.fmt.toNat).1) = .ok hs) :
    exec .quarryRowReturn s = .next (State.pushGroup { s0 with
        streams := if w.pos + 1 = w.total then s.streams.erase q else updFirst (· == q) (fun _ => q.next) s.streams }
      x (s0.slot q.tile q.st q.trig.seq) w (decodeGroup q.shape.fmt.toNat ((StF.of o).ty == 2) q.shape.rm (s0.gather hs))) := by
  have fields := sta_f_of_ready fires.1
  subst here
  show execQuarryRowReturn s = _
  simp only [execQuarryRowReturn, served, word]
  rw [State.fireHeads_of_fires fires]
  simp only [walk, State.access_ok free index off, addr, State.access_ok free group off, fields]
  rfl

end Quarry

/-! ## The obligation -/

/-- Settles O48, clause by clause: each station by what its firing finds. -/
theorem addressGenerators : Obligations.AddressGenerators := by
  unfold Obligations.AddressGenerators
  refine ⟨fun f s x sl w va fires next addr => ⟨?_, fun hs reached => ?_⟩,
    fun i f s x t sh form head kind ported idle fresh plain => ?_,
    fun s x seq sh => ⟨State.openRound_empty, State.openRound_open⟩,
    fun s x sh xs k seq wr stv hx => ?_,
    fun s r o l x sh there word kind source fires _ plain due arrived =>
      exec_sourceRoundStart there word kind source fires plain due arrived,
    fun f s x t w head kind due free walk hasGroups => exec_sts_data head kind due free walk hasGroups,
    fun f s x q s1 a w fires next data due first free tag walk hasGroups => exec_scat_data fires next data due first free tag walk hasGroups,
    fun i b f s x sl w va hs form fires due walk begun => ?_,
    fun s x sl w stv => ⟨rfl, State.indexAddr_plain stv⟩,
    fun s x sl w t => rfl,
    fun f s x t sh head kind idle plain hasGroups => ?_,
    fun s q o x w ih hs served word => ?_⟩
  · exact congrArg Host.Outcome.next ((State.fireWalk_next fires next).trans (State.walkGroup_agen addr))
  · obtain rfl := sta_f_of_ready fires.1
    exact congrArg Host.Outcome.next ((State.fireWalk_next fires next).trans (State.walkGroup_lds addr reached))
  · rcases form with rfl | rfl
    all_goals exact congrArg Host.Outcome.next (State.fireWalk_opens head kind ported idle fresh plain)
  · rw [State.groupAddr_plain stv, Shape.exts, List.map_take, hx]
    rfl
  · obtain rfl := sta_f_of_ready fires.1
    have due_ := exec_store_due form fires due walk begun
    refine ⟨fun skips => ?_, fun writes whole addr reached => ?_, fun writes keeps addr reaches reads => ?_⟩
    · exact due_.trans (congrArg _ (State.storeGroup_skips skips))
    · exact due_.trans (congrArg _ (State.storeGroup_whole writes addr whole reached))
    · exact due_.trans (congrArg _ (State.storeGroup_segment writes addr keeps reaches reads))
  · rw [exec_gath head kind idle plain hasGroups, extractLsb'_zero_eq_ofNat, extractLsb'_zero_eq_ofNat]
    rfl
  · intro s0 f h tlb nb v d0 d1 va stv next fires walk free off index group
    exact exec_quarryRowReturn served word rfl fires walk free off index (State.indexAddr_plain stv) group

end Sys2Proof.Machine
end

section
/-! The proof of O14: ldc, stf, binq and binset by the state of their bin, and the oldest refused request sent again. -/

namespace Sys2Proof.Machine

variable {s s1 s2 : State} {a d : Reg} {x y w : Word} {off home n k : Nat}

/-! ## The address of a bin instruction (R93, R270) -/

/-- The scratchpad window is where it stands (R259). -/
theorem windowOf_spad (inside : off < 2 ^ 29) : windowOf (spadBase + off) = some .spad := by
  have below : ¬ spadBase + off < vaultBase := by unfold spadBase vaultBase; omega
  have above : ¬ spadBase + off < vaultBase + 2 ^ 32 := by unfold spadBase vaultBase; omega
  rw [windowOf, if_neg below, if_neg above, if_pos ⟨Nat.le_add_right .., Nat.add_lt_add_left inside _⟩]

section Address
variable {aligned : Bool} {cause : BitVec 6} (even : aligned = true)
include even

theorem State.binAddr_outside (low : x.toNat < 2 ^ 57) (outside : windowOf x.toNat ≠ some .spad) : s.binAddr x aligned cause = .error tADDR := by
  rw [State.binAddr, if_neg (not_not.2 (high_bits_eq_zero_iff.2 low)), even, if_neg (by decide), if_neg fun h => outside h.1]

theorem State.binAddr_granted (at_ : x.toNat = spadBase + off) (inside : off < 2 ^ 29)
    (granted : s.granted s.pid .spad x.toNat 8 false = true) : s.binAddr x aligned cause = .ok off := by
  have low : x.toNat < 2 ^ 57 := by unfold spadBase at at_; omega
  have there : windowOf x.toNat = some .spad := at_ ▸ windowOf_spad inside
  rw [State.binAddr, if_neg (not_not.2 (high_bits_eq_zero_iff.2 low)), even, if_neg (by decide), if_pos ⟨there, granted⟩, at_,
    Nat.add_sub_cancel_left]

end Address

/-- The alignment bits of ldc, whose lowest bit says whether it peeks, and of stf and binset. -/
theorem dword_bits_eq_zero (h : x.toNat / 2 % 4 = 0) : (x.extractLsb' 1 2 == 0) = true := by
  rw [beq_iff_eq, ← BitVec.toNat_inj, BitVec.extractLsb'_toNat, Nat.shiftRight_eq_div_pow]
  exact h

theorem byte_bits_eq_zero (h : x.toNat % 8 = 0) : (x.extractLsb' 0 3 == 0) = true := by
  rw [beq_iff_eq, ← BitVec.toNat_inj, BitVec.extractLsb'_toNat, Nat.shiftRight_zero]
  exact h

theorem getLsbD_zero_eq (x : Word) : x.getLsbD 0 = decide (x.toNat % 2 = 1) := by
  rw [BitVec.getLsbD, Nat.testBit_zero]

/-! ## Whether a request is served at once (R281) -/

theorem State.waitsNow_false (h : ∀ e ∈ s.waits, e.who.core? ≠ some s.cur) : s.waitsNow = false :=
  List.any_eq_false.2 fun e he => by simpa using h e he

theorem State.binNow_alone {e : WaitEntry} (ready : s.binReady e = true) (alone : ∀ o ∈ s.waits, o.bin ≠ e.bin) : s.binNow e = true := by
  have first : (s.waits.any fun o => o.bin == e.bin && o.sent && s.binReady o) = false :=
    List.any_eq_false.2 fun o ho => by simp [alone o ho]
  rw [State.binNow, ready, first]
  rfl

theorem State.binNow_unready {e : WaitEntry} (unready : s.binReady e = false) : s.binNow e = false := by
  rw [State.binNow, unready, Bool.false_and]

/-! ## The instructions with their registers read -/

section Ldc
variable (free : Says.Free s) (unasked : s.waitsNow = false) (room : s.core.loads.length < 16) (acq : s.core.acquiring = false)
  (reads : Says.Reads s [a] [x] s1) (even : x.toNat / 2 % 4 = 0)
include free unasked room acq reads even

/-- An address outside the scratchpad window traps. -/
theorem exec_ldc_outside (low : x.toNat < 2 ^ 57) (outside : windowOf x.toNat ≠ some .spad) (d : Reg) :
    exec (.ldc d a) s = .next (s.trap tADDR x) := by
  show Host.Outcome.next (s.unsafeIssue _) = _
  rw [State.unsafeIssue_free _ free.1 free.2, State.withRegs_reads reads]
  simp only [unasked, acq, Nat.not_le.2 room, List.getD_cons_zero, State.binAddr_outside (dword_bits_eq_zero even) low outside,
    Bool.false_eq_true, or_self, if_false]

section Inside
variable (at_ : x.toNat = spadBase + off) (inside : off < 2 ^ 29) (granted : s.granted s.pid .spad x.toNat 8 false = true)
  {u : State} (reserved : s.reserve d = .ok w u) (atomic : s.core.atomicOn (spadBase + off / 8 * 8) 8 = false)
include at_ inside granted reserved atomic

/-- With the bin full and no request before it the dword is taken. -/
theorem exec_ldc_full (full : (s.bin (off / 256)).full = true) (alone : ∀ e ∈ s.waits, e.bin ≠ off / 256) :
    exec (.ldc d a) s = .next (s1.ldcTake d (off / 8 * 8) (x.getLsbD 0)) := by
  have now : s.binNow ⟨binTile (off / 256), off / 256, 0, .ldc s.cur [a] d (off / 8 * 8) (x.getLsbD 0), true⟩ = true :=
    State.binNow_alone full alone
  show Host.Outcome.next (s.unsafeIssue _) = _
  rw [State.unsafeIssue_free _ free.1 free.2, State.withRegs_reads reads]
  simp only [unasked, acq, Nat.not_le.2 room, List.getD_cons_zero, State.binAddr_granted (dword_bits_eq_zero even) at_ inside granted, reserved,
    atomic, now, Bool.false_eq_true, or_self, if_false, if_true]

/-- With the bin empty the request waits in the MT. -/
theorem exec_ldc_empty (empty : (s.bin (off / 256)).full = false) : exec (.ldc d a) s = .next
    (s.enqueueWait ⟨binTile (off / 256), off / 256, 0, .ldc s.cur [a] d (off / 8 * 8) (x.getLsbD 0), true⟩) := by
  have later : s.binNow ⟨binTile (off / 256), off / 256, 0, .ldc s.cur [a] d (off / 8 * 8) (x.getLsbD 0), true⟩ = false :=
    State.binNow_unready empty
  show Host.Outcome.next (s.unsafeIssue _) = _
  rw [State.unsafeIssue_free _ free.1 free.2, State.withRegs_reads reads]
  simp only [unasked, acq, Nat.not_le.2 room, List.getD_cons_zero, State.binAddr_granted (dword_bits_eq_zero even) at_ inside granted, reserved,
    atomic, later, Bool.false_eq_true, or_self, if_false]

end Inside
end Ldc

section Others
variable (free : Says.Free s) (at_ : x.toNat = spadBase + off) (inside : off < 2 ^ 29)
  (granted : s.granted s.pid .spad x.toNat 8 false = true)
include free at_ inside granted

/-- stf with nothing outstanding, its bin empty and no request before it fills the bin. -/
theorem exec_stf_empty {c : Reg} (unasked : s.waitsNow = false) (quiet : s.core.quiet = true) (reads : Says.Reads s [a, c] [x, y] s1)
    (even : x.toNat % 8 = 0) (empty : (s.bin (off / 256)).full = false) (alone : ∀ e ∈ s.waits, e.bin ≠ off / 256) :
    exec (.stf a c) s = .next (s1.stfPut off y) := by
  have now : s.binNow ⟨binTile (off / 256), off / 256, 0, .stf s.cur [a, c] off y, true⟩ = true :=
    State.binNow_alone (by rw [State.binReady, empty]; rfl) alone
  show Host.Outcome.next (s.unsafeIssue _) = _
  rw [State.unsafeIssue_free _ free.1 free.2, State.withRegs_reads reads]
  simp only [unasked, quiet, List.getD_cons_zero, List.getD_cons_succ, State.binAddr_granted (byte_bits_eq_zero even) at_ inside granted, now,
    Bool.not_true, Bool.false_eq_true, or_self, if_false, if_true]

variable (acq : s.core.acquiring = false) (reads : Says.Reads s [a] [x] s1)
include acq reads

theorem exec_binq (put : s1.putReg d (s.bin (off / 256)).word = .ok w s2) : exec (.binq d a) s = .next (Says.goesOn s2 s2) := by
  show Host.Outcome.next (s.unsafeIssue _) = _
  rw [State.unsafeIssue_free _ free.1 free.2, State.withRegs_reads reads]
  simp only [acq, List.getD_cons_zero, State.binAddr_granted rfl at_ inside granted, State.finish_ok put, Bool.false_eq_true, if_false]
  rfl

theorem exec_binset (even : x.toNat % 8 = 0) (room : s.core.stores.length < 32) (v : BitVec 1) : exec (.binset a v) s = .next
    ((s1.setBin (off / 256) ⟨v == 1, 0, off / 8 % 32 + 1, false, (s.bin (off / 256)).seq, none⟩).setCore
      (s1.core.pushStore (.plain x (spadBase + off) [] none))).retire := by
  show Host.Outcome.next (s.unsafeIssue _) = _
  rw [State.unsafeIssue_free _ free.1 free.2, State.withRegs_reads reads]
  simp only [acq, Nat.not_le.2 room, List.getD_cons_zero, State.binAddr_granted (byte_bits_eq_zero even) at_ inside granted, Bool.false_eq_true,
    or_self, if_false]
  rfl

end Others

/-! ## What ldc takes (R270, R271) -/

/-- With no load of a range outstanding none stands before an access of it (R94). -/
theorem loadsBefore_eq_nil {loads : List LoadOp} {p : LoadOp → Bool} {ranges : List (Nat × Nat)}
    (h : ∀ l ∈ loads, l.isRemote = true ∨ ∀ r ∈ ranges, meets l.home l.size r.1 r.2 = false) (i : Nat) : loadsBefore loads p ranges i = [] := by
  induction i with
  | zero => rfl
  | succ i ih =>
    unfold loadsBefore
    split
    · exact ih
    · next l hl =>
      refine (if_neg fun before => ?_).trans ih
      simp only [Bool.and_eq_true, Bool.not_eq_true', List.any_eq_true] at before
      obtain ⟨⟨here, -⟩, r, hr, met⟩ := before
      rcases h l (List.mem_of_getElem? hl) with far | apart
      · rw [far] at here; cases here
      · rw [apart r hr] at met; cases met

theorem State.performBefore_alone {p : LoadOp → Bool} {i : Nat}
    (alone : ∀ l ∈ s.core.loads, l.isRemote = true ∨ meets l.home l.size home n = false) : s.performBefore p i home n = s := by
  rw [State.performBefore, loadsBefore_eq_nil fun l hl => (alone l hl).imp_right fun apart r hr => by rwa [List.mem_singleton.1 hr]]
  rfl

/-- The number that a core sees at a range, outside a region (R94). -/
theorem State.leNat_viewBytes (tx : s.core.tx = none) (home n : Nat) :
    leNat (s.viewBytes home n) = Says.littleEndian (fun j => Says.seen s s.core.stores.length (home + j)) n := by
  have own : s.core.ownStores = s.core.stores := by simp only [Core.ownStores, tx, List.append_nil]
  rw [State.viewBytes, State.bytesUnder, leNat_map_range, own]
  simp only [Says.seen, List.take_length]

/-- A core that goes on as another did at the same program counter. -/
theorem goesOn_eq_retire (h : s.core.pc = s1.core.pc) : Says.goesOn s1 s = s.retire := by
  rw [Says.goesOn, ← h]
  rfl

/-- The core has read a dword and acquired at .dom behind it (R333). -/
def acquired (s : State) (home : Nat) : State :=
  Says.withCore s { s.core with ord := (s.core.ord.read home s.writes).fence 4 s.writes }

/-- The load by which ldc brings a dword to d. -/
def ldcLoad (s : State) (d : Reg) (home : Nat) : LoadOp :=
  { Says.leaving s d (BitVec.ofNat 64 home) home 8 false 0 with
    val := some (BitVec.ofNat 64 (Says.littleEndian (fun j => Says.seen s s.core.stores.length (home + j)) 8)), how := .bin }

/-- Reading and acquiring change the core and the clocks of the race detector. -/
theorem State.acquire_reads (s : State) (home : Nat) : (s.reads home).acquire 4 =
    { acquired s home with clocks := ((s.reads home).acquire 4).clocks } := by
  have core : (s.reads home).setCore { (s.reads home).core with ord := (s.reads home).core.ord.fence 4 (s.reads home).writes } = acquired s home := by
    simp only [State.reads, State.setCore_core, State.setCore_setCore, State.setCore_writes]
    rfl
  rw [← core]
  rfl

/-- A load joins the outstanding ones of a core that then goes on. -/
theorem retire_pushLoad {l : LoadOp} (tx : s.core.tx = none) (pc : s.core.pc = s1.core.pc) :
    (s.setCore (s.core.pushLoad l)).retire = Says.goesOn s1 (Says.withLoad s l) := by
  have same : (Says.withLoad s l).core.pc = s1.core.pc := by
    rw [← pushLoad_eq_withLoad tx, State.setCore_core, Core.pushLoad_pc, pc]
  rw [goesOn_eq_retire same, pushLoad_eq_withLoad tx]

/-- A state with the race detector's clocks of another. -/
def State.withClocksOf (s s1 : State) : State := { s1 with clocks := s.clocks }

/-- ldc reads the dword of a full bin under the core's own stores, and empties the bin unless it peeks. -/
theorem State.ldcTake_leaves {peek : Bool} (reserved : s.reserve d = .ok w s2) (mode : s.core.cmode = false) (tx : s.core.tx = none)
    (dword : off % 8 = 0) (alone : ∀ l ∈ s2.core.loads, l.isRemote = true ∨ meets l.home l.size (spadBase + off) 8 = false) :
    { s.ldcTake d off peek with clocks := s2.clocks } = Says.goesOn s (Says.withLoad
      (if peek then acquired s2 (spadBase + off) else
        (acquired s2 (spadBase + off)).setBin (off / 256) { s.bin (off / 256) with full := false, cnt := 0 }) (ldcLoad s2 d (spadBase + off))) := by
  obtain ⟨home, hhome⟩ : ∃ home, spadBase + off = home := ⟨_, rfl⟩
  have down : off / 8 * 8 = off := Nat.div_mul_cancel (Nat.dvd_of_mod_eq_zero dword)
  have frame := State.reserve_frame reserved
  have core : (s2.reads home).core = { s2.core with ord := s2.core.ord.read home s2.writes } := State.setCore_core ..
  have unchecked : (s2.reads home).core.cmode = false := by rw [core, frame.cmode, mode]
  have tx2 : (s2.reads home).core.tx = none := by rw [core, frame.tx, tx]
  have see : (s2.reads home).coreSee false home 8 = s2.reads home := rfl
  have load : { (s2.reads home).core.newLoad d (BitVec.ofNat 64 home) home 8 false with
      val := some (BitVec.ofNat 64 (leNat ((s2.reads home).viewBytes home 8))), how := .bin } = ldcLoad s2 d home := by
    rw [State.leNat_viewBytes tx2]
    simp only [Says.seen, State.reads_mem, core]
    rfl
  have joins {u : State} (h : u.core = (acquired s2 home).core) :
      (u.setCore (u.core.pushLoad (ldcLoad s2 d home))).retire = Says.goesOn s (Says.withLoad u (ldcLoad s2 d home)) :=
    have all : (acquired s2 home).core = _ := State.setCore_core ..
    retire_pushLoad (by rw [h, all, frame.tx, tx]) (by rw [h, all, frame.pc])
  rw [hhome] at alone ⊢
  simp only [State.ldcTake, reserved, down, hhome, mode, Bool.false_and, Bool.false_eq_true, if_false, State.performBefore_alone alone,
    State.coreCheck, unchecked, see, load]
  rw [State.acquire_reads]
  generalize ((s2.reads home).acquire 4).clocks = clocks
  cases peek
  · exact (congrArg (State.withClocksOf s2) (joins (u := State.setBin { acquired s2 home with clocks } _ _) rfl)).trans rfl
  · exact (congrArg (State.withClocksOf s2) (joins (u := { acquired s2 home with clocks }) rfl)).trans rfl

/-! ## What stf leaves (R270, R271) -/

/-- The other bins are as they were. -/
theorem State.bin_setBin_other {j : Nat} (s : State) (b : Bin) (other : j ≠ k) : (s.setBin k b).bin j = s.bin j := by
  have rest : (s.bins.filter (·.1 ≠ k)).find? (·.1 = j) = s.bins.find? (·.1 = j) := by
    rw [List.find?_filter]
    refine congrArg (List.find? · s.bins) (funext fun q => ?_)
    by_cases h : q.1 = j
    · simp [h, other]
    · simp [h]
  unfold State.bin State.setBin lookupD
  split
  · rw [rest]
  · rw [assign, List.find?_cons_of_neg (by simpa using Ne.symm other), rest]

@[simp] theorem State.setBin_core (s : State) (k : Nat) (b : Bin) : (s.setBin k b).core = s.core := rfl

/-- The event of a bin's change is none to the cores. -/
@[simp] theorem State.fillEvent_core (s : State) (k : Nat) (was now : Bin) : (s.fillEvent k was now).core = s.core := by
  unfold State.fillEvent State.raceFill
  split
  · split <;> rfl
  · rfl

/-- Bytes below the larder are written whole (R7). -/
theorem keepRos_low (m : List Host.Cell) (bs : List Byte) (low : home + bs.length ≤ larderBase) : keepRos m home bs = bs := by
  induction bs generalizing home with
  | nil => rfl
  | cons b bs ih =>
    rw [List.length_cons] at low
    have plain : roBits home = 0 := if_pos (Or.inl (by omega))
    rw [keepRos, keepRo_plain _ _ plain, ih (by omega)]

/-- stf leaves its dword in memory, its bin full and a store outstanding. -/
theorem State.stfPut_leaves (mode : s.core.cmode = false) (off : Nat) (v : Word) :
    let k := off / 256
    let home := spadBase + off / 8 * 8
    let t := s.stfPut off v
    t.mem = memSets s.mem home (Says.bytesOf v 8) ∧ t.bin k = { s.bin k with full := true, cnt := 0, staged := none } ∧
      (∀ j, j ≠ k → t.bin j = s.bin j) ∧ t.core =
        { s.core with stores := s.core.stores ++ [.plain (BitVec.ofNat 64 home) home [] none], pc := s.core.pc + 4, instret := s.core.instret + 1 } := by
  intro k home t
  let b : Bin := { s.bin k with full := true, cnt := 0, staged := none }
  let u : State := ((s.writeMem (some s.cur) home (leBytes 8 v.toNat)).setBin k b).fillEvent k (s.bin k) b
  have put : t = (u.setCore (u.core.pushStore (.plain (BitVec.ofNat 64 home) home [] none))).retire := by
    simp only [t, State.stfPut, State.coreCheck, State.coreMark, mode, Bool.false_and, Bool.false_eq_true, if_false]
    rfl
  have bins : t.bins = ((s.writeMem (some s.cur) home (leBytes 8 v.toNat)).setBin k b).bins := by
    rw [put]
    exact State.fillEvent_bins ..
  have core : u.core = s.core := by
    simp only [u, State.fillEvent_core, State.setBin_core]
    exact s.writeNear_own_core none home _
  refine ⟨?_, (State.bin_of_bins bins k).trans (State.bin_setBin ..), fun j hj => (State.bin_of_bins bins j).trans (State.bin_setBin_other _ b hj), ?_⟩
  · rw [put, ← leBytes_toNat]
    exact State.fillEvent_mem.trans (State.setBin_mem.trans (State.writeMem_mem ..))
  · rw [put, State.retire, State.retireAt_core, State.setCore_core, core]
    rfl

/-- Reading registers changes no bin. -/
theorem ReadFrame.bins (h : ReadFrame s s1) : s1.bins = s.bins := by
  simpa using congrArg State.bins h.rest

/-! ## The obligation -/

/-- Settles O14: ldc, stf, binq and binset by their bin, then the request sent again. -/
theorem binInstructions : Obligations.BinInstructions := by
  unfold Obligations.BinInstructions
  refine ⟨fun s a x s1 wf free mode acq unasked reads => ?_, fun s e oldest => ?_⟩
  · have idle := State.waitsNow_false unasked
    have frame := reads_frame reads
    refine ⟨fun room low outside even => exec_ldc_outside free idle room acq reads even low outside, fun off at_ inside granted => ?_⟩
    intro k home b
    refine ⟨fun d s2 even room ⟨u, ready⟩ reserved alone atomic full apart => ?_, fun d even room ⟨u, ready⟩ atomic empty => ?_,
      fun c y s2 even loads stores alone empty reads2 => ?_, fun d s2 put => ?_, fun v even room => ?_⟩
    · have dword : off / 8 * 8 % 8 = 0 := Nat.mul_mod_left ..
      have bin : off / 8 * 8 / 256 = k := by omega
      have taken := State.ldcTake_leaves (peek := x.getLsbD 0) reserved (by rw [frame.cmode, mode]) (by rw [frame.tx, free.2]) dword apart
      refine ⟨_, exec_ldc_full free idle room acq reads even at_ inside granted ready atomic full alone, taken.trans ?_⟩
      rw [bin, getLsbD_zero_eq, State.bin_of_bins frame.bins]
      simp only [decide_eq_true_eq]
      rfl
    · exact ⟨_, exec_ldc_empty free idle room acq reads even at_ inside granted ready atomic empty, rfl, rfl, rfl, _,
        List.mem_append_right _ (List.mem_singleton_self _), rfl, rfl⟩
    · have quiet : s.core.quiet = true := by rw [Core.quiet, loads, stores]; rfl
      have frame2 := reads_frame reads2
      obtain ⟨mem, bin, others, core⟩ := State.stfPut_leaves (s := s2) (by rw [frame2.cmode, mode]) off y
      have low : home + (Says.bytesOf y 8).length ≤ larderBase := by
        simp only [home, Says.bytesOf, List.length_map, List.length_range, spadBase, larderBase]
        omega
      refine ⟨_, exec_stf_empty free at_ inside granted idle quiet reads2 even empty alone, stored_of_mem wf ?_,
        bin.trans (by rw [State.bin_of_bins frame2.bins]), fun j hj => (others j hj).trans (State.bin_of_bins frame2.bins j), ?_, ?_, ?_⟩
      · rw [keepRos_low _ _ low, mem, frame2.mem]
      all_goals rw [core]
      · exact congrArg (· + 4) frame2.pc
      · exact frame2.regs
      · rw [frame2.stores, stores]; rfl
    · exact exec_binq free at_ inside granted acq reads put
    · have bins : _ = State.bins _ := State.retireAt_bins ((s1.setBin k ⟨v == 1, 0, off / 8 % 32 + 1, false, b.seq, none⟩).setCore
        (s1.core.pushStore (.plain x (spadBase + off) [] none))) (s1.core.pc + 4)
      refine ⟨_, exec_binset free at_ inside granted acq reads even room v, frame.mem, ?_, ?_, ?_,
        (State.bin_of_bins bins k).trans (State.bin_setBin ..), fun j hj =>
        (State.bin_of_bins bins j).trans ((State.bin_setBin_other s1 _ hj).trans (State.bin_of_bins frame.bins j))⟩
      all_goals rw [State.retire, State.retireAt_core, State.setCore_core]
      · exact congrArg (· + 4) frame.pc
      · exact frame.regs
      · exact List.length_append.trans (by rw [frame.stores]; rfl)
  · refine ⟨State.enqueueWait { s with waits := dropFirst (fun x => !x.sent) s.waits } e, ?_, rfl, List.getLast?_concat⟩
    show execWaitEntryResend s = _
    simp only [execWaitEntryResend, oldest]

end Sys2Proof.Machine
end

section
/-! The proof of O40: ckpt, drain and resume, the hold limit, and a hang. -/

namespace Sys2Proof.Machine

variable {s s1 u : State} {a d : Reg} {h w : Word} {r x : Region} {c : Fin 64} {b : BitVec 3}

/-! ## Regions changed in their slot -/

/-- Changing the element that is found first is replacing it. -/
theorem updFirst_of_find? {α : Type} {p : α → Bool} {f : α → α} {l : List α} {y : α} (found : l.find? p = some y) :
    updFirst p f l = updFirst p (fun _ => f y) l := by
  induction l with
  | nil => rfl
  | cons z l ih =>
    cases hz : p z
    · rw [List.find?_cons_of_neg (by simp [hz])] at found
      simp [updFirst, hz, ih found]
    · rw [List.find?_cons_of_pos hz] at found
      cases found
      simp [updFirst, hz]

/-- A region that its own slot holds is changed by replacing it. -/
theorem State.onRegion_eq_setRegion {f : Region → Region} (there : s.region r.core r.bslot = some r)
    (same : (f r).core = r.core ∧ (f r).bslot = r.bslot) : s.onRegion r.core r.bslot f = s.setRegion (f r) := by
  unfold State.onRegion State.setRegion
  rw [same.1, same.2, updFirst_of_find? there]

/-- The region that a handle names is the one of its own slot. -/
theorem State.graphMine_own (mine : s.graphMine h = .ok r) : s.region r.core r.bslot = some r := by
  have there := State.graphMine_region mine
  obtain ⟨-, core, slot⟩ := State.region_some there
  rw [core, slot, there]

/-! ## ckpt (R384, R385) -/

section Ckpt
variable (free : Says.Free s) (reads : Says.Reads s [a] [h] s1) (mine : s1.graphMine h = .ok r) (may : s1.mayPut d = true)
include free reads mine may

/-- With a launch live or a drain on its way ckpt stops launch starts and waits. -/
theorem exec_ckpt_waits (busy : r.live ≠ [] ∨ r.draining = true) :
    exec (.ckpt d a) s = .next (s.onRegion r.core r.bslot fun x => { x with ckpting := true }) := by
  refine (exec_of_reads free reads rfl).trans ?_
  simp only [List.getD_cons_zero, mine, may, busy, Bool.not_true, Bool.false_eq_true, if_false, if_true]

variable (quiet : r.live = []) (undrained : r.draining = false)
include quiet undrained

/-- Else it answers the generation that it wrote. -/
theorem answers_ckpt_gen {g : BitVec 32} (wrote : (s1.checkpoint r).1 = some g) : Says.Answers (.ckpt d a) s d (g.setWidth 64)
    ((s1.checkpoint r).2.onRegion r.core r.bslot fun x => { x with ckpting := false }) := by
  obtain ⟨⟨gen, s2⟩, made⟩ : ∃ q, s1.checkpoint r = q := ⟨_, rfl⟩
  rw [made] at wrote ⊢
  cases wrote
  refine answers_of_reads free reads rfl ?_
  simp only [List.getD_cons_zero, mine, may, quiet, undrained, made, Bool.not_true, Bool.false_eq_true, ne_eq, not_true_eq_false, or_self, if_false]

/-- Or CKFAULT, when a write failed. -/
theorem answers_ckpt_fault (failed : (s1.checkpoint r).1 = none) : Says.Answers (.ckpt d a) s d (BitVec.ofInt 64 (-8))
    ((s1.checkpoint r).2.onRegion r.core r.bslot fun x => { x with ckpting := false }) := by
  obtain ⟨⟨gen, s2⟩, made⟩ : ∃ q, s1.checkpoint r = q := ⟨_, rfl⟩
  rw [made] at failed ⊢
  cases failed
  refine answers_of_reads free reads rfl ?_
  simp only [List.getD_cons_zero, mine, may, quiet, undrained, made, hStatus, Bool.not_true, Bool.false_eq_true, ne_eq, not_true_eq_false, or_self, if_false]

end Ckpt

/-- The generation written is the next one. -/
theorem State.checkpoint_gen {g : BitVec 32} (wrote : (s.checkpoint r).1 = some g) : g = r.ckGen + 1 := by
  rw [State.checkpoint] at wrote
  obtain ⟨⟨t, done⟩, areas⟩ : ∃ q, State.writeAreas { s with fresh := s.fresh + 1 } r.part (s.ckptWrites r) = q := ⟨_, rfl⟩
  rw [areas] at wrote
  cases done
  · cases wrote
  · exact (Option.some.inj wrote).symm

/-! ## drain (R386) -/

/-- A region without live launches has none to cancel. -/
theorem State.cancelAll_quiet {e : ErrInfo} (there : s.region c b = some r) (quiet : r.live = []) : s.cancelAll c b e = s := by
  simp only [State.cancelAll, there, quiet, List.map_nil, List.foldl_nil]

/-- A region as its drain begins. -/
def Region.drains (r : Region) : Region := { r with frozen := true, hung := false, draining := true }

/-- Its drain then only freezes the queue and thaws a hang. -/
theorem State.drainStart_quiet {cause : BitVec 6} (there : s.region r.core r.bslot = some r) (quiet : r.live = []) :
    s.drainStart r cause = s.setRegion r.drains ∧ (s.setRegion r.drains).region r.core r.bslot = some r.drains := by
  have now : (s.setRegion r.drains).region r.core r.bslot = some r.drains :=
    State.region_setRegion (r := r.drains) (Option.isSome_iff_exists.2 ⟨r, there⟩)
  have begins : s.onRegion r.core r.bslot Region.drains = s.setRegion r.drains := State.onRegion_eq_setRegion there ⟨rfl, rfl⟩
  refine ⟨?_, now⟩
  show (s.onRegion r.core r.bslot Region.drains).cancelAll _ _ _ = _
  rw [begins, State.cancelAll_quiet now quiet]

@[simp] theorem State.restoreBlock_regions (s : State) (t : TileId) (k : CkBlock) : (s.restoreBlock t k).regions = s.regions := by
  unfold State.restoreBlock
  dsimp only
  split <;> rfl

/-- A drain that ends reports its read of the area and lets the region go on. -/
theorem State.drainEnd_leaves (there : s.region r.core r.bslot = some r) :
    (s.drainEnd r).cores[r.core].drSlot = r.bslot ∧ (s.drainEnd r).cores[r.core].drRes = (s.drainFind r).1 ∧
      (s.drainEnd r).region r.core r.bslot = some { r with draining := false } := by
  obtain ⟨found, read⟩ : ∃ q, s.drainFind r = q := ⟨_, rfl⟩
  unfold State.drainEnd
  rw [read]
  extract_lets q s1 s2
  have same : s1.regions = s.regions := by
    simp only [s1]
    split
    · rfl
    · exact foldl_keeps State.regions fun s q => s.restoreBlock_regions ..
  have now : s2.region r.core r.bslot = some { r with draining := false } := by
    rw [State.region_onRegion (f := fun x => { x with draining := false }) fun _ => ⟨rfl, rfl⟩, State.region, same]
    exact congrArg (Option.map _) there
  refine ⟨?_, ?_, now⟩
  all_goals rw [State.setCoreAt_get]

section Drain
variable (free : Says.Free s) (reads : Says.Reads s [a] [h] s1)
include free reads

theorem exec_drain_bad {e : Int} (bad : s1.graphMine h = .error e) : exec (.drain a) s = .next (s.trap tHANDLE h) := by
  refine (exec_of_reads free reads rfl).trans ?_
  simp only [List.getD_cons_zero, bad]

variable (mine : s1.graphMine h = .ok r)
include mine

/-- While launches that it cancelled are live drain waits. -/
theorem exec_drain_waits (there : (s1.drainStart r eCANCEL).region r.core r.bslot = some x) (busy : x.live ≠ []) :
    exec (.drain a) s = .next (s.drainStart r eCANCEL) := by
  refine (exec_of_reads free reads rfl).trans ?_
  simp only [List.getD_cons_zero, mine, there, busy, ne_eq, not_false_eq_true, if_true]

/-- With none live it ends in one step. -/
theorem exec_drain_ends (quiet : r.live = []) : exec (.drain a) s = .next ((s1.setRegion r.drains).drainEnd r.drains).retire := by
  obtain ⟨begins, now⟩ := State.drainStart_quiet (cause := eCANCEL) (State.graphMine_own mine) quiet
  have idle : r.drains.live = [] := quiet
  refine (exec_of_reads free reads rfl).trans ?_
  simp only [List.getD_cons_zero, mine, begins, now, idle, ne_eq, not_true_eq_false, if_false]

end Drain

/-! ## resume (R286, R383) -/

/-- What lets withheld streams go on changes: the holds, and the TLBs of tiles and engines, which only lose entries. -/
structure Resumed (s u : State) : Prop where
  rest : { u with holds := s.holds, tiles := s.tiles, qtlb := s.qtlb } = s
  tile : ∀ y, { u.tileAt y with tlb := [] } = { s.tileAt y with tlb := [] }
  tlb : ∀ y, ∀ e ∈ (u.tileAt y).tlb, e ∈ (s.tileAt y).tlb

theorem Resumed.refl (s : State) : Resumed s s := ⟨rfl, fun _ => rfl, fun _ _ he => he⟩

theorem Resumed.eq (h : Resumed s u) : u = { s with holds := u.holds, tiles := u.tiles, qtlb := u.qtlb } := by
  conv => rhs; rw [← h.rest]

theorem Resumed.trans {t : State} (h1 : Resumed s u) (h2 : Resumed u t) : Resumed s t := by
  refine ⟨?_, fun y => (h2.tile y).trans (h1.tile y), fun y e he => h1.tlb y e (h2.tlb y e he)⟩
  conv => rhs; rw [← h1.rest, ← h2.rest]

/-- Whether the core has refused a fault depends on none of them. -/
theorem Resumed.refuses (h : Resumed s u) (x : Hold) : u.refuses x = s.refuses x := by
  conv => rhs; rw [← h.rest]
  rfl

/-- The address that a withheld access waits to translate lies in a leaf. -/
def TlbEntry.Covers (e : TlbEntry) (x : Hold) : Prop :=
  e.va ≤ x.va.toNat / 2 ^ 16 * 2 ^ 16 ∧ x.va.toNat / 2 ^ 16 * 2 ^ 16 < e.va + e.size

/-- The page that a tlbinv of an address names. -/
theorem toNat_page_field (va : BitVec 57) : ((field 16 41 (va.toNat / 2 ^ 16)).extractLsb' 16 41).toNat = va.toNat / 2 ^ 16 := by
  have small : va.toNat / 2 ^ 16 < 2 ^ 41 := Nat.div_lt_of_lt_mul va.isLt
  have fits : va.toNat / 2 ^ 16 * 2 ^ 16 < 2 ^ 64 := (Nat.mul_lt_mul_of_pos_right small (Nat.two_pow_pos 16)).trans (by decide)
  rw [field, BitVec.extractLsb'_toNat, BitVec.toNat_ofNat, Nat.shiftRight_eq_div_pow, Nat.mod_eq_of_lt small, Nat.mod_eq_of_lt fits,
    Nat.mul_div_cancel _ (Nat.two_pow_pos 16), Nat.mod_eq_of_lt small]

/-- A TLB keeps no entry for the access that translates again. -/
theorem mem_tlbDrop {x : Hold} {e : TlbEntry} {l : List TlbEntry} (kept : e ∈ tlbDrop (field 16 41 (x.va.toNat / 2 ^ 16)) l) :
    e ∈ l ∧ ¬ e.Covers x := by
  unfold tlbDrop at kept
  dsimp only at kept
  rw [toNat_page_field] at kept
  split at kept
  · cases kept
  · obtain ⟨mem, misses⟩ := List.mem_filter.1 kept
    simp only [Bool.not_eq_true', decide_eq_false_iff_not] at misses
    exact ⟨mem, misses⟩

/-- A tile that is changed leaves the others. -/
theorem State.tileAt_onTile_other {t y : TileId} {g : Tile → Tile} (id : (g (s.tileAt t)).id = t) (other : y ≠ t) :
    (s.onTile t g).tileAt y = s.tileAt y := by
  have rest : (s.tiles.filter (·.id ≠ t)).find? (·.id = y) = s.tiles.find? (·.id = y) := by
    rw [List.find?_filter]
    refine congrArg (List.find? · s.tiles) (funext fun z => ?_)
    by_cases h : z.id = y
    · simp [h, other]
    · simp [h]
  have head : ¬ (g (s.tileAt t)).id = y := fun e => other (e.symm.trans id)
  unfold State.tileAt State.onTile State.setTile
  rw [List.find?_cons_of_neg (by simpa using head)]
  rw [id, rest]

/-- A tile whose TLB loses entries is as it was but for them. -/
theorem Resumed.onTile {t : TileId} {g : List TlbEntry → List TlbEntry} (less : ∀ l, ∀ e ∈ g l, e ∈ l) :
    Resumed s (s.onTile t fun x => { x with tlb := g x.tlb }) := by
  have here : (s.onTile t fun x => { x with tlb := g x.tlb }).tileAt t = { s.tileAt t with tlb := g (s.tileAt t).tlb } :=
    State.tileAt_onTile (s.tileAt_id t)
  have there {y : TileId} (other : y ≠ t) : (s.onTile t fun x => { x with tlb := g x.tlb }).tileAt y = s.tileAt y :=
    State.tileAt_onTile_other (s.tileAt_id t) other
  refine ⟨rfl, fun y => ?_, fun y e he => ?_⟩
  · by_cases other : y = t
    · rw [other, here]
    · rw [there other]
  · by_cases other : y = t
    · rw [other, here] at he
      rw [other]
      exact less _ e he
    · rwa [there other] at he

/-- A withheld access translates again: its tile keeps no entry for it. -/
theorem State.walkAgain_resumed (s : State) (x : Hold) : Resumed s (s.walkAgain x) ∧
    ∀ y n, x.holder = .ag y n ∨ x.holder = .mem y n → ∀ e ∈ ((s.walkAgain x).tileAt y).tlb, ¬ e.Covers x := by
  have drops : ∀ t, Resumed s (s.onTile t fun y => { y with tlb := tlbDrop (field 16 41 (x.va.toNat / 2 ^ 16)) y.tlb }) := fun t =>
    Resumed.onTile fun _ _ he => (mem_tlbDrop he).1
  have gone : ∀ t, ∀ e ∈ ((s.onTile t fun y => { y with tlb := tlbDrop (field 16 41 (x.va.toNat / 2 ^ 16)) y.tlb }).tileAt t).tlb,
      ¬ e.Covers x := fun t e he => by
    rw [State.tileAt_onTile (s.tileAt_id t)] at he
    exact (mem_tlbDrop he).2
  unfold State.walkAgain
  dsimp only
  split
  · next t st holder =>
    refine ⟨drops t, fun y n hy => ?_⟩
    obtain ⟨rfl, -⟩ : t = y ∧ st = n := by simpa [holder] using hy
    exact gone t
  · next t st holder =>
    refine ⟨drops t, fun y n hy => ?_⟩
    obtain ⟨rfl, -⟩ : t = y ∧ st = n := by simpa [holder] using hy
    exact gone t
  · next t st e holder => exact ⟨⟨rfl, fun _ => rfl, fun _ _ he => he⟩, fun y n hy => by simp [holder] at hy⟩
  · next holder => exact ⟨.refl s, fun y n hy => by simp [holder] at hy⟩

/-- A withheld stream whose access no longer faults goes on. -/
theorem State.resumeHold_goes {x : Hold} (goes : s.refuses x = false) :
    s.resumeHold x = { s.walkAgain x with holds := releaseHolds (· == x) s.holds } := by
  simp only [State.resumeHold, goes, Bool.not_false, if_true]

theorem State.resumeHold_resumed {x : Hold} (goes : s.refuses x = false) : Resumed s (s.resumeHold x) ∧
    ∀ y n, x.holder = .ag y n ∨ x.holder = .mem y n → ∀ e ∈ ((s.resumeHold x).tileAt y).tlb, ¬ e.Covers x := by
  obtain ⟨⟨rest, tile, tlb⟩, gone⟩ := s.walkAgain_resumed x
  rw [State.resumeHold_goes goes]
  exact ⟨⟨rest, tile, tlb⟩, gone⟩

/-- Streams that go on one after the other. -/
theorem State.foldl_resumeHold {l : List Hold} (go : ∀ x ∈ l, s.refuses x = false) :
    let u := l.foldl (fun (s : State) x => s.resumeHold x) s
    Resumed s u ∧ u.holds = l.foldl (fun hs x => releaseHolds (· == x) hs) s.holds ∧
      ∀ x ∈ l, ∀ y n, x.holder = .ag y n ∨ x.holder = .mem y n → ∀ e ∈ (u.tileAt y).tlb, ¬ e.Covers x := by
  induction l generalizing s with
  | nil => exact ⟨.refl s, rfl, by simp⟩
  | cons x l ih =>
    have goes := go x List.mem_cons_self
    obtain ⟨first, gone⟩ := State.resumeHold_resumed goes
    obtain ⟨rest, holds, others⟩ := ih (s := s.resumeHold x) fun z hz => (first.refuses z).trans (go z (List.mem_cons_of_mem x hz))
    refine ⟨first.trans rest, ?_, fun z hz y n holder e he => ?_⟩
    · rw [List.foldl_cons, holds, State.resumeHold_goes goes]
      rfl
    · rcases List.mem_cons.1 hz with rfl | hz
      · exact gone y n holder e (rest.tlb y e he)
      · exact others z hz y n holder e he

/-- Of the streams still withheld afterwards, none was released. -/
theorem mem_releaseHolds {p : Hold → Bool} {l : List Hold} {x : Hold} (stuck : x.stuck = true) :
    x ∈ releaseHolds p l ↔ x ∈ l ∧ p x = false := by
  unfold releaseHolds
  rw [List.mem_filter, List.mem_map]
  constructor
  · rintro ⟨⟨z, hz, same⟩, -⟩
    cases released : p z
    · rw [released] at same
      cases same
      exact ⟨hz, released⟩
    · rw [released] at same
      cases same
      cases stuck
  · rintro ⟨hx, kept⟩
    exact ⟨⟨x, hx, by rw [kept]; rfl⟩, by rw [stuck]; rfl⟩

theorem mem_foldl_releaseHolds {l named : List Hold} {x : Hold} (stuck : x.stuck = true) :
    x ∈ named.foldl (fun hs y => releaseHolds (· == y) hs) l ↔ x ∈ l ∧ x ∉ named := by
  induction named generalizing l with
  | nil => simp
  | cons y named ih =>
    rw [List.foldl_cons, ih, mem_releaseHolds stuck, List.mem_cons, beq_eq_false_iff_ne]
    tauto

/-- The streams that a resume lets go on: those withheld under its word in regions that do not drain (R383). -/
def State.namedBy (s : State) (w : Word) : List Hold := s.holds.filter fun x => x.word == w && x.stuck && !s.holdDrains x

theorem State.mem_namedBy {x : Hold} : x ∈ s.namedBy w ↔ x ∈ s.holds ∧ x.word = w ∧ x.stuck = true ∧ s.holdDrains x = false := by
  simp [State.namedBy, and_assoc]

section Resume
variable (free : Says.Free s) (reads : Says.Reads s [a] [w] s1)
include free reads

theorem exec_resume_bad (bad : s.holderOk w = false) : exec (.resume a) s = .next (s.trap tHANDLE w) := by
  refine (exec_of_reads free reads rfl).trans ?_
  simp only [List.getD_cons_zero, bad, Bool.not_false, if_true]

theorem exec_resume_good (good : s.holderOk w = true) :
    let u := (s1.namedBy w).foldl (fun (s : State) x => s.resumeHold x) s1
    exec (.resume a) s = .next (Says.goesOn u u) := by
  refine (exec_of_reads free reads rfl).trans ?_
  simp only [List.getD_cons_zero, good, Bool.not_true, Bool.false_eq_true, if_false]
  rfl

end Resume

/-- Of the streams under the word only those of regions that drain stay withheld; those under other words all stay. -/
theorem State.holds_resumed {hs : List Hold} (now : hs = (s.namedBy w).foldl (fun hs y => releaseHolds (· == y) hs) s.holds) :
    (∀ x ∈ hs, x.word = w → x.stuck = false ∨ s.holdDrains x = true) ∧
      ∀ x ∈ s.holds, x.word ≠ w → x.stuck = true → x ∈ hs := by
  subst now
  constructor
  · intro x kept word
    cases stuck : x.stuck with
    | false => exact .inl rfl
    | true =>
      obtain ⟨held, unnamed⟩ := (mem_foldl_releaseHolds stuck).1 kept
      refine .inr ?_
      by_contra stays
      exact unnamed (State.mem_namedBy.2 ⟨held, word, stuck, by simpa using stays⟩)
  · intro x held other stuck
    exact (mem_foldl_releaseHolds stuck).2 ⟨held, fun named => other (State.mem_namedBy.1 named).2.1⟩

/-! ## The hold limit (R287) -/

/-- With no drain on its way the timer of the stream that the input names decides, unless its partition is out. -/
theorem exec_holdLimitExpiry {x : Hold} (undrained : ∀ r ∈ s.regions, r.draining = false)
    (named : (s.holds.filter (·.stuck))[s.input.index]? = some x)
    (inside : ∀ p, s.cores[x.core].part = some p → (s.part p).pre ≠ .halted) :
    exec .holdLimitExpiry s = .next (if 1750 * s.cores[x.core].holdLim.toNat ≤ x.time then s.holdExpires x else s) := by
  have idle : (s.regions.find? fun r => r.draining && r.live.isEmpty) = none :=
    List.find?_eq_none.2 fun r hr => by simp [undrained r hr]
  have runs : ((s.cores[x.core].part).map fun p => (s.part p).pre == .halted).getD false = false := by
    cases part : s.cores[x.core].part with
    | none => rfl
    | some p => simpa using inside p part
  show execHoldLimitExpiry s = _
  simp only [execHoldLimitExpiry, idle, named, runs, State.holdDue, Bool.false_or, Bool.not_eq_true', decide_eq_false_iff_not, ite_not]

/-- A copy fails with HOLD. -/
theorem State.holdExpires_copy {x : Hold} {c : Fin 64} {n : BitVec 16} {op : CopyOp} (holder : x.holder = .copy c n)
    (there : s.cores[c].copies.find? (·.serial = n) = some op) :
    s.holdExpires x = State.endCopy { s with holds := releaseHolds (· == x) s.holds } c op (some 0x06) := by
  simp only [State.holdExpires, holder, there]
  rfl

/-- A region drains with HOLD. -/
theorem State.holdExpires_tile {x : Hold} {t : TileId} (holder : x.holder.tile = some t) (there : s.regionOf t = some r) :
    s.holdExpires x = s.drainStart r 0x06 := by
  unfold State.holdExpires
  split
  · next held => rw [held] at holder; cases holder
  all_goals
    next held =>
      rw [held] at holder
      cases holder
      rw [there]
      rfl

/-! ## A hang (R387, R388) -/

/-- A unit's writes leave the regions and what the acting core has declared hung. -/
def KeepsHung (s u : State) : Prop := u.regions = s.regions ∧ u.core.hung = s.core.hung

theorem KeepsHung.trans {t : State} (h1 : KeepsHung s u) (h2 : KeepsHung u t) : KeepsHung s t :=
  ⟨h2.1.trans h1.1, h2.2.trans h1.2⟩

theorem State.writeAs_keepsHung (s : State) (home : Nat) (bs : List Byte) : KeepsHung s (s.writeAs none home bs) := by
  have cores : ∀ (l : List Nat) (i : Fin 64), (s.conflicts none l).cores[i].hung = s.cores[i].hung := fun l i => by
    rw [State.conflicts, mapEach_get]
    split
    · rfl
    · split <;> rfl
  exact ⟨rfl, cores _ s.cur⟩

theorem State.writePieces_keepsHung {base : Nat} {bs : List Byte} (hs : List (Nat × Nat × Nat)) (s : State) :
    KeepsHung s (s.writePieces none base bs hs) := by
  induction hs generalizing s with
  | nil => exact ⟨rfl, rfl⟩
  | cons q hs ih => exact (s.writeAs_keepsHung ..).trans (ih _)

theorem State.writeV_keepsHung {p : BitVec 4} {ws : List Window} {va : Nat} {bs : List Byte} (wrote : s.writeV p ws va bs = .ok u) :
    KeepsHung s u := by
  unfold State.writeV at wrote
  cases checked : s.check p ws .write (chunks va bs.length) with
  | error e => rw [checked] at wrote; cases wrote
  | ok hs =>
    rw [checked] at wrote
    cases wrote
    exact State.writePieces_keepsHung hs s

/-- A region as it is declared hung. -/
def Region.declared (r : Region) : Region := { r with frozen := true, hung := true }

/-- What the declaration changes once the map is written: the region and its core's HUNG bit. -/
def State.declareHung (s : State) (r : Region) : State :=
  let s2 := s.onRegion r.core r.bslot Region.declared
  s2.setCore { s2.core with hung := s2.core.hung ||| BitVec.ofNat 8 (2 ^ r.bslot.toNat) }

theorem State.declareHung_hung (s : State) (r : Region) :
    (s.declareHung r).core.hung = s.core.hung ||| BitVec.ofNat 8 (2 ^ r.bslot.toNat) := by
  rw [State.declareHung, State.setCore_core]
  rfl

theorem State.declareHung_region (there : s.region r.core r.bslot = some r) :
    (s.declareHung r).region r.core r.bslot = some r.declared :=
  (State.region_onRegion (f := Region.declared) fun _ => ⟨rfl, rfl⟩).trans (congrArg (Option.map _) there)

/-- A region that may be declared hung is, whether or not its map can be written. -/
theorem exec_hangDeclared (there : s.region s.cur s.input.bslot = some r) (hangs : s.hangable r = true) :
    ∃ s1, KeepsHung s s1 ∧ exec .hangDeclared s = .next (s1.declareHung r) := by
  show ∃ s1, KeepsHung s s1 ∧ execHangDeclared s = _
  simp only [execHangDeclared, there, hangs, Bool.not_true, Bool.false_eq_true, if_false]
  split
  · next s' wrote => exact ⟨s'.raceRelease (.region r.core r.bslot) 3, (State.writeV_keepsHung wrote).trans ⟨rfl, rfl⟩, rfl⟩
  · exact ⟨s, ⟨rfl, rfl⟩, rfl⟩

/-- It is then frozen, and its core's HUNG bit set. -/
theorem KeepsHung.declared (kept : KeepsHung s u) (there : s.region c b = some r) :
    (u.declareHung r).core.hung = s.core.hung ||| BitVec.ofNat 8 (2 ^ r.bslot.toNat) ∧
      (u.declareHung r).region c b = some r.declared := by
  obtain ⟨regions, hung⟩ := kept
  obtain ⟨-, rfl, rfl⟩ := State.region_some there
  have same : u.region r.core r.bslot = some r := by rwa [State.region, regions]
  exact ⟨by rw [State.declareHung_hung, hung], State.declareHung_region same⟩

/-! ## The obligation -/

/-- Settles O40: ckpt and drain by what is live, resume by its holder word, the hold limit by the holder, then the hang. -/
theorem checkpointsAndHolds : Obligations.CheckpointsAndHolds := by
  unfold Obligations.CheckpointsAndHolds
  refine ⟨fun d a s h s1 r free reads mine may => ⟨exec_ckpt_waits free reads mine may, fun quiet undrained =>
      ⟨fun g wrote => ⟨State.checkpoint_gen wrote, answers_ckpt_gen free reads mine may quiet undrained wrote⟩,
        answers_ckpt_fault free reads mine may quiet undrained⟩⟩,
    fun a s h s1 free reads => ⟨fun e => exec_drain_bad free reads, fun r mine quiet => ?_,
      fun r x => exec_drain_waits free reads⟩,
    fun a s w s1 free reads => ⟨exec_resume_bad free reads, fun good => ⟨exec_resume_good free reads good, fun go => ?_⟩⟩,
    fun s x undrained named inside => ⟨exec_holdLimitExpiry undrained named inside, fun c n op => State.holdExpires_copy,
      fun t r => State.holdExpires_tile⟩,
    fun s r there hangs => ?_⟩
  · have now := (State.drainStart_quiet (cause := eCANCEL) (State.graphMine_own mine) quiet).2
    exact ⟨exec_drain_ends free reads mine quiet, State.drainEnd_leaves now⟩
  · obtain ⟨resumed, holds, gone⟩ := State.foldl_resumeHold go
    obtain ⟨drained, kept⟩ := State.holds_resumed holds
    exact ⟨_, _, _, resumed.eq, resumed.tile, gone, drained, kept⟩
  · obtain ⟨u, kept, done⟩ := exec_hangDeclared there hangs
    obtain ⟨hung, now⟩ := kept.declared there
    exact ⟨_, done, hung, congrArg (Option.map _) now, congrArg (Option.map _) now⟩

end Sys2Proof.Machine
end

section
/-! The proof of O38: the arena's bytes as lists, pins and versions, the stitch instructions, and the reclaim record. -/

namespace Sys2Proof.Machine

variable {s s1 t u : State} {d a b : Reg} {h tok x : Word} {n i : Nat} {p : BitVec 4} {q : SpliceReq} {g : ListHdr}

/-! ## Bytes in memory (R6) -/

theorem leBytes_length (n v : Nat) : (leBytes n v).length = n := by
  rw [leBytes_eq_map, List.length_map, List.length_range]

theorem leNat_leBytes (n v : Nat) : leNat (leBytes n v) = v % 256 ^ n := by
  induction n generalizing v with
  | zero => simp [leBytes, leNat, Nat.mod_one]
  | succ n ih => rw [leBytes, leNat, ih, Nat.pow_succ', Nat.mod_mul, BitVec.toNat_ofNat]

theorem memGets_eq_map (m : List Host.Cell) (a n : Nat) : memGets m a n = (List.range n).map fun k => memGet m (a + k) := by
  induction n generalizing a with
  | zero => rfl
  | succ n ih => simp [memGets, ih, List.range_succ_eq_map, Function.comp_def, Nat.add_comm 1, Nat.add_assoc]

/-- Bytes written read back. -/
theorem memGets_memSets {m : List Host.Cell} {a : Nat} {bs : List Byte} (wf : memWf m = true) :
    memGets (memSets m a bs) a bs.length = bs := by
  refine List.ext_getElem (by simp [memGets_eq_map]) fun k _ inside => ?_
  have within : a ≤ a + k ∧ a + k < a + bs.length := by omega
  simp [memGets_eq_map, memGet_memSets a bs (a + k) wf, within, inside]

/-- The `i`th of the pieces of one size that a list of bytes is made of. -/
theorem take_drop_flatMap {α : Type} {f : α → List Byte} {c : Nat} (size : ∀ y, (f y).length = c) (l : List α) (rest : List Byte)
    (inside : i < l.length) : ((l.flatMap f ++ rest).drop (c * i)).take c = f l[i] := by
  induction l generalizing i with
  | nil => cases inside
  | cons y l ih =>
    rw [List.flatMap_cons, List.append_assoc]
    cases i with
    | zero => simpa using List.take_left' (size y)
    | succ i =>
      rw [Nat.mul_succ, Nat.add_comm, ← List.drop_drop, List.drop_left' (size y), ih (Nat.lt_of_succ_lt_succ inside),
        List.getElem_cons_succ]

/-! ## Fields of a dword -/

theorem field_eq_shiftLeft (lo n v : Nat) : field lo n v = BitVec.ofNat 64 (v % 2 ^ n) <<< lo := ofNat_mul_two_pow ..

theorem getLsbD_field (lo n v j : Nat) : (field lo n v).getLsbD j = true ↔ (j < 64 ∧ lo ≤ j ∧ j < lo + n) ∧ v.testBit (j - lo) = true := by
  rw [field_eq_shiftLeft, BitVec.getLsbD_shiftLeft, BitVec.getLsbD_ofNat, Nat.testBit_mod_two_pow]
  simp only [Bool.and_eq_true, Bool.not_eq_true', decide_eq_true_eq, decide_eq_false_iff_not]
  exact ⟨fun ⟨⟨_, _⟩, _, _, set⟩ => ⟨by omega, set⟩, fun ⟨_, set⟩ => ⟨by omega, by omega, by omega, set⟩⟩

/-- A field reads back. -/
theorem extractLsb'_field {lo n : Nat} (v : Nat) (fits : lo + n ≤ 64) : (field lo n v).extractLsb' lo n = BitVec.ofNat n v := by
  refine BitVec.eq_of_getLsbD_eq fun j hj => ?_
  have inside : lo + j < 64 ∧ lo ≤ lo + j ∧ lo + j < lo + n := by omega
  rw [BitVec.getLsbD_extractLsb', BitVec.getLsbD_ofNat, Bool.eq_iff_iff, Bool.and_eq_true, getLsbD_field]
  simp [inside]

/-- A field says nothing of another. -/
theorem extractLsb'_field_apart {lo n lo' n' : Nat} (v : Nat) (apart : lo + n ≤ lo' ∨ lo' + n' ≤ lo) :
    (field lo n v).extractLsb' lo' n' = 0 := by
  refine BitVec.eq_of_getLsbD_eq fun j hj => ?_
  have outside : ¬(lo' + j < 64 ∧ lo ≤ lo' + j ∧ lo' + j < lo + n) := by omega
  rw [BitVec.getLsbD_extractLsb', Bool.eq_iff_iff, Bool.and_eq_true, getLsbD_field]
  simp [outside]

/-! ## List headers (R295) -/

/-- The header's slots as they are written back: live where current or pinned (R295). -/
def ListHdr.marked (h : ListHdr) : ListHdr :=
  { h with slots := h.slots.mapIdx fun i (v : VSlot) => { v with live := decide (i = h.cur) || decide (0 < v.pins) } }

@[simp] theorem ListHdr.marked_word (h : ListHdr) : h.marked.word = h.word := rfl
@[simp] theorem ListHdr.marked_length (h : ListHdr) : h.marked.slots.length = h.slots.length := List.length_mapIdx
@[simp] theorem ListHdr.pinBy_word (h : ListHdr) (i : Nat) (up : Bool) : (h.pinBy i up).word = h.word := rfl
@[simp] theorem ListHdr.pinBy_cur (h : ListHdr) (i : Nat) (up : Bool) : (h.pinBy i up).cur = h.cur := rfl
@[simp] theorem ListHdr.pinBy_length (h : ListHdr) (i : Nat) (up : Bool) : (h.pinBy i up).slots.length = h.slots.length :=
  List.length_mapIdx

theorem ListHdr.slot_eq_getElem (inside : i < g.slots.length) : g.slot i = g.slots[i] := by
  simp [ListHdr.slot, inside]

theorem ListHdr.marked_slot (inside : i < g.slots.length) :
    g.marked.slot i = { g.slot i with live := decide (i = g.cur) || decide (0 < (g.slot i).pins) } := by
  rw [slot_eq_getElem (by simpa), slot_eq_getElem inside]
  simp [marked]

/-- A slot's pins with one more or fewer. -/
def VSlot.pinsBy (v : VSlot) (up : Bool) : Nat := if up then v.pins + 1 else v.pins - 1

theorem ListHdr.pinBy_slot (inside : i < g.slots.length) (up : Bool) :
    (g.pinBy i up).slot i = { g.slot i with pins := (g.slot i).pinsBy up } := by
  rw [slot_eq_getElem (by simpa), slot_eq_getElem inside]
  simp [pinBy, VSlot.pinsBy]

/-- A slot's six bytes, and the slot that six bytes hold (R295). -/
def VSlot.bytes (v : VSlot) : List Byte := leBytes 6 (v.spine + v.pins * 2 ^ 24 + (if v.live then 2 ^ 47 else 0))
def VSlot.of (bs : List Byte) : VSlot := ⟨leNat bs % 2 ^ 24, leNat bs / 2 ^ 24 % 2 ^ 16, leNat bs / 2 ^ 47 % 2 = 1⟩

theorem VSlot.bytes_length (v : VSlot) : v.bytes.length = 6 := leBytes_length ..

/-- A slot's block and pins fit when its fields hold them. -/
def VSlot.Fits (v : VSlot) : Prop := v.spine < 2 ^ 24 ∧ v.pins < 2 ^ 16

theorem VSlot.fits_of (bs : List Byte) : (VSlot.of bs).Fits := ⟨Nat.mod_lt _ (by decide), Nat.mod_lt _ (by decide)⟩

theorem VSlot.of_bytes {v : VSlot} (f : v.Fits) : VSlot.of v.bytes = v := by
  obtain ⟨block, pinned, live⟩ := v
  obtain ⟨spine, pins⟩ : block < 2 ^ 24 ∧ pinned < 2 ^ 16 := f
  rw [VSlot.of, bytes, leNat_leBytes]
  cases live
  · rw [VSlot.mk.injEq, decide_eq_false_iff_not]
    refine ⟨?_, ?_, ?_⟩ <;> simp <;> omega
  · rw [VSlot.mk.injEq, decide_eq_true_eq]
    refine ⟨?_, ?_, ?_⟩ <;> simp <;> omega

/-- What a header's bytes can hold beside its slots' contents. -/
structure ListHdr.Fits (h : ListHdr) : Prop where
  len : h.len < 2 ^ 24
  cur : h.cur < 8
  slots : h.slots.length = 8

theorem ListHdr.Fits.marked (f : g.Fits) : g.marked.Fits := ⟨f.len, f.cur, by simp [f.slots]⟩
theorem ListHdr.Fits.pinBy {up : Bool} (f : g.Fits) : (g.pinBy i up).Fits := ⟨f.len, f.cur, by simp [f.slots]⟩

/-- A header read from bytes fits them, and so do its slots. -/
theorem ListHdr.fits_of (bs : List Byte) : (ListHdr.of bs).Fits := ⟨BitVec.isLt _, BitVec.isLt _, by simp [ListHdr.of]⟩

theorem ListHdr.slot_of (bs : List Byte) (inside : i < 8) : (ListHdr.of bs).slot i = VSlot.of ((bs.drop (8 + 6 * i)).take 6) := by
  rw [slot_eq_getElem (by simpa [ListHdr.of])]
  simp [ListHdr.of, VSlot.of]

theorem ListHdr.slot_of_fits (bs : List Byte) (inside : i < 8) : ((ListHdr.of bs).slot i).Fits :=
  slot_of bs inside ▸ VSlot.fits_of _

/-- The header word is the header's first dword without its reserved bits. -/
theorem ListHdr.of_word (bs : List Byte) : (ListHdr.of bs).word = dwordAt bs 0 &&& 0x07FFFFFFFFFFFFFF := by
  simp only [word, ListHdr.of, field_extractLsb', ← BitVec.and_or_distrib_left]
  rfl

theorem ListHdr.bytes_length (f : g.Fits) : g.bytes.length = 64 := by
  simp [bytes, leBytes_length, List.length_flatMap, f.slots]

theorem ListHdr.dwordAt_bytes (h : ListHdr) : dwordAt h.bytes 0 = h.word := by
  rw [dwordAt, bytes, List.append_assoc, Nat.mul_zero, List.drop_zero, List.take_left' (leBytes_length ..), leNat_leBytes,
    Nat.mod_eq_of_lt (show h.word.toNat < 256 ^ 8 from h.word.isLt), BitVec.ofNat_toNat, BitVec.setWidth_eq]

/-- A version, a length and a current slot are read as they were written. -/
theorem ListHdr.of_bytes (f : g.Fits) : (ListHdr.of g.bytes).ver = g.ver ∧ (ListHdr.of g.bytes).len = g.len ∧
    (ListHdr.of g.bytes).cur = g.cur := by
  have len : (BitVec.ofNat 24 g.len).toNat = g.len := Nat.mod_eq_of_lt f.len
  have cur : (BitVec.ofNat 3 g.cur).toNat = g.cur := Nat.mod_eq_of_lt f.cur
  simp [ListHdr.of, dwordAt_bytes, word, BitVec.extractLsb'_or, extractLsb'_field, extractLsb'_field_apart, len, cur]

theorem ListHdr.word_of_bytes (f : g.Fits) : (ListHdr.of g.bytes).word = g.word := by
  obtain ⟨ver, len, cur⟩ := of_bytes f
  rw [word, ver, len, cur, word]

/-- So is a slot that fits. -/
theorem ListHdr.slot_of_bytes (f : g.Fits) (inside : i < 8) (slot : (g.slot i).Fits) : (ListHdr.of g.bytes).slot i = g.slot i := by
  have here : i < g.slots.length := f.slots ▸ inside
  have read : (g.bytes.drop (8 + 6 * i)).take 6 = (g.slot i).bytes := by
    rw [bytes, List.append_assoc, ← List.drop_drop, List.drop_left' (leBytes_length ..), slot_eq_getElem here]
    exact take_drop_flatMap VSlot.bytes_length g.slots _ here
  rw [slot_of _ inside, read, VSlot.of_bytes slot]

/-! ## Headers in the arena (R293, R295) -/

theorem ReadFrame.parts (h : ReadFrame s s1) : s1.parts = s.parts := by
  have := congrArg State.parts h.rest
  simpa using this

/-- A header is told by the memory and by where the arena lies. -/
theorem State.listHdr_congr (mem : t.mem = s.mem) (parts : t.parts = s.parts) : t.listHdr p n = s.listHdr p n := by
  simp only [State.listHdr, State.part, mem, parts]

theorem ReadFrame.listHdr (h : ReadFrame s s1) : s1.listHdr p n = s.listHdr p n := State.listHdr_congr h.mem h.parts

/-- Another agent's write leaves a core without an open region as it is. -/
theorem State.writeMem_core_free (tx : s.core.tx = none) (a : Nat) (bs : List Byte) : (s.writeMem none a bs).core = s.core := by
  show (mapEach s.cores _)[s.cur] = s.core
  rw [mapEach_get]
  change s.core.tx = none at tx
  simp only [show s.cores[s.cur] = s.core from rfl, tx]

/-- A header is written as its marked bytes (R295). -/
theorem State.putHdr_eq (s : State) (p : BitVec 4) (n : Nat) (g : ListHdr) :
    s.putHdr p n g = s.writeMem none ((s.part p).hdrAt n) g.marked.bytes := rfl

theorem State.putHdr_core (tx : s.core.tx = none) : (s.putHdr p n g).core = s.core := State.writeMem_core_free tx ..

theorem State.listHdr_putHdr (wf : Memory.wf s = true) (f : g.Fits) : (s.putHdr p n g).listHdr p n = ListHdr.of g.marked.bytes := by
  have back : memGets (memSets s.mem ((s.part p).hdrAt n) g.marked.bytes) ((s.part p).hdrAt n) g.marked.bytes.length = _ :=
    memGets_memSets wf
  rw [ListHdr.bytes_length f.marked] at back
  exact congrArg ListHdr.of back

/-- Nothing beyond the header's 64 bytes changes. -/
theorem State.putHdr_outside (wf : Memory.wf s = true) (f : g.Fits) {k : Nat}
    (outside : k < (s.part p).hdrAt n ∨ (s.part p).hdrAt n + 64 ≤ k) : memGet (s.putHdr p n g).mem k = memGet s.mem k := by
  rw [State.putHdr_eq, State.writeMem_mem, memGet_memSets _ _ _ wf, ListHdr.bytes_length f.marked, if_neg (by omega)]

/-- A slot with a pin more or fewer, as it is read back. -/
theorem State.slot_putHdr {up : Bool} (wf : Memory.wf s = true) (f : g.Fits) (inside : i < 8) (spine : (g.slot i).spine < 2 ^ 24)
    (pins : (g.slot i).pinsBy up < 2 ^ 16) : ((s.putHdr p n (g.pinBy i up)).listHdr p n).slot i =
      ⟨(g.slot i).spine, (g.slot i).pinsBy up, decide (i = g.cur) || decide (0 < (g.slot i).pinsBy up)⟩ := by
  have here : i < g.slots.length := f.slots ▸ inside
  have now : (g.pinBy i up).marked.slot i = _ := ListHdr.marked_slot (by simpa using here)
  rw [ListHdr.pinBy_slot here, ListHdr.pinBy_cur] at now
  rw [State.listHdr_putHdr wf f.pinBy, ListHdr.slot_of_bytes f.pinBy.marked inside (now ▸ ⟨spine, pins⟩), now]

/-- Its header word stays (R302). -/
theorem State.word_putHdr {up : Bool} (wf : Memory.wf s = true) (f : g.Fits) :
    ((s.putHdr p n (g.pinBy i up)).listHdr p n).word = g.word := by
  rw [State.listHdr_putHdr wf f.pinBy, ListHdr.word_of_bytes f.pinBy.marked, ListHdr.marked_word, ListHdr.pinBy_word]

@[simp] theorem State.readHdrWord_parts (s : State) (r : Agent) (p : BitVec 4) (n : Nat) : (s.readHdrWord r p n).parts = s.parts := by
  unfold State.readHdrWord
  cases r <;> dsimp only <;> split <;> rfl

/-- Of a core that reads a header word only the order of its later loads changes (R304). -/
theorem State.readHdrWord_core {c : Fin 64} (own : s.cur = c) : ∃ ord, (s.readHdrWord (.core c) p n).core = { s.core with ord } := by
  subst own
  have set : ∀ k, (s.setCoreAt s.cur k).core = k := s.setCoreAt_get s.cur
  refine ⟨s.core.ord.fence 4 s.writes, ?_⟩
  unfold State.readHdrWord
  dsimp only
  split <;> exact set _

/-! ## Handles and tokens (R294, R299) -/

theorem State.listHdr_fits (s : State) (p : BitVec 4) (n : Nat) : (s.listHdr p n).Fits := ListHdr.fits_of _

/-- A token that names a version names a list of the arena and a pinned slot. -/
theorem State.tokenOf_some (named : s.tokenOf p tok = some (n, i)) :
    n < (s.part p).nlist.toNat ∧ i < 8 ∧ ((s.listHdr p n).slot i).pins ≠ 0 := by
  unfold State.tokenOf at named
  dsimp only at named
  split at named
  · cases named
  · next listed =>
    split at named
    · cases named
    · next pinned =>
      cases named
      exact ⟨Nat.lt_of_not_le fun beyond => listed (.inr (.inr beyond)), BitVec.isLt _, fun zero => pinned (.inl zero)⟩

/-! ## stver, stpin, stunpin and stlook (R302, R303) -/

section Reads
variable (free : Says.Free s) (reads : Says.Reads s [a] [h] s1)
include free reads

theorem answers_stver_error {e : Int} (bad : s.listOf s.pid h = .error e) : Says.Answers (.stver d a) s d (BitVec.ofInt 64 e) s1 :=
  answers_of_reads free reads rfl (by simp only [List.getD_cons_zero, bad, stStatus])

theorem answers_stver (named : s.listOf s.pid h = .ok n) : Says.Answers (.stver d a) s d
    (memDword s.mem ((s.part s.pid).hdrAt n) &&& 0x07FFFFFFFFFFFFFF) (s1.readHdrWord (.core s.cur) s.pid n) :=
  answers_of_reads free reads rfl (by
    simp only [List.getD_cons_zero, named, State.listHdr, ListHdr.of_word]
    rfl)

theorem answers_stpin_error {e : Int} (bad : s.listOf s.pid h = .error e) : Says.Answers (.stpin d a) s d (BitVec.ofInt 64 e) s1 :=
  answers_of_reads free reads rfl (by simp only [List.getD_cons_zero, bad, stStatus])

variable (named : s.listOf s.pid h = .ok n)
include named

theorem answers_stpin_full (full : 49151 ≤ ((s.listHdr s.pid n).slot (s.listHdr s.pid n).cur).pins) :
    Says.Answers (.stpin d a) s d (BitVec.ofInt 64 (-22)) s1 :=
  answers_of_reads free reads rfl (by
    simp only [List.getD_cons_zero, named, State.pinList, (reads_frame reads).listHdr, if_pos full]
    rfl)

theorem answers_stpin (room : ((s.listHdr s.pid n).slot (s.listHdr s.pid n).cur).pins < 49151) :
    let g := s.listHdr s.pid n
    Says.Answers (.stpin d a) s d (pinToken n g.cur g.ver)
      ((s1.putHdr s.pid n (g.pinBy g.cur true)).readHdrWord (.core s.cur) s.pid n) :=
  answers_of_reads free reads rfl (by
    simp only [List.getD_cons_zero, named, State.pinList, (reads_frame reads).listHdr, if_neg (Nat.not_le.2 room)])

end Reads

section Unpin
variable (free : Says.Free s) (reads : Says.Reads s [a] [tok] s1)
include free reads

theorem exec_stunpin_traps (bad : s.tokenOf s.pid tok = none) : exec (.stunpin a) s = .next (s.trap 0x12 tok) := by
  rw [exec_of_reads free reads rfl]
  simp only [List.getD_cons_zero, bad]
  rfl

theorem exec_stunpin (named : s.tokenOf s.pid tok = some (n, i)) : exec (.stunpin a) s =
    .next (s1.putHdr s.pid n ((s.listHdr s.pid n).pinBy i false)).retire := by
  obtain ⟨listed, -, pinned⟩ := State.tokenOf_some named
  have frame := reads_frame reads
  have part : s1.part s.pid = s.part s.pid := by simp only [State.part, frame.parts]
  have held : ¬((s.part s.pid).nlist.toNat ≤ n ∨ ((s.listHdr s.pid n).slot i).pins = 0) := not_or.2 ⟨Nat.not_le.2 listed, pinned⟩
  rw [exec_of_reads free reads rfl]
  simp only [List.getD_cons_zero, named, State.unpinList, frame.listHdr, part, if_neg held]

end Unpin

/-- What stlook answers for a row: its address, or RANGE (R303). -/
def rowAnswer : Option (BitVec 57 × Bool) → Word
  | none => BitVec.ofInt 64 (-23)
  | some r => r.1.setWidth 64

section Look
variable (free : Says.Free s) (reads : Says.Reads s [a, b] [tok, x] s1)
include free reads

theorem answers_stlook_noArena (bare : (s.part s.pid).nlist = 0) : Says.Answers (.stlook d a b) s d (BitVec.ofInt 64 (-16)) s1 :=
  answers_of_reads free reads rfl (by
    simp only [bare, if_true]
    rfl)

variable (arena : (s.part s.pid).nlist ≠ 0)
include arena

theorem answers_stlook_badpin (token : tok.getLsbD 62 = true) (bad : s.tokenOf s.pid tok = none) :
    Says.Answers (.stlook d a b) s d (BitVec.ofInt 64 (-25)) s1 :=
  answers_of_reads free reads rfl (by
    simp only [List.getD_cons_zero, if_neg arena, token, bad, if_true]
    rfl)

theorem answers_stlook_token (token : tok.getLsbD 62 = true) (named : s.tokenOf s.pid tok = some (n, i)) :
    Says.Answers (.stlook d a b) s d (rowAnswer (s.listRow s.pid n i x.toNat)) s1 :=
  answers_of_reads free reads rfl (by
    simp only [List.getD_cons_zero, List.getD_cons_succ, if_neg arena, token, named, if_true]
    cases s.listRow s.pid n i x.toNat <;> rfl)

theorem answers_stlook_error {e : Int} (handle : tok.getLsbD 62 = false) (bad : s.listOf s.pid tok = .error e) :
    Says.Answers (.stlook d a b) s d (BitVec.ofInt 64 e) s1 :=
  answers_of_reads free reads rfl (by
    simp only [List.getD_cons_zero, if_neg arena, handle, bad, stStatus, Bool.false_eq_true, if_false])

theorem answers_stlook_handle (handle : tok.getLsbD 62 = false) (named : s.listOf s.pid tok = .ok n) :
    Says.Answers (.stlook d a b) s d (rowAnswer (s.listRow s.pid n (s.listHdr s.pid n).cur x.toNat))
      (s1.readHdrWord (.core s.cur) s.pid n) :=
  answers_of_reads free reads rfl (by
    simp only [List.getD_cons_zero, List.getD_cons_succ, if_neg arena, handle, named, Bool.false_eq_true, if_false]
    cases s.listRow s.pid n (s.listHdr s.pid n).cur x.toNat <;> rfl)

end Look

/-! ## splice: its checks (R300) -/

theorem State.splice_stale (checked : q.chk = true) (stale : (s.listHdr p n).ver ≠ q.expv) :
    s.splice p n q = (BitVec.ofInt 64 (-24), s) := if_pos ⟨checked, stale⟩

section Checks
variable (fresh : q.chk = true → (s.listHdr p n).ver = q.expv)
include fresh

theorem State.splice_range (short : (s.listHdr p n).len < q.index + q.nrem) : s.splice p n q = (BitVec.ofInt 64 (-23), s) :=
  (if_neg fun stale => stale.2 (fresh stale.1)).trans (if_pos short)

theorem State.splice_vfull (inside : q.index + q.nrem ≤ (s.listHdr p n).len) (full : (s.listHdr p n).newSlot = none) :
    s.splice p n q = (BitVec.ofInt 64 (-18), s) := by
  refine ((if_neg fun stale => stale.2 (fresh stale.1)).trans (if_neg (Nat.not_lt.2 inside))).trans ?_
  rw [full]
  rfl

end Checks

theorem rowsOf_eq_sum (ps : List Piece) : rowsOf ps = (ps.map Piece.plen).sum := List.sum_eq_foldl.symm

/-- The runs of the new version, its length, and the pieces taken out. -/
def State.splicedRuns (s : State) (p : BitVec 4) (n : Nat) (q : SpliceReq) : List (Option Nat × List Piece) :=
  spliceRuns (s.runsOf p ((s.listHdr p n).slot (s.listHdr p n).cur).spine) q.index (q.index + q.nrem) q.ins
def State.splicedLen (s : State) (p : BitVec 4) (n : Nat) (q : SpliceReq) : Nat := (s.listHdr p n).len - q.nrem + rowsOf q.ins
def State.splicedOut (s : State) (p : BitVec 4) (n : Nat) (q : SpliceReq) : List Piece :=
  cutOut q.index (q.index + q.nrem) 0 ((s.runsOf p ((s.listHdr p n).slot (s.listHdr p n).cur).spine).flatMap Prod.snd)

/-- The new version would pass a limit (LIMIT). -/
def State.SpliceTooBig (s : State) (p : BitVec 4) (n : Nat) (q : SpliceReq) : Prop :=
  2 ^ 24 - 1 < s.splicedLen p n q ∨ 1792 < ((s.splicedRuns p n q).map fun r => r.2.length).foldl (· + ·) 0 ∨
    112 < (s.splicedRuns p n q).length

/-- There are too few free blocks for it, or too few retirement entries (NOSPACE). -/
def State.SpliceNoRoom (s : State) (p : BitVec 4) (n : Nat) (q : SpliceReq) : Prop :=
  (s.freeBlocks p).length < (if s.splicedLen p n q = 0 then 0 else ((s.splicedRuns p n q).filter fun r => r.1.isNone).length + 1) ∨
    4096 < (s.part p).retired.length + (s.splicedOut p n q).length

/-- The record of a piece that core `c` takes out of list `n` with version `v` (R306). -/
def Piece.retiredBy (c : Fin 64) (n : Nat) (v : BitVec 32) (r : Piece) : Retired :=
  ⟨c, BitVec.ofNat 16 n, v, r.vbase, BitVec.ofNat 24 r.plen, r.pitch, r.borrow, r.rdonly, r.tagw, false⟩

/-- What writes to the arena leave while the acting core has no region open: the partitions and the acting core. -/
structure State.Written (s t : State) : Prop where
  cur : t.cur = s.cur
  parts : t.parts = s.parts
  core : t.core = s.core
  wf : Memory.wf s = true → Memory.wf t = true

theorem State.Written.writeMem (w : s.Written t) (tx : s.core.tx = none) (k : Nat) (bs : List Byte) : s.Written (t.writeMem none k bs) :=
  ⟨w.cur, w.parts, (State.writeMem_core_free (w.core ▸ tx) k bs).trans w.core, fun wf => memSets_wf _ _ (w.wf wf)⟩

/-- What a splice that is published leaves: the new header over what has been written before, the pieces taken out on the retirement
list, and the slot's version (R300, R306). -/
def State.published (s : State) (p : BitVec 4) (n : Nat) (g : ListHdr) (rs : List Retired) : State :=
  let t := s.putHdr p n g
  t.setPart p { t.part p with
    retired := (t.part p).retired ++ rs, slotVer := assign (t.part p).slotVer (BitVec.ofNat 16 n, g.cur) g.ver }

theorem State.spliceTooBig_iff : s.SpliceTooBig p n q ↔
    2 ^ 24 - 1 < (s.listHdr p n).len - q.nrem + (q.ins.map Piece.plen).sum ∨
      1792 < ((s.splicedRuns p n q).map fun r => r.2.length).sum ∨ 112 < (s.splicedRuns p n q).length := by
  rw [State.SpliceTooBig, State.splicedLen, rowsOf_eq_sum, List.sum_eq_foldl (xs := List.map _ (s.splicedRuns p n q))]

/-- With its version as expected, its rows inside and a slot to take, a splice fails with LIMIT, with NOSPACE, or is published. -/
theorem State.splice_cases (tx : s.core.tx = none)
    (fresh : q.chk = true → (s.listHdr p n).ver = q.expv) (inside : q.index + q.nrem ≤ (s.listHdr p n).len)
    (slot : (s.listHdr p n).newSlot = some i) :
    (s.SpliceTooBig p n q ∧ s.splice p n q = (BitVec.ofInt 64 (-19), s)) ∨
    (¬s.SpliceTooBig p n q ∧ s.SpliceNoRoom p n q ∧ s.splice p n q = (BitVec.ofInt 64 (-20), s)) ∨
    (¬s.SpliceTooBig p n q ∧ ¬s.SpliceNoRoom p n q ∧ ∃ (w : State) (slots : List VSlot), s.Written w ∧ slots.length = 8 ∧
      let v := (s.listHdr p n).ver + 1
      s.splice p n q = (v.setWidth 64, w.published p n ⟨v, s.splicedLen p n q, i, slots⟩
        ((s.splicedOut p n q).map (Piece.retiredBy s.cur n v)))) := by
  generalize answered : s.splice p n q = r
  rw [State.splice] at answered
  extract_lets +lift new len npiece removed made need free ver at answered
  rw [if_neg fun stale => stale.2 (fresh stale.1), if_neg (Nat.not_lt.2 inside), slot, State.draw] at answered
  dsimp -zeta only at answered
  split at answered
  · next big => exact .inl ⟨big, answered.symm⟩
  · next fits =>
    split at answered
    · next full => exact .inr (.inl ⟨fits, full, answered.symm⟩)
    · next room =>
      extract_lets bs placed spine g at answered
      beta_reduce at answered
      extract_lets s1 s2 s4 y at answered
      refine .inr (.inr ⟨fits, room, s2.publishHdr p n q.scope, g.slots, ?_, ?_, answered.symm⟩)
      · have drawn : s.Written { s with fresh := s.fresh + 1 } := ⟨rfl, rfl, rfl, id⟩
        have runsWritten : s.Written s1 := List.foldlRecOn _ _ drawn fun t w r _ => w.writeMem tx ..
        have spineWritten : s.Written s2 := by
          simp only [s2]
          split
          · exact runsWritten
          · exact runsWritten.writeMem tx ..
        exact ⟨spineWritten.cur, spineWritten.parts, spineWritten.core, spineWritten.wf⟩
      · exact List.length_mapIdx.trans (s.listHdr_fits p n).slots

/-! ## splice: what is published (R300, R306) -/

/-- The slot that a new version takes is one of the header's. -/
theorem ListHdr.Fits.newSlot_lt (f : g.Fits) (slot : g.newSlot = some i) : i < 8 := by
  unfold ListHdr.newSlot at slot
  split at slot
  · next found =>
    cases slot
    exact List.mem_range.1 (List.mem_of_find?_eq_some found)
  · split at slot
    · cases slot
      exact f.cur
    · cases slot

section Published
variable {rs : List Retired}

theorem State.published_listHdr (wf : Memory.wf s = true) (f : g.Fits) :
    (s.published p n g rs).listHdr p n = ListHdr.of g.marked.bytes := by
  rw [← State.listHdr_putHdr (s := s) (p := p) (n := n) wf f]
  simp only [State.listHdr, State.published, State.setPart_part, State.setPart_mem, Partition.hdrAt]

theorem State.published_retired : ((s.published p n g rs).part p).retired = (s.part p).retired ++ rs := by
  simp only [State.published, State.setPart_part]
  rfl

theorem State.published_core (tx : s.core.tx = none) : (s.published p n g rs).core = s.core := by
  rw [State.published, State.setPart_core, State.putHdr_core tx]

end Published

/-! ## splice: the instruction -/

section Splice
variable (free : Says.Free s) (reads : Says.Reads s [a, b] [h, x] s1)
include free reads

theorem answers_splice_error {e : Int} (bad : s.listOf s.pid h = .error e) :
    Says.Answers (.splice d a b) s d (BitVec.ofInt 64 e) s1 :=
  answers_of_reads free reads rfl (by simp only [List.getD_cons_zero, bad, stStatus])

variable (named : s.listOf s.pid h = .ok n)
include named

theorem answers_splice_desc (malformed : s1.spliceReq x = none) : Says.Answers (.splice d a b) s d (BitVec.ofInt 64 (-21)) s1 :=
  answers_of_reads free reads rfl (by
    simp only [List.getD_cons_zero, List.getD_cons_succ, named, malformed]
    rfl)

variable (asked : s1.spliceReq x = some q)
include asked

/-- A splice waits while an earlier access has not been performed at its scope (R304). -/
theorem exec_splice_waits (pending : s.fenceWaits q.scope 2 = true) : exec (.splice d a b) s = .next s := by
  rw [exec_of_reads free reads rfl]
  simp only [List.getD_cons_zero, List.getD_cons_succ, named, asked, pending, if_true]

theorem answers_splice {w : Word} (done : s.fenceWaits q.scope 2 = false) (spliced : s1.splice s.pid n q = (w, u)) :
    Says.Answers (.splice d a b) s d w u :=
  answers_of_reads free reads rfl (by
    simp only [List.getD_cons_zero, List.getD_cons_succ, named, asked, done, Bool.false_eq_true, if_false, spliced])

end Splice

/-- With nothing outstanding a fence waits for nothing. -/
theorem State.fenceWaits_idle {sc : BitVec 3} {k : BitVec 2} (loads : s.core.loads = []) (stores : s.core.stores = []) :
    s.fenceWaits sc k = false := by
  simp [State.fenceWaits, loads, stores]

/-- A releasing fence past .tile waits for every load, and for the stores not yet performed at its scope. -/
theorem State.fenceWaits_pending {sc : BitVec 3} (past : 1 ≤ sc.toNat)
    (pending : s.core.loads ≠ [] ∨ ∃ st ∈ s.core.stores, ((st.near.map Prod.fst).getD 0).toNat < sc.toNat) :
    s.fenceWaits sc 2 = true := by
  have far : sc ≠ 0 := fun tile => by simp [tile] at past
  rw [State.fenceWaits, if_neg fun tile => far tile.1, if_neg far, Bool.or_eq_true, Bool.and_eq_true]
  rcases pending with loads | ⟨st, out, near⟩
  · exact .inl (by simp [loads])
  · exact .inr ⟨rfl, List.any_eq_true.2 ⟨st, out, by simpa [StoreOp.doneAt] using near⟩⟩

/-! ## RECLAIM_RECORD_POST (R306, R307) -/

theorem exec_reclaim_posts {r : Retired} {r' : Ring} {s2 : State} (next : s.nextReclaim s.input.p = some r)
    (posted : (s.setPart s.input.p { s.part s.input.p with retired := (s.part s.input.p).retired.erase r }).post s.input.p
      ((s.rclqOf s.input.p r.core).getD Ring.zero) r.record = .posted s2 r') :
    exec .reclaimRecordPost s = .next (s2.setRclq s.input.p r.core r') := by
  show execReclaimRecordPost s = _
  simp only [execReclaimRecordPost, next, posted]

/-! ## The obligation -/

/-- A pin more or fewer changes its slot and no byte beyond the header (R302). -/
theorem ReadFrame.pinBy_leaves {up : Bool} (frame : ReadFrame s s1) (tx : s.core.tx = none) (wf : Memory.wf s = true) (inside : i < 8)
    (pins : ((s.listHdr p n).slot i).pinsBy up < 2 ^ 16) :
    let g := s.listHdr p n
    let u := s1.putHdr p n (g.pinBy i up)
    (u.listHdr p n).word = g.word ∧ u.core = s1.core ∧
      (u.listHdr p n).slot i = ⟨(g.slot i).spine, (g.slot i).pinsBy up, decide (i = g.cur) || decide (0 < (g.slot i).pinsBy up)⟩ ∧
      ∀ k, k < (s.part p).hdrAt n ∨ (s.part p).hdrAt n + 64 ≤ k → memGet u.mem k = memGet s.mem k := by
  intro g u
  have fits : g.Fits := s.listHdr_fits p n
  have wf1 : Memory.wf s1 = true := by rw [Memory.wf, frame.mem]; exact wf
  have part : s1.part p = s.part p := by simp only [State.part, frame.parts]
  have slot : (g.slot i).Fits := ListHdr.slot_of_fits _ inside
  refine ⟨State.word_putHdr wf1 fits, State.putHdr_core (frame.tx.trans tx), State.slot_putHdr wf1 fits inside slot.1 pins,
    fun k outside => ?_⟩
  rw [← frame.mem]
  exact State.putHdr_outside wf1 fits.pinBy (part ▸ outside)

/-- stpin leaves the header word and counts one more pin of the current version, which is live (R302). -/
theorem stpin_leaves (free : Says.Free s) (reads : Says.Reads s [a] [h] s1) (wf : Memory.wf s = true)
    (room : ((s.listHdr s.pid n).slot (s.listHdr s.pid n).cur).pins < 49151) :
    let g := s.listHdr s.pid n
    let u := (s1.putHdr s.pid n (g.pinBy g.cur true)).readHdrWord (.core s.cur) s.pid n
    (u.listHdr s.pid n).word = g.word ∧ ((u.listHdr s.pid n).slot g.cur).pins = (g.slot g.cur).pins + 1 ∧
      ((u.listHdr s.pid n).slot g.cur).live = true ∧ u.core = { s1.core with ord := u.core.ord } ∧ u.parts = s.parts ∧
      ∀ k, k < (s.part s.pid).hdrAt n ∨ (s.part s.pid).hdrAt n + 64 ≤ k → memGet u.mem k = memGet s.mem k := by
  intro g u
  have frame := reads_frame reads
  obtain ⟨word, core, slot, outside⟩ := frame.pinBy_leaves (up := true) free.2 wf (s.listHdr_fits s.pid n).cur
    (Nat.lt_of_le_of_lt room (by decide))
  have same : u.listHdr s.pid n = _ := State.listHdr_congr State.readHdrWord_mem (State.readHdrWord_parts ..)
  obtain ⟨ord, own⟩ := State.readHdrWord_core (s := s1.putHdr s.pid n (g.pinBy g.cur true)) (p := s.pid) (n := n) frame.cur
  rw [core] at own
  rw [same, slot, State.readHdrWord_mem]
  exact ⟨word, rfl, by simp, by rw [show u.core = _ from own], (State.readHdrWord_parts ..).trans frame.parts, outside⟩

/-- stunpin leaves the header word and counts one pin less; the version stays live while current or pinned (R302). -/
theorem stunpin_leaves (free : Says.Free s) (reads : Says.Reads s [a] [tok] s1) (wf : Memory.wf s = true)
    (named : s.tokenOf s.pid tok = some (n, i)) :
    let g := s.listHdr s.pid n
    let u := s1.putHdr s.pid n (g.pinBy i false)
    (u.listHdr s.pid n).word = g.word ∧ ((u.listHdr s.pid n).slot i).pins = (g.slot i).pins - 1 ∧
      (((u.listHdr s.pid n).slot i).live = true ↔ i = g.cur ∨ 1 < (g.slot i).pins) ∧ u.core = s1.core ∧
      ∀ k, k < (s.part s.pid).hdrAt n ∨ (s.part s.pid).hdrAt n + 64 ≤ k → memGet u.mem k = memGet s.mem k := by
  intro g u
  obtain ⟨-, inside, -⟩ := State.tokenOf_some named
  have fits : (g.slot i).Fits := ListHdr.slot_of_fits _ inside
  obtain ⟨word, core, slot, outside⟩ := (reads_frame reads).pinBy_leaves (up := false) free.2 wf inside
    (Nat.lt_of_le_of_lt (Nat.sub_le ..) fits.2)
  rw [slot]
  exact ⟨word, rfl, by simp [VSlot.pinsBy, g], core, outside⟩

/-- What the splice of a version that is published leaves: the next version with its length in its slot, the pieces taken out on the
retirement list, and the core as it was (R300, R306). -/
theorem published_leaves {w : State} {slots : List VSlot} {v : BitVec 32} {len : Nat} {rs : List Retired} (written : s.Written w)
    (tx : s.core.tx = none) (wf : Memory.wf s = true) (short : len < 2 ^ 24) (slot : i < 8) (eight : slots.length = 8) :
    let u := w.published p n ⟨v, len, i, slots⟩ rs
    (u.listHdr p n).ver = v ∧ (u.listHdr p n).len = len ∧ (u.listHdr p n).cur = i ∧
      (u.part p).retired = (s.part p).retired ++ rs ∧ u.core = s.core := by
  intro u
  have fits : ListHdr.Fits ⟨v, len, i, slots⟩ := ⟨short, slot, eight⟩
  obtain ⟨ver, long, cur⟩ := ListHdr.of_bytes fits.marked
  rw [State.published_listHdr (written.wf wf) fits, State.published_retired, State.published_core (written.core ▸ tx), written.core]
  exact ⟨ver, long, cur, by rw [State.part, written.parts]; rfl, rfl⟩

theorem setWidth_succ (v : BitVec 32) : (v + 1).setWidth 64 = BitVec.ofNat 64 ((v.toNat + 1) % 2 ^ 32) :=
  BitVec.eq_of_toNat_eq (by simp)

section Answered
variable (free : Says.Free s) (reads : Says.Reads s [a, b] [h, x] s1) (named : s.listOf s.pid h = .ok n)
  (asked : s1.spliceReq x = some q) (done : s.fenceWaits q.scope 2 = false)
  (fresh : q.chk = true → (s1.listHdr s.pid n).ver = q.expv) (inside : q.index + q.nrem ≤ (s1.listHdr s.pid n).len)
  (slot : (s1.listHdr s.pid n).newSlot = some i)
include free reads named asked done fresh inside slot

theorem answers_splice_limit (big : s1.SpliceTooBig s.pid n q) : Says.Answers (.splice d a b) s d (BitVec.ofInt 64 (-19)) s1 := by
  obtain ⟨-, eq⟩ | ⟨fits, -⟩ | ⟨fits, -⟩ := State.splice_cases ((reads_frame reads).tx.trans free.2) fresh inside slot
  · exact answers_splice free reads named asked done eq
  · exact absurd big fits
  · exact absurd big fits

theorem answers_splice_noSpace (fits : ¬s1.SpliceTooBig s.pid n q) (full : s1.SpliceNoRoom s.pid n q) :
    Says.Answers (.splice d a b) s d (BitVec.ofInt 64 (-20)) s1 := by
  obtain ⟨big, -⟩ | ⟨-, -, eq⟩ | ⟨-, room, -⟩ := State.splice_cases ((reads_frame reads).tx.trans free.2) fresh inside slot
  · exact absurd big fits
  · exact answers_splice free reads named asked done eq
  · exact absurd full room

theorem answers_splice_published (fits : ¬s1.SpliceTooBig s.pid n q) (room : ¬s1.SpliceNoRoom s.pid n q) (wf : Memory.wf s1 = true) :
    ∃ u, Says.Answers (.splice d a b) s d (BitVec.ofNat 64 (((s1.listHdr s.pid n).ver.toNat + 1) % 2 ^ 32)) u ∧
      (u.listHdr s.pid n).ver = (s1.listHdr s.pid n).ver + 1 ∧ (u.listHdr s.pid n).len = s1.splicedLen s.pid n q ∧
      (u.listHdr s.pid n).cur = i ∧ (u.part s.pid).retired = (s1.part s.pid).retired ++
        (s1.splicedOut s.pid n q).map (Piece.retiredBy s.cur n ((s1.listHdr s.pid n).ver + 1)) ∧ u.core = s1.core := by
  have frame := reads_frame reads
  have tx := frame.tx.trans free.2
  obtain ⟨big, -⟩ | ⟨-, full, -⟩ | ⟨-, -, w, slots, written, eight, eq⟩ := State.splice_cases tx fresh inside slot
  · exact absurd big fits
  · exact absurd full room
  · have short : s1.splicedLen s.pid n q < 2 ^ 24 := by
      by_contra long
      exact fits (.inl (by omega))
    rw [frame.cur] at eq
    rw [← setWidth_succ]
    exact ⟨_, answers_splice free reads named asked done eq,
      published_leaves written tx wf short ((s1.listHdr_fits s.pid n).newSlot_lt slot) eight⟩

end Answered

/-- Settles O38: the four instructions on one list by what the handle or token names, splice by its checks in R300's order, and the
record of a retired piece. -/
theorem stitchInstructions : Obligations.StitchInstructions := by
  unfold Obligations.StitchInstructions
  refine ⟨⟨fun d a s h s1 free reads => ⟨fun e bad => ⟨answers_stver_error free reads bad, answers_stpin_error free reads bad⟩,
      fun n named => ⟨answers_stver free reads named, answers_stpin_full free reads named, fun room wf =>
        ⟨_, answers_stpin free reads named room, stpin_leaves free reads wf room⟩⟩⟩,
    fun a s tok s1 free reads => ⟨exec_stunpin_traps free reads, fun n i named wf =>
      ⟨_, exec_stunpin free reads named, stunpin_leaves free reads wf named⟩⟩,
    fun d a b s tok x s1 free reads => ⟨answers_stlook_noArena free reads, fun arena =>
      ⟨fun e => answers_stlook_error free reads arena, answers_stlook_badpin free reads arena,
        fun token n i named => ?_, fun handle n named => ?_⟩⟩⟩,
    fun d a b s h x s1 free reads => ⟨fun e => answers_splice_error free reads, fun n => answers_splice_desc free reads,
      fun n q named asked past pending => exec_splice_waits free reads named asked (State.fenceWaits_pending past pending),
      fun n q named asked loads stores => ?_⟩,
    fun s r s2 q => exec_reclaim_posts⟩
  · have answer := answers_stlook_token (d := d) free reads arena token named
    exact ⟨fun row => by rwa [row] at answer, fun r row => by rwa [row] at answer⟩
  · have answer := answers_stlook_handle (d := d) free reads arena handle named
    exact ⟨fun row => by rwa [row] at answer, fun r row => by rwa [row] at answer⟩
  · have done : s.fenceWaits q.scope 2 = false := State.fenceWaits_idle loads stores
    have len : s1.splicedLen s.pid n q = _ := congrArg (_ + ·) (rowsOf_eq_sum q.ins)
    refine ⟨fun checked stale => answers_splice free reads named asked done (State.splice_stale checked stale),
      fun fresh short => answers_splice free reads named asked done (State.splice_range fresh short),
      fun fresh inside => ⟨fun full => answers_splice free reads named asked done (State.splice_vfull fresh inside full),
        fun i slot => ⟨fun big => ?_, fun fits full => ?_, fun fits room wf => ?_⟩⟩⟩
    · exact answers_splice_limit free reads named asked done fresh inside slot (State.spliceTooBig_iff.2 big)
    · refine answers_splice_noSpace free reads named asked done fresh inside slot (mt State.spliceTooBig_iff.1 fits) ?_
      rw [State.SpliceNoRoom, len]
      exact full
    · obtain ⟨u, answer, ver, long, cur, retired, core⟩ := answers_splice_published (d := d) free reads named asked done fresh
        inside slot (mt State.spliceTooBig_iff.1 fits) (by rw [State.SpliceNoRoom, len]; exact room) wf
      exact ⟨u, answer, ver, long.trans len, cur, retired, core⟩

end Sys2Proof.Machine
end

section
/-! The proof of O50: what ksto and kqry apply, key runs stored, commands, and the merging of bursts. -/

namespace Sys2Proof.Machine

variable {s s1 : State} {f : StF} {x : Sta} {b : Bool} {p : Nat} {t : Token} {q : List (Nat × Token)}

/-! ## What ksto and kqry apply (R317) -/

/-- The state once each run port has taken its token. -/
def State.runsGathered (s : State) (x : Sta) (f : StF) (b : Bool) : State :=
  ((portsOf f).filter (· ≠ 2)).foldl (fun s p => s.gatherPort x b p) s

/-- The oldest of what the ports offer then. -/
def State.recallOffer (s : State) (x : Sta) (f : StF) (b : Bool) : Option (Nat × Token) :=
  oldestOffer x.r (([2, 1, 0].filter ((portsOf f).contains ·)).filterMap fun p => ((s.runsGathered x f b).offers x b p).map fun t => (p, t))

/-- Another port has something older than `t`. -/
def State.OlderElsewhere (s : State) (x : Sta) (p : Nat) (t : Token) : Prop :=
  ∃ p', p' ≠ p ∧ p' < 3 ∧ ∃ y, ((s.gathered x p').head?).or (s.rawHead x p') = some y ∧ x.r.age y < x.r.age t

/-- What port `p'` has first, gathered or at its head, is older than `t`. -/
def State.olderAt (s : State) (x : Sta) (t : Token) (p' : Nat) : Bool :=
  match ((s.gathered x p').head?).or (s.rawHead x p') with
  | none => false
  | some y => decide (x.r.age y < x.r.age t)

theorem State.olderAt_iff {p' : Nat} :
    s.olderAt x t p' = true ↔ ∃ y, ((s.gathered x p').head?).or (s.rawHead x p') = some y ∧ x.r.age y < x.r.age t := by
  unfold State.olderAt
  cases ((s.gathered x p').head?).or (s.rawHead x p') <;> simp

theorem State.any_olderAt_iff : ([0, 1, 2].filter (· ≠ p)).any (s.olderAt x t) = true ↔ s.OlderElsewhere x p t := by
  have lt_three (k : Nat) : k ∈ [0, 1, 2] ↔ k < 3 := by
    simp only [List.mem_cons, List.not_mem_nil, or_false]
    omega
  simp only [List.any_eq_true, List.mem_filter, lt_three, decide_eq_true_eq, State.olderAt_iff, State.OlderElsewhere,
    and_assoc, and_left_comm]

/-- What is done with the oldest offer: a STOP leaves, unless it waits in kqry; a command or a whole run is applied. -/
def State.applyOffer (s : State) (x : Sta) (b : Bool) : Option (Nat × Token) → State
  | none => s
  | some (p, t) =>
    if t.kind.level ≠ 0 then
      if b && ([0, 1, 2].filter (· ≠ p)).any (s.olderAt x t) then s else (s.take x [p]).emits x.t x.st [(none, t)]
    else if p = 2 then s.applyCommand x 2 none (if b then some 2 else none)
    else if b && p == 0 then (s.onRcl x (·.setGather p [])).applyQuery x (s.gathered x p)
    else (s.onRcl x (·.setGather p [])).applyKey x (s.gathered x p) (if b then some 2 else none)

theorem exec_recall {i : Instr} {offer : Option (Nat × Token)} (form : (i, b) = (.ksto f, false) ∨ (i, b) = (.kqry f, true))
    (fires : Says.Fires s f x) (oldest : s.recallOffer x f b = offer) :
    exec i s = .next ((s.runsGathered x f b).applyOffer x b offer) := by
  have fired : exec i s = .next (s.fireRecall f b) := by
    rcases form with h | h <;> cases h <;> rfl
  rw [fired, State.fireRecall, State.fireHeads_of_fires fires, ← oldest]
  rfl

section Stop
variable (level : t.kind.level ≠ 0)
include level

theorem State.applyOffer_stop_waits (kqry : b = true) (older : s.OlderElsewhere x p t) : s.applyOffer x b (some (p, t)) = s := by
  rw [State.applyOffer, if_pos level, if_pos (Bool.and_eq_true_iff.2 ⟨kqry, State.any_olderAt_iff.2 older⟩)]

theorem State.applyOffer_stop_leaves (free : b = false ∨ ¬ s.OlderElsewhere x p t) :
    s.applyOffer x b (some (p, t)) = (s.take x [p]).emits x.t x.st [(none, t)] := by
  have passes : ¬ (b && ([0, 1, 2].filter (· ≠ p)).any (s.olderAt x t)) = true := by
    rw [Bool.and_eq_true, State.any_olderAt_iff, not_and]
    exact fun kqry => free.resolve_left (by simp [kqry])
  rw [State.applyOffer, if_pos level, if_neg passes]

end Stop

section Value
variable (level : t.kind.level = 0)
include level

theorem State.applyOffer_command : s.applyOffer x b (some (2, t)) = s.applyCommand x 2 none (if b then some 2 else none) := by
  rw [State.applyOffer, if_neg (not_not.2 level), if_pos rfl]

/-- A whole run at port a of kqry is a query. -/
theorem State.applyOffer_query (query : b = true ∧ p = 0) :
    s.applyOffer x b (some (p, t)) = (s.onRcl x (·.setGather p [])).applyQuery x (s.gathered x p) := by
  obtain ⟨rfl, rfl⟩ := query
  rw [State.applyOffer, if_neg (not_not.2 level)]
  rfl

/-- Any other is a key with its value. -/
theorem State.applyOffer_key (run : p ≠ 2) (key : ¬ (b = true ∧ p = 0)) : s.applyOffer x b (some (p, t)) =
    (s.onRcl x (·.setGather p [])).applyKey x (s.gathered x p) (if b then some 2 else none) := by
  rw [State.applyOffer, if_neg (not_not.2 level), if_neg run, if_neg (by simpa using key)]

end Value

/-! ## Key runs (R318) -/

theorem poisonOf_none {l : List Token} {e : ErrInfo} (sound : ∀ y ∈ l, y.kind ≠ .error) : poisonOf l e = none := by
  have find : l.find? (·.kind = .error) = none := List.find?_eq_none.2 fun y hy => by simpa using sound y hy
  rw [poisonOf, find, Option.map_none]

section Store
variable {r : Recall} {d : RDesc} {rm : RMode} {iter : BitVec 24} {keys vals : List W48}

/-- With room a key run enters the store with the next SEQ. -/
theorem Recall.store_room (room : r.entries.length < 256) (next : r.seqn.getD (d.shard.setWidth 32) ≠ 0xFFFFFFFF) :
    r.store d rm iter keys vals =
      ({ r with
          entries := r.entries ++ [⟨recallWrite d.kf rm d.nsat (keys.take d.d), recallWrite d.vf rm d.nsat (vals.take d.v),
            r.seqn.getD (d.shard.setWidth 32), if d.pos then some iter else none, 0, d.kf, d.vf⟩],
          seqn := some (r.seqn.getD (d.shard.setWidth 32) + BitVec.ofNat 32 d.step) }, some 1) := by
  have full : decide (256 ≤ r.entries.length) = false := decide_eq_false (Nat.not_le.2 room)
  simp only [Recall.store, full, next, Bool.false_and, Bool.false_eq_true, if_false]

/-- A full store that keeps its entries takes nothing. -/
theorem Recall.store_full (full : 256 ≤ r.entries.length) (keeps : d.fifo = false) : r.store d rm iter keys vals = (r, some 0) := by
  simp only [Recall.store, full, keeps, decide_true, Bool.not_false, Bool.and_self, if_true]

end Store

/-- A whole key run without ERROR is acknowledged by the count that the store gives. -/
theorem State.applyKey_stored {rest : List Token} {o : Option Nat} {r : Recall} {n : Nat} (sound : ∀ y ∈ t :: rest, y.kind ≠ .error)
    (stored : (s.tileAt x.t).rcl.store (s.rdesc x) x.f.rm t.iter (runLanes ((t :: rest).take (runOf (s.rdesc x).d)))
      (runLanes ((t :: rest).drop (runOf (s.rdesc x).d))) = (r, some n)) :
    s.applyKey x (t :: rest) o = (s.onRcl x fun _ => r).emits x.t x.st [(o, tokS t.seq t.iter .done (BitVec.ofNat 64 n))] := by
  simp only [State.applyKey, List.head?_cons, poisonOf_none sound, stored]

/-! ## Commands (R322, R323) -/

theorem exec_commandStation {i : Instr} {c : Nat} (form : (i, c) ∈ [(Instr.kevict f, 1), (.kmask f, 2), (.kage f, 3)])
    (fires : Says.Fires s f x) : exec i s = .next (s.applyCommand x 0 (some c) none) := by
  have applied (c : Nat) : s.fireHeads f (fun x s => s.applyCommand x 0 (some c) none) = s.applyCommand x 0 (some c) none :=
    State.fireHeads_of_fires fires _
  simp only [List.mem_cons, Prod.mk.injEq, List.not_mem_nil, or_false] at form
  rcases form with ⟨rfl, rfl⟩ | ⟨rfl, rfl⟩ | ⟨rfl, rfl⟩ <;> exact congrArg Host.Outcome.next (applied _)

section Command
variable {own o : Option Nat} (head : s.rawHead x p = some t) (kind : t.kind = .data ∨ t.kind = .param)
include head kind

theorem State.applyCommand_done {n : Nat} {r : Recall} (done : s.command x own t.pay.word = some (n, r)) :
    s.applyCommand x p own o = ((s.take x [p]).onRcl x fun _ => r).emits x.t x.st
      [(o, tokS t.seq t.iter .done (BitVec.ofNat 64 n))] := by
  rcases kind with kind | kind <;> simp [State.applyCommand, head, kind, done]

theorem State.applyCommand_bad (bad : s.command x own t.pay.word = none) :
    s.applyCommand x p own o = (s.take x [p]).errFire x t.seq t.iter (s.self x.t eKIND) := by
  rcases kind with kind | kind <;> simp [State.applyCommand, head, kind, bad]

end Command

section Evict
variable {w : Word} {r : Recall} {d : RDesc}

theorem State.command_evict (cmd : w.toNat / 2 ^ 60 = 1) :
    s.command x (some 1) w = (s.tileAt x.t).rcl.evictCmd (s.rdesc x) w := by
  have field : (w.extractLsb' 60 4).toNat = 1 := by
    rw [BitVec.extractLsb'_toNat, Nat.shiftRight_eq_div_pow, cmd]
  simp only [State.command, field, or_true, if_true]

theorem evict_value_toNat : (w.extractLsb' 0 32).toNat = w.toNat % 2 ^ 32 := extractLsb'_zero_toNat w 32

theorem evict_reserved_clear (clear : w.toNat / 2 ^ 32 % 2 ^ 26 = 0) : ¬ w.extractLsb' 32 26 ≠ 0 := by
  rw [not_not, ← BitVec.toNat_inj, BitVec.extractLsb'_toNat, Nat.shiftRight_eq_div_pow, clear]
  rfl

theorem evict_selector_toNat : (w.extractLsb' 58 2).toNat = w.toNat / 2 ^ 58 % 4 := by
  rw [BitVec.extractLsb'_toNat, Nat.shiftRight_eq_div_pow]

section Clear
variable (clear : w.toNat / 2 ^ 32 % 2 ^ 26 = 0)
include clear

/-- The entries from a SEQ on are removed. -/
theorem Recall.evictCmd_from (sel : w.toNat / 2 ^ 58 % 4 = 0) :
    r.evictCmd d w = some (r.evict fun e => decide (w.toNat % 2 ^ 32 ≤ e.seq.toNat)) := by
  have older (e : REntry) : (!e.seq.ult (w.extractLsb' 0 32)) = decide (w.toNat % 2 ^ 32 ≤ e.seq.toNat) := by
    rw [BitVec.ult, evict_value_toNat, ← decide_not, decide_eq_decide, Nat.not_lt]
  simp only [Recall.evictCmd, evict_reserved_clear clear, if_false, evict_selector_toNat, sel, older]

/-- Every entry is removed, and SEQN begins again. -/
theorem Recall.evictCmd_all (sel : w.toNat / 2 ^ 58 % 4 = 1) :
    r.evictCmd d w = some (r.entries.length, { r with entries := [], seqn := some (d.shard.setWidth 32) }) := by
  have emptied : r.evict (fun _ => true) = (r.entries.length, { r with entries := [] }) := by simp [Recall.evict]
  simp only [Recall.evictCmd, evict_reserved_clear clear, if_false, evict_selector_toNat, sel, emptied]

/-- The entry of one SEQ is removed. -/
theorem Recall.evictCmd_one (sel : w.toNat / 2 ^ 58 % 4 = 3) :
    r.evictCmd d w = some (r.evict fun e => decide (e.seq.toNat = w.toNat % 2 ^ 32)) := by
  have same (e : REntry) : (e.seq == w.extractLsb' 0 32) = decide (e.seq.toNat = w.toNat % 2 ^ 32) := by
    rw [beq_eq_decide, decide_eq_decide, ← BitVec.toNat_inj, evict_value_toNat]
  simp only [Recall.evictCmd, evict_reserved_clear clear, if_false, evict_selector_toNat, sel, same]

end Clear

end Evict

/-! ## kmerge (R326) -/

/-- The token that has a set's tag. -/
def mergeTag (q : List (Nat × Token)) : Token := tokS (setSeq q) (setIter q) .data 0

/-- A set's tokens join what their ports have gathered. -/
def State.joinBursts (s : State) (x : Sta) (q : List (Nat × Token)) : State :=
  s.onRcl x fun r => q.foldl (fun r e => r.setGather e.1 (lookupD r.gather e.1 [] ++ [e.2])) r

/-- The ports' bursts of a tag. -/
def State.bursts (s : State) (x : Sta) (f : StF) (t : Token) : List (List Token) := (portsOf f).map fun p => s.burst x p t

/-- The bursts of a tag leave the gather buffers. -/
def State.dropBursts (s : State) (x : Sta) (f : StF) (t : Token) : State :=
  s.onRcl x fun r => (portsOf f).foldl (fun r p => r.setGather p ((lookupD r.gather p []).filter fun y => !sameTag t y)) r

/-- What whole bursts of a tag give: the first ERROR among them, a wrong header's, or the merged selection. -/
def State.mergeBursts (s : State) (x : Sta) (f : StF) (v : Nat) (t : Token) : State :=
  match (s.bursts x f t).findSome? fun l => poisonOf l (s.self x.t 0) with
  | some e => (s.dropBursts x f t).errFire x t.seq t.iter e
  | none =>
    if (s.bursts x f t).all (headersOk (kOf f) v) then
      (s.dropBursts x f t).emits x.t x.st ((s.dropBursts x f t).results x t v
        (selectK (kOf f) v 0 ((s.bursts x f t).flatMap (burstCands (kOf f) v))) none)
    else (s.dropBursts x f t).errFire x t.seq t.iter (s.self x.t eKIND)

/-- A set of DATA has nothing that kmerge singles out. -/
theorem any_kind_of_allData (data : Says.AllData q) {bad : Kind → Bool} (good : bad .data = false) :
    (q.any fun e => bad e.2.kind) = false :=
  List.any_eq_false.2 fun e he => by simp [data e he, good]

/-- A set of DATA joins its bursts, and whole bursts are merged. -/
theorem exec_kmerge_data (takes : Says.Takes s f x q s1) (data : Says.AllData q) :
    exec (.kmerge f) s = .next
      (if (s1.joinBursts x q).bursts x f (mergeTag q) |>.any fun l => l.length < kOf f * (1 + runOf (s.rdesc x).v) then s1.joinBursts x q
       else (s1.joinBursts x q).mergeBursts x f (s.rdesc x).v (mergeTag q)) := by
  obtain ⟨fires, next⟩ := takes
  show Host.Outcome.next (s.fireHeads f _) = _
  rw [State.fireHeads_of_fires fires]
  have noError := any_kind_of_allData data (bad := (· = .error)) rfl
  have noStop := any_kind_of_allData data (bad := (·.level ≠ 0)) rfl
  have noKind := any_kind_of_allData data (bad := fun k => k.level = 0 ∧ k ≠ .data) rfl
  simp only [next, noError, noStop, noKind, Bool.and_false, Bool.false_eq_true, if_false]
  rw [State.rows_data data fun _ => rfl]
  rfl

theorem State.mergeBursts_sound {v : Nat} (sound : ∀ l ∈ s.bursts x f t, ∀ y ∈ l, y.kind ≠ .error)
    (headers : ∀ l ∈ s.bursts x f t, headersOk (kOf f) v l = true) :
    s.mergeBursts x f v t = (s.dropBursts x f t).emits x.t x.st ((s.dropBursts x f t).results x t v
      (selectK (kOf f) v 0 ((s.bursts x f t).flatMap (burstCands (kOf f) v))) none) := by
  have poison : ((s.bursts x f t).findSome? fun l => poisonOf l (s.self x.t 0)) = none :=
    List.findSome?_eq_none_iff.2 fun l hl => poisonOf_none (sound l hl)
  simp only [State.mergeBursts, poison, List.all_eq_true.2 headers, if_true]

section Merged
variable (takes : Says.Takes s f x q s1) (data : Says.AllData q)
include takes data

/-- With a burst that is not whole nothing is given. -/
theorem exec_kmerge_short
    (short : ∃ l ∈ (s1.joinBursts x q).bursts x f (mergeTag q), l.length < kOf f * (1 + runOf (s.rdesc x).v)) :
    exec (.kmerge f) s = .next (s1.joinBursts x q) := by
  rw [exec_kmerge_data takes data, if_pos (by simpa using short)]

theorem exec_kmerge_whole
    (whole : ∀ l ∈ (s1.joinBursts x q).bursts x f (mergeTag q), kOf f * (1 + runOf (s.rdesc x).v) ≤ l.length) :
    exec (.kmerge f) s = .next ((s1.joinBursts x q).mergeBursts x f (s.rdesc x).v (mergeTag q)) := by
  rw [exec_kmerge_data takes data, if_neg (by simpa using whole)]

end Merged

/-! ## The obligation -/

/-- Settles O50, station by station. -/
theorem recallStations : Obligations.RecallStations := by
  unfold Obligations.RecallStations
  refine ⟨fun i b f s x form fires => ?_, fun s x t rest o sound => ⟨fun room next => ?_, fun full keeps => ?_⟩,
    fun i c f s x t form fires head kind => ⟨fun n r done => ?_, fun bad => ?_⟩,
    fun s x w cmd clear => ⟨fun sel => ?_, fun sel => ?_, fun sel => ?_⟩,
    fun f s x q s1 takes data => ⟨fun short => ?_, fun whole sound headers => ?_⟩⟩
  · refine ⟨exec_recall form fires, fun t oldest level => ?_, fun p t oldest level => ⟨fun kqry older => ?_, fun free => ?_⟩,
      fun p t oldest run level => ⟨fun query => ?_, fun key => ?_⟩⟩ <;> refine (exec_recall form fires oldest).trans (congrArg _ ?_)
    · exact State.applyOffer_command level
    · exact State.applyOffer_stop_waits level kqry older
    · exact State.applyOffer_stop_leaves level free
    · exact State.applyOffer_query level query
    · exact State.applyOffer_key level run key
  · exact State.applyKey_stored sound (Recall.store_room room next)
  · exact State.applyKey_stored sound (Recall.store_full full keeps)
  · rw [exec_commandStation form fires, State.applyCommand_done head kind done]
  · rw [exec_commandStation form fires, State.applyCommand_bad head kind bad]
    rfl
  · rw [State.command_evict cmd, Recall.evictCmd_from clear sel]
    rfl
  · rw [State.command_evict cmd, Recall.evictCmd_all clear sel]
  · rw [State.command_evict cmd, Recall.evictCmd_one clear sel]
    rfl
  · exact exec_kmerge_short takes data short
  · exact (exec_kmerge_whole takes data whole).trans (congrArg _ (State.mergeBursts_sound sound headers))

end Sys2Proof.Machine
end

section
/-! The proofs of O21, O22, O24, O11 and O12, and against O13: traps, interrupts and commit regions. -/

namespace Sys2Proof.Machine

variable {s s1 s2 : State} {x : TxRegion} {code : BitVec 6} {addr : Word}

/-! ## Trap entry (R372) -/

/-- What an abort leaves of the registers that a trap's entry reads and writes. -/
@[simp] theorem Core.abort_regs (c : Core) (x : TxRegion) (k : BitVec 4) (b : Bool) : (c.abort x k b).regs = x.regs := rfl
@[simp] theorem Core.abort_poison (c : Core) (x : TxRegion) (k : BitVec 4) (b : Bool) : (c.abort x k b).poison = x.poison := rfl
@[simp] theorem Core.abort_tx (c : Core) (x : TxRegion) (k : BitVec 4) (b : Bool) : (c.abort x k b).tx = none := rfl
@[simp] theorem Core.abort_inh (c : Core) (x : TxRegion) (k : BitVec 4) (b : Bool) : (c.abort x k b).inh = c.inh := rfl
@[simp] theorem Core.abort_trapVec (c : Core) (x : TxRegion) (k : BitVec 4) (b : Bool) : (c.abort x k b).trapVec = c.trapVec := rfl
@[simp] theorem Core.abort_txCause (c : Core) (x : TxRegion) (k : BitVec 4) (b : Bool) : (c.abort x k b).txCause = k := rfl

/-- Settles O21, by the two ways that a trap goes. -/
theorem trapEntry : Obligations.TrapEntry := by
  unfold Obligations.TrapEntry
  intro s code addr free
  rw [State.trap_free free]
  refine ⟨fun out vec => ?_, fun closed => ?_⟩
  · rw [State.enterTrap_handler out vec]
    exact ⟨State.setCore_core .., rfl, rfl, rfl⟩
  · rw [State.enterTrap_double closed]
    exact ⟨State.setCore_core .., rfl, rfl⟩

/-- Settles O22: the trap enters from the aborted core. -/
theorem trapInRegion : Obligations.TrapInRegion := by
  unfold Obligations.TrapInRegion
  intro s code addr x open_ out vec
  rw [State.trap_region open_, State.enterTrap_handler (by simpa using out) (by simpa using vec)]
  simp

/-! ## Interrupts (R374, R375, R378) -/

/-- The lowest one bit is the one below which there is none. -/
theorem lowBit_eq {p : BitVec 7} {n : Nat} (hn : n < 7) (set : p.getLsbD n = true) (least : ∀ k < n, p.getLsbD k = false) :
    lowBit p = n := by
  have found : (List.range 7).find? (p.getLsbD ·) = some n :=
    List.find?_range_eq_some.2 ⟨set, List.mem_range.2 hn, fun k hk => by simp [least k hk]⟩
  rw [lowBit, found]
  rfl

theorem exec_eret (free : Says.Free s) : exec .eret s = .next s.leaveTrap :=
  congrArg Host.Outcome.next (State.unsafeIssue_free _ free.1 free.2)

/-- A bit of a one-bit word. -/
theorem getLsbD_bit {lo : Nat} (h : lo < 64) (k : Nat) (b : Bool) : (bit lo b).getLsbD k = (b && decide (lo = k)) := by
  cases b with
  | false => exact BitVec.getLsbD_zero
  | true =>
    rw [bit, if_pos rfl, BitVec.getLsbD_ofNat, Nat.testBit_two_pow, Bool.true_and, Bool.and_eq_right_iff_imp]
    exact fun here => decide_eq_true (of_decide_eq_true here ▸ h)

/-- INT_PEND of a partition's core, bit by bit (R374). -/
theorem State.getLsbD_pendOf {c : Fin 64} {p : BitVec 4} (part : s.cores[c].part = some p) {n : Nat} (hn : n < 7) :
    (s.pendOf c).getLsbD n =
      ((s.cores[c].fq.holds && decide (0 = n)) || (s.cores[c].hung != 0 && decide (1 = n)) || (s.cores[c].cpyV && decide (2 = n)) ||
        (s.cores[c].rlog.holds && decide (3 = n)) || (s.cores[c].rclq.holds && decide (4 = n)) ||
        (!(s.part p).notices.isEmpty && decide (5 = n)) || (s.cores[c].timecmp.ule s.cores[c].cycle && decide (6 = n))) := by
  simp only [State.pendOf, part]
  simp [getLsbD_bit, hn]

/-- Settles O24: eret, idle and the entry of an interrupt by their outcomes, and the pending bits one by one. -/
theorem interrupts : Obligations.Interrupts := by
  unfold Obligations.Interrupts
  refine ⟨⟨fun s free aligned => ?_, fun s free odd => ?_, fun s free => ?_, fun s n run ie inh tx idling vec hn set least => ?_,
    fun s => ?_⟩, fun s c p part => ?_⟩
  · rw [exec_eret free, State.leaveTrap, if_neg (not_not.2 (low_bits_eq_zero_iff.2 aligned))]
    rfl
  · rw [exec_eret free, State.leaveTrap, if_pos fun low => odd (low_bits_eq_zero_iff.1 low)]
    rfl
  · have issued : exec .idle s = _ := congrArg Host.Outcome.next (State.unsafeIssue_free _ free.1 free.2)
    rw [issued]
    split
    · rw [State.retire, State.retireAt, State.setCore_setCore, State.setCore_core]
      rfl
    · rfl
  · have taken : s.interrupted = true := by
      have some : (s.pending != 0) = true := bne_iff_ne.2 fun none => by simp [none] at set
      simp only [State.interrupted, ie, inh, tx, idling, some, Option.isNone_none, Bool.not_false, Bool.and_self]
    have entered : exec .interruptTaken s = _ := congrArg Host.Outcome.next (if_pos ⟨run, taken⟩)
    rw [entered, State.enterTrap_handler inh vec, lowBit_eq hn set least]
    exact ⟨_, rfl, rfl, by simp [ie]⟩
  · show Host.Outcome.next _ = _
    simp only [BitVec.ule_eq_decide, decide_eq_true_eq]
    rfl
  · refine ⟨?_, ?_, ?_, ?_, ?_, ?_, ?_⟩ <;> rw [State.getLsbD_pendOf part (by decide)] <;>
      simp [Ring.holds, BitVec.ule_eq_decide]

end Sys2Proof.Machine
end

section
/-! The proofs of O11 and O12 and against O13: commit regions. -/

namespace Sys2Proof.Machine

variable {s s1 s2 : State} {x : TxRegion} {a : Reg} {w : Word} {l : List StoreOp}

/-! ## Opening (R341, R347) -/

@[simp] theorem State.acquire_core (s : State) (k : BitVec 3) :
    (s.acquire k).core = { s.core with ord := s.core.ord.fence k s.writes } := State.setCore_core s _
@[simp] theorem State.raceRelease_core (s : State) (a : Agent) (k : BitVec 3) : (s.raceRelease a k).core = s.core := rfl

/-- What opening a region leaves of the core, and of memory. -/
theorem State.openRegion_leaves (s : State) (ts : Word) : (s.openRegion ts).mem = s.mem ∧
    (s.openRegion ts).core = { s.core with
      tx := some ⟨ts, s.core.pc, s.core.regs, s.core.poison, [], [], [], [], false⟩, txKept := none, ord := (s.openRegion ts).core.ord,
      txRerun := if s.core.txAgain then s.core.txRerun else 0, txRemote := if s.core.txAgain then s.core.txRemote else 0,
      pc := s.core.pc + 4, instret := s.core.instret + 1 } := by
  refine ⟨rfl, ?_⟩
  simp only [State.openRegion, State.retire, State.retireAt_core, State.acquire_core, State.raceRelease_core, State.setCore_core]
  split <;> rfl

/-- With nothing outstanding, no handle awaited and no timestamp kept, tbegin opens a region at the timestamp that it reads (R341). -/
theorem exec_tbegin (free : Says.Free s) (loads : s.core.loads = []) (stores : s.core.stores = []) (recs : ∀ r ∈ s.core.recs, r.dest = 0)
    (kept : s.core.txKept = none) (reads : Says.Reads s [a] [w] s1) : exec (.tbegin a) s = .next (s1.openRegion w) := by
  have quiet : ¬((!s.core.quiet) = true ∨ (s.core.recs.any fun r => r.dest ≠ 0 ∧ !r.mbx) = true) := by
    simp +contextual [Core.quiet, loads, stores, recs]
  have issued : exec (.tbegin a) s = _ := congrArg Host.Outcome.next (State.unsafeIssue_free _ free.1 free.2)
  simp only [if_neg quiet, kept, Option.filter_none, State.withRegs_reads reads] at issued
  exact issued

/-- Settles O11, by whether the core is in a region. -/
theorem regionsOpen : Obligations.RegionsOpen := by
  unfold Obligations.RegionsOpen
  refine ⟨fun a s w s1 free loads stores recs kept reads => ?_, fun s code free => ⟨?_, ?_⟩, fun d s s2 clear put => ?_⟩
  · have frame := reads_frame reads
    obtain ⟨mem, core⟩ := s1.openRegion_leaves w
    refine ⟨_, exec_tbegin free loads stores recs kept reads, mem.trans frame.mem, core.trans ?_⟩
    rw [show (Says.goesOn s1 s1).core = _ from State.retireAt_core ..]
  · have issued : exec .tcommit s = _ := congrArg Host.Outcome.next (State.issue_clear _ free.1)
    simp only [free.2] at issued
    exact issued
  · have issued : exec (.tabort code) s = _ := congrArg Host.Outcome.next (State.issue_clear _ free.1)
    simp only [free.2] at issued
    exact issued
  · have issued : exec (.tstamp d) s = _ := congrArg Host.Outcome.next (State.issue_clear _ clear)
    rw [issued]
    exact congrArg Host.Outcome.next (State.finish_ok put)

/-! ## Committing (R341) -/

/-- What is read only stays whatever is written, once or twice. -/
theorem keepRo_self (k : Nat) (m : Byte) : keepRo k m m = m := by
  rw [keepRo]
  ext i hi
  simp
  grind

theorem keepRo_keepRo (k : Nat) (m v w : Byte) : keepRo k (keepRo k m v) w = keepRo k m w := by
  simp only [keepRo]
  ext i hi
  simp
  grind

/-- The latest store of a list that reaches a byte decides. -/
theorem byteFrom_cons (st : StoreOp) (l : List StoreOp) (k : Nat) : byteFrom (st :: l) k = (byteFrom l k).or (byteFrom [st] k) := by
  simp [byteFrom, List.reverse_cons, List.findSome?_append]

theorem byteUnder_cons (st : StoreOp) (l : List StoreOp) (k : Nat) (m : Byte) :
    byteUnder (st :: l) k m = byteUnder l k (byteUnder [st] k m) := by
  rw [byteUnder, byteUnder, byteFrom_cons]
  cases byteFrom l k with
  | none => simp [byteUnder, keepRo_self]
  | some v => rw [byteUnder, keepRo_keepRo]; rfl

/-- A store of this module's memory, seen as a store of its bytes. -/
theorem byteUnder_singleton {st : StoreOp} (local_ : st.isRemote = false) (k : Nat) (m : Byte) : byteUnder [st] k m =
    if st.home ≤ k ∧ k < st.home + st.bytes.length then keepRo k m (st.bytes.getD (k - st.home) 0) else m := by
  simp only [byteUnder, byteFrom, List.reverse_singleton, List.findSome?_singleton, local_, Bool.not_false, Bool.true_and,
    decide_eq_true_eq]
  split
  next inside =>
    have : k - st.home < st.bytes.length := by omega
    simp [this]
  next => exact keepRo_self k m

@[simp] theorem State.commitStores_cons (s : State) (st : StoreOp) (l : List StoreOp) : s.commitStores (st :: l) =
    ((st.mark.elim s fun sh => s.raceLeave st.home st.bytes.length sh).writeAs (some s.cur) st.home st.bytes).commitStores l := by
  rw [State.commitStores]
  cases st.mark <;> rfl

/-- One held store of this module's memory becomes visible. -/
theorem writeAs_byteUnder {st : StoreOp} (local_ : st.isRemote = false) (wf : Memory.wf s = true) (b : Option (Fin 64)) (k : Nat) :
    memGet (s.writeAs b st.home st.bytes).mem k = byteUnder [st] k (memGet s.mem k) := by
  rw [byteUnder_singleton local_]
  exact stored_of_mem (s1 := s.writeAs b st.home st.bytes) wf rfl k

/-- All held stores become visible, the latest over the others (R341). -/
theorem memGet_commitStores (local_ : ∀ st ∈ l, st.isRemote = false) (wf : Memory.wf s = true) (k : Nat) :
    memGet (s.commitStores l).mem k = byteUnder l k (memGet s.mem k) := by
  induction l generalizing s with
  | nil => exact (keepRo_self k _).symm
  | cons st l ih =>
    have marked : (st.mark.elim s fun sh => s.raceLeave st.home st.bytes.length sh).mem = s.mem := by cases st.mark <;> rfl
    have wf1 : Memory.wf (st.mark.elim s fun sh => s.raceLeave st.home st.bytes.length sh) = true := by rw [Memory.wf, marked]; exact wf
    rw [State.commitStores_cons, ih (fun o ho => local_ o (List.mem_cons_of_mem _ ho)) (State.writeAs_wf _ _ _ wf1),
      writeAs_byteUnder (local_ st List.mem_cons_self) wf1, marked, ← byteUnder_cons]

theorem State.commitStores_core (s : State) (l : List StoreOp) : (s.commitStores l).core = s.core ∧ (s.commitStores l).cur = s.cur := by
  induction l generalizing s with
  | nil => exact ⟨rfl, rfl⟩
  | cons st l ih =>
    rw [State.commitStores_cons]
    refine ⟨(ih _).1.trans ?_, (ih _).2.trans ?_⟩ <;> cases st.mark
    · exact State.writeNear_own_core s ..
    · exact State.writeNear_own_core (s.raceLeave ..) ..
    · rfl
    · rfl

theorem State.sendHeld_core (s : State) (l : List (Nat × Option Word)) : (s.sendHeld l).core = s.core := by
  induction l generalizing s with
  | nil => rfl
  | cons f l ih =>
    obtain ⟨n, _ | w⟩ := f
    · exact ih s
    · refine (ih _).trans ?_
      unfold State.sendFlit
      split <;> rfl

/-- Credits that go back change of the core its mailboxes alone. -/
theorem State.creditTaken_core (s : State) (l : List (Fin 4)) :
    (s.creditTaken l).core = { s.core with mb := (s.creditTaken l).core.mb } := by
  induction l generalizing s with
  | nil => rfl
  | cons n l ih =>
    have given (m : List Word) (desc : Word) (u : State) : (m.foldl (fun s _ => s.giveCredit n desc) u).core = u.core := by
      induction m generalizing u with
      | nil => rfl
      | cons _ m ihm => exact (ihm _).trans (State.giveCredit_core ..)
    simp only [State.creditTaken]
    rw [ih, State.setCore_core, given]

/-- The state in which the acting core's region is closed, with nothing of it visible yet. -/
def State.closeRegion (s : State) : State :=
  s.setCore { s.core with tx := none, txAgain := false, txRemote := 0, txKept := none }

/-- Settles O12: what is left when the held stores have become visible differs from the core before in what the region was. -/
theorem regionsCommit : Obligations.RegionsCommit := by
  unfold Obligations.RegionsCommit
  intro s x clear open_ loads stores wf sound held
  have issued : exec .tcommit s = _ := congrArg Host.Outcome.next (State.issue_clear _ clear)
  simp only [open_] at issued
  refine ⟨fun first => ?_, fun ⟨o, mem, earlier⟩ => ?_⟩
  · have waits : ¬((s.otherRegions.any fun o => decide (txOrder o.1 o.2 < txOrder s.cur.val x)) = true ∨ s.core.loads ≠ []) := by
      simpa [loads] using first
    have near : ¬(x.held.any (·.isRemote)) = true := by simpa using fun st hst => (held st hst).1
    rw [if_neg waits, if_neg near, if_neg (not_not.2 stores), if_neg (by simp [sound])] at issued
    have core := State.creditTaken_core ((s.closeRegion.commitStores x.held).sendHeld x.flits) (List.finRange 4)
    rw [State.sendHeld_core, (State.commitStores_core ..).1, State.closeRegion, State.setCore_core] at core
    refine ⟨_, issued, ?_, ?_, ?_, fun k => ?_⟩
    · rw [State.retire, State.retireAt_core, State.acquire_core, State.raceRelease_core, core]
    · rw [State.retire, State.retireAt_core, State.acquire_core, State.raceRelease_core, core]
    · rw [State.retire, State.retireAt_core, State.acquire_core, State.raceRelease_core, core]
    · rw [State.retire, State.retireAt_mem, State.acquire_mem, State.raceRelease_mem, State.creditTaken_mem, State.sendHeld_mem]
      exact memGet_commitStores (s := s.closeRegion) (fun st hst => (held st hst).1) wf k
  · rw [if_pos (.inl (List.any_eq_true.2 ⟨o, mem, decide_eq_true earlier⟩))] at issued
    exact issued

/-! ## UNSAFE (R344)

Against O13 stands HVC_RESET at a core that a double trap has halted: it is then the supervisor's reset (R372) and heeds no region. The
core of `haltedInRegion` belongs to no partition, so that the reset leaves the state as it is, and the region open. -/

/-- A core halted by a double trap, with a region open. -/
def haltedInRegion : State :=
  { State.reset with cores := State.reset.cores.set 0 { Core.reset 0 with
      run := .double, tx := some ⟨0, 0, Vector.replicate 32 0, Vector.replicate 32 none, [], [], [], [], false⟩ } }

/-- A step leaves the acting core with an open region. -/
def openAfter : Out → Bool
  | .next s => s.core.tx.isSome
  | _ => false

/-- Refutes O13: HVC_RESET at `haltedInRegion` leaves the region open, where the statement has it aborted. -/
theorem not_regionsAbort : ¬ Obligations.RegionsAbort := by
  unfold Obligations.RegionsAbort
  rintro ⟨-, unsafe_⟩
  have aborts := unsafe_ .hvcReset _ haltedInRegion _ rfl rfl rfl (.inr (.inl ⟨by decide, fun _ _ => nofun⟩))
  exact absurd (congrArg openAfter aborts) (by decide)

end Sys2Proof.Machine
end

section
/-! The proof of O8: atomics as they leave the core, and at their home. -/

namespace Sys2Proof.Machine

variable {s s1 s2 s3 : State} {i : Instr} {d a b : Reg} {c : BitVec 3} {o : BitVec 2} {n : BitVec 4} {f : Word → Word → Word → Option Word}
  {x y e w : Word} {home k : Nat} {q : Rmw}

/-! ## The ten operations (R337) -/

/-- Each atomic is the one atomic of its row's sub. -/
theorem exec_atomic (h : Says.atomicOf i = some (d, a, b, c, o, n, f)) (s : State) : exec i s = .next (s.atomic n d a b c o) := by
  unfold Says.atomicOf at h
  split at h
  all_goals cases h
  all_goals rfl

/-- And its new value is its row's. -/
theorem atomicNew_of (h : Says.atomicOf i = some (d, a, b, c, o, n, f)) (t x e : Word) : atomicNew n t x e = f t x e := by
  unfold Says.atomicOf at h
  split at h
  all_goals cases h
  case h_1 => exact congrArg some (ofNat_toNat_add t x).symm
  case h_5 | h_6 | h_7 | h_8 => simp [atomicNew, Says.pick, BitVec.sle, BitVec.ule]
  all_goals rfl

/-! ## Leaving the core (R338, R339) -/

theorem State.fenceWaits_quiet (loads : s.core.loads = []) (stores : s.core.stores = []) (c : BitVec 3) (k : BitVec 2) :
    s.fenceWaits c k = false := by
  simp [State.fenceWaits, loads, stores]

/-- With the detector off an access is neither checked nor marked (R349). -/
theorem State.coreCheck_off (off : s.core.cmode = false) (ea : Word) (home n : Nat) (write : Bool) (atom : Option (BitVec 3)) :
    s.coreCheck ea home n write atom = some s := by
  simp [State.coreCheck, off]

theorem State.coreMark_off (off : s.core.cmode = false) (home n : Nat) (atom : Option (BitVec 3)) : s.coreMark home n atom = none := by
  simp [State.coreMark, off]

/-- Outside a region, with the detector off, nothing acquiring, room, and with the accesses before a release performed, an atomic whose
place is found leaves the core, behind its release (R333). -/
theorem State.atomic_leaves (free : Says.Free s) (mode : s.core.cmode = false) (acq : s.core.acquiring = false)
    (loads : d ≠ 0 → s.core.loads.length < 16) (stores : d = 0 → s.core.stores.length < 32)
    (before : ordRel o = true → s.core.loads = [] ∧ s.core.stores = []) (reads : Says.Reads s [a, b, d] [x, y, e] s1)
    (reserved : s1.reserve d = .ok w s2) (located : s2.locate x 8 .both = .at_ home s3) (alone : s3.core.pendingOn home 8 = false) :
    ∃ clocks, s.atomic n d a b c o =
      State.retire ({ s3 with clocks }.setCore (s3.core.pushAtomic d x home false none ⟨n, y, e, c, o⟩ none)) := by
  have room : ¬(s.core.acquiring = true ∨ d ≠ 0 ∧ s.core.loads.length ≥ 16 ∨ d = 0 ∧ s.core.tx.isNone = true ∧ s.core.stores.length ≥ 32) := by
    grind
  have ready : ¬((ordRel o = true ∧ s.fenceWaits c 2 = true) ∨ s3.core.pendingOn home 8 = true) := by
    rintro (⟨rel, waits⟩ | on)
    · rw [State.fenceWaits_quiet (before rel).1 (before rel).2] at waits
      cases waits
    · rw [alone] at on
      cases on
  have off : s3.core.cmode = false := by
    rw [(locate_cores located).1, ((reads_frame reads).trans (State.reserve_frame reserved)).cmode, mode]
  rw [State.atomic, State.issue_reads free.1 reads]
  simp only [List.getD_cons_zero, List.getD_cons_succ]
  rw [if_neg room, reserved]
  dsimp only
  rw [located]
  dsimp only
  rw [free.2]
  dsimp only
  rw [if_neg ready]
  by_cases rel : ordRel o = true
  · have off' : (s3.raceRelease (.core s3.cur) c).core.cmode = false := off
    simp only [if_pos rel, State.coreCheck_off off', State.coreMark_off off']
    exact ⟨_, rfl⟩
  · simp only [if_neg rel, State.coreCheck_off off, State.coreMark_off off]
    exact ⟨s3.clocks, rfl⟩

/-- An atomic without a destination joins the outstanding stores, one with a destination the outstanding loads (R339). -/
theorem pushAtomic_zero (s : State) : s.setCore (s.core.pushAtomic 0 x home false none q none) = Says.withStore s
    ⟨x, home, [], false, none, some q, ordAcq q.ord && q.scope != 0, false, none, none⟩ := rfl

theorem pushAtomic_register (hd : d ≠ 0) (tx : s.core.tx = none) :
    s.setCore (s.core.pushAtomic d x home false none q none) = Says.withLoad s { Says.leaving s d x home 8 false 0 with
      acq := ordAcq q.ord && q.scope != 0, how := .atomic, rmw := some q } := by
  rw [Core.pushAtomic, if_neg hd, pushLoad_eq_withLoad tx]
  rfl

@[simp] theorem Core.pushAtomic_pc (k : Core) (d : Reg) (x : Word) (home : Nat) (q : Rmw) : (k.pushAtomic d x home false none q none).pc = k.pc := by
  unfold Core.pushAtomic
  dsimp only
  split
  · rfl
  · exact Core.pushLoad_pc ..

/-! ## At its home (R337, R338) -/

/-- An atomic that the detector does not check is performed: it gives the dword, and of the state it changes that dword's bytes, the
other cores' regions, and what the core may still read (R332). -/
theorem State.performRmw_leaves (s : State) (home : Nat) (q : Rmw) : ∃ u,
    s.performRmw home q false none = (memDword s.mem home, u) ∧ u.core = { s.core with ord := u.core.ord } ∧
    u.mem = ((atomicNew q.op (memDword s.mem home) q.b q.e).elim s.mem fun v => memSets s.mem home (keepRos s.mem home (leBytes 8 v.toNat))) ∧
    u.bins = s.bins ∧ u.regions = s.regions ∧ u.tiles = s.tiles ∧ u.parts = s.parts := by
  have unseen : s.coreSee false home 8 = s := rfl
  obtain ⟨ord, read⟩ : ∃ ord, (s.reads home).rmwAcquires home q false = s.setCore { s.core with ord } := by
    unfold State.rmwAcquires
    split
    · exact ⟨_, rfl⟩
    · simp only [State.reads, State.setCore_core, State.setCore_setCore, Bool.false_and, Bool.false_eq_true, if_false]
      exact ⟨_, rfl⟩
  simp only [State.performRmw, unseen, read]
  cases atomicNew q.op (memDword s.mem home) q.b q.e with
  | none => exact ⟨_, rfl, by simp, rfl, rfl, rfl, rfl, rfl⟩
  | some v =>
    have own := State.writeNear_own_core (s.setCore { s.core with ord }) none home (keepRos s.mem home (leBytes 8 v.toNat))
    rw [State.setCore_core] at own
    refine ⟨_, rfl, own.trans ?_, rfl, rfl, rfl, rfl, rfl⟩
    exact congrArg (fun k : Core => { s.core with ord := k.ord }) own.symm

/-- A dword is its eight bytes, least significant first (R6). -/
theorem memDword_eq_littleEndian (m : List Host.Cell) (home : Nat) :
    memDword m home = BitVec.ofNat 64 (Says.littleEndian (fun k => memGet m (home + k)) 8) := by
  rw [memDword, memGets_eq_map, leNat_map_range]

/-- What memory holds once an atomic has been performed, in the manual's terms (R337, R338). -/
theorem stored_of_rmw (u : State) (wf : Memory.wf s = true) (v : Option Word) :
    u.mem = (v.elim s.mem fun v => memSets s.mem home (keepRos s.mem home (leBytes 8 v.toNat))) →
    match v with
    | some v => Says.Stored s u home (Says.bytesOf v 8)
    | none => u.mem = s.mem := by
  intro h
  cases v with
  | none => exact h
  | some v => exact stored_of_mem wf (by rw [h, Option.elim_some, leBytes_toNat])

/-- An atomic on its way back takes its value at its home, and its destination has it (R338, R339). -/
theorem State.performLoad_rmw {l : LoadOp} (load : s.core.loads[k]? = some l) (val : l.val = none) (here : l.isRemote = false)
    (rmw : l.rmw = some q) (check : l.check = false) :
    s.performLoad k = let r := s.performRmw l.home q false none
      r.2.setCore { r.2.core with loads := r.2.core.loads.modify k fun l => { l with val := some r.1 } } := by
  unfold State.performLoad
  rw [load]
  simp only [val, here, rmw, check]
  rfl

/-- Its old value is what comes back to a register. -/
theorem exec_loadReply_rmw {l : LoadOp} {u : State} (h : Returns s k l) (data : s.input.load = .data) (mbx : l.mbx = false) (val : l.val = none)
    (rmw : l.rmw = some q) (check : l.check = false)
    (before : ∀ j ∈ loadsBefore s.core.loads (fun _ => true) [(l.home, l.size)] k, ∀ p, s.core.loads[j]? = some p → p.val.isSome = true)
    (dest : l.dest ≠ 0) (performed : s.performRmw l.home q false none = (w, u)) (loads : u.core.loads = s.core.loads) :
    exec .loadReply s = .next (u.setCore { u.core with
      loads := s.core.loads.eraseIdx k, regs := u.core.regs.set l.dest.toNat w l.dest.isLt,
      poison := u.core.poison.set l.dest.toNat none l.dest.isLt, ord := u.core.ord.wrote l.dest }) := by
  obtain ⟨load, index, here, running, granted⟩ := h
  have taken := State.performLoad_rmw load val here rmw check
  have erased : (s.core.loads.modify k fun x => { x with val := some w }).eraseIdx k = s.core.loads.eraseIdx k :=
    List.eraseIdx_modify_of_eq ..
  show execLoadReply s = _
  simp only [execLoadReply, index, load, running, granted, data, here, mbx, State.performTo_eq load before, taken, performed, loads, erased,
    State.setCore_core, State.setCore_setCore, List.getElem?_modify_eq, Bool.not_true, Bool.and_false, Bool.false_eq_true, if_false]
  simp only [State.deliver, if_neg dest, Bool.false_eq_true, if_false, State.setCore_core, State.setCore_setCore]
  rfl

/-- Settles O8, by the atomic's issue and then its performance at its home. -/
theorem atomicResults : Obligations.AtomicResults := by
  unfold Obligations.AtomicResults
  refine ⟨fun i d a b c o n f hi s x y e s1 s2 s3 home free mode acq loads stores before reads reserved located alone => ?_,
    fun i d a b c o n f hi s y e home wf noTx running => ⟨fun k l load index here mbx val rmw check at_ dest granted done data => ?_,
      fun k x store index here mark rmw at_ via granted near loads => ?_⟩⟩
  · obtain ⟨clocks, leaves⟩ := State.atomic_leaves (n := n) free mode acq loads stores before reads reserved located alone
    have tx : s3.core.tx = none := by
      rw [(locate_cores located).2, ((reads_frame reads).trans (State.reserve_frame reserved)).tx, free.2]
    have cores (K : Core) : (State.retire ({ s3 with clocks }.setCore K)).cores = (s3.setCore K).retire.cores := rfl
    refine ⟨_, (exec_atomic hi s).trans (congrArg _ leaves), rfl, fun hd => ?_, fun hd => ?_⟩
    · rw [cores, ← goesOn_setCore (Core.pushAtomic_pc ..), pushAtomic_register hd tx]
      rfl
    · subst hd
      rw [cores, ← goesOn_setCore (Core.pushAtomic_pc ..), pushAtomic_zero]
      rfl
  · subst at_
    have returns : Returns s k l := ⟨load, index, here, running, granted⟩
    obtain ⟨u, performed, core, mem, bins, regions, tiles, parts⟩ := s.performRmw_leaves l.home ⟨n, y, e, c, o⟩
    have loads : u.core.loads = s.core.loads := by rw [core]
    have replied := exec_loadReply_rmw returns data mbx val rmw check done dest performed loads
    refine ⟨_, replied, ?_, ?_, ?_, bins, regions, tiles, parts⟩
    · rw [Says.reg, State.setCore_core, Vector.getElem_set_self, memDword_eq_littleEndian]
    · rw [State.setCore_core]
    · rw [← memDword_eq_littleEndian, ← atomicNew_of hi]
      exact stored_of_rmw _ wf _ mem
  · subst at_
    obtain ⟨u, performed, core, mem, bins, regions, tiles, parts⟩ := (s.setCore (s.core.dropStore k)).performRmw_leaves x.home ⟨n, y, e, c, o⟩
    have complete : s.performStore k x = u := by
      simp only [State.performStore, State.performBefore, here, rmw, mark, loads, List.length_nil, loadsBefore, List.foldl_nil,
        Bool.false_eq_true, if_false, Option.isSome_none, performed]
    rw [exec_storePerformed_plain store index running via granted near, complete]
    refine ⟨_, rfl, ?_, ?_, ?_, bins, regions, tiles, parts⟩
    · rw [core, State.setCore_core]; rfl
    · rw [core, State.setCore_core]; rfl
    · rw [← memDword_eq_littleEndian, ← atomicNew_of hi]
      exact stored_of_rmw _ wf _ mem

end Sys2Proof.Machine
end

section
/-! The proof of O54: what each logit word writes, and how a run starts and ends. -/

namespace Sys2Proof.Machine

variable {s : State} {c : Ctx} {i : Instr} {d a b : BitVec 3}

/-! ## Words of a run (R415, R417 to R420) -/

/-- A run executes its word (R415, R422). -/
theorem State.logit_of_runs (runs : Says.Runs s c) (k : Ctx → State → State) : s.logit k = k c s :=
  State.logit_runs runs.1 runs.2.1 runs.2.2 k

/-- The words that write a vector register (R418, R419). -/
theorem exec_vectorLogit {g : State → Ctx → List W48} (h : Says.vectorLogit i = some (d, g)) (runs : Says.Runs s c) :
    exec i s = .next (Says.onWord s { c with v := c.v.set d.toNat (g s c) d.isLt }) := by
  have writes {f : State → Ctx → List W48} (he : exec i s = .next (s.logitV d f)) (hf : f s c = g s c) :
      exec i s = .next (Says.onWord s { c with v := c.v.set d.toNat (g s c) d.isLt }) := by
    rw [he, State.logitV, State.logit_of_runs runs, hf]
    rfl
  unfold Says.vectorLogit at h
  split at h
  all_goals cases h
  case h_8 a b => exact writes rfl (if_congr (by simp [Says.sreg, Ctx.sr]) rfl rfl)
  all_goals exact writes rfl rfl

/-- The words that write a scalar register (R417). -/
theorem exec_scalarLogit {g : State → Ctx → W48} (h : Says.scalarLogit i = some (d, g)) (runs : Says.Runs s c) :
    exec i s = .next (Says.onWord s { c with s := c.s.set d.toNat (g s c) d.isLt }) := by
  have writes {f : State → Ctx → W48} (he : exec i s = .next (s.logitS d f)) (hf : f s c = g s c) :
      exec i s = .next (Says.onWord s { c with s := c.s.set d.toNat (g s c) d.isLt }) := by
    rw [he, State.logitS, State.logit_of_runs runs, hf]
    rfl
  unfold Says.scalarLogit at h
  split at h
  all_goals cases h
  case h_3 a =>
    refine writes rfl ?_
    change _ = match idOf (c.sr a) c.logits.length with
      | some x => match s.countOf c x with
        | some n => wOfInt n
        | none => wZero false
      | none => wZero false
    cases idOf (c.sr a) c.logits.length <;> rfl
  all_goals exact writes rfl rfl

/-! ## bias, draw, branches (R417, R418, R420) -/

/-- The dense table's address is the low 57 bits of DADDR (R409). -/
theorem extractLsb'_zero_57 (w : Word) : (w.extractLsb' 0 57).toNat = w.toNat % 2 ^ 57 := by
  rw [BitVec.extractLsb'_toNat, Nat.shiftRight_zero]

theorem exec_bias_sparse (runs : Says.Runs s c) (d a : BitVec 3) (sparse : (memDword s.mem (larderAt c.slot + 24)).getLsbD 19 = false) :
    exec (.bias d a) s = .next (Says.onWord s
      { c with v := c.v.set d.toNat ((Says.vreg c a).mapIdx fun i x =>
        wAdd x ((s.biasOf c i).getD (wZero false)) rNE) d.isLt }) := by
  have run : exec (.bias d a) s = _ := congrArg Host.Outcome.next (State.logit_of_runs runs _)
  rw [run, State.lard, sparse]
  rfl

theorem exec_bias_dense (runs : Says.Runs s c) (d a : BitVec 3) {bs : List Byte} (dense : (memDword s.mem (larderAt c.slot + 24)).getLsbD 19 = true)
    (read : s.readV ((s.cores[c.core].part).getD 0) [.vault] ((memDword s.mem (larderAt c.slot + 32)).toNat % 2 ^ 57)
      (2 * (Says.vreg c a).length) = .ok bs) :
    exec (.bias d a) s = .next (Says.onWord s
      { c with v := c.v.set d.toNat ((Says.vreg c a).mapIdx fun i x =>
        wAdd x ((decodeElem 0x02 false rNE (leNat ((bs.drop (2 * i)).take 2))).setWidth 48) rNE) d.isLt }) := by
  have run : exec (.bias d a) s = _ := congrArg Host.Outcome.next (State.logit_of_runs runs _)
  rw [← extractLsb'_zero_57] at read
  have read' : s.readV ((s.cores[c.core].part).getD 0) [.vault] ((s.lard c 32).extractLsb' 0 57).toNat (2 * (c.vr a).length) = .ok bs := read
  rw [run, State.lard, dense]
  dsimp only
  rw [if_pos rfl, read']
  rfl

theorem exec_emit (runs : Says.Runs s c) (a : BitVec 3) : exec (.emit a) s = .next (Says.onWord s
    { c with out := if c.out.isSome then c.out else idOf (Says.sreg c a) c.logits.length }) := by
  have run : exec (.emit a) s = _ := congrArg Host.Outcome.next (State.logit_of_runs runs _)
  rw [run]
  cases out : c.out <;> rfl

theorem exec_brz (runs : Says.Runs s c) (a : BitVec 3) (i : BitVec 14) : exec (.brz a i) s = .next
    (if isZeroW (Says.sreg c a) then s.setCtx (some (c.jump i)) else Says.onWord s c) := by
  have run : exec (.brz a i) s = _ := congrArg Host.Outcome.next (State.logit_of_runs runs _)
  rw [run, apply_ite some, apply_ite s.setCtx]
  rfl

theorem exec_brnz (runs : Says.Runs s c) (a : BitVec 3) (i : BitVec 14) : exec (.brnz a i) s = .next
    (if isZeroW (Says.sreg c a) then Says.onWord s c else s.setCtx (some (c.jump i))) := by
  have run : exec (.brnz a i) s = _ := congrArg Host.Outcome.next (State.logit_of_runs runs _)
  rw [run, apply_ite some, apply_ite s.setCtx]
  rfl

/-! ## The end of a run (R407, R415, R421) -/

/-- A draw counts a step and keeps its id, and one that finds the table full says so (R410, R420). -/
theorem State.record_step (s : State) (c : Ctx) (x : Nat) : (s.record c x).step = some (s.stepOf c + 1) ∧
    (s.record c x).last = some (BitVec.ofNat 18 x) ∧ (s.probe c x = none → (s.record c x).cfull = true) := by
  unfold State.record
  dsimp only
  split
  · exact ⟨rfl, rfl, fun _ => rfl⟩
  next found => exact ⟨rfl, rfl, fun none => by rw [none] at found; cases found⟩

/-- A token at a sampler that may leave is drained where its region has no output edge there, and else goes into the region (R407). -/
theorem State.smpFlush_leaves {n : Fin 8} {k : Nat} {q : SmpItem} (leaves : s.smpLeaves n [] s.smps[n].items = some q) :
    let s1 := s.onSmp n fun x => { x with items := x.items.erase q }
    (s.smpOutEdge n q.core q.bslot = none → State.smpFlush n (k + 1) s = State.smpFlush n k s1) ∧
    (∀ r e t, s.smpOutEdge n q.core q.bslot = some (r, e) → q.out = some t →
      State.smpFlush n (k + 1) s = State.smpFlush n k (s1.inject r e.id t)) := by
  refine ⟨fun drained => ?_, fun r e t edge out => ?_⟩
  · simp only [State.smpFlush, leaves, drained]
  · simp only [State.smpFlush, leaves, edge, out]

/-- A little-endian number is below the power of its length, and its low bytes are those of its first part. -/
theorem littleEndian_mod (f : Nat → Byte) (n k : Nat) : Says.littleEndian f (n + k) % 256 ^ n = Says.littleEndian f n := by
  have below (n : Nat) : Says.littleEndian f n < 256 ^ n := by
    induction n with
    | zero => simp [Says.littleEndian]
    | succ n ih => rw [Says.littleEndian, Nat.pow_succ]; have := (f n).isLt; nlinarith
  induction k with
  | zero => exact Nat.mod_eq_of_lt (below n)
  | succ k ih => rw [← Nat.add_assoc, Says.littleEndian, Nat.pow_add, Nat.mul_left_comm, Nat.add_mul_mod_self_left, ih]

/-- The low bytes of a dword of memory. -/
theorem memDword_low (m : List Host.Cell) (a n : Nat) (short : n ≤ 8) : (memDword m a).toNat % 256 ^ n = leNat (memGets m a n) := by
  obtain ⟨k, whole⟩ := Nat.exists_eq_add_of_le short
  have fits := littleEndian_mod (fun k => memGet m (a + k)) 8 0
  rw [memDword_eq_littleEndian, BitVec.toNat_ofNat, show (2 : Nat) ^ 64 = 256 ^ 8 from rfl, fits, whole, littleEndian_mod,
    memGets_eq_map, leNat_map_range]

/-- With nothing else held a run's end writes STEP alone (R409, R415). -/
theorem State.halted_step {n : BitVec 32} (last : c.held.last = none) (counts : c.held.counts = []) (params : c.held.params = [])
    (step : c.held.step = some n) : (s.halted c).mem = memSets s.mem (larderAt c.slot + 8) (leBytes 4 n.toNat) := by
  simp only [State.halted, last, counts, params, step, List.foldl_nil]
  rfl

/-! ## The start of a run (R406, R422) -/

/-- The context of a run that starts (R406, R415). -/
def SmpItem.starts (q : SmpItem) (b : LBind) (v : Nat) : Ctx :=
  ⟨q.core, q.bslot, q.seq, q.iter, q.slot, b.pslot, q.logits v, Vector.replicate 8 (List.replicate v (wZero false)),
    Vector.replicate 8 (wZero false), 0, ⟨[], [], none, none, false⟩, none, 0⟩

/-- The run's logits are those of its set. -/
theorem SmpItem.starts_logits (q : SmpItem) (b : LBind) (v : Nat) : (q.starts b v).logits = q.logits v := by
  rw [SmpItem.starts]

/-- The context that a sampler is given. -/
theorem State.onSmp_ctx {n : Fin 8} {j : Fin 2} {v : Option Ctx} {f : Sampler → List SmpItem} :
    (s.onSmp n fun x => { x with ctx := x.ctx.set j.val v j.isLt, items := f x }).smps[n].ctx[j] = v := by
  simp [State.onSmp]

section
variable {q : SmpItem} {j : Fin 2} {b : LBind} {u : State} (flushed : State.smpFlush s.smp s.smps[s.smp].items.length s = u)
  (next : nextRun u.smps[s.smp].items = some q)
  (free : (List.finRange 2).find? (fun i => u.smps[s.smp].ctx[i].isNone && u.smps[s.smp].parked[i].isNone) = some j)
  (bind : u.lbind q.slot = some b)
include flushed next free bind

/-- A sampler that serves another partition starts nothing (R422). -/
theorem exec_samplerRunStart_busy (busy : u.smpBusy s.smp b.part = true) : exec .samplerRunStart s = .next u := by
  change execSamplerRunStart s = _
  unfold execSamplerRunStart
  simp only [flushed, next, free, bind]
  exact if_pos (.inr (.inr (.inl busy)))

/-- A run in header order starts in a free context (R406, R422). -/
theorem exec_samplerRunStart (whole : q.need ≤ q.toks.length)
    (alone : ∀ j : Fin 2, ∀ c, u.smps[s.smp].ctx[j] = some c → c.slot ≠ q.slot)
    (quiet : u.smpBusy s.smp b.part = false) (running : (u.part b.part).pre = .running) :
    exec .samplerRunStart s = .next (u.onSmp s.smp fun x =>
      { x with ctx := x.ctx.set j.val (some (q.starts b (u.vocab q.slot))) j.isLt,
               items := updFirst (· == q) (fun q => { q with ctx := some j }) x.items }) := by
  change execSamplerRunStart s = _
  unfold execSamplerRunStart
  simp only [flushed, next, free, bind]
  refine if_neg ?_
  rintro (part | busy | other | stopped)
  · omega
  · obtain ⟨j, -, same⟩ := List.any_eq_true.mp busy
    cases held : u.smps[s.smp].ctx[j] with
    | none =>
      rw [held] at same
      cases same
    | some c =>
      rw [held] at same
      exact alone j c held (eq_of_beq same)
  · rw [quiet] at other
    cases other
  · exact stopped running

/-- What the context of the started run is, and that memory is kept (R406, R415). -/
theorem exec_samplerRunStart_starts (whole : q.need ≤ q.toks.length)
    (alone : ∀ j : Fin 2, ∀ c, u.smps[s.smp].ctx[j] = some c → c.slot ≠ q.slot) (running : (u.part b.part).pre = .running)
    (quiet : u.smpBusy s.smp b.part = false) :
    ∃ (t : State) (c : Ctx), exec .samplerRunStart s = .next t ∧ t.smps[s.smp].ctx[j] = some c ∧ c.pc = 0 ∧ c.count = 0 ∧
      c.slot = q.slot ∧ c.pslot = b.pslot ∧ c.logits = q.logits (u.vocab q.slot) ∧ t.mem = u.mem :=
  ⟨_, q.starts b (u.vocab q.slot), exec_samplerRunStart flushed next free bind whole alone quiet running,
    State.onSmp_ctx (f := fun x => updFirst (· == q) (fun q => { q with ctx := some j }) x.items), rfl, rfl, rfl, rfl,
    q.starts_logits b _, rfl⟩

end

/-- Settles O54, by the instruction's form. -/
theorem logitInstructions : Obligations.LogitInstructions := by
  unfold Obligations.LogitInstructions
  refine ⟨fun i d g h s c => exec_vectorLogit h, fun i d g h s c => exec_scalarLogit h, fun s c runs =>
    ⟨fun d a => exec_bias_sparse runs d a, fun d a bs => exec_bias_dense runs d a, fun d a => ?_, fun a => exec_emit runs a, fun a i => ?_,
      fun i => ⟨?_, fun a => exec_brz runs a i, fun a => exec_brnz runs a i⟩, ?_⟩,
    fun n k s q => State.smpFlush_leaves, State.record_step, fun s c wf last counts params n step => ?_, fun s q i b => ?_⟩
  · exact congrArg Host.Outcome.next (State.logit_of_runs runs _)
  · exact congrArg Host.Outcome.next (State.logit_of_runs runs _)
  · exact congrArg Host.Outcome.next (State.logit_of_runs runs _)
  · have run : exec .halt s = _ := congrArg Host.Outcome.next (State.logit_of_runs runs _)
    rw [run]
    cases out : c.out <;> simp only [State.endRun, out] <;> rfl
  · have written : memGets (memSets s.mem (larderAt c.slot + 8) (leBytes 4 n.toNat)) (larderAt c.slot + 8) 4 = leBytes 4 n.toNat :=
      memGets_memSets wf
    rw [State.halted_step last counts params step, show (2 : Nat) ^ 32 = 256 ^ 4 from rfl, memDword_low _ _ 4 (by decide), written,
      leNat_leBytes]
    exact Nat.mod_eq_of_lt n.isLt
  · intro s1 x next free bind need alone running
    exact ⟨exec_samplerRunStart_busy rfl next free bind, exec_samplerRunStart_starts rfl next free bind need alone running⟩

end Sys2Proof.Machine
end

section
/-! The proof of O25: the calls of the supervisor. -/

namespace Sys2Proof.Machine

variable {s : State} {p : BitVec 4}

/-! ## Answers in g3 (R379) -/

/-- A call that answers goes on behind the hvc with its value in g3. -/
theorem State.answer_eq (s : State) (w : Word) : s.answer w = Says.goesOn s (s.setCore (s.core.setReg 3 w)) :=
  (goesOn_setCore (Core.setReg_pc ..)).symm

/-- The core that goes on. -/
theorem goesOn_setCore_core (s u : State) (c : Core) :
    (Says.goesOn s (u.setCore c)).core = { c with pc := s.core.pc + 4, instret := c.instret + 1 } := by
  have goes : (Says.goesOn s (u.setCore c)).core = { (u.setCore c).core with pc := s.core.pc + 4, instret := (u.setCore c).core.instret + 1 } :=
    State.setCore_core ..
  rw [goes, State.setCore_core]

/-- A call by a partition's core, nothing in the way. -/
theorem State.hvc_part (free : Says.Free s) (part : s.core.part = some p) (k : BitVec 4 → State → State) : s.hvc k = k p s := by
  rw [State.hvc, State.unsafeIssue_free _ free.1 free.2, part]

/-- A plain g3 is read as it stands. -/
theorem reads_g3 (plain : Says.Plain s 3) : Says.Reads s [3] [Says.reg s 3] s :=
  have ⟨h0, hm, hb, hp⟩ := plain
  reads_one (State.getReg_plain h0 hm hb hp)

/-- A call that reads g3. -/
theorem State.hvc_g3 (free : Says.Free s) (part : s.core.part = some p) (plain : Says.Plain s 3)
    (k : BitVec 4 → State → List Word → State → State) : (s.hvc fun p s => s.withRegs [3] (k p s)) = k p s [Says.reg s 3] s := by
  rw [State.hvc_part free part, State.withRegs_reads (reads_g3 plain)]

section
variable (free : Says.Free s) (part : s.core.part = some p)
include free part

/-! ## INFO, YIELD and NOTICE -/

theorem exec_hvcInfo : exec .hvcInfo s = .next (Says.goesOn s (s.setCore
    ((s.core.setReg 4 (BitVec.ofNat 64 (s.part p).grants.tiles.length)).setReg 3 (Config.supervisorVersion.setWidth 64)))) := by
  have called : exec .hvcInfo s = _ := congrArg Host.Outcome.next (State.hvc_part free part _)
  rw [called, State.answer, State.setCore_core, State.setCore_setCore, goesOn_setCore (by rw [Core.setReg_pc, Core.setReg_pc])]

theorem exec_hvcYield (running : (s.part p).pre = .running) : ∃ (t : State), exec .hvcYield s = .next t ∧
    (t.part p).pre = .requested ∧ t.core.run = .preempted ∧ t.core.pc = s.core.pc + 4 ∧ t.core.regs = s.core.regs.set 3 0 ∧
    t.mem = s.mem := by
  have called : exec .hvcYield s = _ := congrArg Host.Outcome.next (State.hvc_part free part _)
  refine ⟨_, called, ?_, ?_, ?_, ?_, rfl⟩
  · rw [State.setPart_part]
    exact if_pos running
  all_goals rw [State.setPart_core, State.setCore_core]
  · rw [State.answer, State.retire, State.retireAt, State.setCore_core, State.setCore_core, Core.setReg_pc]
  · rw [State.answer, State.retire, State.retireAt, State.setCore_core, State.setCore_core]
    rfl

theorem exec_hvcNotice_none (none : (s.part p).notices = []) :
    exec .hvcNotice s = .next (Says.goesOn s (s.setCore (s.core.setReg 3 0))) := by
  have called : exec .hvcNotice s = _ := congrArg Host.Outcome.next (State.hvc_part free part _)
  rw [called, none]
  exact congrArg _ (State.answer_eq ..)

theorem exec_hvcNotice_some {w : Word} {rest : List Word} (some : (s.part p).notices = w :: rest) :
    exec .hvcNotice s = .next (Says.goesOn s ((s.setPart p { s.part p with notices := rest }).setCore (s.core.setReg 3 w))) := by
  have called : exec .hvcNotice s = _ := congrArg Host.Outcome.next (State.hvc_part free part _)
  rw [called, some]
  exact congrArg _ (State.answer_eq ..)

/-! ## DEBUG (R435) -/

/-- Where the clauses of HVC_DEBUG agree that a nonce is asked for (R435). -/
theorem exec_hvcDebug_nonce (plain : Says.Plain s 3) (vendor : s.vendor = false) (sec : s.sec ≠ .failed) (zero : Says.reg s 3 = 0) :
    ∃ (t : State), exec .hvcDebug s = .next t ∧ (t.part p).nonce = some (Config.nonce s.fresh) ∧
      t.core.regs = s.core.regs.set 3 (Config.nonce s.fresh) ∧ t.core.pc = s.core.pc + 4 ∧ t.mem = s.mem := by
  have called : exec .hvcDebug s = _ := congrArg Host.Outcome.next (State.hvc_g3 free part plain _)
  simp only [List.getD_cons_zero] at called
  rw [if_neg (by simp [vendor, sec]), if_pos zero, State.answer_eq] at called
  refine ⟨_, called, ?_, ?_, ?_, rfl⟩
  · exact congrArg Partition.nonce (State.setPart_part ..)
  · rw [goesOn_setCore_core]
    rfl
  · rw [goesOn_setCore_core]
    rfl

/-- A debug call in the debug state of the module, or with the module failed (R435). -/
theorem exec_hvcDebug_refused (plain : Says.Plain s 3) (refused : s.vendor = true ∨ s.sec = .failed) :
    exec .hvcDebug s = .next (Says.goesOn s (s.setCore (s.core.setReg 3 (BitVec.ofInt 64 (-4))))) := by
  have called : exec .hvcDebug s = _ := congrArg Host.Outcome.next (State.hvc_g3 free part plain _)
  simp only [List.getD_cons_zero] at called
  rw [if_pos refused, State.answer_eq] at called
  exact called

/-- A debug call with a token answers what the token's check says (R435). -/
theorem exec_hvcDebug_token (plain : Says.Plain s 3) (vendor : s.vendor = false) (sec : s.sec ≠ .failed) (token : Says.reg s 3 ≠ 0)
    {n : Int} {accepted : Bool} (check : s.debugToken p (Says.reg s 3).toNat = (n, accepted)) :
    exec .hvcDebug s = .next ((if accepted then s.setPart p { s.part p with nonce := none, debug := true } else s).answer
      (BitVec.ofInt 64 n)) := by
  have called : exec .hvcDebug s = _ := congrArg Host.Outcome.next (State.hvc_g3 free part plain _)
  simp only [List.getD_cons_zero] at called
  rw [if_neg (by simp [vendor, sec]), if_neg token, check] at called
  exact called

/-- A token that is refused changes nothing but g3. -/
theorem exec_hvcDebug_declined (plain : Says.Plain s 3) (vendor : s.vendor = false) (sec : s.sec ≠ .failed) (token : Says.reg s 3 ≠ 0)
    {n : Int} (check : s.debugToken p (Says.reg s 3).toNat = (n, false)) :
    exec .hvcDebug s = .next (Says.goesOn s (s.setCore (s.core.setReg 3 (BitVec.ofInt 64 n)))) := by
  rw [exec_hvcDebug_token free part plain vendor sec token check, if_neg Bool.false_ne_true, State.answer_eq]

end

/-- A token that is at an odd place or cannot be read (R435). -/
theorem State.debugToken_unread {va : Nat} (unread : va % 8 ≠ 0 ∨ ∃ e, s.readCore va 192 = .error e) :
    s.debugToken p va = (-1, false) := by
  unfold State.debugToken
  split
  · rfl
  next aligned =>
    obtain ⟨e, failed⟩ := unread.resolve_left aligned
    rw [failed]

section
variable {va : Nat} {b : List Byte} (aligned : va % 8 = 0) (read : s.readCore va 192 = .ok b)
include aligned read

/-- What makes a token the owner's for this partition and module (R435). -/
def State.tokenSigned (s : State) (p : BitVec 4) (b : List Byte) : Prop :=
  dwAt b 8 = p.setWidth 64 ∧ dirty b 16 78 = false ∧
    ed448 (s.part p).ownerKey (shake256 (b.take 78 ++ edPublic s.deviceSecret) 64) (b.drop 78) = true

theorem State.debugToken_read : s.debugToken p va = if dwAt b 8 ≠ p.setWidth 64 ∨ dirty b 16 78 ∨
    !ed448 (s.part p).ownerKey (shake256 (b.take 78 ++ edPublic s.deviceSecret) 64) (b.drop 78) then (-2, false)
    else if (s.part p).nonce ≠ some (dwAt b 0) then (-3, false) else (0, true) := by
  rw [State.debugToken, if_neg (not_not.mpr aligned), read]

theorem State.debugToken_unsigned (signed : ¬ s.tokenSigned p b) : s.debugToken p va = (-2, false) := by
  rw [State.debugToken_read aligned read]
  refine if_pos ?_
  contrapose! signed
  obtain ⟨own, clean, verified⟩ := signed
  exact ⟨own, by simpa using clean, by simpa using verified⟩

theorem State.debugToken_signed (signed : s.tokenSigned p b) :
    s.debugToken p va = if (s.part p).nonce ≠ some (dwAt b 0) then (-3, false) else (0, true) := by
  obtain ⟨own, clean, verified⟩ := signed
  rw [State.debugToken_read aligned read]
  exact if_neg (by simp [own, clean, verified])

end

/-! ## ATTEST, SWAPMAP, RESET, the spare words -/

section
variable (free : Says.Free s) (part : s.core.part = some p)
include free part

theorem exec_hvcAttest_unread (plain : Says.Plain s 3) {e} (unread : s.readCore (Says.reg s 3).toNat 4096 = .error e) :
    exec .hvcAttest s = .next (Says.goesOn s (s.setCore (s.core.setReg 3 (-1)))) := by
  have called : exec .hvcAttest s = _ := congrArg Host.Outcome.next (State.hvc_g3 free part plain _)
  simp only [List.getD_cons_zero] at called
  rw [called, unread]
  exact congrArg _ (State.answer_eq ..)

theorem exec_hvcAttest (plain : Says.Plain s 3) {b : List Byte} (read : s.readCore (Says.reg s 3).toNat 4096 = .ok b) :
    exec .hvcAttest s = .next (match Config.spdmRequest b with
      | none => Says.goesOn s (s.setCore (s.core.setReg 3 (-1)))
      | some q =>
        let r := (Config.spdmBytes (s.spdmFor (some p) q)).take 4096
        match s.writeV p coreWindows (Says.reg s 3).toNat r with
        | .error _ => Says.goesOn s (s.setCore (s.core.setReg 3 (-1)))
        | .ok u => Says.goesOn u (u.setCore (u.core.setReg 3 (BitVec.ofNat 64 r.length)))) := by
  have called : exec .hvcAttest s = _ := congrArg Host.Outcome.next (State.hvc_g3 free part plain _)
  simp only [List.getD_cons_zero] at called
  rw [called, read]
  simp only [State.answer_eq] <;> rfl

omit free part in
/-- An operand of SWAPMAP has bits above the tile's (R394). -/
theorem tile_bits_only_iff (w : Word) : w.extractLsb' 11 53 ≠ 0 ↔ 2 ^ 11 ≤ w.toNat := by
  rw [ne_eq, ← BitVec.toNat_inj, BitVec.extractLsb'_toNat, Nat.shiftRight_eq_div_pow]
  have := w.isLt
  simp
  omega

/-- SWAPMAP for an operand that names no MT of the partition, and for one that does (R394). -/
theorem exec_hvcSwapmap (plain : Says.Plain s 3) {t : TileId}
    (names : t = ⟨(Says.reg s 3).extractLsb' 9 2, (Says.reg s 3).extractLsb' 4 5, (Says.reg s 3).extractLsb' 0 4⟩) :
    exec .hvcSwapmap s = .next (Says.goesOn s (s.setCore (s.core.setReg 3
      (if 2 ^ 11 ≤ (Says.reg s 3).toNat ∨ t.isMT = false ∨ s.hasTile p t = false then -1
        else ((s.part p).grants.swapMaps.find? (·.1 = t)).elim 0 fun q => field 0 10 q.2.1 ||| field 10 7 q.2.2)))) := by
  have called : exec .hvcSwapmap s = _ := congrArg Host.Outcome.next (State.hvc_g3 free part plain _)
  simp only [List.getD_cons_zero] at called
  have refusals : ((Says.reg s 3).extractLsb' 11 53 ≠ 0 ∨ (!t.isMT) = true ∨ (!s.hasTile p t) = true) ↔
      (2 ^ 11 ≤ (Says.reg s 3).toNat ∨ t.isMT = false ∨ s.hasTile p t = false) := by
    rw [tile_bits_only_iff, Bool.not_eq_true', Bool.not_eq_true']
  rw [← names, if_congr refusals rfl rfl] at called
  rw [called, ← State.answer_eq]
  split
  · rfl
  · cases (s.part p).grants.swapMaps.find? (·.1 = t) <;> rfl

/-- RESET restarts the calling core, as every core of its partition, and keeps the partition's grants (R390). -/
theorem exec_hvcReset : ∃ (t : State), exec .hvcReset s = .next t ∧
    t.cores[s.cur] = { Core.reset (s.part p).entry with part := some p, run := if (s.part p).booted then .run else .off } ∧
    (t.part p).resets = (s.part p).resets + 1 ∧ (t.part p).debug = false ∧ (t.part p).grants = (s.part p).grants := by
  have reset : exec .hvcReset s = .next (s.resetPartition p) := by
    refine congrArg Host.Outcome.next ?_
    split
    · rw [part]
    · exact State.hvc_part free part _
  have cleared : (s.resetPartition p).part p = (s.part p).clear p := State.setPart_part ..
  refine ⟨_, reset, ?_, ?_, ?_, ?_⟩
  · have mine : s.coreIn p s.cur = true := beq_iff_eq.mpr part
    have started : (s.resetPartition p).cores[s.cur] = if s.coreIn p s.cur then (s.part p).start p else _ := mapEach_get ..
    rw [started, if_pos mine, Partition.start]
  all_goals rw [cleared]; rfl

end

theorem exec_illegalInstruction_spare (free : Says.Free s) {b : List Byte} {u : State} (fetched : s.fetch = some (b, u))
    (spare : spareHvc (BitVec.ofNat 32 (leNat b)) = true) :
    exec .illegalInstruction s = .next (Says.goesOn s (s.setCore (s.core.setReg 3 (-1)))) := by
  change execIllegalInstruction s = _
  rw [execIllegalInstruction, fetched]
  dsimp only
  rw [if_pos spare, State.unsafeIssue_free _ free.1 free.2, goesOn_setCore (Core.setReg_pc ..)]

/-- Settles O25, call by call. -/
theorem supervisorCalls : Obligations.SupervisorCalls := by
  unfold Obligations.SupervisorCalls
  intro s p free part x
  refine ⟨exec_hvcInfo free part, exec_hvcYield free part, exec_hvcNotice_none free part, fun w rest => exec_hvcNotice_some free part,
    exec_hvcDebug_nonce free part, fun plain asks => ⟨exec_hvcDebug_refused free part plain, fun vendor sec unread => ?_,
      fun b vendor sec aligned read => ?_⟩,
    fun plain => ⟨fun e => exec_hvcAttest_unread free part plain, fun b => exec_hvcAttest free part plain⟩,
    fun plain => ?_, exec_hvcReset free part, fun b u => exec_illegalInstruction_spare free⟩
  · have token := (asks.resolve_right (by simp [vendor, sec]))
    exact exec_hvcDebug_declined free part plain vendor sec token (State.debugToken_unread unread)
  · have token := (asks.resolve_right (by simp [vendor, sec]))
    refine ⟨fun unsigned => exec_hvcDebug_declined free part plain vendor sec token (State.debugToken_unsigned aligned read unsigned),
      fun signed other => exec_hvcDebug_declined free part plain vendor sec token ?_, fun signed own => ?_⟩
    · rw [State.debugToken_signed aligned read signed, if_pos other]
    · have check : s.debugToken p (Says.reg s 3).toNat = (0, true) := by
        rw [State.debugToken_signed aligned read signed, if_neg (not_not.mpr own)]
      rw [exec_hvcDebug_token free part plain vendor sec token check, if_pos rfl, State.answer_eq]
  · intro w t tells
    have answers := exec_hvcSwapmap free part plain (t := t) rfl
    have accepted (short : w.toNat < 2 ^ 11) (mt : t.isMT = true) (has : s.hasTile p t = true) :
        ¬ (2 ^ 11 ≤ w.toNat ∨ t.isMT = false ∨ s.hasTile p t = false) := by
      rw [mt, has]
      simpa using short
    refine ⟨fun short mt has => ⟨fun q found => ?_, fun absent => ?_⟩, fun refused => ?_⟩
    · rw [answers, if_neg (accepted short mt has), found]
      rfl
    · rw [answers, if_neg (accepted short mt has), List.find?_eq_none.mpr (by simpa using absent)]
      rfl
    · rw [answers, if_pos refused]

end Sys2Proof.Machine
end

section
/-! The proof of O26: the attic's instructions and tlbinv. -/

namespace Sys2Proof.Machine

variable {s s1 : State} {p : BitVec 4} {a : Reg} {x : Word}

/-! ## What stands before an attic instruction (R381) -/

/-- On a partition's core an attic instruction traps with PRIV (R381). -/
theorem State.attic_part (free : Says.Free s) (part : s.core.part ≠ none) (k : BitVec 4 → State → State) : s.attic a k = s.trap 0x17 0 := by
  rw [State.attic, State.unsafeIssue_free _ free.1 free.2, if_pos (Option.isSome_iff_ne_none.mpr part)]
  rfl

/-- On a supervisor's core it goes on with the partition that its operand names. -/
theorem State.attic_supervisor (free : Says.Free s) (sup : s.core.part = none) (reads : Says.Reads s [a] [x] s1) (names : x.toNat < 16)
    (k : BitVec 4 → State → State) : s.attic a k = k (x.extractLsb' 0 4) s1 := by
  have spare : x.extractLsb' 4 60 = 0 := by
    rw [← BitVec.toNat_inj, BitVec.extractLsb'_toNat, Nat.shiftRight_eq_div_pow]
    simp
    omega
  rw [State.attic, State.unsafeIssue_free _ free.1 free.2, sup, if_neg (by simp), State.withRegs_reads reads]
  simp only [List.getD_cons_zero, spare, ne_eq, not_true_eq_false, if_false]

/-- An instruction that goes on leaves every other core. -/
theorem State.retire_other {c : Fin 64} (other : c ≠ s.cur) : s.retire.cores[c] = s.cores[c] := State.setCoreAt_other s s.cur c _ other

/-! ## The flits that reach the queues first (R112) -/

/-- A flit changes a mailbox only: no core's place or partition. -/
theorem State.onBound_keeps (s : State) (m : MbAt) (from_ : Word → Bool) (f : Mailbox → Mailbox) : (s.onBound m from_ f).cur = s.cur ∧
    ∀ c : Fin 64, (s.onBound m from_ f).cores[c].part = s.cores[c].part ∧ (s.onBound m from_ f).cores[c].pc = s.cores[c].pc := by
  unfold State.onBound
  split
  · exact ⟨rfl, fun _ => ⟨rfl, rfl⟩⟩
  · split
    · refine ⟨rfl, fun c => ?_⟩
      rw [State.setMb_core]
      exact ⟨rfl, rfl⟩
    · split <;> exact ⟨rfl, fun _ => ⟨rfl, rfl⟩⟩

/-- So does what comes for a partition before its context is taken. -/
theorem State.landFor_keeps (s : State) (p : BitVec 4) : (s.landFor p).cur = s.cur ∧
    ∀ c : Fin 64, (s.landFor p).cores[c].part = s.cores[c].part ∧ (s.landFor p).cores[c].pc = s.cores[c].pc := by
  unfold State.landFor State.landFlit
  split
  · exact ⟨rfl, fun _ => ⟨rfl, rfl⟩⟩
  · split
    · exact ⟨rfl, fun _ => ⟨rfl, rfl⟩⟩
    · exact State.onBound_keeps ..

/-- With no flit for the partition on its way nothing comes. -/
theorem State.landFor_none (none : ∀ f ∈ s.flits, f.part ≠ some p) : s.landFor p = s := by
  have last : s.flits.findIdx (fun g => g.part == some p) = s.flits.length :=
    List.findIdx_eq_length.mpr fun f mem => beq_eq_false_iff_ne.mpr (none f mem)
  rw [State.landFor, State.landFlit, last, List.getElem?_eq_none (Nat.le_refl _)]

/-- The state in which all that was on its way to a partition's cores has come. -/
def State.landed (s : State) (p : BitVec 4) : State := (List.range s.flits.length).foldl (fun s _ => s.landFor p) s

theorem State.landed_keeps (s : State) (p : BitVec 4) : (s.landed p).cur = s.cur ∧
    ∀ c : Fin 64, (s.landed p).cores[c].part = s.cores[c].part ∧ (s.landed p).cores[c].pc = s.cores[c].pc := by
  unfold State.landed
  generalize List.range s.flits.length = l
  induction l generalizing s with
  | nil => exact ⟨rfl, fun _ => ⟨rfl, rfl⟩⟩
  | cons _ l ih =>
    obtain ⟨cur, cores⟩ := s.landFor_keeps p
    obtain ⟨cur', cores'⟩ := ih (s.landFor p)
    exact ⟨cur'.trans cur, fun c => ⟨(cores' c).1.trans (cores c).1, (cores' c).2.trans (cores c).2⟩⟩

theorem State.landed_none (none : ∀ f ∈ s.flits, f.part ≠ some p) : s.landed p = s := by
  unfold State.landed
  generalize List.range s.flits.length = l
  induction l with
  | nil => rfl
  | cons _ l ih => rw [List.foldl_cons, State.landFor_none none, ih]

/-! ## attic.save and attic.restore (R393, R396) -/

theorem State.stow_eq (s : State) (p : BitVec 4) :
    s.stow p = ((s.landed p).vacate p).setPart p { (s.landed p).part p with saved := some ((s.landed p).capture p) } := rfl

theorem State.stow_cur (s : State) (p : BitVec 4) : (s.stow p).cur = s.cur := by
  have vacated (u : State) : (u.vacate p).cur = u.cur :=
    List.foldlRecOn (motive := fun v : State => v.cur = u.cur) _ _ rfl fun _ kept _ _ => kept
  rw [State.stow_eq, State.setPart_cur, vacated, (s.landed_keeps p).1]

/-- The partition's cores stand empty once its context is in the attics; another core's program counter is kept. -/
theorem State.stow_cores (s : State) (p : BitVec 4) (c : Fin 64) :
    (s.cores[c].part = some p → (s.stow p).cores[c] = Core.reset 0) ∧
    (s.cores[c].part ≠ some p → (s.stow p).cores[c].pc = s.cores[c].pc) := by
  obtain ⟨part, pc⟩ := (s.landed_keeps p).2 c
  have emptied : (s.stow p).cores[c] = if (s.landed p).coreIn p c then Core.reset 0 else (s.landed p).cores[c] := mapEach_get ..
  have mine : (s.landed p).coreIn p c = true ↔ s.cores[c].part = some p := by rw [State.coreIn, part, beq_iff_eq]
  rw [emptied]
  exact ⟨fun own => if_pos (mine.mpr own), fun other => by rw [if_neg (mt mine.mp other), pc]⟩

/-- attic.save moves a halted partition's context into the attics (R396). -/
theorem exec_atticSave (free : Says.Free s) (sup : s.core.part = none) (reads : Says.Reads s [a] [x] s1) (names : x.toNat < 16)
    (halted : (s1.part (x.extractLsb' 0 4)).pre = .halted) (unsaved : (s1.part (x.extractLsb' 0 4)).saved = none)
    (room : s1.atticHeld (x.extractLsb' 0 4) = false) : exec (.atticSave a) s = .next ((s1.stow (x.extractLsb' 0 4)).retire) := by
  have run : exec (.atticSave a) s = _ := congrArg Host.Outcome.next (State.attic_supervisor free sup reads names _)
  rw [run, if_neg (by simp [halted, unsaved, room])]

/-- attic.restore puts a saved context back and lets the partition run, where nothing stands in the way (R396). -/
theorem exec_atticRestore (free : Says.Free s) (sup : s.core.part = none) (reads : Says.Reads s [a] [x] s1) (names : x.toNat < 16)
    {v : Saved} (halted : (s1.part (x.extractLsb' 0 4)).pre = .halted) (saved : (s1.part (x.extractLsb' 0 4)).saved = some v)
    (inside : v.out = false) (clear : s1.standing (x.extractLsb' 0 4) v = []) :
    exec (.atticRestore a) s = .next ((s1.putBack (x.extractLsb' 0 4) v).retire) := by
  have run : exec (.atticRestore a) s = _ := congrArg Host.Outcome.next (State.attic_supervisor free sup reads names _)
  rw [run, saved, Option.filter_some_pos (by simp [inside])]
  simp only [halted, clear, ne_eq, not_true_eq_false, if_false, List.foldl_nil]

/-! ## tlbinv (R380) -/

theorem getLsbD_63_iff (w : Word) : w.getLsbD 63 = true ↔ w.toNat / 2 ^ 63 = 1 := by
  rw [BitVec.getLsbD, Nat.testBit_eq_decide_div_mod_eq, decide_eq_true_eq]
  have := w.isLt
  omega

/-- An entry whose leaf covers the page that the operand names. -/
def TlbEntry.covers (x : Word) (e : TlbEntry) : Bool :=
  decide (e.va ≤ (x.extractLsb' 16 41).toNat * 2 ^ 16 ∧ (x.extractLsb' 16 41).toNat * 2 ^ 16 < e.va + e.size)

/-- What is removed from a TLB of one partition. -/
theorem tlbDrop_eq (x : Word) (l : List TlbEntry) : tlbDrop x l = if x.toNat / 2 ^ 63 = 1 then [] else l.filter (!·.covers x) :=
  if_congr (getLsbD_63_iff x) rfl rfl

/-- What is removed from a TLB that partitions share. -/
theorem tlbDropOf_eq (p : BitVec 4) (x : Word) (l : List (BitVec 4 × TlbEntry)) :
    tlbDropOf p x l = l.filter fun q => q.1 != p || !(x.getLsbD 63 || q.2.covers x) := by
  refine List.filter_congr fun q _ => congrArg (fun b => q.1 != p || !b) ?_
  unfold tlbDrop
  dsimp only
  split
  next all => rw [all]; rfl
  next some =>
    rw [Bool.not_eq_true] at some
    rw [some, Bool.false_or]
    change _ = q.2.covers x
    cases covered : q.2.covers x <;> simp_all [TlbEntry.covers]

/-- Reading registers changes cores, credits and what is sent only. -/
theorem ReadFrame.form (h : ReadFrame s s1) : ∃ cores credits sent, s1 = { s with cores, credits, sent } :=
  ⟨s1.cores, s1.credits, s1.sent, congrArg (fun u => { u with cores := s1.cores, credits := s1.credits, sent := s1.sent }) h.rest⟩

/-- The cores whose TLBs a tlbinv at a scope is about (R380). -/
def State.tlbCore (s : State) (n : Nat) (i : Fin 64) : Bool :=
  i == s.cur || (s.cores[i].part == s.core.part && (decide (3 ≤ n) || (n == 2 && dieOf i == dieOf s.cur)))

/-- The tiles whose TLBs it is about. -/
def State.tlbTile (s : State) (n : Nat) (t : TileId) : Bool :=
  s.hasTile s.pid t && (decide (3 ≤ n) || (n == 2 && t.die == dieOf s.cur) ||
    (n == 1 && s.regions.any fun r => r.core == s.cur && r.tiles.contains t))

theorem State.tlbinv_eq (s : State) (x : Word) (n : Nat) : s.tlbinv x n =
    { s.dropTlbs s.pid x (s.tlbCore n) (s.tlbTile n) (fun e => decide (3 ≤ n) || (n == 2 && e / 8 == (dieOf s.cur).toNat)) (decide (3 ≤ n)) with
      sent := if n = 4 then s.sent ++ [.tlbinv (s.part s.pid).dpn (x.getLsbD 63) (x.extractLsb' 16 41)] else s.sent } := by
  unfold State.tlbinv
  dsimp only
  split <;> rfl

/-- The state in which tlbinv has removed the entries, between its two fences, and gone on (R380). -/
def State.invalidated (s : State) (ag : Agent) (x : Word) (c : BitVec 3) : State :=
  (((s.raceRelease ag c).tlbinv x c.toNat).acquire c).retire

section
variable (s : State) (ag : Agent) (x : Word) (c : BitVec 3)

/-- The acting core's own TLB is always one of them. -/
theorem State.invalidated_core : (s.invalidated ag x c).core.regs = s.core.regs ∧ (s.invalidated ag x c).core.pc = s.core.pc + 4 ∧
    (s.invalidated ag x c).core.tlb = tlbDrop x s.core.tlb := by
  have mapped : ((s.raceRelease ag c).tlbinv x c.toNat).core =
      if s.tlbCore c.toNat s.cur then { s.core with tlb := tlbDrop x s.core.tlb } else s.core := by
    rw [State.tlbinv_eq]
    exact mapEach_get ..
  have mine : s.tlbCore c.toNat s.cur = true := by simp [State.tlbCore]
  rw [State.invalidated, State.retire, State.retireAt_core, State.acquire_core, mapped, if_pos mine]
  exact ⟨rfl, rfl, rfl⟩

theorem State.invalidated_cores {j : Fin 64} (other : j ≠ s.cur) : (s.invalidated ag x c).cores[j] =
    if s.tlbCore c.toNat j then { s.cores[j] with tlb := tlbDrop x s.cores[j].tlb } else s.cores[j] := by
  have goes (u : State) (h : j ≠ u.cur) : (u.acquire c).retire.cores[j] = u.cores[j] :=
    (State.retire_other (s := u.acquire c) h).trans (State.setCoreAt_other u u.cur j _ h)
  rw [State.invalidated, State.tlbinv_eq]
  refine (goes _ ?_).trans (mapEach_get ..)
  exact other

theorem State.invalidated_frame : (s.invalidated ag x c).mem = s.mem ∧ (s.invalidated ag x c).parts = s.parts := by
  rw [State.invalidated, State.tlbinv_eq]
  exact ⟨rfl, rfl⟩

theorem State.invalidated_tiles : (s.invalidated ag x c).tiles =
    s.tiles.map fun (y : Tile) => if s.tlbTile c.toNat y.id then { y with tlb := tlbDrop x y.tlb } else y := by
  rw [State.invalidated, State.tlbinv_eq]
  rfl

theorem State.invalidated_hubTlb : (s.invalidated ag x c).hubTlb =
    if 3 ≤ c.toNat then s.hubTlb.filter fun q => q.1 != s.pid || !(x.getLsbD 63 || q.2.covers x) else s.hubTlb := by
  rw [← tlbDropOf_eq, State.invalidated, State.tlbinv_eq]
  exact if_congr decide_eq_true_iff rfl rfl

theorem State.invalidated_sent : (s.invalidated ag x c).sent =
    if c = 4 then s.sent ++ [.tlbinv (s.part s.pid).dpn (x.getLsbD 63) (x.extractLsb' 16 41)] else s.sent := by
  have four : c.toNat = 4 ↔ c = 4 := by rw [← BitVec.toNat_inj]; rfl
  rw [State.invalidated, State.tlbinv_eq]
  exact if_congr four rfl rfl

end

/-- The scope in the terms of the manual's table (R380). -/
theorem State.tlbCore_iff {j : Fin 64} (other : j ≠ s.cur) (c : BitVec 3) : s.tlbCore c.toNat j = true ↔
    s.cores[j].part = s.core.part ∧ (3 ≤ c.toNat ∨ (c = 2 ∧ dieOf j = dieOf s.cur)) := by
  have two : c.toNat = 2 ↔ c = 2 := by rw [← BitVec.toNat_inj]; rfl
  simp [State.tlbCore, other, two]

theorem State.tlbTile_iff (t : TileId) (c : BitVec 3) : s.tlbTile c.toNat t = true ↔
    s.hasTile s.pid t = true ∧ (3 ≤ c.toNat ∨ (c = 2 ∧ t.die = dieOf s.cur) ∨
      (c = 1 ∧ ∃ r ∈ s.regions, r.core = s.cur ∧ r.tiles.contains t = true)) := by
  have two : c.toNat = 2 ↔ c = 2 := by rw [← BitVec.toNat_inj]; rfl
  have one : c.toNat = 1 ↔ c = 1 := by rw [← BitVec.toNat_inj]; rfl
  simp [State.tlbTile, two, one, or_assoc]

theorem exec_tlbinv (free : Says.Free s) (reads : Says.Reads s [a] [x] s1) {c : BitVec 3} (loads : s.core.loads = [])
    (stores : s.core.stores = []) : exec (.tlbinv a c) s =
      .next (s1.invalidated (.core s.cur) x c) := by
  have issued : exec (.tlbinv a c) s = _ := congrArg Host.Outcome.next (State.unsafeIssue_free _ free.1 free.2)
  rw [State.fenceWaits_quiet loads stores, if_neg Bool.false_ne_true, State.withRegs_reads reads] at issued
  exact issued

theorem exec_tlbinv_waits (free : Says.Free s) {c : BitVec 3} (pending : s.core.loads ≠ [] ∨
    ∃ st ∈ s.core.stores, ((st.near.map Prod.fst).getD 0).toNat < if c = 0 then 3 else c.toNat) : exec (.tlbinv a c) s = .next s := by
  have issued : exec (.tlbinv a c) s = _ := congrArg Host.Outcome.next (State.unsafeIssue_free _ free.1 free.2)
  have waits : s.fenceWaits c (if c = 0 then 3 else 2) = true := by
    rw [State.fenceWaits, if_neg (by split <;> simp_all), Bool.or_eq_true]
    rcases pending with loads | ⟨st, mem, near⟩
    · exact .inl (by simp [loads])
    · refine .inr ?_
      rw [Bool.and_eq_true, List.any_eq_true]
      exact ⟨by split <;> rfl, st, mem, by simpa [StoreOp.doneAt] using near⟩
  rw [waits, if_pos rfl] at issued
  exact issued

/-- Settles O26, by the kind of core and the scope of the tlbinv. -/
theorem supervisorInstructions : Obligations.SupervisorInstructions := by
  unfold Obligations.SupervisorInstructions
  refine ⟨⟨fun a s free part => ?_, fun a s s1 x free sup reads names => ?_⟩, fun a c s x s1 free reads => ?_⟩
  · exact ⟨congrArg Host.Outcome.next (State.attic_part free part _), congrArg Host.Outcome.next (State.attic_part free part _)⟩
  · intro p
    have frame := reads_frame reads
    have outside : s1.cores[s1.cur].part ≠ some p := by
      change s1.core.part ≠ _
      rw [frame.core]
      change s.core.part ≠ _
      rw [sup]
      exact Option.some_ne_none _ |>.symm
    refine ⟨fun halted unsaved room => ⟨_, exec_atticSave free sup reads names halted unsaved room, ?_, fun quiet => ?_, ?_, ?_, ?_⟩,
      fun v halted saved inside clear => exec_atticRestore free sup reads names halted saved inside clear⟩
    · exact congrArg (·.saved.isSome) (State.setPart_part ..)
    · have saved : ((s1.stow p).retire.part p).saved = some ((s1.landed p).capture p) := congrArg (·.saved) (State.setPart_part ..)
      rw [saved, State.landed_none quiet]
    · rw [State.retire, State.retireAt_core]
      change (s1.stow p).core.pc + 4 = _
      have here : (s1.stow p).core.pc = s1.core.pc := by
        simp only [State.core, State.stow_cur]
        exact (s1.stow_cores p s1.cur).2 outside
      rw [here, frame.pc]
    · intro c own
      rw [State.retire_other (by rw [State.stow_cur]; rintro rfl; exact outside own)]
      exact (s1.stow_cores p c).1 own
    · intro r mem
      exact of_decide_eq_true (List.mem_filter.mp mem).2
  · intro page covers kept
    refine ⟨exec_tlbinv_waits free, fun loads stores => ⟨_, exec_tlbinv free reads loads stores, ?_⟩⟩
    have frame := reads_frame reads
    have dropped (l : List TlbEntry) : tlbDrop x l = kept l := tlbDrop_eq x l
    have part : s1.core.part = s.core.part := by rw [frame.core]
    have others (j : Fin 64) (other : j ≠ s.cur) : s1.cores[j] = s.cores[j] := frame.other j other
    have pid : s1.pid = s.pid := congrArg (·.getD 0) part
    have pc := frame.pc
    have regs := frame.regs
    have tlb : s1.core.tlb = s.core.tlb := by rw [frame.core]
    obtain ⟨cores, credits, sent, rfl⟩ := frame.form
    obtain ⟨regs', pc', tlb'⟩ := State.invalidated_core { s with cores, credits, sent } (.core s.cur) x c
    obtain ⟨mem, parts⟩ := State.invalidated_frame { s with cores, credits, sent } (.core s.cur) x c
    refine ⟨mem, regs'.trans regs, ?_, ?_, parts, fun j other => ?_, ?_, ?_, ?_⟩
    · rw [pc', pc]
    · rw [tlb', tlb, dropped]
    · refine (State.invalidated_cores { s with cores, credits, sent } (.core s.cur) x c other).trans ?_
      rw [others j other, dropped]
      refine if_congr ((State.tlbCore_iff (s := { s with cores, credits, sent }) other c).trans ?_) rfl rfl
      rw [others j other, part]
    · rw [State.invalidated_tiles]
      refine List.map_congr_left fun y _ => ?_
      rw [dropped]
      refine if_congr ((State.tlbTile_iff (s := { s with cores, credits, sent }) y.id c).trans ?_) rfl rfl
      rw [pid]
      rfl
    · rw [State.invalidated_hubTlb, pid]
      rfl
    · rw [State.invalidated_sent, pid]
      rfl

end Sys2Proof.Machine
end

section
/-! The proof of O29: SPDM requests, host accesses, the vendor's token and a peer's reset. -/

namespace Sys2Proof.Machine

variable {s : State} {p : BitVec 4}

/-! ## SPDM (R433, R439) -/

/-- A request is answered on every function in P0 to P2, and on the physical one in P3 too (R439). -/
theorem State.spdmAnswer_secure (powered : s.power ≠ .off) (secure : s.sec = .secure) (reach : s.power ≠ .p3 ∨ s.input.fn = none)
    (q : SpdmReq) : s.spdmAnswer q = { s with spdm := s.spdm ++ [s.spdmFor s.input.fn q] } := by
  refine if_neg ?_
  rintro (off | ⟨booting | p3, virtual⟩)
  · exact powered off
  · rw [secure] at booting
    cases booting
  · rw [reach.resolve_left (not_not.mpr p3)] at virtual
    cases virtual

/-- A virtual function's report (R433). -/
theorem State.report_virtual (secure : s.sec = .secure) (p : BitVec 4) (challenge : Bool) : s.report (some p) challenge =
    .report (s.mrs.take 4 ++ [s.mrs.getD (4 + p.toNat) []]) (some (s.part p).resets) 1 (s.dbgOf p) challenge
      (edSign s.aliasSecret (Config.spdmBytes
        (.report (s.mrs.take 4 ++ [s.mrs.getD (4 + p.toNat) []]) (some (s.part p).resets) 1 (s.dbgOf p) challenge []))) := by
  rw [State.report, secure]
  rfl

/-! ## Host accesses (R436) -/

/-- An access of a booted partition's virtual function in P0 is performed (R436). -/
theorem exec_hostAccess (fn : s.input.fn = some p) (secure : s.sec = .secure) (booted : (s.part p).booted = true) (power : s.power = .p0) :
    exec .hostAccess s = .next
      (let r := if s.input.bar0 then s.doorbell p s.input.host else s.hostDo p s.input.host
      { r.2 with hostOut := r.2.hostOut ++ [r.1] }) := by
  change execHostAccess s = _
  rw [execHostAccess, fn]
  exact if_neg (by simp [secure, booted, power])

/-- A write of BAR0 rings a doorbell. -/
theorem State.doorbell_write {b : List Byte} (inside : s.input.off.toNat + b.length ≤ 2 ^ 16) : s.doorbell p (.write b) =
    (.written, { s with doorbells := s.doorbells ++ [(p, s.input.off.toNat, b)] }) := if_neg (Nat.not_lt.mpr inside)

/-- A read of BAR2 gives the partition's bytes, and changes nothing. -/
theorem State.hostDo_read {n : Nat} (inside : s.input.off.toNat + n ≤ 2 ^ 36) : s.hostDo p (.read n) =
    match s.readV p [.translated] s.input.off.toNat n with
    | .ok b => (.data b, s)
    | .error _ => (.unsupportedRequest, s) := if_neg (Nat.not_lt.mpr inside)

/-! ## The vendor's token (R434, R440) -/

/-- A pre-emption is under way for some partition. -/
theorem State.requested_iff (s : State) : s.parts.toList.all (·.pre != .requested) = true ↔ ∀ p : Fin 16, s.parts[p].pre ≠ .requested := by
  rw [List.all_eq_true]
  refine ⟨fun all p => bne_iff_ne.mp (all _ (by simp)), fun each x mem => ?_⟩
  obtain ⟨i, inside, rfl⟩ := List.getElem_of_mem mem
  exact bne_iff_ne.mpr (each ⟨i, by simpa using inside⟩)

theorem exec_vendorDebugToken (powered : s.power ≠ .off) (signed : ed448 Config.vendorKey (shake256 s.input.bytes 64) s.input.sig = true) :
    exec .vendorDebugToken s = .next { s with vendorAsk := true }.vendorWaits :=
  congrArg Host.Outcome.next (if_pos ⟨powered, signed⟩)

theorem exec_vendorDebugToken_unsigned (unsigned : ed448 Config.vendorKey (shake256 s.input.bytes 64) s.input.sig = false) :
    exec .vendorDebugToken s = .next s :=
  congrArg Host.Outcome.next (if_neg fun both => Bool.false_ne_true (unsigned.symm.trans both.2))

/-! ## A peer's reset (R379) -/

/-- A partition that is told. -/
def Partition.told (x : Partition) (w : Word) : Partition :=
  { x with notices := if (x.notices ++ [w]).length > 64 then (x.notices ++ [w]).drop 1 else x.notices ++ [w] }

theorem State.notice_told (s : State) (w : Word) (i k : Fin 16) : (s.notice (BitVec.ofNat 4 i.val) w).parts[k] =
    if k = i then s.parts[i].told w else s.parts[k] := by
  by_cases here : k = i
  · subst here
    simp [State.notice, State.setPart, State.part, Partition.told]
  · have apart : i.val ≠ k.val := fun e => here (Fin.ext e.symm)
    simp [State.notice, State.setPart, here, apart]

/-- The notice of a peer's reset (R379). -/
def State.peerNotice (s : State) : Word := field 0 4 3 ||| field 16 10 s.input.module.toNat

/-- The booted partitions of a list are told that a peer was reset. -/
def State.tell (s : State) (l : List (Fin 16)) : State :=
  l.foldl (fun s i => if s.parts[i].booted then s.notice (BitVec.ofNat 4 i.val) s.peerNotice else s) s

/-- Telling the partitions of a list, each at most once, tells the booted ones of them, and changes no core and no byte (R379). -/
theorem State.tell_leaves {l : List (Fin 16)} (nodup : l.Nodup) (s : State) (k : Fin 16) :
    (s.tell l).cores = s.cores ∧ (s.tell l).mem = s.mem ∧
      (s.tell l).parts[k] = if k ∈ l ∧ s.parts[k].booted = true then s.parts[k].told s.peerNotice else s.parts[k] := by
  induction l generalizing s with
  | nil => simp [State.tell]
  | cons i l ih =>
    obtain ⟨apart, nodup⟩ := List.nodup_cons.mp nodup
    have told := State.notice_told s s.peerNotice i
    have word : (if s.parts[i].booted then s.notice (BitVec.ofNat 4 i.val) s.peerNotice else s).peerNotice = s.peerNotice := by split <;> rfl
    obtain ⟨cores, mem, parts⟩ := ih nodup (if s.parts[i].booted then s.notice (BitVec.ofNat 4 i.val) s.peerNotice else s)
    rw [word] at parts
    rw [State.tell, List.foldl_cons]
    refine ⟨cores.trans (by split <;> rfl), mem.trans (by split <;> rfl), parts.trans ?_⟩
    by_cases here : k = i
    · subst here
      rw [if_neg fun both => apart both.1]
      by_cases booted : s.parts[k].booted = true
      · rw [if_pos booted, told, if_pos rfl, if_pos ⟨List.mem_cons_self, booted⟩]
      · rw [if_neg booted, if_neg fun both => booted both.2]
    · have same : (if s.parts[i].booted then s.notice (BitVec.ofNat 4 i.val) s.peerNotice else s).parts[k] = s.parts[k] := by
        split
        · rw [told, if_neg here]
        · rfl
      rw [same]
      exact if_congr (by rw [List.mem_cons, or_iff_right here]) rfl rfl

/-- A booted partition with room for a notice gets it (R379). -/
theorem State.tell_notices (booted : (s.part p).booted = true) (room : (s.part p).notices.length < 64) :
    ((s.tell (List.finRange 16)).part p).notices = (s.part p).notices ++ [s.peerNotice] := by
  obtain ⟨-, -, parts⟩ := State.tell_leaves (List.nodup_finRange 16) s ⟨p.toNat, p.isLt⟩
  have told : (s.tell (List.finRange 16)).part p = (s.part p).told s.peerNotice := parts.trans (if_pos ⟨List.mem_finRange _, booted⟩)
  rw [told]
  exact if_neg (by simpa using room)

theorem exec_peerreset (s : State) : exec .peerreset s = .next (s.tell (List.finRange 16)) := by
  change execPeerreset s = _
  rw [execPeerreset, State.tell]
  rfl

/-- Settles O29, request by request. -/
theorem securityAndHost : Obligations.SecurityAndHost := by
  unfold Obligations.SecurityAndHost
  refine ⟨fun s powered secure reach => ?_, fun s p off b fn secure booted power bar0 host at_ inside => ?_,
    fun s p n fn secure booted power host bar2 inside => ?_, fun s powered => ?_, fun s p booted room => ?_⟩
  · intro cdi0 cdi1 device aliased signs
    have answered := State.spdmAnswer_secure powered secure reach
    refine ⟨congrArg _ (answered _), congrArg _ (answered _), congrArg _ (answered _), congrArg _ (answered _), congrArg _ (answered _),
      congrArg _ (answered _), fun p fn => ?_⟩
    intro mine dbg
    have reports (challenge : Bool) := (State.report_virtual secure p challenge)
    have asked (q : SpdmReq) : s.spdmFor s.input.fn q = s.spdmFor (some p) q := by rw [fn]
    refine ⟨congrArg _ ((answered _).trans ?_), congrArg _ ((answered _).trans ?_)⟩
    · rw [asked]
      exact congrArg (fun r => { s with spdm := s.spdm ++ [r] }) (reports true)
    · rw [asked]
      exact congrArg (fun r => { s with spdm := s.spdm ++ [r] }) (reports false)
  · rw [exec_hostAccess fn secure booted power, bar0, host, if_pos rfl, State.doorbell_write (at_ ▸ inside), at_]
  · have read := exec_hostAccess fn secure booted power
    rw [bar2, host, if_neg Bool.false_ne_true, State.hostDo_read inside] at read
    refine ⟨fun b ok => ?_, fun e failed => ?_⟩
    · rw [read, ok]
    · rw [read, failed]
  · intro signed bare
    refine ⟨exec_vendorDebugToken_unsigned, fun ok => ?_, fun ok quiet => ?_⟩
    · rintro ⟨p, requested⟩
      rw [exec_vendorDebugToken powered ok, State.vendorWaits]
      refine congrArg Host.Outcome.next (if_neg fun all => ?_)
      rw [Bool.and_eq_true] at all
      exact (State.requested_iff _).mp all.2 p requested
    · rw [exec_vendorDebugToken powered ok, State.vendorWaits]
      have all : (true && s.parts.toList.all (·.pre != .requested)) = true := (State.requested_iff s).mpr quiet
      exact congrArg Host.Outcome.next (if_pos all)
  · have kept := State.tell_leaves (List.nodup_finRange 16) s 0
    exact ⟨_, exec_peerreset s, State.tell_notices booted room, kept.1, kept.2.1⟩

end Sys2Proof.Machine
end

section
/-! The proof of O52: flits and ports of Tarior. -/

namespace Sys2Proof.Machine

variable {s : State} {p : Fin 18} {x : Port}

/-! ## Ports -/

@[simp] theorem State.setPort_setPort (s : State) (p : Fin 18) (x y : Port) : (s.setPort p x).setPort p y = s.setPort p y := by
  simp [State.setPort]

/-- An acknowledgement concerns the replay buffer only (R355, R356). -/
theorem Port.ack_frame (x : Port) (a : BitVec 12) : (x.ack a).partPay = x.partPay ∧ (x.ack a).peer = x.peer ∧
    (x.ack a).state = x.state ∧ (x.ack a).rerouted = x.rerouted := by
  unfold Port.ack
  split <;> exact ⟨rfl, rfl, rfl, rfl⟩

theorem Port.ack_found {a : BitVec 12} {i : Nat} (found : x.buffer.findIdx? (·.1 == a) = some i) :
    x.ack a = { x with acked := a, buffer := x.buffer.drop (i + 1) } := by
  rw [Port.ack, found]

/-- A port whose far end, state and rerouting are kept leads where it led (R354, R364). -/
theorem State.routeTo_setPort (y : Port) (peer : y.peer = s.ports[p].peer) (state : y.state = s.ports[p].state)
    (rerouted : y.rerouted = s.ports[p].rerouted) (m : BitVec 10) : (s.setPort p y).routeTo m = s.routeTo m := by
  have same (n : Fin 18) : (s.setPort p y).ports[n].peer = s.ports[n].peer ∧ (s.setPort p y).ports[n].state = s.ports[n].state ∧
      (s.setPort p y).ports[n].rerouted = s.ports[n].rerouted := by
    by_cases here : n = p
    · subst here
      rw [State.setPort_get]
      exact ⟨peer, state, rerouted⟩
    · rw [State.setPort_other _ _ _ _ here]
      exact ⟨rfl, rfl, rfl⟩
  unfold State.routeTo
  simp only [same]
  rfl

/-- Fields of a flit's head as the manual counts them (R355). -/
theorem num_zero (w : Word) (n : Nat) : num w 0 n = w.toNat % 2 ^ n := by rw [num, Nat.pow_zero, Nat.div_one]

/-- The bits of a field, as the number that the manual names (R355). -/
theorem extractLsb'_eq_ofNat (w : Word) (lo n : Nat) : w.extractLsb' lo n = BitVec.ofNat n (w.toNat / 2 ^ lo) := by
  rw [BitVec.extractLsb', Nat.shiftRight_eq_div_pow]

/-! ## A flit that is refused (R356) -/

theorem State.refuseFlit_fails {own : Bool} (mine : own = true) (spent : 8 ≤ x.tries) : s.refuseFlit p x own = (s.setPort p x).failPort p :=
  if_pos ⟨mine, spent⟩

theorem State.refuseFlit_own (left : x.tries < 8) : s.refuseFlit p x true =
    { s.setPort p { x with tries := x.tries + 1, replay := incSat16 x.replay } with sent := s.sent ++ [.replayAsk p.val x.fseq] } :=
  if_neg fun both => Nat.not_lt.mpr both.2 left

theorem State.refuseFlit_other : s.refuseFlit p x false =
    { s.setPort p { x with replay := incSat16 x.replay } with sent := s.sent ++ [.replayAsk p.val x.fseq] } := rfl

section
variable (up : s.ports[s.input.port].state = .up) (size : s.input.bytes.length = 80)
include up size

theorem exec_tariorFlitReceive_crc (bad : crc32c (s.input.bytes.take 72) ≠ wAt s.input.bytes 72) : exec .tariorFlitReceive s =
    .next (s.refuseFlit s.input.port { s.ports[s.input.port] with crcerr := incSat16 s.ports[s.input.port].crcerr } true) := by
  have whole : s.input.bytes ≠ [] := by rintro e; rw [e] at size; cases size
  change execTariorFlitReceive s = _
  unfold execTariorFlitReceive
  simp only [up, size, whole, bad, and_false, if_false, ne_eq, not_true_eq_false, or_self, not_false_eq_true, if_true]

variable (good : crc32c (s.input.bytes.take 72) = wAt s.input.bytes 72)
include good

theorem exec_tariorFlitReceive_layout (bad : flitBad s.input.bytes s.ports[s.input.port].fseq
    (s.scalarsIn s.input.port.val ((dwAt s.input.bytes 0).toNat % 64)) = true) : exec .tariorFlitReceive s =
    .next (s.refuseFlit s.input.port { s.ports[s.input.port] with proterr := incSat16 s.ports[s.input.port].proterr }
      ((dwAt s.input.bytes 0).toNat / 2 ^ 8 % 2 ^ 12 == s.ports[s.input.port].fseq.toNat)) := by
  have whole : s.input.bytes ≠ [] := by rintro e; rw [e] at size; cases size
  have bad' : flitBad s.input.bytes s.ports[s.input.port].fseq (s.scalarsIn s.input.port.val (num (dwAt s.input.bytes 0) 0 6)) = true := by
    rw [num_zero]
    exact bad
  have numbered : ((dwAt s.input.bytes 0).extractLsb' 8 12 == s.ports[s.input.port].fseq) =
      ((dwAt s.input.bytes 0).toNat / 2 ^ 8 % 2 ^ 12 == s.ports[s.input.port].fseq.toNat) := by
    rw [Bool.eq_iff_iff, beq_iff_eq, beq_iff_eq, ← BitVec.toNat_inj, BitVec.extractLsb'_toNat, Nat.shiftRight_eq_div_pow]
  change execTariorFlitReceive s = _
  unfold execTariorFlitReceive
  simp only [up, size, whole, good, bad', numbered, and_false, if_false, ne_eq, not_true_eq_false, or_self, if_true]

/-- What a flit that passes does, once its number and its acknowledgement are taken (R355). -/
theorem exec_tariorFlitReceive_taken {vc cvc n : Nat} {y : Port} (channel : num (dwAt s.input.bytes 0) 0 6 = vc)
    (credited : num (dwAt s.input.bytes 0) 32 6 = cvc) (flits : num (dwAt s.input.bytes 0) 38 8 = n)
    (sound : flitBad s.input.bytes s.ports[s.input.port].fseq (s.scalarsIn s.input.port.val vc) = false)
    (acked : Port.ack { s.ports[s.input.port] with fseq := s.ports[s.input.port].fseq + 1, tries := 0 }
      ((dwAt s.input.bytes 0).extractLsb' 20 12) = y) : exec .tariorFlitReceive s = .next
    (if vc = 63 then (s.setPort s.input.port y).abortChannel s.input.port cvc
    else if vc = 62 then s.setPort s.input.port (y.credited cvc n)
    else (s.setPort s.input.port (y.credited cvc n)).deliverFlit s.input.port vc ((s.input.bytes.drop 8).take 64)) := by
  subst channel credited flits acked
  have whole : s.input.bytes ≠ [] := by rintro e; rw [e] at size; cases size
  change execTariorFlitReceive s = _
  unfold execTariorFlitReceive
  rw [if_neg fun both => whole both.2, if_neg (not_or.mpr ⟨not_not.mpr up, not_not.mpr size⟩), if_neg (not_not.mpr good), sound,
    if_neg Bool.false_ne_true]
  split
  next aborts => exact if_pos aborts
  next other => exact if_neg other

end

/-! ## What a flit that passes brings (R355, R362, R363) -/

/-- A credit flit (R355, R362). -/
theorem Port.credited_some {vc n : Nat} (some : n ≠ 0) : x.credited vc n =
    { x with creds := assign x.creds vc (if vc < 32 then Nat.min 16 (lookupD x.creds vc 0 + n) else lookupD x.creds vc 0 + n),
             far := dropFar vc n x.far } := if_neg some

theorem Port.credited_none (vc : Nat) : x.credited vc 0 = x := by
  rw [Port.credited, if_pos rfl]

/-- An abort flit where no packet is under way (R356). -/
theorem State.abortChannel_idle {cvc : Nat} (idle : ∀ q ∈ x.partPay, q.1 ≠ cvc) : (s.setPort p x).abortChannel p cvc = s.setPort p x := by
  refine if_pos ?_
  rw [State.setPort_get, List.find?_eq_none.mpr (by simpa using idle)]
  rfl

/-- An abort flit where one is (R356, R365). -/
theorem State.abortChannel_partial {cvc : Nat} (part : ∃ q ∈ x.partPay, q.1 = cvc) : (s.setPort p x).abortChannel p cvc =
    (s.savedOn p.val cvc).foldl (fun (u : State) (q : Region × BitVec 12) => u.onSaved q.1 id (q.1.live.map (·.seq)))
      ((s.onChannel p.val cvc).foldl (fun (u : State) (q : Region × BitVec 12) => u.cutLaunches q.1 (q.1.live.map (·.seq)))
        (s.setPort p { x with partPay := x.partPay.filter (·.1 ≠ cvc) })) := by
  have found : ¬ ((s.setPort p x).ports[p].partPay.find? (·.1 = cvc)).isNone = true := by
    rw [State.setPort_get, Option.isNone_iff_eq_none, List.find?_eq_none]
    obtain ⟨q, mem, here⟩ := part
    exact fun none => none q mem (by simpa using here)
  rw [State.abortChannel, if_neg found]
  simp only [State.setPort_get, State.setPort_setPort]
  rfl

/-- A flit of a class channel in the middle of its packet (R354). -/
theorem State.deliverFlit_joins {vc : Nat} {pay : List Byte} (classed : 32 ≤ vc) (more : s.input.ok = false) :
    (s.setPort p x).deliverFlit p vc pay = s.setPort p
      { x with partPay := (vc, lookupD x.partPay vc [] ++ pay) :: x.partPay.filter (·.1 ≠ vc) } := by
  have ends : ¬ (s.setPort p x).input.ok = true := by
    change ¬ s.input.ok = true
    simp [more]
  rw [State.deliverFlit, if_pos classed, if_neg ends, State.setPort_get, State.setPort_setPort]

/-- The last flit of a packet of a class channel (R354, R363). -/
theorem State.deliverFlit_ends {vc : Nat} {pay : List Byte} (classed : 32 ≤ vc) (last : s.input.ok = true) :
    (s.setPort p x).deliverFlit p vc pay = (s.setPort p { x with partPay := x.partPay.filter (·.1 ≠ vc) }).packetIn p vc
      (lookupD x.partPay vc [] ++ pay) := by
  have ends : (s.setPort p x).input.ok = true := last
  rw [State.deliverFlit, if_pos classed, if_pos ends, State.setPort_get, State.setPort_setPort]

/-- A packet for another module goes on (R354). -/
theorem State.packetIn_forwards {vc : Nat} {b : List Byte} (far : s.input.module ≠ s.module) : (s.setPort p x).packetIn p vc b =
    ((s.setPort p x).transmit p 62 vc (b.length / 64) []).queuePacket ((s.setPort p x).routeTo s.input.module)
      (if vc = 32 then 33 else vc) none b := if_pos far

/-- A packet of the control class that says that a channel is unbound (R363). -/
theorem State.packetIn_unbound {b : List Byte} {vc ch : Nat} (control : vc = 35) (here : s.input.module = s.module) (told : s.input.hub = some (.unbound ch)) :
    (s.setPort p x).packetIn p vc b = ((s.setPort p x).transmit p 62 vc (b.length / 64) []).farUnbound p ch := by
  have told' : (s.setPort p x).input.hub = some (.unbound ch) := told
  have own : ¬ (s.setPort p x).input.module ≠ (s.setPort p x).module := not_not.mpr here
  unfold State.packetIn
  dsimp only
  rw [if_neg own, told']
  exact if_pos control

/-! ## A replay, a reroute, training (R356, R364, R366) -/

theorem State.replayFrom_found {f : BitVec 12} {i : Nat} (found : s.ports[p].buffer.findIdx? (·.1 == f) = some i)
    (left : ∀ q ∈ s.ports[p].buffer.drop i, q.2.2 < 8) : s.replayFrom p f =
      { s.setPort p { s.ports[p] with replay := incSat16 s.ports[p].replay, buffer := s.ports[p].buffer.take i ++
          (s.ports[p].buffer.drop i).map fun q => (q.1, q.2.1, q.2.2 + 1) } with
        sent := s.sent ++ (s.ports[p].buffer.drop i).map fun q => .wire p q.2.1 } := by
  rw [State.replayFrom, found]
  exact if_neg (by simpa using left)

/-- The routing names a port that is up (R354). -/
theorem exec_tariorReroute_up {q : Fin 18} (names : s.input.index = q.val) (leads : s.ports[q].state = .up) : exec .tariorReroute s =
    .next (if s.ports[s.input.port].state = .failed
      then State.setPort { s with routes := (s.input.module, q) :: s.routes.filter (·.1 ≠ s.input.module) } s.input.port
        { s.ports[s.input.port] with rerouted := true }
      else { s with routes := (s.input.module, q) :: s.routes.filter (·.1 ≠ s.input.module) }) := by
  have inside : s.input.index < 18 := names ▸ q.isLt
  have named : (⟨s.input.index, inside⟩ : Fin 18) = q := Fin.ext names
  subst named
  have up : (s.ports[s.input.index]'inside).state = .up := leads
  change execTariorReroute s = _
  unfold execTariorReroute
  dsimp only
  rw [dif_pos inside, if_pos up]

/-- It names none. -/
theorem exec_tariorReroute_none (down : ∀ q : Fin 18, s.input.index = q.val → s.ports[q].state ≠ .up) : exec .tariorReroute s =
    .next (if s.ports[s.input.port].state = .failed then s.setPort s.input.port { s.ports[s.input.port] with rerouted := true } else s) := by
  change execTariorReroute s = _
  unfold execTariorReroute
  dsimp only
  by_cases inside : s.input.index < 18
  · have out : ¬ (s.ports[s.input.index]'inside).state = .up := down ⟨_, inside⟩ rfl
    rw [dif_pos inside, if_neg out]
  · rw [dif_neg inside]

/-- What a retraining does at each state of the port (R364, R366). -/
theorem exec_tariorPortRetrain {x : Port} (port : s.ports[s.input.port] = x) : exec .tariorPortRetrain s = match x.state with
    | .up => .next s
    | .training => .next (if s.input.ok
        then (s.setPort s.input.port { x with state := .up, peer := s.input.module, rerouted := false }).offerChannels s.input.port
        else s.setPort s.input.port { x with state := .failed })
    | _ => .next (s.setPort s.input.port { x with
        state := .training, peer := 0x3FF, fseq := 0, tries := 0, partPay := [], creds := [], tseq := 0, acked := 0xFFF,
        buffer := [], far := [], rx := [], outq := [] }) := by
  subst port
  rfl

/-- Settles O52, by what stands at the head of the port. -/
theorem tariorPorts : Obligations.TariorPorts := by
  unfold Obligations.TariorPorts
  refine ⟨fun s => ?_, fun s i => ?_, fun x a i => Port.ack_found, fun s => ?_⟩
  · intro p x b d vc cvc n up size
    refine ⟨fun bad left => ?_, fun bad spent => ?_, fun good bad other => ?_, fun good bad own => ?_, fun good sound => ?_⟩
    · rw [exec_tariorFlitReceive_crc up size bad]
      exact congrArg _ (State.refuseFlit_own left)
    · rw [exec_tariorFlitReceive_crc up size bad]
      exact congrArg _ (State.refuseFlit_fails rfl spent)
    · rw [exec_tariorFlitReceive_layout up size good bad, beq_eq_false_iff_ne.mpr other]
      exact congrArg _ State.refuseFlit_other
    · rw [exec_tariorFlitReceive_layout up size good bad, beq_iff_eq.mpr own]
      split
      next spent => exact congrArg _ (State.refuseFlit_fails rfl spent)
      next left => exact congrArg _ (State.refuseFlit_own (Nat.not_le.mp left))
    · intro y
      have taken := exec_tariorFlitReceive_taken up size good (vc := vc) (cvc := cvc) (n := n) (y := y) (num_zero _ 6) rfl rfl sound
        (congrArg _ (extractLsb'_eq_ofNat ..)) 
      obtain ⟨partPay, peer, state, rerouted⟩ : y.partPay = x.partPay ∧ y.peer = x.peer ∧ y.state = x.state ∧ y.rerouted = x.rerouted :=
        Port.ack_frame ..
      refine ⟨fun credits some => ?_, fun aborts idle => ?_, fun aborts part => ?_, fun low high none more => ?_, fun low high none last => ?_⟩
      · rw [taken, if_neg (by omega), if_pos credits, Port.credited_some some]
      · rw [taken, if_pos aborts, State.abortChannel_idle (by rw [partPay]; exact idle)]
      · rw [taken, if_pos aborts, State.abortChannel_partial (by rw [partPay]; exact part)]
      · rw [taken, if_neg (by omega), if_neg (by omega), none, Port.credited_none, State.deliverFlit_joins low more, partPay]
      · intro whole u
        rw [taken, if_neg (by omega), if_neg (by omega), none, Port.credited_none, State.deliverFlit_ends low last, partPay]
        refine ⟨fun far => congrArg Host.Outcome.next ?_, fun ch here control told => congrArg Host.Outcome.next ?_⟩
        · refine (State.packetIn_forwards far).trans ?_
          rw [State.routeTo_setPort (p := p) { y with partPay := x.partPay.filter (·.1 ≠ vc) } peer state rerouted]
        · exact State.packetIn_unbound control here told
  · intro p x again up ask found left
    have asked : exec .tariorFlitReceive s = .next (s.replayFrom p (BitVec.ofNat 12 s.input.index)) := if_pos ⟨up, ask⟩
    rw [asked, State.replayFrom_found found left]
  · intro p x
    refine ⟨fun q names leads => ?_, fun down => ?_, fun up => ?_, fun down => ?_, fun trains fails => ?_, fun trains comes => ?_⟩
    · exact exec_tariorReroute_up names leads
    · exact exec_tariorReroute_none down
    · rw [exec_tariorPortRetrain (x := x) rfl, up]
    · rcases down with down | failed
      · rw [exec_tariorPortRetrain (x := x) rfl, down]
      · rw [exec_tariorPortRetrain (x := x) rfl, failed]
    · rw [exec_tariorPortRetrain (x := x) rfl, trains, fails]
      rfl
    · rw [exec_tariorPortRetrain (x := x) rfl, trains, comes]
      rfl

end Sys2Proof.Machine
end

section
/-! The proof of O51: the remote stations and the requests of other modules. -/

namespace Sys2Proof.Machine

variable {s s1 : State} {f : StF} {x : Sta} {q : List (Nat × Token)}

/-! ## Requests (R359, R360) -/

/-- Consuming a set leaves what awaits replies. -/
theorem State.nextSet_remote {ports : List Nat} (next : s.nextSet x ports = some (q, s1)) :
    (s1.tileAt x.t).remote = (s.tileAt x.t).remote := by
  simp only [State.nextSet] at next
  split at next <;> obtain ⟨_, -, e⟩ := Option.map_eq_some_iff.1 next <;> cases e
  all_goals rw [State.tileAt_onTile (s.tileAt_id x.t)]
  all_goals rfl

/-- A firing of a remote station over a set of DATA. -/
theorem State.fireRemote_data (takes : Says.Takes s f x q s1) (data : Says.AllData q)
    (go : Sta → List (Nat × Token) → Word → State → State) : s.fireRemote f go =
      if 32 ≤ (s.awaiting x).length then s
      else if s.remoteOk x.r.part (s.opWord x q 0) (remoteSize f) then go x q (s.opWord x q 0) s1
      else s1.errFire x (setSeq q) (setIter q) (s.self x.t eKIND) := by
  obtain ⟨⟨ready, credit⟩, next⟩ := takes
  rw [State.fireRemote, State.fireHeads_fires (.of_ready ready) credit]
  simp only [next]
  exact State.rows_data data (fun _ => rfl) ..

/-- The bytes of one operation (R360). -/
theorem remoteSize_eq (f : StF) : remoteSize f = if f.ty = 1 then 128 else 8 := if_congr beq_iff_eq rfl rfl

/-- The values that rst sends, as bytes (R360). -/
theorem rst_bytes (s : State) (f : StF) (x : Sta) (q : List (Nat × Token)) :
    (if isV f then (s.opLanes x q 1).flatMap fun w => leBytes 8 w.toNat else leBytes 8 (s.opWord x q 1).toNat) =
      if f.ty = 1 then (s.opLanes x q 1).flatMap fun w => Says.bytesOf (w.setWidth 64) 8 else Says.bytesOf (s.opWord x q 1) 8 := by
  refine if_congr beq_iff_eq (List.flatMap_congr fun w _ => ?_) (leBytes_toNat ..)
  rw [← leBytes_toNat, BitVec.toNat_setWidth_of_le (by decide)]

/-- One that may be sent is sent. -/
theorem fireRemote_sends (takes : Says.Takes s f x q s1) (data : Says.AllData q) (room : (s.awaiting x).length < 32)
    (fits : s.remoteOk x.r.part (s.opWord x q 0) (remoteSize f) = true) (go : Sta → List (Nat × Token) → Word → State → State) :
    s.fireRemote f go = go x q (s.opWord x q 0) s1 := by
  rw [State.fireRemote_data takes data, if_neg (Nat.not_le.mpr room), if_pos fits]

/-- With 32 awaited nothing happens, and a bad address gives ERROR KIND (R360). -/
theorem fireRemote_refuses (takes : Says.Takes s f x q s1) (data : Says.AllData q) (go : Sta → List (Nat × Token) → Word → State → State) :
    (32 ≤ (s.awaiting x).length → s.fireRemote f go = s) ∧
    ((s.awaiting x).length < 32 → s.remoteOk x.r.part (s.opWord x q 0) (remoteSize f) = false →
      s.fireRemote f go = s1.emits x.t x.st [(none, tokE (setSeq q) (setIter q) (s.self x.t 0x02))]) := by
  refine ⟨fun full => ?_, fun room bad => ?_⟩
  · rw [State.fireRemote_data takes data, if_pos full]
  · rw [State.fireRemote_data takes data, if_neg (Nat.not_le.mpr room), bad, if_neg Bool.false_ne_true]
    rfl

section Ramo
variable (takes : Says.Takes s { f with ty := 2 } x q s1) (data : Says.AllData q) (room : (s.awaiting x).length < 32)
  (fits : s.remoteOk x.r.part (s.opWord x q 0) 8 = true)
include takes data room fits

/-- What ramo does over a set that may be sent (R360, R361). -/
theorem exec_ramo : exec (.ramo f) s = .next
    (if (f.aux.getLsbD 5 && !(s.awaitingOf x (setSeq q)).isEmpty) || (f.aux.getLsbD 4 && !(s.awaiting x).isEmpty) then s
    else (if f.aux.getLsbD 5 then s1.stRelease x.r (setSeq q) (auxScope (f.aux.extractLsb' 6 2)) else s1).sendRemote x q (s.opWord x q 0)
      (.atomic (s1.part x.r.part).dpn (peerOff (s.opWord x q 0)) (f.aux.extractLsb' 0 4) (s1.opWord x q 1) (s1.opWord x q 2))) := by
  have kept := State.nextSet_remote takes.2
  have awaiting : s1.awaiting x = s.awaiting x := congrArg (List.filter _) kept
  have awaitingOf : s1.awaitingOf x (setSeq q) = s.awaitingOf x (setSeq q) := congrArg (List.filter _) kept
  have parts : s1.parts = s.parts := by
    obtain ⟨g, rfl, -, -⟩ := State.nextSet_frame takes.2
    rfl
  have sends : exec (.ramo f) s = _ := congrArg Host.Outcome.next (fireRemote_sends takes data room fits _)
  rw [sends]
  dsimp only
  rw [awaiting, awaitingOf, opWord_of_takes takes 1, opWord_of_takes takes 2, State.part, State.part, parts]

end Ramo

/-! ## rfence (R361) -/

/-- A remote operation that reads (R361). -/
def ROp.reads (o : ROp) : Bool := match o.op with
  | .read .. => true
  | _ => false

theorem ROp.reads_iff (o : ROp) : o.reads = true ↔ ∃ d off n, o.op = .read d off n := by
  unfold ROp.reads
  split
  next d off n op => simp [op]
  next other => simpa using other

/-- The state in which an rfence has released and acquired at its scope. -/
def State.fenced (s : State) (f : StF) (x : Sta) (seq : BitVec 8) : State :=
  let k := auxScope (f.aux.extractLsb' 2 2)
  let s2 := if f.aux.getLsbD 1 then s.stRelease x.r seq k else s
  if f.aux.getLsbD 0 then s2.raceAcquire (.region x.r.core x.r.bslot) k else s2

/-- That changes the detector's clocks only. -/
theorem State.fenced_frame (s : State) (f : StF) (x : Sta) (seq : BitVec 8) : { s.fenced f x seq with clocks := s.clocks } = s := by
  unfold State.fenced
  cases f.aux.getLsbD 1 <;> cases f.aux.getLsbD 0 <;> rfl

theorem State.fenced_none (s : State) (x : Sta) (seq : BitVec 8) (acq : f.aux.getLsbD 0 = false) (rel : f.aux.getLsbD 1 = false) :
    s.fenced f x seq = s := by
  rw [State.fenced, acq, rel]
  rfl

section Rfence
variable {t : Token} (head : Says.HasHead s f x 0 t) (data : t.kind = .data)
include head data

theorem exec_rfence : exec (.rfence f) s = .next
    (if (f.aux.getLsbD 1 && !(s.awaitingOf x t.seq).isEmpty) || (f.aux.getLsbD 0 && !((s.awaitingOf x t.seq).filter ROp.reads).isEmpty) then s
    else ((s.take x [0]).fenced f x t.seq).emits x.t x.st [(none, t)]) := by
  have fires : exec (.rfence f) s = _ := congrArg Host.Outcome.next (State.fireHeads_head head _)
  rw [fires, head.2]
  dsimp only
  rw [data]
  rfl

/-- It waits for what it orders first. -/
theorem exec_rfence_waits (pending : f.aux.getLsbD 1 = true ∧ s.awaitingOf x t.seq ≠ [] ∨
    f.aux.getLsbD 0 = true ∧ ∃ o ∈ s.awaitingOf x t.seq, ∃ d off n, o.op = .read d off n) : exec (.rfence f) s = .next s := by
  rw [exec_rfence head data, if_pos]
  rcases pending with ⟨rel, some⟩ | ⟨acq, o, mem, read⟩
  · simp [rel, some]
  · have reads : (s.awaitingOf x t.seq).filter ROp.reads ≠ [] :=
      List.ne_nil_of_mem (List.mem_filter.mpr ⟨mem, o.reads_iff.mpr read⟩)
    simp [acq, reads]

/-- It passes its token once that has come. -/
theorem exec_rfence_passes (all : f.aux.getLsbD 1 = true → s.awaitingOf x t.seq = [])
    (reads : f.aux.getLsbD 0 = true → ∀ o ∈ s.awaitingOf x t.seq, ∀ d off n, o.op ≠ .read d off n) :
    exec (.rfence f) s = .next (((s.take x [0]).fenced f x t.seq).emits x.t x.st [(none, t)]) := by
  rw [exec_rfence head data, if_neg]
  rw [Bool.or_eq_true, Bool.and_eq_true, Bool.and_eq_true]
  rintro (⟨rel, some⟩ | ⟨acq, some⟩)
  · rw [all rel] at some
    cases some
  · have none : (s.awaitingOf x t.seq).filter ROp.reads = [] := List.filter_eq_nil_iff.mpr fun o mem read =>
      let ⟨d, off, n, op⟩ := o.reads_iff.mp read
      reads acq o mem d off n op
    rw [none] at some
    cases some

end Rfence

/-! ## Replies (R360, R364, R367) -/

section Reply
variable {o : ROp} (named : (s.tileAt s.tile).remote[s.input.index]? = some o)
include named

/-- How the named operation is answered: by LINK where its request left by a port that has failed (R364). -/
theorem exec_remoteReply {r : RemoteRes} (answer : (if s.viaLost o.via then .link else s.input.reply) = r) {out : Token}
    (result : o.result (s.self s.tile 0) r = some out) : exec .remoteReply s = .next
      (if o.dead then s.onTile s.tile fun (y : Tile) => { y with remote := y.remote.erase o }
      else State.emits ((s.replyAcquire s.tile o).onTile s.tile fun (y : Tile) => { y with remote := y.remote.erase o }) s.tile o.st
        [(none, out)]) := by
  subst answer
  change execRemoteReply s = _
  unfold execRemoteReply State.remoteReply
  simp only [named, Option.any_some, result]

/-- A reply to an operation of a live launch that acquires nothing becomes the station's result. -/
theorem exec_remoteReply_gives {r : RemoteRes} (answer : (if s.viaLost o.via then .link else s.input.reply) = r) {out : Token}
    (result : o.result (s.self s.tile 0) r = some out) (live : o.dead = false) (quiet : s.replyAcquire s.tile o = s) :
    exec .remoteReply s = .next ((s.onTile s.tile fun (y : Tile) => { y with remote := y.remote.erase o }).emits s.tile o.st [(none, out)]) := by
  rw [exec_remoteReply named answer result, live, if_neg Bool.false_ne_true, quiet]

end Reply

/-- Only an atomic acquires with its reply (R361). -/
theorem State.replyAcquire_other {t : TileId} {o : ROp} (other : ∀ d off op b e, o.op ≠ .atomic d off op b e) : s.replyAcquire t o = s := by
  unfold State.replyAcquire
  split
  next op _ _ => exact absurd op (other _ _ _ _ _)
  next => rfl

/-- One whose ramo does not acquire does not either. -/
theorem State.replyAcquire_plain {t : TileId} {o : ROp} {w : Word32} (word : s.wordAt t o.st = some w) (plain : w.getLsbD 4 = false) :
    s.replyAcquire t o = s := by
  unfold State.replyAcquire
  split
  next w' _ _ word' =>
    cases word.symm.trans word'
    rw [plain]
    rfl
  next => rfl

/-- What an answer makes of a read of a dword, a write and an atomic, and what failures make of any (R360). -/
theorem ROp.result_read {o : ROp} {d off} (op : o.op = .read d off 8) (e : ErrInfo) (ws : List Word) :
    o.result e (.value ws) = some (tokS o.tok.seq o.tok.iter .data (ws.getD 0 0)) := by
  simp [ROp.result, op]

theorem ROp.result_write {o : ROp} {d off b k} (op : o.op = .write d off b k) (e : ErrInfo) :
    o.result e .done = some (tokS o.tok.seq o.tok.iter .done (BitVec.ofNat 64 (b.length / 8))) := by
  simp [ROp.result, op]

theorem ROp.result_atomic {o : ROp} {d off k b c} (op : o.op = .atomic d off k b c) (e : ErrInfo) (ws : List Word) :
    o.result e (.value ws) = some (tokS o.tok.seq o.tok.iter .data (ws.getD 0 0)) := by
  simp [ROp.result, op]

theorem ROp.result_xlate (o : ROp) (e : ErrInfo) :
    o.result e .xlate = some (tokE o.tok.seq o.tok.iter { e with origin := peerModule o.tok.pay.word, cause := eXLATE }) := by
  rw [ROp.result]

theorem ROp.result_link (o : ROp) (e : ErrInfo) : o.result e .link = some (tokE o.tok.seq o.tok.iter { e with cause := eLINK }) := by
  rw [ROp.result]

/-! ## Requests of other modules (R357) -/

/-- A read of another module is answered with the bytes of its translated address. -/
theorem State.serveRemote_read {d off n h} (at_ : s.hubTranslate d off .read = some (h, s1)) :
    s.serveRemote (.read d off n) = (.value (readWords (memGets s1.mem h n)), s1) := by
  rw [State.serveRemote, at_]

/-- One whose address does not translate is answered with XLATE. -/
theorem State.serveRemote_fault {d off n} (none : s.hubTranslate d off .read = none) : s.serveRemote (.read d off n) = (.xlate, s) := by
  rw [State.serveRemote, none]

/-- A write of another module is performed on the bytes of its translated address. -/
theorem State.serveRemote_write {d off bs h} (bytes : bs ≠ []) (at_ : s.hubTranslate d off .write = some (h, s1)) :
    s.serveRemote (.write d off bs none) = (.done, s1.fillWrite h bs none) := by
  rw [State.serveRemote, if_neg (by simpa using bytes), at_]
  rfl

theorem State.fillWrite_stored {h : Nat} {bs : List Byte} (wf : Memory.wf s = true) (mem : s1.mem = s.mem) (phase : Option StageId) :
    Says.Stored s (s1.fillWrite h bs phase) h bs := by
  refine stored_of_mem wf ?_
  rw [State.fillWrite, State.fillCount_mem, ← mem]
  rfl

/-- Settles O51, by requests, replies and served requests. -/
theorem remoteStations : Obligations.RemoteStations := by
  unfold Obligations.RemoteStations
  refine ⟨fun i f s x q s1 either takes data => ?_, fun f s x q s1 takes data => ?_, fun s x q a req => rfl,
    fun f s x t head data => ⟨fun none acq rel => ?_, fun none => ?_, fun some rel => ?_, fun read acq => ?_, fun none rel => ?_⟩,
    fun s o named => ?_, fun s => ?_⟩
  · intro a n
    have size : remoteSize f = n := remoteSize_eq f
    refine ⟨fun full => ?_, fun room bad => ?_, fun room fits => ⟨?_, ?_⟩⟩
    · rcases either with rfl | rfl
      · exact congrArg Host.Outcome.next ((fireRemote_refuses takes data _).1 full)
      · exact congrArg Host.Outcome.next ((fireRemote_refuses takes data _).1 full)
    · rw [← size] at bad
      rcases either with rfl | rfl
      · exact congrArg Host.Outcome.next ((fireRemote_refuses takes data _).2 room bad)
      · exact congrArg Host.Outcome.next ((fireRemote_refuses takes data _).2 room bad)
    · rw [← size] at fits ⊢
      exact congrArg Host.Outcome.next (fireRemote_sends takes data room fits _)
    · rw [← size] at fits
      rw [← rst_bytes]
      exact congrArg Host.Outcome.next (fireRemote_sends takes data room fits _)
  · intro a acq rel room fits
    refine ⟨fun unreleased unacquired => ?_, fun waits => ?_⟩
    · have free : ¬ (f.aux.getLsbD 5 && !(s.awaitingOf x (setSeq q)).isEmpty || f.aux.getLsbD 4 && !(s.awaiting x).isEmpty) = true := by
        rw [show f.aux.getLsbD 5 = false from unreleased, Bool.false_and, Bool.false_or, Bool.and_eq_true]
        rintro ⟨acquires, pending⟩
        rcases unacquired with not | none
        · exact Bool.noConfusion (not.symm.trans acquires)
        · rw [none] at pending
          cases pending
      rw [exec_ramo takes data room fits, if_neg free, show f.aux.getLsbD 5 = false from unreleased, if_neg Bool.false_ne_true]
    · have held : (f.aux.getLsbD 5 && !(s.awaitingOf x (setSeq q)).isEmpty || f.aux.getLsbD 4 && !(s.awaiting x).isEmpty) = true := by
        rw [Bool.or_eq_true, Bool.and_eq_true, Bool.and_eq_true]
        exact waits.imp (fun ⟨rel, pending⟩ => ⟨rel, by simpa using pending⟩) fun ⟨acq, pending⟩ => ⟨acq, by simpa using pending⟩
      rw [exec_ramo takes data room fits, if_pos held]
  · rw [exec_rfence_passes head data (by simp [none]) (by simp [none]), State.fenced_none _ _ _ acq rel]
  · exact ⟨_, exec_rfence_passes head data (by simp [none]) (by simp [none]), State.fenced_frame ..⟩
  · exact exec_rfence_waits head data (.inl ⟨rel, some⟩)
  · exact exec_rfence_waits head data (.inr ⟨acq, read⟩)
  · exact ⟨_, exec_rfence_passes head data (fun acquires => Bool.noConfusion (rel.symm.trans acquires)) fun _ => none, State.fenced_frame ..⟩
  · intro u give
    refine ⟨fun kept live => ⟨fun d off ws op reply => ?_, fun d off b k op reply => ?_, fun d off k b e ws w op reply word plain => ?_,
      fun d off n op reply => ?_⟩, fun d off n op lost live => ?_, fun d off op dead reply => ?_⟩
    · exact exec_remoteReply_gives named ((if_neg (by simp [kept])).trans reply) (o.result_read op _ ws) live
        (State.replyAcquire_other (by simp [op]))
    · exact exec_remoteReply_gives named ((if_neg (by simp [kept])).trans reply) (o.result_write op _) live
        (State.replyAcquire_other (by simp [op]))
    · exact exec_remoteReply_gives named ((if_neg (by simp [kept])).trans reply) (o.result_atomic op _ ws) live
        (State.replyAcquire_plain word plain)
    · exact exec_remoteReply_gives named ((if_neg (by simp [kept])).trans reply) (o.result_xlate _) live
        (State.replyAcquire_other (by simp [op]))
    · exact exec_remoteReply_gives named (if_pos lost) (o.result_link _) live (State.replyAcquire_other (by simp [op]))
    · obtain ⟨r, out, answer, result⟩ : ∃ r out, (if s.viaLost o.via then .link else s.input.reply) = r ∧
          o.result (s.self s.tile 0) r = some out := by
        by_cases lost : s.viaLost o.via = true
        · exact ⟨_, _, if_pos lost, o.result_link _⟩
        · rcases reply.resolve_left lost with ⟨ws, value⟩ | xlate
          · exact ⟨_, _, (if_neg lost).trans value, o.result_read op _ ws⟩
          · exact ⟨_, _, (if_neg lost).trans xlate, o.result_xlate _⟩
      rw [exec_remoteReply named answer result, dead, if_pos rfl]
  · refine ⟨fun d off n h s1 req at_ => ?_, fun d off bs h s1 req some at_ wf mem => ?_, fun d off n req none => ?_⟩
    · change execRemoteRequestServe s = _
      rw [execRemoteRequestServe, req, State.serveRemote_read at_]
    · refine ⟨_, rfl, ?_⟩
      rw [req, State.serveRemote_write some at_]
      exact State.fillWrite_stored wf mem none
    · change execRemoteRequestServe s = _
      rw [execRemoteRequestServe, req, State.serveRemote_fault none]

end Sys2Proof.Machine
end

section
/-! The proof of O39: seqbind, sequnbind and seqstep. -/

namespace Sys2Proof.Machine

variable {s s1 : State} {a b d : Reg} {x y : Word} {k : BitVec 12} {blk bytes : List Byte}

/-! ## Words of fields (R413, R414) -/

/-- A field above a number is that number with the field's multiple added. -/
theorem ofNat_or_field {v lo : Nat} (below : v < 2 ^ lo) (n w : Nat) :
    BitVec.ofNat 64 v ||| field lo n w = BitVec.ofNat 64 (v + w % 2 ^ n * 2 ^ lo) := by
  rw [field, ← BitVec.ofNat_or, Nat.or_comm, Nat.mul_comm, ← Nat.two_pow_add_eq_or_of_lt below, Nat.add_comm]

theorem field_zero_eq_ofNat (n w : Nat) : field 0 n w = BitVec.ofNat 64 (w % 2 ^ n) := by rw [field, Nat.pow_zero, Nat.mul_one]

/-- A status (R413). -/
theorem seqStatus_eq (cause word : Nat) : seqStatus cause word = 0xC000000000000000 ||| BitVec.ofNat 64 (word % 256 * 256 + cause % 256) := by
  have low : cause % 2 ^ 8 < 2 ^ 8 := Nat.mod_lt _ (by decide)
  rw [seqStatus, BitVec.or_assoc, BitVec.or_comm (field 8 8 word), field_zero_eq_ofNat, ofNat_or_field low, Nat.add_comm]
  rfl

/-! ## The checks of seqbind (R411, R412) -/

theorem State.seqbind_ungranted (none : s.larderSlot x = none) : s.seqbind x y = (seqStatus 0x12 0, s) := by
  rw [State.seqbind, none]

section
variable (slot : s.larderSlot x = some k)
include slot

theorem State.seqbind_used (bound : s.lbind k ≠ none) : s.seqbind x y = (seqStatus 0x11 0, s) := by
  rw [State.seqbind, slot]
  exact if_pos (Option.isSome_iff_ne_none.mpr bound)

variable (free : s.lbind k = none)
include free

theorem State.seqbind_unread (unread : 2 ^ 57 ≤ y.toNat ∨ ∃ e, s.readCore y.toNat 32 = .error e) : s.seqbind x y = (seqStatus 0x15 0, s) := by
  have failed : ∃ e, (if y.extractLsb' 57 7 = 0 then s.readCore y.toNat 32 else .error (y.toNat, .window)) = .error e := by
    rcases unread with high | ⟨e, failed⟩
    · exact ⟨_, if_neg fun zero => Nat.not_lt.mpr high (high_bits_eq_zero_iff.mp zero)⟩
    · by_cases zero : y.extractLsb' 57 7 = 0
      · exact ⟨e, (if_pos zero).trans failed⟩
      · exact ⟨_, if_neg zero⟩
  obtain ⟨e, failed⟩ := failed
  rw [State.seqbind, slot]
  dsimp only
  rw [free, if_neg (by simp), failed]

end

/-- The number of words, the sampler and the program slot that a block names (R411). -/
def seqLength (blk : List Byte) : Nat := ((dwordAt blk 1).extractLsb' 0 9).toNat
def seqSampler (blk : List Byte) : Fin 8 := ⟨((dwordAt blk 1).extractLsb' 9 3).toNat, ((dwordAt blk 1).extractLsb' 9 3).isLt⟩
def seqProgram (blk : List Byte) : Nat := ((dwordAt blk 1).extractLsb' 12 6).toNat

/-- A block that is well formed (R411). -/
def seqFormed (y : Word) (blk : List Byte) : Prop :=
  y.toNat % 32 = 0 ∧ 1 ≤ seqLength blk ∧ seqLength blk ≤ 256 ∧ (dwordAt blk 0).toNat < 2 ^ 57 ∧ (dwordAt blk 0).toNat % 4 = 0 ∧
    (dwordAt blk 1).toNat < 2 ^ 19 ∧ dwordAt blk 2 = 0 ∧ dwordAt blk 3 = 0

/-- The partition is granted the sampler and its program slot (R412). -/
def State.seqGranted (s : State) (blk : List Byte) : Prop :=
  (s.part s.pid).grants.samplers.contains (seqSampler blk).val = true ∧
    (s.part s.pid).grants.pslots.contains ((seqSampler blk).val, seqProgram blk) = true

/-- The words of a program (R68). -/
def seqWords (blk bytes : List Byte) : List Word32 :=
  (List.range (seqLength blk)).map fun i => BitVec.ofNat 32 (leNat ((bytes.drop (4 * i)).take 4))

/-- Its program slot holds another program of bound slots (R412). -/
def State.seqDiffers (s : State) (blk bytes : List Byte) : Prop :=
  (∃ o ∈ s.larder, o.smp = (seqSampler blk).val ∧ o.pslot = seqProgram blk) ∧
    lookupD s.smps[seqSampler blk].progs (seqProgram blk) [] ≠ seqWords blk bytes

/-- The state in which the program is loaded and the slot is bound. -/
def State.seqBound (s : State) (k : BitVec 12) (blk bytes : List Byte) : State :=
  { s.onSmp (seqSampler blk) fun z => { z with progs := assign z.progs (seqProgram blk) (seqWords blk bytes) } with
    larder := s.larder ++ [⟨k, s.pid, (seqSampler blk).val, seqProgram blk⟩] }

theorem bits_19_eq_zero_iff (w : Word) : w.extractLsb' 19 45 = 0 ↔ w.toNat < 2 ^ 19 := by
  rw [← BitVec.toNat_inj, BitVec.extractLsb'_toNat, Nat.shiftRight_eq_div_pow]
  have := w.isLt
  simp
  omega

/-- The model's checks of a block say that it is not well formed. -/
theorem not_seqFormed_iff : (y.toNat % 32 ≠ 0 ∨ (dwordAt blk 0).extractLsb' 57 7 ≠ 0 ∨ (dwordAt blk 1).extractLsb' 19 45 ≠ 0 ∨
    dwordAt blk 2 ≠ 0 ∨ dwordAt blk 3 ≠ 0 ∨ seqLength blk = 0 ∨ 256 < seqLength blk ∨ (dwordAt blk 0).toNat % 4 ≠ 0) ↔ ¬ seqFormed y blk := by
  rw [seqFormed, ne_eq, ne_eq, ne_eq, high_bits_eq_zero_iff, bits_19_eq_zero_iff]
  have empty : seqLength blk = 0 ↔ ¬ 1 ≤ seqLength blk := by omega
  have long : 256 < seqLength blk ↔ ¬ seqLength blk ≤ 256 := by omega
  rw [empty, long]
  tauto

theorem seqDiffers_iff : ((s.larder.any fun z => z.smp == (seqSampler blk).val && z.pslot == seqProgram blk) &&
    lookupD s.smps[seqSampler blk].progs (seqProgram blk) [] != seqWords blk bytes) = true ↔ s.seqDiffers blk bytes := by
  rw [Bool.and_eq_true, List.any_eq_true, bne_iff_ne, State.seqDiffers]
  simp only [Bool.and_eq_true, beq_iff_eq]

section
variable (slot : s.larderSlot x = some k) (free : s.lbind k = none) (low : y.toNat < 2 ^ 57) (read : s.readCore y.toNat 32 = .ok blk)
include slot free low read

/-- What seqbind does with a block that it has read. -/
theorem State.seqbind_block : s.seqbind x y =
    if y.toNat % 32 ≠ 0 ∨ (dwordAt blk 0).extractLsb' 57 7 ≠ 0 ∨ (dwordAt blk 1).extractLsb' 19 45 ≠ 0 ∨ dwordAt blk 2 ≠ 0 ∨ dwordAt blk 3 ≠ 0 ∨
      seqLength blk = 0 ∨ 256 < seqLength blk ∨ (dwordAt blk 0).toNat % 4 ≠ 0 then (seqStatus 0x10 0, s)
    else if !((s.part s.pid).grants.samplers.contains (seqSampler blk).val &&
      (s.part s.pid).grants.pslots.contains ((seqSampler blk).val, seqProgram blk)) then (seqStatus 0x12 0, s)
    else if !headerOk (s.viewBytes (larderAt k) 64) then (seqStatus 0x13 0, s)
    else match s.readCore (dwordAt blk 0).toNat (4 * seqLength blk) with
      | .error _ => (seqStatus 0x15 0, s)
      | .ok bytes => match logitExamine (seqWords blk bytes) with
        | some q => (seqStatus q.1 q.2, s)
        | none =>
          if (s.larder.any fun z => z.smp == (seqSampler blk).val && z.pslot == seqProgram blk) &&
            lookupD s.smps[seqSampler blk].progs (seqProgram blk) [] != seqWords blk bytes then (seqStatus 0x14 0, s)
          else (0, if (dwordAt blk 1).getLsbD 18 then (s.seqBound k blk bytes).clearLarder k else s.seqBound k blk bytes) := by
  rw [State.seqbind, slot]
  dsimp only
  rw [free, if_neg (by simp), if_pos (high_bits_eq_zero_iff.mpr low), read]
  rfl

theorem State.seqbind_malformed (formed : ¬ seqFormed y blk) : s.seqbind x y = (seqStatus 0x10 0, s) := by
  rw [State.seqbind_block slot free low read, if_pos (not_seqFormed_iff.mpr formed)]

variable (formed : seqFormed y blk)
include formed

theorem State.seqbind_refused (granted : ¬ s.seqGranted blk) : s.seqbind x y = (seqStatus 0x12 0, s) := by
  rw [State.seqbind_block slot free low read, if_neg (mt not_seqFormed_iff.mp (not_not.mpr formed)), if_pos]
  rwa [Bool.not_eq_true', ← Bool.not_eq_true, Bool.and_eq_true]

variable (granted : s.seqGranted blk)
include granted

theorem State.seqbind_header (bad : headerOk (s.viewBytes (larderAt k) 64) = false) : s.seqbind x y = (seqStatus 0x13 0, s) := by
  rw [State.seqbind_block slot free low read, if_neg (mt not_seqFormed_iff.mp (not_not.mpr formed)),
    granted.1, granted.2, bad]
  rfl

variable (header : headerOk (s.viewBytes (larderAt k) 64) = true)
include header

theorem State.seqbind_unreadable {e} (unread : s.readCore (dwordAt blk 0).toNat (4 * seqLength blk) = .error e) :
    s.seqbind x y = (seqStatus 0x15 0, s) := by
  rw [State.seqbind_block slot free low read, if_neg (mt not_seqFormed_iff.mp (not_not.mpr formed)), granted.1, granted.2, header, unread]
  rfl

variable (text : s.readCore (dwordAt blk 0).toNat (4 * seqLength blk) = .ok bytes)
include text

/-- What it does with a program that it has read. -/
theorem State.seqbind_loads : s.seqbind x y = match logitExamine (seqWords blk bytes) with
    | some q => (seqStatus q.1 q.2, s)
    | none =>
      if (s.larder.any fun z => z.smp == (seqSampler blk).val && z.pslot == seqProgram blk) &&
        lookupD s.smps[seqSampler blk].progs (seqProgram blk) [] != seqWords blk bytes then (seqStatus 0x14 0, s)
      else (0, if (dwordAt blk 1).getLsbD 18 then (s.seqBound k blk bytes).clearLarder k else s.seqBound k blk bytes) := by
  rw [State.seqbind_block slot free low read, if_neg (mt not_seqFormed_iff.mp (not_not.mpr formed)), granted.1, granted.2, header, text]
  rfl

theorem State.seqbind_badWord {q : Nat × Nat} (bad : logitExamine (seqWords blk bytes) = some q) :
    s.seqbind x y = (seqStatus q.1 q.2, s) := by
  rw [State.seqbind_loads slot free low read formed granted header text]
  simp only [bad]

/-- A good program in a slot that holds another one of bound slots. -/
theorem State.seqbind_differs (good : logitExamine (seqWords blk bytes) = none) (other : s.seqDiffers blk bytes) :
    s.seqbind x y = (seqStatus 0x14 0, s) := by
  rw [State.seqbind_loads slot free low read formed granted header text]
  simp only [good]
  exact if_pos (seqDiffers_iff.mpr other)

/-- A good program is loaded and its slot bound. -/
theorem State.seqbind_binds (good : logitExamine (seqWords blk bytes) = none) (same : ¬ s.seqDiffers blk bytes) : s.seqbind x y =
    (0, if (dwordAt blk 1).getLsbD 18 then (s.seqBound k blk bytes).clearLarder k else s.seqBound k blk bytes) := by
  rw [State.seqbind_loads slot free low read formed granted header text]
  simp only [good]
  exact if_neg (mt seqDiffers_iff.mp same)

end

/-! ## What binding leaves (R412) -/

theorem State.seqBound_larder : (s.seqBound k blk bytes).larder = s.larder ++ [⟨k, s.pid, (seqSampler blk).val, seqProgram blk⟩] := rfl

theorem State.seqBound_progs : lookupD (s.seqBound k blk bytes).smps[seqSampler blk].progs (seqProgram blk) [] = seqWords blk bytes := by
  have loaded : (s.seqBound k blk bytes).smps[seqSampler blk].progs =
      assign s.smps[seqSampler blk].progs (seqProgram blk) (seqWords blk bytes) := by
    simp [State.seqBound, State.onSmp]
  rw [loaded, lookupD, assign, List.find?_cons_of_pos (by simp)]
  rfl

/-! ## CLR (R412, R425) -/

/-- What the samplers and their bindings are, which no access changes. -/
def State.samplerSide (s : State) : List LBind × Vector Sampler 8 := (s.larder, s.smps)

theorem State.performRmw_samplerSide (s : State) (home : Nat) (q : Rmw) (check : Bool) (mark : Option Shadow) :
    (s.performRmw home q check mark).2.samplerSide = s.samplerSide := by
  have seen : (((s.coreSee check home 8).reads home).rmwAcquires home q check).samplerSide = s.samplerSide := by
    unfold State.rmwAcquires State.coreSee
    split <;> split <;> try split
    all_goals rfl
  unfold State.performRmw
  dsimp only
  split
  · exact seen
  · split <;> exact seen

theorem State.performLoad_samplerSide (s : State) (i : Nat) : (s.performLoad i).samplerSide = s.samplerSide := by
  have done (u : State) (c : Core) : (u.setCore c).samplerSide = u.samplerSide := rfl
  unfold State.performLoad
  split
  · rfl
  · split
    · rfl
    · rw [done]
      split
      · exact State.performRmw_samplerSide ..
      · unfold State.coreSee
        split <;> rfl

theorem State.performBefore_samplerSide (s : State) (p : LoadOp → Bool) (i home n : Nat) :
    (s.performBefore p i home n).samplerSide = s.samplerSide :=
  foldl_keeps State.samplerSide State.performLoad_samplerSide

theorem State.performStore_samplerSide (s : State) (i : Nat) (st : StoreOp) : (s.performStore i st).samplerSide = s.samplerSide := by
  have before := State.performBefore_samplerSide s (fun l => decide (l.older ≤ i)) s.core.loads.length st.home st.span
  unfold State.performStore
  by_cases far : st.isRemote = true
  · simp only [far, if_true]
    rfl
  · simp only [far, if_false, Bool.false_eq_true]
    split
    · exact (State.performRmw_samplerSide ..).trans before
    · split <;> exact before

theorem State.performOwn_samplerSide (s : State) (home n : Nat) : (s.performOwn home n).samplerSide = s.samplerSide := by
  refine (foldl_keeps State.samplerSide fun u _ => ?_).trans (State.performBefore_samplerSide ..)
  split
  · rfl
  · split
    · rfl
    · exact State.performStore_samplerSide ..

theorem State.writeMem_samplerSide (s : State) (by_ : Option (Fin 64)) (home : Nat) (bytes : List Byte) :
    (s.writeMem by_ home bytes).samplerSide = s.samplerSide := rfl

/-- What the core has to perform at the slot is performed, and a free value drawn (R425). -/
def State.clearStarts (s : State) (k : BitVec 12) : Nat × State := (s.performOwn (larderAt k) (2 ^ 17)).draw

/-- The larder with the COUNTS table emptied, before the header is cleared. -/
def State.emptyCounts (s : State) (k : BitVec 12) : State :=
  (List.range 4096).foldl (fun u i => u.writeMem (some u.cur) (larderAt k + 0x4000 + 8 * i)
    (leBytes 8 (noId + (Config.emptyCount (s.clearStarts k).1 i).toNat * 2 ^ 32))) (s.clearStarts k).2

theorem State.clearLarder_eq (s : State) (k : BitVec 12) : s.clearLarder k =
    ((s.emptyCounts k).writeMem (some s.cur) (larderAt k + 8) (leBytes 4 0)).writeMem (some s.cur)
      (larderAt k + 16) (leBytes 8 (memDword (s.emptyCounts k).mem (larderAt k + 16) &&& ~~~0xFFFFF).toNat) := by
  unfold State.clearLarder State.emptyCounts State.clearStarts
  generalize (s.performOwn (larderAt k) (2 ^ 17)).draw = start
  obtain ⟨n, u⟩ := start
  dsimp only

theorem State.clearLarder_samplerSide (s : State) (k : BitVec 12) : (s.clearLarder k).samplerSide = s.samplerSide := by
  have counts : (s.emptyCounts k).samplerSide = s.samplerSide :=
    (foldl_keeps State.samplerSide fun u i => State.writeMem_samplerSide ..).trans (State.performOwn_samplerSide ..)
  rw [State.clearLarder_eq, State.writeMem_samplerSide, State.writeMem_samplerSide, counts]

theorem State.clears_samplerSide (s : State) (k : BitVec 12) (clr : Bool) :
    (if clr then s.clearLarder k else s).samplerSide = s.samplerSide := by
  split
  · exact s.clearLarder_samplerSide k
  · rfl

theorem State.emptyCounts_wf (k : BitVec 12) (wf : Memory.wf s = true) : Memory.wf (s.emptyCounts k) = true := by
  have start : (s.clearStarts k).2.Ok := (State.Ok.performOwn ⟨wf⟩).of_mem rfl
  exact (start.foldl fun _ _ h => h.writeMem).mem

/-- Bytes that a write does not reach. -/
theorem memGets_memSets_apart {m : List Host.Cell} {a b n : Nat} {bs : List Byte} (wf : memWf m = true)
    (apart : a + n ≤ b ∨ b + bs.length ≤ a) : memGets (memSets m b bs) a n = memGets m a n := by
  rw [memGets_eq_map, memGets_eq_map]
  refine List.map_congr_left fun i inside => ?_
  have := List.mem_range.mp inside
  rw [memGet_memSets _ _ _ wf, if_neg (by omega)]

/-- A dword written reads back. -/
theorem memDword_memSets {m : List Host.Cell} {a : Nat} {v : Word} (wf : memWf m = true) :
    memDword (memSets m a (leBytes 8 v.toNat)) a = v := by
  have same : memGets (memSets m a (leBytes 8 v.toNat)) a 8 = leBytes 8 v.toNat := memGets_memSets wf
  rw [memDword, same, leNat_leBytes, Nat.mod_eq_of_lt (show v.toNat < 256 ^ 8 from v.isLt), BitVec.ofNat_toNat, BitVec.setWidth_eq]

/-- A word without its low twenty bits. -/
theorem and_not_low_20 (w : Word) : (w &&& ~~~0xFFFFF).toNat % 2 ^ 20 = 0 := by
  have low : (w &&& ~~~0xFFFFF).setWidth 20 = 0 := by
    rw [BitVec.setWidth_and]
    exact BitVec.and_zero
  rw [← BitVec.toNat_setWidth, low]
  rfl

/-- STEP, LAST, LV and CFULL are 0 behind CLR. -/
theorem State.clearLarder_header (wf : Memory.wf s = true) : (memDword (s.clearLarder k).mem (larderAt k + 8)).toNat % 2 ^ 32 = 0 ∧
    (memDword (s.clearLarder k).mem (larderAt k + 16)).toNat % 2 ^ 20 = 0 := by
  have counts := State.emptyCounts_wf k wf
  rw [State.clearLarder_eq, State.writeMem_mem, State.writeMem_mem]
  have step : memWf (memSets (s.emptyCounts k).mem (larderAt k + 8) (leBytes 4 0)) = true := memSets_wf _ _ counts
  constructor
  · have zeros : memGets (memSets (s.emptyCounts k).mem (larderAt k + 8) (leBytes 4 0)) (larderAt k + 8) 4 = leBytes 4 0 :=
      memGets_memSets counts
    rw [show (2 : Nat) ^ 32 = 256 ^ 4 from rfl, memDword_low _ _ 4 (by decide), memGets_memSets_apart step (.inl (by omega)), zeros,
      leNat_leBytes, Nat.zero_mod]
  · rw [memDword_memSets step]
    exact and_not_low_20 _

/-! ## seqstep (R414, R421) -/

/-- Outside a region and with no store outstanding a core sees memory as it is. -/
theorem State.viewBytes_mem (stores : s.core.stores = []) (tx : s.core.tx = none) (home n : Nat) :
    s.viewBytes home n = memGets s.mem home n := by
  rw [State.viewBytes, State.bytesUnder, Core.ownStores, stores, tx, memGets_eq_map]
  exact List.map_congr_left fun i _ => keepRo_self ..

/-- A dword of bytes of memory. -/
theorem dwordAt_memGets (m : List Host.Cell) (a n : Nat) {i j : Nat} (at_ : 8 * i = j) (inside : j + 8 ≤ n) :
    dwordAt (memGets m a n) i = memDword m (a + j) := by
  subst at_
  rw [dwordAt, memDword, memGets_eq_map, memGets_eq_map]
  refine congrArg (fun l => BitVec.ofNat 64 (leNat l)) (List.ext_getElem (by simp; omega) fun j _ _ => ?_)
  simp [Nat.add_assoc]

/-- The state word in the manual's terms (R414). -/
theorem State.seqWord_eq (stores : s.core.stores = []) (tx : s.core.tx = none) (k : BitVec 12) : s.seqWord k =
    BitVec.ofNat 64 ((memDword s.mem (larderAt k + 8)).toNat % 2 ^ 32 + (memDword s.mem (larderAt k + 16)).toNat % 2 ^ 20 * 2 ^ 32 +
      (match s.lbind k with | none => 0 | some b => 2 ^ 52 + b.smp % 8 * 2 ^ 53 + b.pslot % 64 * 2 ^ 56)) := by
  have step : (((dwordAt (memGets s.mem (larderAt k) 24) 1).extractLsb' 0 32).toNat) = (memDword s.mem (larderAt k + 8)).toNat % 2 ^ 32 := by
    rw [dwordAt_memGets _ _ _ rfl (by decide), BitVec.extractLsb'_toNat, Nat.shiftRight_zero]
  have last : (((dwordAt (memGets s.mem (larderAt k) 24) 2).extractLsb' 0 20).toNat) = (memDword s.mem (larderAt k + 16)).toNat % 2 ^ 20 := by
    rw [dwordAt_memGets _ _ _ rfl (by decide), BitVec.extractLsb'_toNat, Nat.shiftRight_zero]
  unfold State.seqWord
  rw [State.viewBytes_mem stores tx]
  dsimp only
  rw [step, last]
  generalize (memDword s.mem (larderAt k + 8)).toNat = u
  generalize (memDword s.mem (larderAt k + 16)).toNat = v
  have low : field 0 32 (u % 2 ^ 32) ||| field 32 20 (v % 2 ^ 20) = BitVec.ofNat 64 (u % 2 ^ 32 + v % 2 ^ 20 * 2 ^ 32) := by
    rw [field_zero_eq_ofNat, ofNat_or_field (by omega), Nat.mod_mod, Nat.mod_mod]
  cases s.lbind k with
  | none => rw [Nat.add_zero, low]
  | some b =>
    have one : bit 52 true = field 52 1 1 := by simp [bit, field]
    simp only [low, one]
    rw [ofNat_or_field (by omega), ofNat_or_field (by omega), ofNat_or_field (by omega)]
    refine congrArg _ ?_
    omega

/-! ## The three instructions -/

/-- What seqbind answers. -/
theorem answers_seqbind (free : Says.Free s) (reads : Says.Reads s [a, b] [x, y] s1) {w : Word} {u : State} (result : s1.seqbind x y = (w, u)) :
    Says.Answers (.seqbind d a b) s d w u :=
  answers_of_reads free reads rfl (by simp only [List.getD_cons_zero, List.getD_cons_succ, result])

theorem exec_sequnbind (free : Says.Free s) (reads : Says.Reads s [a] [x] s1) : exec (.sequnbind a) s = .next
    (match s.larderSlot x with
    | none => s.trap tHANDLE x
    | some k => if s.smps.any (·.uses k true) then s else Says.goesOn s1 { s1 with larder := s1.larder.filter (·.slot ≠ k) }) := by
  rw [exec_of_reads free reads rfl]
  rfl

theorem exec_seqstep (free : Says.Free s) (reads : Says.Reads s [a] [x] s1) : exec (.seqstep d a) s = .next
    (match s.larderSlot x with
    | none => s.finish s1 d (-1)
    | some k => if s.smps.any (·.uses k false) then s else s.finish (s1.acquire 3) d (s1.seqWord k)) := by
  rw [exec_of_reads free reads rfl]
  rfl

/-- Where seqbind fails it changes nothing. -/
theorem State.seqbind_fails (failed : (s.seqbind x y).1 ≠ 0) : (s.seqbind x y).2 = s := by
  revert failed
  fun_cases State.seqbind s x y
  all_goals simp

/-- Settles O39, by the first of seqbind's checks that fails. -/
theorem sequenceBindings : Obligations.SequenceBindings := by
  unfold Obligations.SequenceBindings
  refine ⟨fun d a b s x y s1 free reads => ?_, fun a s x s1 free reads => ⟨fun none => ?_, fun k slot => ?_⟩,
    fun d a s x s1 free reads => ⟨fun none t put => ?_, fun k slot uses => ?_, fun k slot unused => ?_⟩⟩
  · intro answers
    have answer {w v : Word} {u : State} (result : s1.seqbind x y = (w, u)) (eq : w = v) : Says.Answers (.seqbind d a b) s d v u :=
      eq ▸ answers_seqbind free reads result
    refine ⟨answers_seqbind free reads rfl, State.seqbind_fails, fun none => answer (State.seqbind_ungranted none) rfl, fun k slot =>
      ⟨fun bound => answer (State.seqbind_used slot bound) rfl, fun free_ => ⟨fun unread => answer (State.seqbind_unread slot free_ unread) rfl,
        fun blk low read => ?_⟩⟩⟩
    intro n m ps formed granted
    refine ⟨fun malformed => answer (State.seqbind_malformed slot free_ low read malformed) rfl,
      fun formed refused => answer (State.seqbind_refused slot free_ low read formed refused) rfl,
      fun formed granted bad => answer (State.seqbind_header slot free_ low read formed granted bad) rfl,
      fun formed granted header => ⟨fun e unread => answer (State.seqbind_unreadable slot free_ low read formed granted header unread) rfl,
        fun bytes text => ?_⟩⟩
    intro ws other
    refine ⟨fun q bad => ?_, fun good differs => ?_, fun good same wf => ?_⟩
    · exact answer (State.seqbind_badWord slot free_ low read formed granted header text bad) (seqStatus_eq ..)
    · exact answer (State.seqbind_differs slot free_ low read formed granted header text good differs) rfl
    · refine ⟨_, answer (State.seqbind_binds slot free_ low read formed granted header text good same) rfl, ?_, ?_, fun keep => ?_, fun clear => ?_⟩
      · exact (congrArg Prod.fst (State.clears_samplerSide ..)).trans (State.seqBound_larder (bytes := bytes))
      · have smps := congrArg Prod.snd (State.clears_samplerSide (s1.seqBound k blk bytes) k ((dwordAt blk 1).getLsbD 18))
        exact (congrArg (fun v : Vector Sampler 8 => lookupD v[m].progs ps []) smps).trans (State.seqBound_progs (k := k))
      · rw [keep, if_neg Bool.false_ne_true]
        exact ⟨(reads_frame reads).mem, rfl⟩
      · rw [clear, if_pos rfl]
        exact State.clearLarder_header wf
  · rw [exec_sequnbind free reads, none]
    rfl
  · rw [exec_sequnbind free reads, slot]
  · rw [exec_seqstep free reads, none]
    exact congrArg _ (State.finish_ok put)
  · rw [exec_seqstep free reads, slot]
    exact congrArg _ (if_pos uses)
  · intro lo stores tx t put
    have frame := reads_frame reads
    have own : s.core.stores = [] := stores _ (by simp [State.core])
    have word := State.seqWord_eq (s := s1) (frame.stores.trans own) (frame.tx.trans tx) k
    rw [frame.mem] at word
    rw [exec_seqstep free reads, slot]
    dsimp only
    rw [word]
    refine congrArg _ ((if_neg (by simp [unused])).trans ?_)
    exact State.finish_ok put

end Sys2Proof.Machine
end

section
/-! The proof of O28: power states, measured boot and power-off. -/

namespace Sys2Proof.Machine

variable {s : State}

/-! ## Memory that loses its power (R437) -/

/-- A byte that is lost reads as unwritten, and every other byte as before. -/
theorem memGet_filter (m : List Host.Cell) (keep : Nat → Bool) (k : Nat) :
    memGet (m.filter fun c => keep c.1) k = if keep k then memGet m k else unlisted := by
  induction m with
  | nil => simp [memGet]
  | cons c m ih =>
    obtain ⟨a, v⟩ := c
    rw [List.filter_cons]
    by_cases kept : keep a = true
    · rw [if_pos kept, memGet, memGet, ih]
      by_cases here : k = a
      · rw [if_pos here, if_pos here, here, if_pos kept]
      · rw [if_neg here, if_neg here]
    · rw [if_neg kept, ih, memGet]
      by_cases here : k = a
      · rw [here, if_neg kept, if_neg kept]
      · rw [if_neg here]

/-- The state in which the supervisor has saved every started partition's context (R437). -/
def State.stashed (s : State) : State :=
  (List.finRange 16).foldl (fun s i => if s.parts[i].booted then s.stash (BitVec.ofNat 4 i.val) else s) s

theorem State.stashed_mem (s : State) : s.stashed.mem = s.mem :=
  foldl_keeps State.mem fun u i => by split <;> simp

/-- What P3 makes of a state. -/
def State.inP3 (s : State) : State :=
  { s with
    power := .p3, powerAsk := none, mem := s.mem.filter fun c => !(decide (vaultBase ≤ c.1) || decide (c.1 < 2 ^ 40)),
    olds := s.olds.filter fun o => !(decide (vaultBase ≤ o.home) || decide (o.home < 2 ^ 40)), bins := [],
    flight := [], qtlb := [], tiles := s.tiles.map fun (x : Tile) => Tile.zero x.id,
    cores := mapAll s.cores fun (k : Core) => { k with tlb := [] } }

theorem State.losePower_p3_eq (s : State) : s.losePower .p3 = s.stashed.inP3 := by
  rw [State.losePower]
  exact if_pos (.inr rfl)

theorem State.inP3_mem (s : State) (k : Nat) : memGet s.inP3.mem k = if vaultBase ≤ k ∨ k < 2 ^ 40 then unlisted else memGet s.mem k := by
  refine (memGet_filter s.mem (fun a => !(decide (vaultBase ≤ a) || decide (a < 2 ^ 40))) k).trans ?_
  have flag : (!(decide (vaultBase ≤ k) || decide (k < 2 ^ 40))) = true ↔ ¬ (vaultBase ≤ k ∨ k < 2 ^ 40) := by
    simp only [Bool.not_eq_true', Bool.or_eq_false_iff, decide_eq_false_iff_not, not_or]
  by_cases lost : vaultBase ≤ k ∨ k < 2 ^ 40
  · rw [if_pos lost, if_neg (mt flag.mp (not_not.mpr lost))]
  · rw [if_neg lost, if_pos (flag.mpr lost)]

/-- What P3 leaves of memory, the bins and the power's state (R437). -/
theorem State.losePower_p3 (s : State) : (s.losePower .p3).power = .p3 ∧ (s.losePower .p3).powerAsk = none ∧ (s.losePower .p3).bins = [] ∧
    ∀ k, memGet (s.losePower .p3).mem k = if vaultBase ≤ k ∨ k < 2 ^ 40 then unlisted else memGet s.mem k := by
  rw [State.losePower_p3_eq]
  have kept := s.stashed_mem
  generalize s.stashed = u at kept ⊢
  exact ⟨rfl, rfl, rfl, fun k => by rw [State.inP3_mem, kept]⟩

/-! ## Changes of power state, budget windows (R437, R438, R440) -/

section
variable (secure : s.sec = .secure)
include secure

theorem exec_powerStateChange_p1 (asks : s.input.pw = .p1) (power : s.power = .p0) :
    exec .powerStateChange s = .next { s with powerAsk := some .p1 } := by
  change execPowerStateChange s = _
  simp [execPowerStateChange, secure, asks, power]

theorem exec_powerStateChange_p3 (asks : s.input.pw = .p3) (power : s.power = .p0) (halted : s.allHalted = true) :
    exec .powerStateChange s = .next (s.losePower .p3) := by
  change execPowerStateChange s = _
  simp [execPowerStateChange, secure, asks, power, halted]

theorem exec_powerStateChange_p0 (asks : s.input.pw = .p0) (power : s.power = .p2) :
    exec .powerStateChange s = .next { s.resumeAll with power := .p0, powerAsk := none } := by
  change execPowerStateChange s = _
  simp [execPowerStateChange, secure, asks, power]

end

/-- With no context saved there is none to put back. -/
theorem State.resumeAll_none (none : ∀ p : Fin 16, s.parts[p].saved = none) : s.resumeAll = s :=
  List.foldlRecOn (motive := fun t => t = s) _ _ rfl fun t same i _ => by
    subst same
    rw [none i]
    rfl

/-- The grants of a new window (R438). -/
def State.windowed (s : State) : State :=
  let s1 := { s with pwrWin := s.pwrWin + 1, pwrCap := s.input.cap }
  if (s.power = .p0 ∨ s.power = .p1) ∧ grantsOk s.input.watts s.input.cap then
    { s1 with pwrGrant := mapEach s1.pwrGrant fun i _ => s.input.watts.getD i.val 0 } else s1

/-- The change between P0 and P1 that a new window brings (R440). -/
def State.shifts (s : State) (power : Power) (ask : Option Power) : State := match power, ask with
  | .p0, some .p1 => { s with power := .p1, powerAsk := none }
  | .p1, some .p0 => { s with power := .p0, powerAsk := none }
  | .p0, some .p0 => { s with powerAsk := none }
  | .p1, some .p1 => { s with powerAsk := none }
  | _, _ => s

theorem exec_budgetWindow (s : State) : exec .budgetWindow s = .next (s.windowed.shifts s.power s.powerAsk) := rfl

/-- What a window in P0 leaves. -/
theorem State.windowed_leaves (power : s.power = .p0) : s.windowed.pwrWin = s.pwrWin + 1 ∧ s.windowed.pwrCap = s.input.cap ∧
    s.windowed.cores = s.cores ∧
    (grantsOk s.input.watts s.input.cap = true → ∀ d : Fin 4, s.windowed.pwrGrant[d] = s.input.watts.getD d.val 0) ∧
    (grantsOk s.input.watts s.input.cap = false → s.windowed.pwrGrant = s.pwrGrant) := by
  rw [State.windowed]
  by_cases ok : grantsOk s.input.watts s.input.cap = true
  · rw [if_pos ⟨.inl power, ok⟩]
    exact ⟨rfl, rfl, rfl, fun _ d => mapEach_get .., fun bad => Bool.noConfusion (ok.symm.trans bad)⟩
  · rw [if_neg fun both => ok both.2]
    exact ⟨rfl, rfl, rfl, fun good => absurd good ok, fun _ => rfl⟩

/-! ## Measured boot (R429, R430) -/

/-- One step goes on when its signature holds, and leaves the module FAILED when it does not. -/
theorem State.bootSteps_cons (s : State) (mr : Nat) (key : List Byte) (x : List Byte × List Byte)
    (rest : List (Nat × List Byte × (List Byte × List Byte))) : s.bootSteps ((mr, key, x) :: rest) =
      if ed448 key (shake256 x.1 64) x.2 then (s.extendMr mr (shake256 x.1 64)).bootSteps rest
      else { s.extendMr mr (shake256 x.1 64) with sec := .failed } := by
  rw [State.bootSteps, State.bootStep]
  cases ed448 key (shake256 x.1 64) x.2 <;> rfl

/-- The images of boot steps 1 to 4. -/
def bootImages (b : BootIn) : List (List Byte) := [b.firmware, b.hub, b.supervisor, b.table].map Prod.fst

/-- The measurement registers with the first `n` images measured (R429). -/
def measuredMrs (b : BootIn) (n : Nat) : List (List Byte) := (State.reset.mrs.zipIdx).map fun q =>
  if q.2 < n then shake256 (q.1 ++ shake256 ((bootImages b).getD q.2 []) 64) 64 else q.1

theorem measuredMrs_length (b : BootIn) (n : Nat) : (measuredMrs b n).length = 20 := by simp [measuredMrs, State.reset]

theorem measuredMrs_getElem (b : BootIn) (n j : Nat) (inside : j < 20) : (measuredMrs b n)[j]'(by rw [measuredMrs_length b]; exact inside) =
    if j < n then shake256 (List.replicate 64 0 ++ shake256 ((bootImages b).getD j []) 64) 64 else List.replicate 64 0 := by
  have zeros : State.reset.mrs = List.replicate 20 (List.replicate 64 0) := rfl
  simp only [measuredMrs, zeros, List.getElem_map, List.getElem_zipIdx, List.getElem_replicate, Nat.zero_add]

/-- The next image measured. -/
theorem measuredMrs_succ (b : BootIn) {n : Nat} (inside : n < 20) :
    (measuredMrs b n).set n (shake256 ((measuredMrs b n).getD n [] ++ shake256 ((bootImages b).getD n []) 64) 64) = measuredMrs b (n + 1) := by
  have here : (measuredMrs b n).getD n [] = List.replicate 64 0 := by
    rw [List.getD_eq_getElem _ _ (by rw [measuredMrs_length b]; exact inside), measuredMrs_getElem b n n inside, if_neg (Nat.lt_irrefl n)]
  refine List.ext_getElem (by simp [measuredMrs_length]) fun j short _ => ?_
  have short' : j < 20 := by simpa [measuredMrs_length] using short
  rw [List.getElem_set, measuredMrs_getElem b _ _ short', measuredMrs_getElem b _ _ short', here]
  by_cases same : n = j
  · subst same
    rw [if_pos rfl, if_pos (Nat.lt_succ_self n)]
  · rw [if_neg same]
    exact if_congr (by omega) rfl rfl

/-- A state whose registers have measured `n` images. -/
def State.measuring (s : State) (b : BootIn) (n : Nat) : State := { s with mrs := measuredMrs b n }

theorem State.measuring_extendMr (s : State) (b : BootIn) {n : Nat} (inside : n < 20) :
    (s.measuring b n).extendMr n (shake256 ((bootImages b).getD n []) 64) = s.measuring b (n + 1) :=
  congrArg (fun mrs => { s with mrs }) (measuredMrs_succ b inside)

/-- The four signatures of the boot (R429). -/
def bootSigned (b : BootIn) : List Bool :=
  let ok (key : List Byte) (x : List Byte × List Byte) := ed448 key (shake256 x.1 64) x.2
  [ok Config.vendorKey b.firmware, ok Config.vendorKey b.hub, ok Config.vendorKey b.supervisor, ok b.ownerKey b.table]

/-- The four steps of a boot. -/
def bootList (b : BootIn) : List (Nat × List Byte × (List Byte × List Byte)) :=
  [(0, Config.vendorKey, b.firmware), (1, Config.vendorKey, b.hub), (2, Config.vendorKey, b.supervisor), (3, b.ownerKey, b.table)]

/-- The next of the four steps. -/
theorem State.bootSteps_measuring (s : State) (b : BootIn) {i : Nat} (inside : i < 20) (key : List Byte) (x : List Byte × List Byte)
    (image : (bootImages b).getD i [] = x.1) (rest : List (Nat × List Byte × (List Byte × List Byte))) :
    (s.measuring b i).bootSteps ((i, key, x) :: rest) =
      if ed448 key (shake256 x.1 64) x.2 then (s.measuring b (i + 1)).bootSteps rest else { s.measuring b (i + 1) with sec := .failed } := by
  rw [State.bootSteps_cons, ← image, State.measuring_extendMr s b inside]

/-- What the four steps leave, by the first of the four signatures that does not hold. -/
theorem State.bootSteps_eq (s : State) (b : BootIn) : (s.measuring b 0).bootSteps (bootList b) =
    if (bootSigned b).getD 0 false then
      if (bootSigned b).getD 1 false then
        if (bootSigned b).getD 2 false then
          if (bootSigned b).getD 3 false then { s.measuring b 4 with sec := .secure }
          else { s.measuring b 4 with sec := .failed }
        else { s.measuring b 3 with sec := .failed }
      else { s.measuring b 2 with sec := .failed }
    else { s.measuring b 1 with sec := .failed } := by
  rw [bootList, State.bootSteps_measuring s b (by decide) _ _ rfl, State.bootSteps_measuring s b (by decide) _ _ rfl,
    State.bootSteps_measuring s b (by decide) _ _ rfl, State.bootSteps_measuring s b (by decide) _ _ rfl]
  rfl

/-- The boot stops at the first signature that does not hold. -/
theorem State.bootSteps_fails (s : State) (b : BootIn) {n : Nat} (inside : n < 4) (held : ((bootSigned b).take n).all id = true)
    (fails : ((bootSigned b).take (n + 1)).all id = false) :
    (s.measuring b 0).bootSteps (bootList b) = { s.measuring b (n + 1) with sec := .failed } := by
  rw [State.bootSteps_eq]
  simp only [bootSigned, List.getD_cons_zero, List.getD_cons_succ] at held fails ⊢
  interval_cases n <;> simp_all

/-- It passes when all four hold. -/
theorem State.bootSteps_passes (s : State) (b : BootIn) (held : ((bootSigned b).take 4).all id = true) :
    (s.measuring b 0).bootSteps (bootList b) = { s.measuring b 4 with sec := .secure } := by
  rw [State.bootSteps_eq]
  simp only [bootSigned, List.getD_cons_zero, List.getD_cons_succ] at held ⊢
  simp_all

/-! ## The partitions' images (R430) -/

/-- A core's first owner in the list of cores. -/
def firstOwner (l : List (Nat × BitVec 4)) (c : Nat) : Option (BitVec 4) := (l.find? (·.1 = c)).map Prod.snd

/-- The cores that start live for a partition are those that name it first. -/
theorem contains_liveCores (l : List (Nat × BitVec 4)) (p : BitVec 4) (c : Nat) :
    (liveCores l p).contains c = true ↔ firstOwner l c = some p := by
  rw [List.contains_iff_mem, liveCores, List.mem_map]
  constructor
  · rintro ⟨q, mem, rfl⟩
    exact (of_decide_eq_true (List.mem_filter.mp mem).2).2
  · intro first
    obtain ⟨q, found, rfl⟩ := Option.map_eq_some_iff.mp first
    have here : q.1 = c := by simpa using List.find?_some found
    exact ⟨q, List.mem_filter.mpr ⟨List.mem_of_find?_eq_some found, by simp [here, found]⟩, here⟩

/-- What a partition is once its image has been measured (R430). -/
def Partition.measured (b : BootIn) (p : BitVec 4) : Partition :=
  let x0 := { Partition.reset with grants := lookupD b.grants p Grants.none, dpn := lookupD b.dpns p 0 }
  match b.images.find? (·.1 = p) with
  | none => x0
  | some (_, im) =>
    let x1 := { x0 with image := imageDigest im, ownerKey := im.owner }
    if imageOk im then { x1 with booted := true, entry := dwAt im.header 8, cfgKey := (im.header.drop 64).take 57 } else x1

/-- The registers once partition `p`'s image has been measured. -/
def mrsAfter (b : BootIn) (p : BitVec 4) (mrs : List (List Byte)) : List (List Byte) := match b.images.find? (·.1 = p) with
  | none => mrs
  | some (_, im) => mrs.set (4 + p.toNat) (shake256 (mrs.getD (4 + p.toNat) [] ++ imageDigest im) 64)

/-- The state in which partition `p`'s image has been measured, and before any of its cores starts. -/
def State.imaged (s : State) (b : BootIn) (p : BitVec 4) : State :=
  { s with parts := s.parts.set p.toNat (Partition.measured b p) p.isLt, mrs := mrsAfter b p s.mrs }

/-- The state in which the partition's cores have started as well. -/
def State.started (s : State) (b : BootIn) (p : BitVec 4) : State :=
  { s.imaged b p with
    cores := mapEach s.cores fun c k => if (liveCores b.cores p).contains c.val then (Partition.measured b p).start p else k }

/-- Step 5 measures, starts the cores, and leaves a context whose cores others hold in the attics. -/
theorem State.bootPart_eq (s : State) (b : BootIn) (p : BitVec 4) : ∃ pre saved,
    s.bootPart b p = (s.started b p).setPart p { Partition.measured b p with pre, saved } := by
  have imaged : (match b.images.find? (·.1 = p) with
      | none => s.setPart p { Partition.reset with grants := lookupD b.grants p Grants.none, dpn := lookupD b.dpns p 0 }
      | some (_, im) =>
        let x1 := { Partition.reset with
          grants := lookupD b.grants p Grants.none, dpn := lookupD b.dpns p 0, image := imageDigest im, ownerKey := im.owner }
        let x := if imageOk im then { x1 with booted := true, entry := dwAt im.header 8, cfgKey := (im.header.drop 64).take 57 } else x1
        (s.extendMr (4 + p.toNat) (imageDigest im)).setPart p x) = s.imaged b p := by
    unfold State.imaged Partition.measured mrsAfter
    cases b.images.find? (·.1 = p) <;> rfl
  have own : (s.imaged b p).part p = Partition.measured b p := State.setPart_part ..
  have again : (s.started b p).setPart p { Partition.measured b p with
      pre := (Partition.measured b p).pre, saved := (Partition.measured b p).saved } = s.started b p := by
    simp [State.setPart, State.started, State.imaged]
  unfold State.bootPart
  extract_lets g src x0 s1 x mine live out s2
  have s1_eq : s1 = s.imaged b p := imaged
  have x_eq : x = Partition.measured b p := (congrArg (State.part · p) s1_eq).trans own
  have s2_eq : s2 = s.started b p := by
    change { s1 with cores := mapEach s1.cores fun c k => if live.contains c.val then x.start p else k } = _
    rw [s1_eq, x_eq]
    rfl
  rw [s2_eq, x_eq]
  split
  · exact ⟨_, _, again.symm⟩
  · exact ⟨_, _, rfl⟩

theorem State.bootPart_leaves (s : State) (b : BootIn) (p : BitVec 4) : (s.bootPart b p).sec = s.sec ∧ (s.bootPart b p).power = s.power ∧
    (s.bootPart b p).mrs = mrsAfter b p s.mrs ∧
    (∃ pre saved, (s.bootPart b p).parts = s.parts.set p.toNat { Partition.measured b p with pre, saved } p.isLt) ∧
    ∀ c : Fin 64, (s.bootPart b p).cores[c] = if firstOwner b.cores c.val = some p then (Partition.measured b p).start p else s.cores[c] := by
  obtain ⟨pre, saved, booted⟩ := s.bootPart_eq b p
  rw [booted]
  refine ⟨rfl, rfl, rfl, ⟨pre, saved, by simp [State.setPart, State.started, State.imaged]⟩, fun c => ?_⟩
  exact (mapEach_get ..).trans (if_congr (contains_liveCores ..) rfl rfl)

theorem mrsAfter_length (b : BootIn) (p : BitVec 4) (mrs : List (List Byte)) : (mrsAfter b p mrs).length = mrs.length := by
  unfold mrsAfter
  split
  · rfl
  · exact List.length_set

/-- A partition's image is measured into its own register. -/
theorem mrsAfter_other (b : BootIn) (p : BitVec 4) (mrs : List (List Byte)) {j : Nat} (other : j ≠ 4 + p.toNat) :
    (mrsAfter b p mrs).getD j [] = mrs.getD j [] := by
  unfold mrsAfter
  split
  · rfl
  · rw [List.getD_eq_getElem?_getD, List.getElem?_set_ne other.symm, ← List.getD_eq_getElem?_getD]

theorem mrsAfter_own (b : BootIn) (p : BitVec 4) {mrs : List (List Byte)} (whole : mrs.length = 20) :
    (mrsAfter b p mrs).getD (4 + p.toNat) [] = match b.images.find? (·.1 = p) with
      | none => mrs.getD (4 + p.toNat) []
      | some q => shake256 (mrs.getD (4 + p.toNat) [] ++ imageDigest q.2) 64 := by
  have inside : 4 + p.toNat < mrs.length := by have := p.isLt; omega
  unfold mrsAfter
  cases b.images.find? (·.1 = p) with
  | none => rfl
  | some q =>
    have set_ : ∀ v : List Byte, (mrs.set (4 + p.toNat) v).getD (4 + p.toNat) [] = v := fun v => by
      rw [List.getD_eq_getElem _ _ (by simpa using inside), List.getElem_set_self]
    exact set_ _

/-- What a booted partition is. -/
theorem Partition.measured_facts (b : BootIn) (p : BitVec 4) : (Partition.measured b p).grants = lookupD b.grants p Grants.none ∧
    (Partition.measured b p).dpn = lookupD b.dpns p 0 ∧ match b.images.find? (·.1 = p) with
      | none => (Partition.measured b p).booted = false
      | some q => (Partition.measured b p).booted = imageOk q.2 ∧ (imageOk q.2 = true →
          (Partition.measured b p).entry = dwAt q.2.header 8 ∧ (Partition.measured b p).cfgKey = (q.2.header.drop 64).take 57) := by
  unfold Partition.measured
  cases b.images.find? (·.1 = p) with
  | none => exact ⟨rfl, rfl, rfl⟩
  | some q =>
    dsimp only
    cases ok : imageOk q.2 with
    | false => exact ⟨rfl, rfl, rfl, fun good => Bool.noConfusion good⟩
    | true => exact ⟨rfl, rfl, rfl, fun _ => ⟨rfl, rfl⟩⟩

/-- Step 5 for the partitions of a list. -/
def State.bootAll (s : State) (b : BootIn) (l : List (BitVec 4)) : State := l.foldl (fun s p => s.bootPart b p) s

/-- What step 5 leaves of the module. -/
theorem State.bootAll_frame (s : State) (b : BootIn) (l : List (BitVec 4)) : (s.bootAll b l).sec = s.sec ∧ (s.bootAll b l).power = s.power ∧
    (s.bootAll b l).mrs.length = s.mrs.length ∧ ∀ j < 4, (s.bootAll b l).mrs.getD j [] = s.mrs.getD j [] := by
  unfold State.bootAll
  refine ⟨foldl_keeps State.sec fun u p => (u.bootPart_leaves b p).1, foldl_keeps State.power fun u p => (u.bootPart_leaves b p).2.1,
    foldl_keeps (fun u : State => u.mrs.length) fun u p => ?_, fun j low => foldl_keeps (fun u : State => u.mrs.getD j []) fun u p => ?_⟩
  all_goals
    obtain ⟨-, -, mrs, -⟩ := u.bootPart_leaves b p
    rw [mrs]
  · exact mrsAfter_length ..
  · exact mrsAfter_other _ _ _ (by omega)

/-- A partition that is not in the list keeps what it has. -/
theorem State.bootAll_other (s : State) (b : BootIn) {l : List (BitVec 4)} {p : BitVec 4} (out : p ∉ l) :
    (s.bootAll b l).part p = s.part p ∧ (s.bootAll b l).mrs.getD (4 + p.toNat) [] = s.mrs.getD (4 + p.toNat) [] ∧
      ∀ c : Fin 64, firstOwner b.cores c.val = some p → (s.bootAll b l).cores[c] = s.cores[c] := by
  induction l generalizing s with
  | nil => exact ⟨rfl, rfl, fun _ _ => rfl⟩
  | cons q l ih =>
    rw [List.mem_cons, not_or] at out
    obtain ⟨part, reg, cores⟩ := ih (s.bootPart b q) out.2
    obtain ⟨-, -, mrs, ⟨pre, saved, parts⟩, started⟩ := s.bootPart_leaves b q
    have apart : q.toNat ≠ p.toNat := fun e => out.1 (BitVec.eq_of_toNat_eq e.symm)
    refine ⟨part.trans ?_, reg.trans ?_, fun c own => (cores c own).trans ?_⟩
    · rw [State.part, State.part]
      simp only [parts]
      exact Vector.getElem_set_ne _ _ apart
    · rw [mrs, mrsAfter_other _ _ _ (by omega)]
    · rw [started, own, if_neg fun e => out.1 (Option.some.inj e)]

/-- One that is in it once is booted. -/
theorem State.bootAll_own (s : State) (b : BootIn) {l : List (BitVec 4)} (nodup : l.Nodup) {p : BitVec 4} (mem : p ∈ l) (whole : s.mrs.length = 20) :
    (∃ pre saved, (s.bootAll b l).part p = { Partition.measured b p with pre, saved }) ∧
      ((s.bootAll b l).mrs.getD (4 + p.toNat) [] = match b.images.find? (·.1 = p) with
        | none => s.mrs.getD (4 + p.toNat) []
        | some q => shake256 (s.mrs.getD (4 + p.toNat) [] ++ imageDigest q.2) 64) ∧
      ∀ c : Fin 64, firstOwner b.cores c.val = some p → (s.bootAll b l).cores[c] = (Partition.measured b p).start p := by
  obtain ⟨before, after, rfl⟩ := List.append_of_mem mem
  have outB : p ∉ before := fun m => (List.nodup_append.mp nodup).2.2 p m p List.mem_cons_self rfl
  have outA : p ∉ after := (List.nodup_cons.mp (List.nodup_append.mp nodup).2.1).1
  have steps : s.bootAll b (before ++ p :: after) = ((s.bootAll b before).bootPart b p).bootAll b after := by
    simp only [State.bootAll, List.foldl_append, List.foldl_cons]
  obtain ⟨-, regB, -⟩ := s.bootAll_other b outB
  obtain ⟨-, -, length, -⟩ := s.bootAll_frame b before
  rw [steps]
  generalize s.bootAll b before = u at regB length
  obtain ⟨partA, regA, coresA⟩ := (u.bootPart b p).bootAll_other b outA
  obtain ⟨-, -, mrs, ⟨pre, saved, parts⟩, started⟩ := u.bootPart_leaves b p
  refine ⟨⟨pre, saved, partA.trans ?_⟩, regA.trans ?_, fun c own => (coresA c own).trans ?_⟩
  · rw [State.part]
    simp only [parts]
    exact Vector.getElem_set_self ..
  · rw [mrs, mrsAfter_own b p (length.trans whole), regB]
  · rw [started, own, if_pos rfl]

/-! ## Power-on and power-off (R429, R437, R439) -/

/-- The partitions in order. -/
def partitions16 : List (BitVec 4) := (List.finRange 16).map fun i => BitVec.ofNat 4 i.val

theorem partitions16_nodup : partitions16.Nodup := by decide
theorem mem_partitions16 : ∀ p : BitVec 4, p ∈ partitions16 := by decide

/-- The state in which the boot begins. -/
def State.booting (s : State) : State :=
  { s.bare .p3 with vendor := s.input.boot.token.any fun t => tokenOk t.1 t.2 }

/-- The boot begins with nothing measured. -/
theorem State.booting_measuring (s : State) : s.booting.measuring s.input.boot 0 = s.booting := by
  have zero : measuredMrs s.input.boot 0 = State.reset.mrs := by
    simp only [measuredMrs, Nat.not_lt_zero, if_false]
    exact List.zipIdx_map_fst ..
  exact congrArg (fun mrs => { s.booting with mrs }) zero

theorem exec_powerOn (s : State) : exec .powerOn s = .next
    (if ((s.booting.measuring s.input.boot 0).bootSteps (bootList s.input.boot)).sec = .secure
      then ((s.booting.measuring s.input.boot 0).bootSteps (bootList s.input.boot)).bootAll s.input.boot partitions16
      else (s.booting.measuring s.input.boot 0).bootSteps (bootList s.input.boot)) := by
  rw [s.booting_measuring, State.bootAll, partitions16, List.foldl_map]
  rfl

/-- The registers of a passed boot before step 5. -/
theorem measuredMrs_own (b : BootIn) (p : BitVec 4) : (measuredMrs b 4).getD (4 + p.toNat) [] = List.replicate 64 0 := by
  have inside : 4 + p.toNat < 20 := by have := p.isLt; omega
  rw [List.getD_eq_getElem _ _ (by rw [measuredMrs_length]; exact inside), measuredMrs_getElem b 4 _ inside, if_neg (by omega)]

theorem State.bare_mem (s : State) (w : Power) (k : Nat) :
    memGet (s.bare w).mem k = if 2 ^ 48 ≤ k ∧ k < vaultBase then memGet s.mem k else unlisted := by
  refine (memGet_filter s.mem (fun a => decide (2 ^ 48 ≤ a ∧ a < vaultBase)) k).trans ?_
  exact if_congr decide_eq_true_iff rfl rfl

theorem State.bare_cores (s : State) (w : Power) (c : Fin 64) : (s.bare w).cores[c].run = .off := by
  have reset : (s.bare w).cores = Vector.replicate 64 (Core.reset 0) := rfl
  rw [reset]
  simp [Core.reset]

/-- Settles O28; a boot is followed by the number of images it has measured. -/
theorem powerStates : Obligations.PowerStates := by
  unfold Obligations.PowerStates
  refine ⟨⟨fun s => exec_powerStateChange_p1, fun s secure asks power halted => ?_, fun s secure asks power => ?_, fun s power asks => ?_⟩,
    fun s => ?_, fun s => ?_⟩
  · obtain ⟨p3, ask, bins, mem⟩ := s.losePower_p3
    exact ⟨_, exec_powerStateChange_p3 secure asks power halted, p3, ask, bins, mem⟩
  · exact ⟨_, exec_powerStateChange_p0 secure asks power, rfl, rfl, fun none => by rw [State.resumeAll_none none]⟩
  · obtain ⟨win, cap, cores, grants, kept⟩ := State.windowed_leaves power
    refine ⟨{ s.windowed with power := .p1, powerAsk := none }, ?_, rfl, rfl, win, cap, cores, grants, kept⟩
    rw [exec_budgetWindow, power, asks]
    rfl
  · intro b signed measured held
    refine ⟨fun n inside holds fails => ?_, fun holds => ?_⟩
    · have stopped := State.bootSteps_fails s.booting b inside holds fails
      refine ⟨{ s.booting.measuring b (n + 1) with sec := .failed }, ?_, rfl, rfl, s.bare_cores .p3, rfl⟩
      rw [exec_powerOn, stopped]
      rfl
    · refine ⟨({ s.booting.measuring b 4 with sec := .secure } : State).bootAll b partitions16, ?_, ?_⟩
      · rw [exec_powerOn, State.bootSteps_passes s.booting b holds]
        rfl
      · obtain ⟨sec, power, -, first⟩ :=
          ({ s.booting.measuring b 4 with sec := .secure } : State).bootAll_frame b partitions16
        refine ⟨sec, power, first, fun p => ?_⟩
        obtain ⟨⟨pre, saved, part⟩, reg, cores⟩ := ({ s.booting.measuring b 4 with sec := .secure } : State).bootAll_own b
          partitions16_nodup (mem_partitions16 p) (measuredMrs_length b 4)
        obtain ⟨grants, dpn, image⟩ := Partition.measured_facts b p
        rw [part]
        refine ⟨grants, dpn, cores, ?_⟩
        have zero : ({ s.booting.measuring b 4 with sec := .secure } : State).mrs.getD (4 + p.toNat) [] = List.replicate 64 0 :=
          measuredMrs_own b p
        rw [zero] at reg
        revert reg image
        cases b.images.find? (·.1 = p) with
        | none => exact fun reg image => ⟨image, reg⟩
        | some q => exact fun reg ⟨booted, fields⟩ => ⟨booted, reg, fields⟩
  · exact ⟨_, rfl, rfl, rfl, rfl, rfl, rfl, s.bare_cores .off, s.bare_mem .off⟩

end Sys2Proof.Machine
end

section
/-! Grants through the end and the failure of launches, for O27: only a change of grants changes what a partition holds (R390). -/

namespace Sys2Proof.Machine

variable {s : State} {q : BitVec 4}

/-- What a partition holds (R390). -/
def State.holding (s : State) (q : BitVec 4) : Grants := (s.part q).grants

/-- What concerns no partition leaves what each holds. -/
theorem State.holding_of_parts {s t : State} (h : t.parts = s.parts) : t.holding q = s.holding q := by
  rw [State.holding, State.part, h, State.holding, State.part]

/-- A partition that is changed in anything but its grants. -/
theorem State.setPart_holding {p : BitVec 4} {x : Partition} (h : x.grants = (s.part p).grants) : (s.setPart p x).holding q = s.holding q := by
  by_cases same : p = q
  · subst same
    rw [State.holding, State.setPart_part]
    exact h
  · have apart : p.toNat ≠ q.toNat := fun e => same (BitVec.eq_of_toNat_eq e)
    exact congrArg Partition.grants (Vector.getElem_set_ne p.isLt q.isLt apart)

/-! ## The end of a launch, an epoch and a job (R42, R132, R137) -/

@[simp] theorem State.jobEnd_holding {p : BitVec 4} : (s.jobEnd p).holding q = s.holding q := by
  unfold State.jobEnd
  dsimp only
  split
  · rfl
  · split
    · split
      · rfl
      · exact State.setPart_holding rfl
    · split
      · exact State.setPart_holding rfl
      · rfl

@[simp] theorem State.jobCount_holding {p : BitVec 4} {bad : Option ErrInfo} : (s.jobCount p bad).holding q = s.holding q :=
  State.jobEnd_holding.trans (State.setPart_holding rfl)

theorem State.raceFill_parts (s : State) (home : Nat) : (s.raceFill home).parts = s.parts := by
  unfold State.raceFill
  split <;> rfl

theorem State.fillEvent_parts (s : State) (k : Nat) (was now : Bin) : (s.fillEvent k was now).parts = s.parts := by
  unfold State.fillEvent
  split
  · exact s.raceFill_parts _
  · rfl

theorem State.endStaging_parts (s : State) (x : StageId) (committed : Bool) : (s.endStaging x committed).parts = s.parts :=
  foldl_keeps State.parts fun u b => (u.setBin b.1 (b.2.unstage committed)).fillEvent_parts ..

@[simp] theorem State.publish_holding {p : BitVec 4} {ph : Phase} {committed : Bool} : (s.publish p ph committed).holding q = s.holding q := by
  refine State.holding_of_parts ?_
  unfold State.publish
  dsimp only
  split
  · exact s.endStaging_parts ..
  · exact s.endStaging_parts ..

@[simp] theorem State.phaseCount_holding {p : BitVec 4} {serial : BitVec 32} {which : PhaseEntry → Bool} {bad : Option ErrInfo} :
    (s.phaseCount p serial which bad).holding q = s.holding q := by
  unfold State.phaseCount
  extract_lets x
  split
  · rfl
  · extract_lets entries pcc done pcc' s1
    have s1_holding : s1.holding q = s.holding q := State.setPart_holding rfl
    split
    · rw [State.jobCount_holding, State.publish_holding, s1_holding]
    · exact s1_holding

@[simp] theorem State.guestEnded_holding {p : BitVec 4} {k : PhaseKey} {which : PhaseEntry → Bool} {bad : Option ErrInfo} :
    (s.guestEnded p k which bad).holding q = s.holding q := by
  unfold State.guestEnded
  split
  · rfl
  · exact State.setPart_holding rfl

@[simp] theorem State.entryEnded_holding {p : BitVec 4} {k : PhaseKey} {which : PhaseEntry → Bool} {bad : Option ErrInfo} :
    (s.entryEnded p k which bad).holding q = s.holding q := by
  unfold State.entryEnded
  split
  · exact State.phaseCount_holding
  · exact State.guestEnded_holding

@[simp] theorem State.endEpoch_holding {r : Region} {cancelled : Bool} : (s.endEpoch r cancelled).holding q = s.holding q := by
  unfold State.endEpoch
  split
  · rfl
  · exact State.entryEnded_holding

@[simp] theorem State.epochCheck_holding {c : Fin 64} {b : BitVec 3} : (s.epochCheck c b).holding q = s.holding q := by
  unfold State.epochCheck
  split
  · rfl
  · split
    · rfl
    · split
      · split
        · exact State.endEpoch_holding
        · rfl
      · split
        · exact State.endEpoch_holding
        · split
          · exact State.endEpoch_holding
          · rfl

@[simp] theorem State.tellPieces_holding {r : Region} {m : Nat → HubMsg} : (s.tellPieces r m).holding q = s.holding q := by
  unfold State.tellPieces
  split <;> rfl

@[simp] theorem State.unpinList_holding {p : BitVec 4} {n i : Nat} : (s.unpinList p n i).holding q = s.holding q := by
  unfold State.unpinList
  dsimp only
  split
  · rfl
  · exact State.holding_of_parts rfl

@[simp] theorem State.endPiece_holding {r : Region} {l : Live} {lcc : Counter} {bad : Option ErrInfo} :
    (s.endPiece r l lcc bad).holding q = s.holding q := by
  unfold State.endPiece
  extract_lets r1 src s1 s2
  have s2_holding : s2.holding q = s1.holding q := foldl_keeps (State.holding · q) fun _ _ => State.unpinList_holding
  rw [State.epochCheck_holding, s2_holding]
  rfl

@[simp] theorem State.endLaunch_holding {r : Region} {l : Live} : (s.endLaunch r l).holding q = s.holding q := by
  unfold State.endLaunch
  refine (foldl_keeps (State.holding · q) fun u x => ?_).trans State.tellPieces_holding
  dsimp only
  split
  · rfl
  · split
    · rfl
    · exact State.endPiece_holding

@[simp] theorem State.launchCheck_holding {c : Fin 64} {b : BitVec 3} {seq : BitVec 8} : (s.launchCheck c b seq).holding q = s.holding q := by
  unfold State.launchCheck
  split
  · rfl
  · dsimp only
    split
    · rfl
    · split
      · exact State.endLaunch_holding
      · rfl

/-! ## What a cancelled launch sends and drops (R41, R166) -/

@[simp] theorem State.sendEdge_holding {r : Region} {e : Edge} {ord : Option (BitVec 16)} {no : Nat} {tok : Token} :
    (s.sendEdge r e ord no tok).holding q = s.holding q := by
  unfold State.sendEdge
  split <;> rfl

@[simp] theorem State.sendOut_holding {r : Region} {t : TileId} {st o : Nat} {tok : Token} : (s.sendOut r t st o tok).holding q = s.holding q := by
  unfold State.sendOut
  extract_lets es s1
  have s1_holding : s1.holding q = s.holding q := foldl_keeps (State.holding · q) fun _ _ => State.sendEdge_holding
  split
  · exact s1_holding
  · exact s1_holding

@[simp] theorem State.sendTok_holding {r : Region} {t : TileId} {x : OutTok} : (s.sendTok r t x).holding q = s.holding q := by
  unfold State.sendTok
  split
  · exact State.sendOut_holding
  · exact foldl_keeps (State.holding · q) fun _ _ => State.sendOut_holding

@[simp] theorem State.flushN_holding {t : TileId} {st n : Nat} : (State.flushN t st n s).holding q = s.holding q := by
  induction n generalizing s with
  | zero => rfl
  | succ n ih =>
    unfold State.flushN
    split
    · split
      · rw [ih, State.sendTok_holding]
        rfl
      · rfl
    · rfl

@[simp] theorem State.emits_holding {t : TileId} {st : Nat} {es : List (Option Nat × Token)} : (s.emits t st es).holding q = s.holding q :=
  State.flushN_holding

@[simp] theorem State.examineAt_holding {t : TileId} {st : Nat} : (s.examineAt t st).holding q = s.holding q := by
  unfold State.examineAt
  split
  · rfl
  · split
    · rfl
    · split
      · rfl
      · split <;> rfl

@[simp] theorem State.lccCount_holding {r : Region} {seq : BitVec 8} {n : Nat} {bad : Option ErrInfo} :
    (s.lccCount r seq n bad).holding q = s.holding q := by
  unfold State.lccCount
  split
  · rfl
  · exact State.launchCheck_holding

@[simp] theorem State.purgeAt_holding {r : Region} {t : TileId} {st : Nat} {seq : BitVec 8} {e : ErrInfo} :
    (s.purgeAt r t st seq e).holding q = s.holding q := by
  unfold State.purgeAt
  split
  · rfl
  · split
    · rfl
    · dsimp only
      split
      · split
        · exact State.lccCount_holding
        · rfl
      · exact State.emits_holding

@[simp] theorem State.purge_holding {r : Region} {t : TileId} {st : Nat} {seq : BitVec 8} {e : ErrInfo} : (s.purge r t st seq e).holding q = s.holding q :=
  State.examineAt_holding.trans State.purgeAt_holding

theorem State.channelTaken_parts (s : State) (r : Region) (id : BitVec 12) : (s.channelTaken r id).parts = s.parts := by
  unfold State.channelTaken
  split
  · split
    · dsimp only
      split
      · rfl
      · split <;> rfl
    · rfl
  · rfl

@[simp] theorem State.leftHeld_holding {r : Region} {x : Held} : (s.leftHeld r x).holding q = s.holding q := by
  unfold State.leftHeld
  split
  · rfl
  · exact State.holding_of_parts (s.channelTaken_parts ..)

@[simp] theorem State.drained_holding {x : Option (Fin 64 × BitVec 16)} : (s.drained x).holding q = s.holding q := by
  unfold State.drained
  split
  · rfl
  · split
    · rfl
    · extract_lets core k mine s0 s1
      have s0_holding : s0.holding q = s.holding q := by
        change (ite _ _ _ : State).holding q = _
        split <;> rfl
      split
      · exact s0_holding
      · split
        · exact s0_holding
        · exact State.launchCheck_holding.trans s0_holding

@[simp] theorem State.dropHeld_holding {r : Region} {x : Held} : (s.dropHeld r x).holding q = s.holding q :=
  State.drained_holding.trans State.leftHeld_holding

@[simp] theorem State.cancelPiece_holding {c : Fin 64} {b : BitVec 3} {seq : BitVec 8} {e : ErrInfo} :
    (s.cancelPiece c b seq e).holding q = s.holding q := by
  unfold State.cancelPiece
  split
  · rfl
  · extract_lets s1 s2 s3 held
    have s2_holding : s2.holding q = s.holding q := foldl_keeps (State.holding · q) fun _ _ => State.purge_holding
    have s3_holding : s3.holding q = s2.holding q := foldl_keeps (State.holding · q) fun _ _ => State.sendEdge_holding
    exact (foldl_keeps (State.holding · q) fun _ _ => State.dropHeld_holding).trans (s3_holding.trans s2_holding)

@[simp] theorem State.cancelLive_holding {c : Fin 64} {b : BitVec 3} {seq : BitVec 8} {e : ErrInfo} :
    (s.cancelLive c b seq e).holding q = s.holding q := by
  unfold State.cancelLive
  split
  · rfl
  · dsimp only
    split
    · rfl
    · split
      · rfl
      · rw [State.launchCheck_holding]
        exact (foldl_keeps (State.holding · q) fun _ _ => State.cancelPiece_holding).trans State.tellPieces_holding

@[simp] theorem State.failLive_holding {c : Fin 64} {b : BitVec 3} {seq : BitVec 8} {e : ErrInfo} :
    (s.failLive c b seq e).holding q = s.holding q := by
  unfold State.failLive
  split
  · rfl
  · dsimp only
    split
    · exact State.cancelLive_holding
    · rfl

end Sys2Proof.Machine
end

section
/-! The proof of O27: pre-emption, containment, credits and grants. -/

namespace Sys2Proof.Machine

variable {s : State}

/-! ## Pre-emption (R391, R392) -/

theorem exec_preemptRequest (running : (s.part s.input.p).pre = .running) (booted : (s.part s.input.p).booted = true) :
    exec .preemptRequest s = .next (s.setPart s.input.p { s.part s.input.p with pre := .requested }) := by
  change execPreemptRequest s = _
  simp [execPreemptRequest, running, booted]

theorem State.abandon_get (s : State) (c : Fin 64) : (s.abandon c).cores[c] = { s.cores[c] with idling := false } :=
  State.setCoreAt_get ..

theorem State.abandon_other (s : State) {c i : Fin 64} (other : i ≠ c) : (s.abandon c).cores[i] = s.cores[i] :=
  State.setCoreAt_other _ _ _ _ other

/-- Halting a core changes no other core, and leaves it not running (R391). -/
theorem State.haltCore_stops (s : State) (c : Fin 64) : (s.haltCore c).cores[c].run ≠ .run := by
  unfold State.haltCore
  extract_lets k k1 k2
  split
  · rw [State.abandon_get, State.setCoreAt_get]
    exact nofun
  · assumption

theorem State.haltCore_other (s : State) {c i : Fin 64} (other : i ≠ c) : (s.haltCore c).cores[i] = s.cores[i] := by
  unfold State.haltCore
  extract_lets k k1 k2
  split
  · rw [State.abandon_other _ other, State.setCoreAt_other _ _ _ _ other]
  · rfl

theorem State.haltCore_powerAsk (s : State) (c : Fin 64) : (s.haltCore c).powerAsk = s.powerAsk := by
  unfold State.haltCore
  dsimp only
  split <;> rfl

/-- The cores of a list halted. -/
def State.haltCores (s : State) (l : List (Fin 64)) : State := l.foldl (fun s c => s.haltCore c) s

/-- A core that does not run is not started by halting cores. -/
theorem State.haltCores_stopped {l : List (Fin 64)} {c : Fin 64} (stopped : s.cores[c].run ≠ .run) : (s.haltCores l).cores[c].run ≠ .run :=
  List.foldlRecOn (motive := fun (t : State) => t.cores[c].run ≠ .run) l _ stopped fun t still a _ => by
    by_cases same : c = a
    · subst same
      exact t.haltCore_stops c
    · rw [t.haltCore_other same]
      exact still

theorem State.haltCores_halts {l : List (Fin 64)} {c : Fin 64} (mem : c ∈ l) : (s.haltCores l).cores[c].run ≠ .run := by
  obtain ⟨before, after, rfl⟩ := List.append_of_mem mem
  rw [State.haltCores, List.foldl_append, List.foldl_cons]
  exact State.haltCores_stopped ((s.haltCores before).haltCore_stops c)

theorem State.haltCores_powerAsk {l : List (Fin 64)} : (s.haltCores l).powerAsk = s.powerAsk :=
  foldl_keeps State.powerAsk fun u c => u.haltCore_powerAsk c

/-- With no change of power state asked for, none waits. -/
theorem State.powerWaits_none (ask : s.powerAsk = none) : s.powerWaits = s := by
  rw [State.powerWaits, ask]

theorem exec_preemptHaltComplete (requested : (s.part s.input.p).pre = .requested) (settled : s.settled s.input.p = true)
    (ask : s.powerAsk = none) : exec .preemptHaltComplete s =
      .next ((s.haltCores (s.coresOf s.input.p)).setPart s.input.p
        { (s.haltCores (s.coresOf s.input.p)).part s.input.p with pre := .halted }) := by
  change execPreemptHaltComplete s = _
  unfold execPreemptHaltComplete
  dsimp only
  rw [if_pos ⟨requested, settled⟩]
  exact congrArg Host.Outcome.next (State.powerWaits_none (State.haltCores_powerAsk.trans ask))

/-- A remote load that receives a failure reply poisons its register (R392). -/
theorem exec_preemptFailureReply_load {l : LoadOp} (requested : (s.part s.input.p).pre = .requested) (kind : s.input.k = 0)
    (load : s.core.loads[s.input.index]? = some l) (mine : s.core.part = some s.input.p) (remote : l.isRemote = true) (tx : s.core.tx = none)
    (dest : l.dest ≠ 0) (plain : l.mbx = false) : exec .preemptFailureReply s = .next (s.setCore { s.core with
      loads := s.core.loads.eraseIdx s.input.index, poison := s.core.poison.set l.dest.toNat (some l.ea) l.dest.isLt }) := by
  have once : s.coreIn s.input.p s.cur ∧ l.once = true := ⟨beq_iff_eq.mpr mine, by simp [LoadOp.once, remote]⟩
  change execPreemptFailureReply s = _
  unfold execPreemptFailureReply
  rw [if_neg (not_not.mpr requested)]
  simp only [kind, load, once, and_self, if_true, State.failLoad, tx, Option.isSome_none, Bool.false_eq_true, if_false, State.poisonReg,
    dest, plain, State.setCore_core, State.setCore_setCore]
  rfl

/-! ## Containment (R389, R365) -/

/-- What a change of ports and of what was sent leaves. -/
structure SameTiles (s t : State) : Prop where
  tiles : t.tiles = s.tiles
  cores : t.cores = s.cores
  mem : t.mem = s.mem

theorem SameTiles.foldl {α : Type} {f : State → α → State} (l : List α) (s : State) (h : ∀ u a, SameTiles u (f u a)) : SameTiles s (l.foldl f s) :=
  ⟨foldl_keeps State.tiles fun u a => (h u a).tiles, foldl_keeps State.cores fun u a => (h u a).cores,
    foldl_keeps State.mem fun u a => (h u a).mem⟩

theorem State.abortPackets_sameTiles (s : State) (t : TileId) : SameTiles s (s.abortPackets t) := by
  refine SameTiles.foldl _ s fun u p => ?_
  obtain ⟨tiles, cores, mem⟩ := SameTiles.foldl ((u.ports[p].outq.filter (·.owner = some t)).filter (0 < ·.gone))
    (u.setPort p { u.ports[p] with outq := u.ports[p].outq.filter (·.owner ≠ some t) })
    (f := fun s k => { s.transmit p 63 k.vc 0 [] with owed := (s.transmit p 63 k.vc 0 []).owed ++ [(t, p, k.vc, k.gone)] })
    fun v k => ⟨rfl, rfl, rfl⟩
  exact ⟨tiles, cores, mem⟩

theorem Tile.fixSeqn_keeps (x : Tile) (n : BitVec 2) : (x.fixSeqn n).slots = x.slots ∧ (x.fixSeqn n).queue = x.queue ∧
    (x.fixSeqn n).cfgs = x.cfgs ∧ (x.fixSeqn n).mx = x.mx ∧ (x.fixSeqn n).rcl.entries = x.rcl.entries ∧ (x.fixSeqn n).id = x.id := by
  unfold Tile.fixSeqn
  split
  · exact ⟨rfl, rfl, rfl, rfl, rfl, rfl⟩
  · split
    · exact ⟨rfl, rfl, rfl, rfl, rfl, rfl⟩
    · exact ⟨rfl, rfl, rfl, rfl, rfl, rfl⟩

/-- What a reset leaves of a tile (R389). -/
theorem Tile.contained_keeps (x : Tile) (sel : BitVec 2) (ok : Bool) : (x.contained sel ok).slots = [] ∧ (x.contained sel ok).queue = [] ∧
    (x.contained sel ok).cfgs = x.cfgs ∧ (x.contained sel ok).mx.rgs = x.mx.rgs ∧ (x.contained sel ok).rcl.entries = x.rcl.entries ∧
    (x.contained sel ok).id = x.id := by
  obtain ⟨slots, queue, cfgs, mx, entries, id⟩ := Tile.fixSeqn_keeps
    { ({ x with mx := { Matrix.zero with rgs := x.mx.rgs }, rcl := { x.rcl with gather := [] } } : Tile) with
      q := Vector.ofFn fun i => (((x.cfg sel).map (·.qinit)).getD []).getD i.val 0, queue := [], store := [], ready := [], outq := [],
      slots := [], purged := [], barBad := [], remote := [] } sel
  have rgs := congrArg Matrix.rgs mx
  exact ⟨slots, queue, cfgs, rgs, entries, id⟩

theorem State.tileAt_of_tiles {s t : State} (h : t.tiles = s.tiles) (y : TileId) : t.tileAt y = s.tileAt y := by rw [State.tileAt, h, State.tileAt]

/-- A tile that no region holds, reset. -/
def State.resetFree (s : State) (t : TileId) (ok : Bool) : State :=
  (s.abortPackets t).onTile t fun x => { x.contained 0 ok with aborted := false }

theorem State.resetFree_tile (s : State) (t : TileId) (ok : Bool) :
    (s.resetFree t ok).tileAt t = { (s.tileAt t).contained 0 ok with aborted := false } := by
  have there := State.tileAt_of_tiles (s.abortPackets_sameTiles t).tiles t
  obtain ⟨-, -, -, -, -, id⟩ := Tile.contained_keeps (s.tileAt t) 0 ok
  rw [State.resetFree, State.tileAt_onTile, there]
  rw [there]
  exact id.trans (s.tileAt_id t)

theorem State.resetFree_frame (s : State) (t : TileId) (ok : Bool) : (s.resetFree t ok).mem = s.mem ∧ (s.resetFree t ok).cores = s.cores := by
  obtain ⟨-, cores, mem⟩ := s.abortPackets_sameTiles t
  rw [State.resetFree]
  generalize s.abortPackets t = u at cores mem ⊢
  exact ⟨mem, cores⟩

theorem exec_tileContainmentReset (free : s.regionOf s.tile = none) : exec .tileContainmentReset s = .next
    (({ s with parts := mapAll s.parts fun (x : Partition) => x.loseTile s.tile s.input.ok } : State).resetFree s.tile s.input.ok) := by
  change execTileContainmentReset s = _
  unfold execTileContainmentReset
  rw [free]
  rfl

/-! ## Reclaimed credits (R365) -/

theorem lookupD_assign {κ α : Type} [DecidableEq κ] (l : List (κ × α)) (k j : κ) (v d : α) :
    lookupD (assign l k v) j d = if j = k then v else lookupD l j d := by
  unfold lookupD assign
  by_cases same : j = k
  · subst same
    rw [if_pos rfl, List.find?_cons_of_pos (by simp)]
    rfl
  · rw [if_neg same, List.find?_cons_of_neg (by simpa using Ne.symm same), List.find?_filter]
    congr 3
    funext q
    by_cases here : q.1 = j
    · simp [here, same]
    · simp [here]

/-- The credits of one packet returned to the pool of its port. -/
def State.repay (s : State) (q : TileId × Fin 18 × Nat × Nat) : State :=
  s.setPort q.2.1 { s.ports[q.2.1] with
    creds := assign s.ports[q.2.1].creds q.2.2.1 (lookupD s.ports[q.2.1].creds q.2.2.1 0 + q.2.2.2) }

theorem State.repay_creds (s : State) (q : TileId × Fin 18 × Nat × Nat) (n : Fin 18) (vc : Nat) :
    lookupD (s.repay q).ports[n].creds vc 0 =
      lookupD s.ports[n].creds vc 0 + if q.2.1 = n ∧ q.2.2.1 = vc then q.2.2.2 else 0 := by
  by_cases port : q.2.1 = n
  · subst port
    rw [State.repay, State.setPort_get, lookupD_assign]
    by_cases class_ : q.2.2.1 = vc
    · subst class_
      rw [if_pos rfl, if_pos ⟨rfl, rfl⟩]
    · rw [if_neg (Ne.symm class_), if_neg fun both => class_ both.2]
      rfl
  · rw [State.repay, State.setPort_other _ _ _ _ (Ne.symm port), if_neg fun both => port both.1]
    rfl

/-- Each pool gains what the packets of a list held of it. -/
theorem State.repay_all (s : State) (l : List (TileId × Fin 18 × Nat × Nat)) (n : Fin 18) (vc : Nat) :
    lookupD (l.foldl State.repay s).ports[n].creds vc 0 =
      lookupD s.ports[n].creds vc 0 + ((l.filter fun q => q.2.1 = n ∧ q.2.2.1 = vc).map (·.2.2.2)).sum := by
  induction l generalizing s with
  | nil => rfl
  | cons q l ih =>
    rw [List.foldl_cons, ih, State.repay_creds, List.filter_cons]
    by_cases mine : q.2.1 = n ∧ q.2.2.1 = vc
    · rw [if_pos mine, if_pos (decide_eq_true mine), List.map_cons, List.sum_cons]
      omega
    · rw [if_neg mine, if_neg (by simpa using mine), Nat.add_zero]

theorem State.repay_frame (s : State) (l : List (TileId × Fin 18 × Nat × Nat)) : SameTiles s (l.foldl State.repay s) ∧
    (l.foldl State.repay s).owed = s.owed :=
  ⟨SameTiles.foldl l s fun _ _ => ⟨rfl, rfl, rfl⟩, foldl_keeps State.owed fun _ _ => rfl⟩

/-- The state in which the credits of the acting tile are back in their pools. -/
def State.reclaimed (s : State) : State :=
  let s1 := (s.owed.filter (·.1 = s.tile)).foldl State.repay s
  ({ s1 with owed := s1.owed.filter (·.1 ≠ s.tile) } : State).onTile s.tile fun x => { x with aborted := false }

theorem State.reclaimed_facts (s : State) : (s.reclaimed.tileAt s.tile).aborted = false ∧ (∀ y, y ≠ s.tile → s.reclaimed.tileAt y = s.tileAt y) ∧
    s.reclaimed.owed = s.owed.filter (·.1 ≠ s.tile) ∧ s.reclaimed.cores = s.cores ∧ s.reclaimed.mem = s.mem ∧
    ∀ (n : Fin 18) vc, lookupD s.reclaimed.ports[n].creds vc 0 = lookupD s.ports[n].creds vc 0 +
      ((s.owed.filter fun q => q.1 = s.tile ∧ q.2.1 = n ∧ q.2.2.1 = vc).map (·.2.2.2)).sum := by
  obtain ⟨⟨tiles, cores, mem⟩, owed⟩ := s.repay_frame (s.owed.filter (·.1 = s.tile))
  have creds := s.repay_all (s.owed.filter (·.1 = s.tile))
  simp only [List.filter_filter] at creds
  rw [State.reclaimed]
  generalize (s.owed.filter (·.1 = s.tile)).foldl State.repay s = u at tiles cores mem owed creds ⊢
  rw [owed]
  have same (y : TileId) : ({ u with owed := s.owed.filter (·.1 ≠ s.tile) } : State).tileAt y = s.tileAt y := State.tileAt_of_tiles tiles y
  have id : (({ u with owed := s.owed.filter (·.1 ≠ s.tile) } : State).tileAt s.tile).id = s.tile := State.tileAt_id ..
  refine ⟨?_, fun y other => (State.tileAt_onTile_other id other).trans (same y), rfl, cores, mem, fun n vc => (creds n vc).trans ?_⟩
  · rw [State.tileAt_onTile id]
  · congr 3
    exact List.filter_congr fun q _ => by simp [Bool.and_comm, Bool.and_left_comm]

theorem exec_creditReclaim (s : State) : exec .creditReclaim s = .next s.reclaimed := rfl

/-! ## Grants (R390, R394) -/

/-- What a step keeps that changes neither what partition `p` holds, nor the larder, nor memory. -/
structure KeepsHeld (p : BitVec 4) (s t : State) : Prop where
  holding : t.holding p = s.holding p
  larder : t.larder = s.larder
  mem : t.mem = s.mem

section
variable {p q : BitVec 4}

theorem KeepsHeld.refl : KeepsHeld p s s := ⟨rfl, rfl, rfl⟩

theorem KeepsHeld.trans {t u : State} (first : KeepsHeld p s t) (next : KeepsHeld p t u) : KeepsHeld p s u :=
  ⟨next.holding.trans first.holding, next.larder.trans first.larder, next.mem.trans first.mem⟩

theorem KeepsHeld.foldl {α : Type} {f : State → α → State} (l : List α) (h : ∀ u a, KeepsHeld p u (f u a)) : KeepsHeld p s (l.foldl f s) :=
  ⟨foldl_keeps (State.holding · p) fun u a => (h u a).holding, foldl_keeps State.larder fun u a => (h u a).larder,
    foldl_keeps State.mem fun u a => (h u a).mem⟩

theorem KeepsHeld.setPart {x : Partition} (h : x.grants = (s.part q).grants) : KeepsHeld p s (s.setPart q x) :=
  ⟨State.setPart_holding h, rfl, rfl⟩

theorem KeepsHeld.notice {w : Word} : KeepsHeld p s (s.notice q w) := .setPart rfl

theorem KeepsHeld.emptyRun {m : TileId × Nat × Nat} : KeepsHeld p s (s.emptyRun q m) := by
  unfold State.emptyRun
  split
  · exact .setPart rfl
  · dsimp only
    split
    · exact ⟨rfl, rfl, rfl⟩
    · exact .refl

theorem KeepsHeld.grantRecall {t : TileId} : KeepsHeld p s (s.grantRecall q t) :=
  .trans (t := s.onTile t fun y => y.grantRcl ((s.regionOf t).map (·.sel))) ⟨rfl, rfl, rfl⟩ (.setPart (by rfl))

theorem KeepsHeld.grantBins {old : Grants} {t : TileId} : KeepsHeld p s (s.grantBins q old t) := by
  unfold State.grantBins
  extract_lets g fresh s1
  split
  · split
    · exact .refl
    · exact ⟨rfl, rfl, rfl⟩
  · have emptied : KeepsHeld p s s1 := .foldl _ fun _ _ => ⟨rfl, rfl, rfl⟩
    split
    · exact emptied
    · exact emptied.trans .emptyRun

theorem KeepsHeld.revokeLost : KeepsHeld p s (s.revokeLost q) := by
  unfold State.revokeLost
  extract_lets gone note s1 out s2
  have live : KeepsHeld p s s1 := .foldl _ fun u c => .foldl _ fun v n => by
    split
    · exact .trans (t := v.setCoreAt c (v.cores[c].revoke n)) ⟨rfl, rfl, rfl⟩ .notice
    · exact .refl
  have saved : KeepsHeld p s1 s2 := .foldl _ fun u c => .foldl _ fun v n => by
    split
    · exact .notice
    · exact .refl
  exact live.trans (saved.trans (.setPart rfl))

theorem State.unbindLost_holding : (s.unbindLost q).holding p = s.holding p := by
  unfold State.unbindLost
  refine (foldl_keeps (State.holding · p) fun u x => ?_).trans rfl
  split
  · exact State.failLive_holding
  · rfl

/-- With no larder slot of the partition bound there is no run to end. -/
theorem State.unbindLost_mem (unbound : ∀ b ∈ s.larder, b.part ≠ p) : (s.unbindLost p).mem = s.mem := by
  unfold State.unbindLost
  extract_lets g gone mine runs s1
  have none_gone : gone = [] := List.filter_eq_nil_iff.mpr fun b mem => by simp [unbound b mem]
  have none_mine (slot : BitVec 12) : mine slot = false := by
    change gone.any (·.slot = slot) = false
    rw [none_gone]
    rfl
  have none_runs : runs = [] := List.flatMap_eq_nil_iff.mpr fun x _ => List.filter_eq_nil_iff.mpr fun y _ => by simp [none_mine]
  rw [none_runs]
  rfl

end

/-- The state in which the new grants stand, and in the others' grants what follows from them. -/
def State.regranted (s : State) : State :=
  { s.forgetTlbs s.input.p with parts := mapEach (s.forgetTlbs s.input.p).parts fun i y =>
      if i.val = s.input.p.toNat then { y with grants := s.input.grants }
      else { y with grants := s.otherGrants s.input.p s.input.grants i y.grants } }

theorem State.regranted_holding (s : State) : s.regranted.holding s.input.p = s.input.grants := by
  have own := mapEach_get (s.forgetTlbs s.input.p).parts (fun i y =>
      if i.val = s.input.p.toNat then { y with grants := s.input.grants }
      else { y with grants := s.otherGrants s.input.p s.input.grants i y.grants }) ⟨s.input.p.toNat, s.input.p.isLt⟩
  rw [if_pos rfl] at own
  exact congrArg Partition.grants own

/-- The state in which what has been gained is reset as well (R267, R315, R394). -/
def State.gained (s : State) : State :=
  let old := (s.part s.input.p).grants
  let s2 := (lostOf s.input.grants.recallU old.recallU).foldl (fun s1 t => s1.grantRecall s.input.p t) s.regranted
  let s3 := (s.input.grants.tiles.filter (·.isMT)).foldl (fun s1 t => s1.grantBins s.input.p old t) s2
  (s.input.grants.swapMaps.filter (!old.swapMaps.contains ·)).foldl (fun s1 m =>
    (s1.holdersOf s.input.p m.1).foldl (fun s2 k =>
      if s.regranted.parts[k].grants.swapMaps.contains m && !((s.forgetTlbs s.input.p).parts[k].grants.swapMaps.contains m)
      then s2.emptyRun (BitVec.ofNat 4 k.val) m else s2) s1) s3

theorem State.gained_keeps (s : State) : KeepsHeld s.input.p s.regranted s.gained := by
  unfold State.gained
  extract_lets old s2 s3
  have units : KeepsHeld s.input.p s.regranted s2 := .foldl _ fun _ _ => .grantRecall
  have bins : KeepsHeld s.input.p s2 s3 := .foldl _ fun _ _ => .grantBins
  refine units.trans (bins.trans (.foldl _ fun u m => .foldl _ fun v k => ?_))
  split
  · exact .emptyRun
  · exact .refl

/-- A change of grants, which is not the supervisor's copying of a context that is out (R390, R395). -/
theorem exec_grantChange (changed : s.input.grants ≠ (s.part s.input.p).grants ∨ (s.part s.input.p).saved = none) :
    exec .grantChange s = .next (if !s.mayGrant s.input.p s.input.grants then s
      else (s.gained.revokeLost s.input.p).unbindLost s.input.p) := by
  have noCopy : ¬ (s.input.grants = (s.part s.input.p).grants ∧ (s.part s.input.p).saved.isSome = true) := by
    rintro ⟨same, out⟩
    obtain differs | home := changed
    · exact differs same
    · rw [home] at out
      exact Bool.noConfusion out
  change execGrantChange s = _
  unfold execGrantChange
  dsimp only
  rw [if_neg noCopy, apply_ite Host.Outcome.next]
  rfl

/-- Settles O27: what follows a change of grants, to the failure of a launch, leaves what a partition holds. -/
theorem preemptAndContain : Obligations.PreemptAndContain := by
  unfold Obligations.PreemptAndContain
  refine ⟨⟨fun s => exec_preemptRequest, fun s requested settled ask => ?_, fun s l => exec_preemptFailureReply_load, fun s free _ => ?_,
    fun s => ⟨_, exec_creditReclaim s, s.reclaimed_facts⟩⟩, fun s changed => ?_⟩
  · refine ⟨_, exec_preemptHaltComplete requested settled ask, ?_, fun c mine => ?_⟩
    · rw [State.setPart_part]
    · exact State.haltCores_halts (List.mem_filter.mpr ⟨List.mem_finRange c, beq_iff_eq.mpr mine⟩)
  · refine ⟨_, exec_tileContainmentReset free, ?_⟩
    rw [State.resetFree_tile]
    obtain ⟨slots, queue, cfgs, rgs, entries, -⟩ := Tile.contained_keeps (s.tileAt s.tile) 0 s.input.ok
    obtain ⟨mem, cores⟩ := State.resetFree_frame
      { s with parts := mapAll s.parts fun (x : Partition) => x.loseTile s.tile s.input.ok } s.tile s.input.ok
    exact ⟨slots, queue, cfgs, rgs, entries, mem, cores⟩
  · have kept : KeepsHeld s.input.p s.regranted (s.gained.revokeLost s.input.p) := s.gained_keeps.trans .revokeLost
    have step := exec_grantChange changed
    refine ⟨fun may => ⟨(s.gained.revokeLost s.input.p).unbindLost s.input.p, ?_, ?_, fun unbound => ?_⟩, fun mayNot => ?_⟩
    · rw [step, may]
      rfl
    · exact State.unbindLost_holding.trans (kept.holding.trans s.regranted_holding)
    · rw [State.unbindLost_mem (by rw [kept.larder]; exact unbound), kept.mem]
      rfl
    · rw [step, mayNot]
      rfl

end Sys2Proof.Machine
end
